-- ==== Sys2Proof/Word.lean ====
section
/-! DEFINITION. The word types of the machine and their plainest arithmetic (spec/00 R11, spec/01 R12 R32). -/

namespace Sys2Proof

/-- A 32-bit instruction word, register or memory word (spec/01, R21 and R32). -/
abbrev Word := BitVec 32

/-- A 64-bit quantity: an address, a register pair. -/
abbrev DWord := BitVec 64

/-- One byte. -/
abbrev Byte := BitVec 8

/-- One bit for each of the up to 64 lanes of a wave (spec/01, R32). -/
abbrev Mask := BitVec 64

/-- The low and the high word of a 64-bit quantity: the low half is in the lower-numbered register (spec/01, R25). -/
def pairOf (lo hi : Word) : DWord := hi ++ lo

/-- Low 32 bits. -/
def lo32 (x : DWord) : Word := x.extractLsb' 0 32

/-- High 32 bits. -/
def hi32 (x : DWord) : Word := x.extractLsb' 32 32

/-- Set bit `i` of a mask. -/
def Mask.bit (i : Nat) : Mask := BitVec.shiftLeft 1#64 i

/-- The lanes of a mask in ascending order (`loop lane in active`, spec/00 R11). -/
def Mask.lanes (m : Mask) : List Nat := (List.range 64).filter (fun i => m.getLsbD i)

/-- The mask with exactly the listed lanes. -/
def Mask.ofLanes (l : List Nat) : Mask := l.foldl (fun m i => m ||| Mask.bit i) 0#64

/-- The mask of all lanes below `w`. -/
def Mask.full (w : Nat) : Mask := BitVec.ofNat 64 (2 ^ w - 1)

/-- Words w1 to w3 of the header of a service request: TAG, LEN and a reserved word (spec/16 R387). -/
structure ReqHead where
  tag : Word
  len : Word
  w3 : Word
deriving DecidableEq, Repr

end Sys2Proof
end

