-- ==== Sys2Proof/Syntax.lean ====
section
/-! DEFINITION. The syntax of the machine: one constructor for every row of spec/opcode_table.json.

An encoded instruction holds the raw fields of its word (spec/01, R21 to R31), so that an illegal field value is
still an instruction word that the machine refuses with a trap; `u` is bit 31 where the row exists on the lane and
the uniform side (`true`: uniform, R22). A row without an encoding is an event of the device (spec/95): its
arguments are what the party that causes it chooses. -/

namespace Sys2Proof

/-- Every instruction and every event of the opcode table. The docstring of each constructor names the rule. -/
inductive Instr where
  /-- `POWER_ON`, R388. -/
  | powerOn
  /-- `REQ`, R389. -/
  | bootReq
  /-- `OFFER`, R389. -/
  | bootOffer (host len : Nat) (store : Bool)
  /-- `DATA`, R389. -/
  | bootData (host offset : Nat) (bytes : List (BitVec 8))
  /-- `BOOT_TRANSFER_TIMEOUT`, R389. -/
  | bootTransferTimeout
  /-- `WATCHDOG_EXPIRY`, R394. -/
  | watchdogExpiry
  /-- `COLUMN_READY`, R157. -/
  | columnReady (core : Nat)
  /-- `BACKGROUND_TEST`, R395. -/
  | backgroundTest (core vault : Nat) (failed : Option (Nat × Nat))
  /-- `LINK_FLIT_ERROR`, R396. -/
  | linkFlitError (die unit addr failures : Nat)
  /-- `PTP_MESSAGE`, R368. -/
  | ptpMessage (port : Nat) (offset : BitVec 64) (err rate : BitVec 32) (locked : Bool)
  /-- `CLOCK_TARGET_UPDATE`, R364. -/
  | clockTargetUpdate (region mhz : Nat)
  /-- `POWER_MEASURE`, R373. -/
  | powerMeasure (watts : Nat)
  /-- `TEMP_SAMPLE`, R369. -/
  | tempSample (core : Nat) (milliC : Int)
  /-- `REFRESH_CLASS_FALL`, R369. -/
  | refreshClassFall (core : Nat)
  /-- `REFRESH_BURST`, R422. -/
  | refreshBurst (core vault : Nat)
  /-- `REFRESH_CHARGE`, R372. -/
  | refreshCharge (core : Nat)
  /-- `DOORBELL_TAIL`, R332. -/
  | doorbellTail (q : Nat) (tail : BitVec 32)
  /-- `DOORBELL_CHEAD`, R332. -/
  | doorbellChead (q : Nat) (chead : BitVec 32)
  /-- `LAUNCH`, R337. -/
  | launchEntry (q : Nat)
  /-- `GRAPH`, R338. -/
  | graphEntry (q : Nat)
  /-- `GRAPH_NODE_START`, R338. -/
  | graphNodeStart (graph node : Nat)
  /-- `WAIT`, R333. -/
  | waitEntry (q : Nat)
  /-- `WAIT_REREAD`, R334. -/
  | waitReread (q : Nat)
  /-- `WAIT_TIMEOUT`, R333. -/
  | waitTimeout (q : Nat)
  /-- `CANCEL_ENTRY`, R341. -/
  | cancelEntry (q : Nat)
  /-- `FRAME`, R310. -/
  | frameEntry (q : Nat)
  /-- `INVAL`, R361. -/
  | invalEntry (q : Nat)
  /-- `RESUME`, R363. -/
  | resumeEntry (q : Nat)
  /-- `COMPLETION_WRITE`, R335. -/
  | completionWrite (q pick : Nat)
  /-- `GROUP_PLACEMENT`, R343. -/
  | groupPlacement (launch gidx core slot part clmb acmb nbb : Nat)
  /-- `BIND_RECORD_WRITE`, R342. -/
  | bindRecordWrite (core slot : Nat) (words : List (BitVec 32))
  /-- `WAVE_RETIRE`, R80. -/
  | waveRetire (g w : Nat)
  /-- `GROUP_SAVE`, R353. -/
  | groupSave (g : Nat)
  /-- `GROUP_RESTORE`, R355. -/
  | groupRestore (g core slot part clmb acmb nbb : Nat)
  /-- `BUNDLE_FETCH`, R14. -/
  | bundleFetch (g w sp : Nat)
  /-- `STARVATION_PROMOTE`, R93. -/
  | starvationPromote (g w : Nat)
  /-- `LOAD_DATA_RETURN`, R96. -/
  | loadDataReturn (g w p lane : Nat)
  /-- `STORE_COMPLETE`, R101. -/
  | storeComplete (g w p lane : Nat) (merge : Bool)
  /-- `REDUCTION_APPLY`, R179. -/
  | reductionApply (idx : Nat)
  /-- `FAULT_SERVICE_REQUEST`, R91. -/
  | faultServiceRequest (g w : Nat)
  /-- `FAULT_SERVICE_DONE`, R91. -/
  | faultServiceDone (req : Nat) (done : Bool) (leaves : List (Nat × BitVec 64))
  /-- `SLEEP_WAKE`, R104. -/
  | sleepWake (g w sp : Nat)
  /-- `SPECIAL_FUNCTION_COMPLETE`, R141. -/
  | specialFunctionComplete (g w p : Nat)
  /-- `BARR_RELEASE_PERFORMED`, R208. -/
  | barrReleasePerformed (g nb idx : Nat)
  /-- `PHASE_TREE_COMPLETE`, R217. -/
  | phaseTreeComplete (ctx : Nat)
  /-- `COPY_COMMAND_RUN`, R226. -/
  | copyCommandRun (core q count : Nat)
  /-- `COPY_FAULT_RESUME`, R231. -/
  | copyFaultResume (core q : Nat)
  /-- `COPY_COMMAND_COMPLETE`, R232. -/
  | copyCommandComplete (core q : Nat)
  /-- `QFENCE_COMPLETE`, R222. -/
  | qfenceComplete (core q : Nat)
  /-- `HPART_COMPLETE`, R151. -/
  | hpartComplete (core : Nat)
  /-- `CACHE_MAINT_COMPLETE`, R153. -/
  | cacheMaintComplete (core : Nat)
  /-- `MANGLE_REPLY`, R237. -/
  | mangleReply (g w p : Nat)
  /-- `MLOADW_START`, R248. -/
  | mloadwStart (core : Nat)
  /-- `MLOADW_COMPLETE`, R250. -/
  | mloadwComplete (core : Nat)
  /-- `MSWAP_PERFORM`, R251. -/
  | mswapPerform (core : Nat)
  /-- `MSTREAM_START`, R253. -/
  | mstreamStart (core : Nat)
  /-- `MSTREAM_COMPLETE`, R253. -/
  | mstreamComplete (core : Nat)
  /-- `MDRAIN_RUN`, R258. -/
  | mdrainRun (core : Nat)
  /-- `MZERO_RUN`, R259. -/
  | mzeroRun (core : Nat)
  /-- `CHAIN_STEP`, R283. -/
  | chainStep (core : Nat)
  /-- `GATHER_WINDOW_EXPIRY`, R271. -/
  | gatherWindowExpiry (core idx : Nat)
  /-- `GATHER_TILE_FORM`, R271. -/
  | gatherTileForm (core : Nat)
  /-- `GATHER_FETCH_COMPLETE`, R271. -/
  | gatherFetchComplete (core : Nat)
  /-- `GATHER_SCATTER`, R274. -/
  | gatherScatter (core row : Nat)
  /-- `RAY_TRAVERSAL_STOP`, R295. -/
  | rayTraversalStop (core slot : Nat)
  /-- `TEXTURE_FETCH_COMPLETE`, R330. -/
  | textureFetchComplete (g w p lane : Nat)
  /-- `REFIT_NODE_PROCESS`, R306. -/
  | refitNodeProcess (die node : Nat)
  /-- `REFIT_COMPLETE`, R306. -/
  | refitComplete (die : Nat)
  /-- `EMITVP_COMPLETE`, R315. -/
  | emitvpComplete (gdie : Nat)
  /-- `VCLOSE_COMPLETE`, R316. -/
  | vcloseComplete (gdie : Nat)
  /-- `PACKET_ARRIVAL`, R318. -/
  | packetArrival (gdie sdie : Nat)
  /-- `TOKEN_ARRIVAL`, R318. -/
  | tokenArrival (gdie sdie : Nat)
  /-- `RASTERISE`, R321. -/
  | rasterise (stream sdie : Nat)
  /-- `REPROJECTION_COMPLETE`, R324. -/
  | reprojectionComplete (stream sdie : Nat)
  /-- `FRAME_END`, R309. -/
  | frameEnd (stream : Nat)
  /-- `PC_SAMPLE`, R376. -/
  | pcSample (core : Nat)
  /-- `BREAK_BIT_STOP`, R378. -/
  | breakBitStop (g w sp : Nat)
  /-- `WATCHPOINT_STOP`, R378. -/
  | watchpointStop (g w sp : Nat)
  /-- `DCTL_OWN`, R374. -/
  | dctlOwn (core : Nat) (own allStop : Bool)
  /-- `DCTL_HALT`, R380. -/
  | dctlHalt (core : Nat) (mask : BitVec 4)
  /-- `DCTL_RESUME`, R381. -/
  | dctlResume (core : Nat) (mask : BitVec 4)
  /-- `DCTL_ICINV`, R375. -/
  | dctlIcinv (core : Nat)
  /-- `DCTL_DUMP`, R382. -/
  | dctlDump (core : Nat) (mask : BitVec 4)
  /-- `SPOP`, R374. -/
  | spop (core : Nat) (v : BitVec 32)
  /-- `DEBUG_REG_WRITE`, R374. -/
  | debugRegWrite (core off : Nat) (v : BitVec 32)
  /-- `HOST_RDMA_ACCESS`, R384. -/
  | hostRdmaAccess (port : Nat) (key : BitVec 32) (va len : Nat) (wr : Option (List (BitVec 8)))
  /-- `JOB_CREATE`, R387. -/
  | jobCreate (port : Nat) (w0 : BitVec 32) (hd : ReqHead) (body : List (BitVec 8))
  /-- `JOB_DESTROY`, R387. -/
  | jobDestroy (port : Nat) (w0 : BitVec 32) (hd : ReqHead) (body : List (BitVec 8))
  /-- `CFG_RD`, R387. -/
  | cfgRd (port : Nat) (w0 : BitVec 32) (hd : ReqHead) (body : List (BitVec 8))
  /-- `CFG_WR`, R386. -/
  | cfgWr (port : Nat) (w0 : BitVec 32) (hd : ReqHead) (body : List (BitVec 8))
  /-- `DBG_RD`, R387. -/
  | dbgRd (port : Nat) (w0 : BitVec 32) (hd : ReqHead) (body : List (BitVec 8))
  /-- `DBG_WR`, R387. -/
  | dbgWr (port : Nat) (w0 : BitVec 32) (hd : ReqHead) (body : List (BitVec 8))
  /-- `POWER_LIMIT`, R373. -/
  | powerLimit (port : Nat) (w0 : BitVec 32) (hd : ReqHead) (body : List (BitVec 8))
  /-- `ERRLOG`, R396. -/
  | errlog (port : Nat) (w0 : BitVec 32) (hd : ReqHead) (body : List (BitVec 8))
  /-- `ATTEST`, R398. -/
  | attest (port : Nat) (w0 : BitVec 32) (hd : ReqHead) (body : List (BitVec 8))
  /-- `DARN_RD`, R393. -/
  | darnRd (port : Nat) (w0 : BitVec 32) (hd : ReqHead) (body : List (BitVec 8))
  /-- `DARN_APPLY`, R393. -/
  | darnApply (port : Nat) (w0 : BitVec 32) (hd : ReqHead) (body : List (BitVec 8))
  /-- `COL_ALLOC`, R154. -/
  | colAlloc (port : Nat) (w0 : BitVec 32) (hd : ReqHead) (body : List (BitVec 8))
  /-- `COL_FREE`, R387. -/
  | colFree (port : Nat) (w0 : BitVec 32) (hd : ReqHead) (body : List (BitVec 8))
  /-- `RESET`, R394. -/
  | resetService (port : Nat) (w0 : BitVec 32) (hd : ReqHead) (body : List (BitVec 8))
  /-- `NOP`, R20. -/
  | nop
  /-- `IADD`, R111. -/
  | iadd (u : Bool) (d : BitVec 7) (a : BitVec 7) (b : BitVec 7)
  /-- `ISUB`, R111. -/
  | isub (u : Bool) (d : BitVec 7) (a : BitVec 7) (b : BitVec 7)
  /-- `IMUL`, R111. -/
  | imul (u : Bool) (d : BitVec 7) (a : BitVec 7) (b : BitVec 7)
  /-- `IMULH_I`, R111. -/
  | imulhI (u : Bool) (d : BitVec 7) (a : BitVec 7) (b : BitVec 7)
  /-- `IMULH_N`, R111. -/
  | imulhN (u : Bool) (d : BitVec 7) (a : BitVec 7) (b : BitVec 7)
  /-- `IMAD`, R111. -/
  | imad (u : Bool) (d : BitVec 7) (a : BitVec 7) (b : BitVec 7)
  /-- `IAND`, R111. -/
  | iand (u : Bool) (d : BitVec 7) (a : BitVec 7) (b : BitVec 7)
  /-- `IOR`, R111. -/
  | ior (u : Bool) (d : BitVec 7) (a : BitVec 7) (b : BitVec 7)
  /-- `IXOR`, R111. -/
  | ixor (u : Bool) (d : BitVec 7) (a : BitVec 7) (b : BitVec 7)
  /-- `IANDN`, R111. -/
  | iandn (u : Bool) (d : BitVec 7) (a : BitVec 7) (b : BitVec 7)
  /-- `SHL`, R112. -/
  | shl (u : Bool) (d : BitVec 7) (a : BitVec 7) (b : BitVec 7)
  /-- `SHR`, R112. -/
  | shr (u : Bool) (d : BitVec 7) (a : BitVec 7) (b : BitVec 7)
  /-- `SAR`, R112. -/
  | sar (u : Bool) (d : BitVec 7) (a : BitVec 7) (b : BitVec 7)
  /-- `IMIN_I`, R111. -/
  | iminI (u : Bool) (d : BitVec 7) (a : BitVec 7) (b : BitVec 7)
  /-- `IMIN_N`, R111. -/
  | iminN (u : Bool) (d : BitVec 7) (a : BitVec 7) (b : BitVec 7)
  /-- `IMAX_I`, R111. -/
  | imaxI (u : Bool) (d : BitVec 7) (a : BitVec 7) (b : BitVec 7)
  /-- `IMAX_N`, R111. -/
  | imaxN (u : Bool) (d : BitVec 7) (a : BitVec 7) (b : BitVec 7)
  /-- `IABS`, R111. -/
  | iabs (u : Bool) (d : BitVec 7) (a : BitVec 7)
  /-- `CLZ`, R111. -/
  | clz (u : Bool) (d : BitVec 7) (a : BitVec 7)
  /-- `POPC`, R111. -/
  | popc (u : Bool) (d : BitVec 7) (a : BitVec 7)
  /-- `BREV`, R111. -/
  | brev (u : Bool) (d : BitVec 7) (a : BitVec 7)
  /-- `BFX_I`, R113. -/
  | bfxI (u : Bool) (d : BitVec 7) (a : BitVec 7) (b : BitVec 7)
  /-- `BFX_N`, R113. -/
  | bfxN (u : Bool) (d : BitVec 7) (a : BitVec 7) (b : BitVec 7)
  /-- `BFI`, R113. -/
  | bfi (u : Bool) (d : BitVec 7) (a : BitVec 7) (b : BitVec 7)
  /-- `SEL`, R111. -/
  | sel (u : Bool) (n : BitVec 3) (d : BitVec 7) (a : BitVec 7) (b : BitVec 7)
  /-- `IADD_I`, R24. -/
  | iaddI (u : Bool) (d : BitVec 7) (a : BitVec 7) (i : BitVec 7)
  /-- `ISUB_I`, R24. -/
  | isubI (u : Bool) (d : BitVec 7) (a : BitVec 7) (i : BitVec 7)
  /-- `IMUL_I`, R24. -/
  | imulI (u : Bool) (d : BitVec 7) (a : BitVec 7) (i : BitVec 7)
  /-- `IMULH_I_I`, R24. -/
  | imulhII (u : Bool) (d : BitVec 7) (a : BitVec 7) (i : BitVec 7)
  /-- `IMULH_N_I`, R24. -/
  | imulhNI (u : Bool) (d : BitVec 7) (a : BitVec 7) (i : BitVec 7)
  /-- `IMAD_I`, R24. -/
  | imadI (u : Bool) (d : BitVec 7) (a : BitVec 7) (i : BitVec 7)
  /-- `IAND_I`, R24. -/
  | iandI (u : Bool) (d : BitVec 7) (a : BitVec 7) (i : BitVec 7)
  /-- `IOR_I`, R24. -/
  | iorI (u : Bool) (d : BitVec 7) (a : BitVec 7) (i : BitVec 7)
  /-- `IXOR_I`, R24. -/
  | ixorI (u : Bool) (d : BitVec 7) (a : BitVec 7) (i : BitVec 7)
  /-- `IANDN_I`, R24. -/
  | iandnI (u : Bool) (d : BitVec 7) (a : BitVec 7) (i : BitVec 7)
  /-- `SHL_I`, R24. -/
  | shlI (u : Bool) (d : BitVec 7) (a : BitVec 7) (i : BitVec 7)
  /-- `SHR_I`, R24. -/
  | shrI (u : Bool) (d : BitVec 7) (a : BitVec 7) (i : BitVec 7)
  /-- `SAR_I`, R24. -/
  | sarI (u : Bool) (d : BitVec 7) (a : BitVec 7) (i : BitVec 7)
  /-- `IMIN_I_I`, R24. -/
  | iminII (u : Bool) (d : BitVec 7) (a : BitVec 7) (i : BitVec 7)
  /-- `IMIN_N_I`, R24. -/
  | iminNI (u : Bool) (d : BitVec 7) (a : BitVec 7) (i : BitVec 7)
  /-- `IMAX_I_I`, R24. -/
  | imaxII (u : Bool) (d : BitVec 7) (a : BitVec 7) (i : BitVec 7)
  /-- `IMAX_N_I`, R24. -/
  | imaxNI (u : Bool) (d : BitVec 7) (a : BitVec 7) (i : BitVec 7)
  /-- `BFX_I_I`, R24. -/
  | bfxII (u : Bool) (d : BitVec 7) (a : BitVec 7) (i : BitVec 7)
  /-- `BFX_N_I`, R24. -/
  | bfxNI (u : Bool) (d : BitVec 7) (a : BitVec 7) (i : BitVec 7)
  /-- `BFI_I`, R24. -/
  | bfiI (u : Bool) (d : BitVec 7) (a : BitVec 7) (i : BitVec 7)
  /-- `MOV`, R111. -/
  | mov (u : Bool) (d : BitVec 7) (b : BitVec 7)
  /-- `MOVI`, R111. -/
  | movi (u : Bool) (d : BitVec 7) (i : BitVec 14)
  /-- `IADD64`, R111. -/
  | iadd64 (u : Bool) (d : BitVec 7) (a : BitVec 7) (b : BitVec 7)
  /-- `ISUB64`, R111. -/
  | isub64 (u : Bool) (d : BitVec 7) (a : BitVec 7) (b : BitVec 7)
  /-- `IMULW_I`, R111. -/
  | imulwI (u : Bool) (d : BitVec 7) (a : BitVec 7) (b : BitVec 7)
  /-- `IMULW_N`, R111. -/
  | imulwN (u : Bool) (d : BitVec 7) (a : BitVec 7) (b : BitVec 7)
  /-- `MOVLS`, R34. -/
  | movls (d : BitVec 7) (a : BitVec 7)
  /-- `PADD_H2`, R115. -/
  | paddH2 (d : BitVec 7) (a : BitVec 7) (b : BitVec 7)
  /-- `PADDS_H2`, R115. -/
  | paddsH2 (d : BitVec 7) (a : BitVec 7) (b : BitVec 7)
  /-- `PSUB_H2`, R115. -/
  | psubH2 (d : BitVec 7) (a : BitVec 7) (b : BitVec 7)
  /-- `PSUBS_H2`, R115. -/
  | psubsH2 (d : BitVec 7) (a : BitVec 7) (b : BitVec 7)
  /-- `PADD_B4`, R115. -/
  | paddB4 (d : BitVec 7) (a : BitVec 7) (b : BitVec 7)
  /-- `PADDS_B4`, R115. -/
  | paddsB4 (d : BitVec 7) (a : BitVec 7) (b : BitVec 7)
  /-- `PSUBS_B4`, R115. -/
  | psubsB4 (d : BitVec 7) (a : BitVec 7) (b : BitVec 7)
  /-- `PMADD_H2`, R115. -/
  | pmaddH2 (d : BitVec 7) (a : BitVec 7) (b : BitVec 7)
  /-- `PMADD_B4`, R115. -/
  | pmaddB4 (d : BitVec 7) (a : BitVec 7) (b : BitVec 7)
  /-- `IADDS`, R115. -/
  | iadds (d : BitVec 7) (a : BitVec 7) (b : BitVec 7)
  /-- `ISUBS`, R115. -/
  | isubs (d : BitVec 7) (a : BitVec 7) (b : BitVec 7)
  /-- `SHRR`, R116. -/
  | shrr (d : BitVec 7) (a : BitVec 7) (b : BitVec 7)
  /-- `SHRRS_H2`, R116. -/
  | shrrsH2 (d : BitVec 7) (a : BitVec 7) (b : BitVec 7)
  /-- `PACK_H2`, R115. -/
  | packH2 (d : BitVec 7) (a : BitVec 7) (b : BitVec 7)
  /-- `PACKS_H2`, R115. -/
  | packsH2 (d : BitVec 7) (a : BitVec 7) (b : BitVec 7)
  /-- `PMIN_H2`, R115. -/
  | pminH2 (d : BitVec 7) (a : BitVec 7) (b : BitVec 7)
  /-- `PMAX_H2`, R115. -/
  | pmaxH2 (d : BitVec 7) (a : BitVec 7) (b : BitVec 7)
  /-- `PADD_H2_I`, R115. -/
  | paddH2I (d : BitVec 7) (a : BitVec 7) (i : BitVec 7)
  /-- `PADDS_H2_I`, R115. -/
  | paddsH2I (d : BitVec 7) (a : BitVec 7) (i : BitVec 7)
  /-- `PSUB_H2_I`, R115. -/
  | psubH2I (d : BitVec 7) (a : BitVec 7) (i : BitVec 7)
  /-- `PSUBS_H2_I`, R115. -/
  | psubsH2I (d : BitVec 7) (a : BitVec 7) (i : BitVec 7)
  /-- `PADD_B4_I`, R115. -/
  | paddB4I (d : BitVec 7) (a : BitVec 7) (i : BitVec 7)
  /-- `PADDS_B4_I`, R115. -/
  | paddsB4I (d : BitVec 7) (a : BitVec 7) (i : BitVec 7)
  /-- `PSUBS_B4_I`, R115. -/
  | psubsB4I (d : BitVec 7) (a : BitVec 7) (i : BitVec 7)
  /-- `PMADD_H2_I`, R115. -/
  | pmaddH2I (d : BitVec 7) (a : BitVec 7) (i : BitVec 7)
  /-- `PMADD_B4_I`, R115. -/
  | pmaddB4I (d : BitVec 7) (a : BitVec 7) (i : BitVec 7)
  /-- `IADDS_I`, R115. -/
  | iaddsI (d : BitVec 7) (a : BitVec 7) (i : BitVec 7)
  /-- `ISUBS_I`, R115. -/
  | isubsI (d : BitVec 7) (a : BitVec 7) (i : BitVec 7)
  /-- `SHRR_I`, R116. -/
  | shrrI (d : BitVec 7) (a : BitVec 7) (i : BitVec 7)
  /-- `SHRRS_H2_I`, R116. -/
  | shrrsH2I (d : BitVec 7) (a : BitVec 7) (i : BitVec 7)
  /-- `PACK_H2_I`, R115. -/
  | packH2I (d : BitVec 7) (a : BitVec 7) (i : BitVec 7)
  /-- `PACKS_H2_I`, R115. -/
  | packsH2I (d : BitVec 7) (a : BitVec 7) (i : BitVec 7)
  /-- `PMIN_H2_I`, R115. -/
  | pminH2I (d : BitVec 7) (a : BitVec 7) (i : BitVec 7)
  /-- `PMAX_H2_I`, R115. -/
  | pmaxH2I (d : BitVec 7) (a : BitVec 7) (i : BitVec 7)
  /-- `FADD`, R117. -/
  | fadd (u : Bool) (d : BitVec 7) (a : BitVec 7) (b : BitVec 7)
  /-- `FSUB`, R117. -/
  | fsub (u : Bool) (d : BitVec 7) (a : BitVec 7) (b : BitVec 7)
  /-- `FMUL`, R117. -/
  | fmul (u : Bool) (d : BitVec 7) (a : BitVec 7) (b : BitVec 7)
  /-- `FFMA`, R117. -/
  | ffma (u : Bool) (d : BitVec 7) (a : BitVec 7) (b : BitVec 7)
  /-- `FMIN`, R119. -/
  | fmin (u : Bool) (d : BitVec 7) (a : BitVec 7) (b : BitVec 7)
  /-- `FMAX`, R119. -/
  | fmax (u : Bool) (d : BitVec 7) (a : BitVec 7) (b : BitVec 7)
  /-- `FABS`, R117. -/
  | fabs (u : Bool) (d : BitVec 7) (a : BitVec 7)
  /-- `FNEG`, R117. -/
  | fneg (u : Bool) (d : BitVec 7) (a : BitVec 7)
  /-- `HADD2`, R120. -/
  | hadd2 (d : BitVec 7) (a : BitVec 7) (b : BitVec 7)
  /-- `HMUL2`, R120. -/
  | hmul2 (d : BitVec 7) (a : BitVec 7) (b : BitVec 7)
  /-- `HFMA2`, R120. -/
  | hfma2 (d : BitVec 7) (a : BitVec 7) (b : BitVec 7)
  /-- `BFMA2`, R120. -/
  | bfma2 (d : BitVec 7) (a : BitVec 7) (b : BitVec 7)
  /-- `FRND`, R121. -/
  | frnd (d : BitVec 7) (a : BitVec 7) (r : BitVec 7)
  /-- `FCLASS`, R122. -/
  | fclass (d : BitVec 7) (a : BitVec 7)
  /-- `DADD`, R117. -/
  | dadd (u : Bool) (d : BitVec 7) (a : BitVec 7) (b : BitVec 7)
  /-- `DSUB`, R117. -/
  | dsub (u : Bool) (d : BitVec 7) (a : BitVec 7) (b : BitVec 7)
  /-- `DMUL`, R117. -/
  | dmul (u : Bool) (d : BitVec 7) (a : BitVec 7) (b : BitVec 7)
  /-- `DFMA`, R117. -/
  | dfma (u : Bool) (d : BitVec 7) (a : BitVec 7) (b : BitVec 7)
  /-- `DMIN`, R119. -/
  | dmin (u : Bool) (d : BitVec 7) (a : BitVec 7) (b : BitVec 7)
  /-- `DMAX`, R119. -/
  | dmax (u : Bool) (d : BitVec 7) (a : BitVec 7) (b : BitVec 7)
  /-- `DABS`, R117. -/
  | dabs (u : Bool) (d : BitVec 7) (a : BitVec 7)
  /-- `DNEG`, R117. -/
  | dneg (u : Bool) (d : BitVec 7) (a : BitVec 7)
  /-- `DRND`, R121. -/
  | drnd (d : BitVec 7) (a : BitVec 7) (r : BitVec 7)
  /-- `DCLASS`, R122. -/
  | dclass (d : BitVec 7) (a : BitVec 7)
  /-- `ICMP_I_EQ`, R123. -/
  | icmpIEq (u : Bool) (d : BitVec 7) (a : BitVec 7) (b : BitVec 7)
  /-- `ICMP_I_NE`, R123. -/
  | icmpINe (u : Bool) (d : BitVec 7) (a : BitVec 7) (b : BitVec 7)
  /-- `ICMP_I_LT`, R123. -/
  | icmpILt (u : Bool) (d : BitVec 7) (a : BitVec 7) (b : BitVec 7)
  /-- `ICMP_I_LE`, R123. -/
  | icmpILe (u : Bool) (d : BitVec 7) (a : BitVec 7) (b : BitVec 7)
  /-- `ICMP_I_GT`, R123. -/
  | icmpIGt (u : Bool) (d : BitVec 7) (a : BitVec 7) (b : BitVec 7)
  /-- `ICMP_I_GE`, R123. -/
  | icmpIGe (u : Bool) (d : BitVec 7) (a : BitVec 7) (b : BitVec 7)
  /-- `ICMP_N_LT`, R123. -/
  | icmpNLt (u : Bool) (d : BitVec 7) (a : BitVec 7) (b : BitVec 7)
  /-- `ICMP_N_LE`, R123. -/
  | icmpNLe (u : Bool) (d : BitVec 7) (a : BitVec 7) (b : BitVec 7)
  /-- `ICMP_N_GT`, R123. -/
  | icmpNGt (u : Bool) (d : BitVec 7) (a : BitVec 7) (b : BitVec 7)
  /-- `ICMP_N_GE`, R123. -/
  | icmpNGe (u : Bool) (d : BitVec 7) (a : BitVec 7) (b : BitVec 7)
  /-- `FCMP_EQ`, R124. -/
  | fcmpEq (u : Bool) (d : BitVec 7) (a : BitVec 7) (b : BitVec 7)
  /-- `FCMP_NE`, R124. -/
  | fcmpNe (u : Bool) (d : BitVec 7) (a : BitVec 7) (b : BitVec 7)
  /-- `FCMP_LT`, R124. -/
  | fcmpLt (u : Bool) (d : BitVec 7) (a : BitVec 7) (b : BitVec 7)
  /-- `FCMP_LE`, R124. -/
  | fcmpLe (u : Bool) (d : BitVec 7) (a : BitVec 7) (b : BitVec 7)
  /-- `FCMP_GT`, R124. -/
  | fcmpGt (u : Bool) (d : BitVec 7) (a : BitVec 7) (b : BitVec 7)
  /-- `FCMP_GE`, R124. -/
  | fcmpGe (u : Bool) (d : BitVec 7) (a : BitVec 7) (b : BitVec 7)
  /-- `FCMP_UN`, R124. -/
  | fcmpUn (u : Bool) (d : BitVec 7) (a : BitVec 7) (b : BitVec 7)
  /-- `FCMP_ORD`, R124. -/
  | fcmpOrd (u : Bool) (d : BitVec 7) (a : BitVec 7) (b : BitVec 7)
  /-- `DCMP_EQ`, R124. -/
  | dcmpEq (u : Bool) (d : BitVec 7) (a : BitVec 7) (b : BitVec 7)
  /-- `DCMP_NE`, R124. -/
  | dcmpNe (u : Bool) (d : BitVec 7) (a : BitVec 7) (b : BitVec 7)
  /-- `DCMP_LT`, R124. -/
  | dcmpLt (u : Bool) (d : BitVec 7) (a : BitVec 7) (b : BitVec 7)
  /-- `DCMP_LE`, R124. -/
  | dcmpLe (u : Bool) (d : BitVec 7) (a : BitVec 7) (b : BitVec 7)
  /-- `DCMP_GT`, R124. -/
  | dcmpGt (u : Bool) (d : BitVec 7) (a : BitVec 7) (b : BitVec 7)
  /-- `DCMP_GE`, R124. -/
  | dcmpGe (u : Bool) (d : BitVec 7) (a : BitVec 7) (b : BitVec 7)
  /-- `DCMP_UN`, R124. -/
  | dcmpUn (u : Bool) (d : BitVec 7) (a : BitVec 7) (b : BitVec 7)
  /-- `DCMP_ORD`, R124. -/
  | dcmpOrd (u : Bool) (d : BitVec 7) (a : BitVec 7) (b : BitVec 7)
  /-- `KAND`, R125. -/
  | kand (d : BitVec 7) (a : BitVec 7) (b : BitVec 7)
  /-- `KOR`, R125. -/
  | kor (d : BitVec 7) (a : BitVec 7) (b : BitVec 7)
  /-- `KXOR`, R125. -/
  | kxor (d : BitVec 7) (a : BitVec 7) (b : BitVec 7)
  /-- `KANDN`, R125. -/
  | kandn (d : BitVec 7) (a : BitVec 7) (b : BitVec 7)
  /-- `KNOT`, R125. -/
  | knot (d : BitVec 7) (a : BitVec 7)
  /-- `KMOV`, R125. -/
  | kmov (d : BitVec 7) (a : BitVec 7)
  /-- `KTOV`, R125. -/
  | ktov (d : BitVec 7) (a : BitVec 7)
  /-- `VTOK`, R125. -/
  | vtok (d : BitVec 7) (a : BitVec 7)
  /-- `CAND`, R125. -/
  | cand (d : BitVec 7) (a : BitVec 7) (b : BitVec 7)
  /-- `COR`, R125. -/
  | cor (d : BitVec 7) (a : BitVec 7) (b : BitVec 7)
  /-- `CXOR`, R125. -/
  | cxor (d : BitVec 7) (a : BitVec 7) (b : BitVec 7)
  /-- `CANDN`, R125. -/
  | candn (d : BitVec 7) (a : BitVec 7) (b : BitVec 7)
  /-- `CNOT`, R125. -/
  | cnot (d : BitVec 7) (a : BitVec 7)
  /-- `CMOV`, R125. -/
  | cmov (d : BitVec 7) (a : BitVec 7)
  /-- `F2I_I`, R127. -/
  | f2iI (d : BitVec 7) (a : BitVec 7) (r : BitVec 7)
  /-- `F2I_N`, R127. -/
  | f2iN (d : BitVec 7) (a : BitVec 7) (r : BitVec 7)
  /-- `I2F_I`, R126. -/
  | i2fI (d : BitVec 7) (a : BitVec 7)
  /-- `I2F_N`, R126. -/
  | i2fN (d : BitVec 7) (a : BitVec 7)
  /-- `F2D`, R126. -/
  | f2d (d : BitVec 7) (a : BitVec 7)
  /-- `D2F`, R126. -/
  | d2f (d : BitVec 7) (a : BitVec 7)
  /-- `D2I_I`, R127. -/
  | d2iI (d : BitVec 7) (a : BitVec 7) (r : BitVec 7)
  /-- `I2D_I`, R126. -/
  | i2dI (d : BitVec 7) (a : BitVec 7)
  /-- `F2H2`, R126. -/
  | f2h2 (d : BitVec 7) (a : BitVec 7) (b : BitVec 7)
  /-- `H2F_LO`, R126. -/
  | h2fLo (d : BitVec 7) (a : BitVec 7)
  /-- `H2F_HI`, R126. -/
  | h2fHi (d : BitVec 7) (a : BitVec 7)
  /-- `F2BF2`, R126. -/
  | f2bf2 (d : BitVec 7) (a : BitVec 7) (b : BitVec 7)
  /-- `BF2F_LO`, R126. -/
  | bf2fLo (d : BitVec 7) (a : BitVec 7)
  /-- `BF2F_HI`, R126. -/
  | bf2fHi (d : BitVec 7) (a : BitVec 7)
  /-- `CVTN`, R128. -/
  | cvtn (n : BitVec 3) (d : BitVec 7) (a : BitVec 7)
  /-- `CVTW`, R129. -/
  | cvtw (n : BitVec 3) (d : BitVec 7) (a : BitVec 7)
  /-- `MOVS`, R34. -/
  | movs (d : BitVec 7) (a : BitVec 7)
  /-- `MOVSW`, R137. -/
  | movsw (a : BitVec 7) (b : BitVec 7)
  /-- `RDLANE`, R136. -/
  | rdlane (d : BitVec 7) (a : BitVec 7) (b : BitVec 7)
  /-- `WRLANE`, R136. -/
  | wrlane (d : BitVec 7) (a : BitVec 7) (b : BitVec 7)
  /-- `KTOS`, R136. -/
  | ktos (d : BitVec 7) (a : BitVec 7) (h : BitVec 7)
  /-- `STOK`, R138. -/
  | stok (d : BitVec 7) (a : BitVec 7) (h : BitVec 7)
  /-- `SHFL`, R130. -/
  | shfl (d : BitVec 7) (a : BitVec 7) (b : BitVec 7)
  /-- `SHFLX`, R130. -/
  | shflx (d : BitVec 7) (a : BitVec 7) (b : BitVec 7)
  /-- `SLIDEUP`, R131. -/
  | slideup (d : BitVec 7) (a : BitVec 7) (b : BitVec 7)
  /-- `SLIDEDN`, R131. -/
  | slidedn (d : BitVec 7) (a : BitVec 7) (b : BitVec 7)
  /-- `SLIDEUPH`, R131. -/
  | slideuph (d : BitVec 7) (a : BitVec 7) (b : BitVec 7)
  /-- `SLIDEDNH`, R131. -/
  | slidednh (d : BitVec 7) (a : BitVec 7) (b : BitVec 7)
  /-- `BCAST`, R130. -/
  | bcast (d : BitVec 7) (a : BitVec 7) (b : BitVec 7)
  /-- `VCOMPRESS`, R132. -/
  | vcompress (d : BitVec 7) (a : BitVec 7) (b : BitVec 7)
  /-- `VCOMPRESS_Z`, R132. -/
  | vcompressZ (d : BitVec 7) (a : BitVec 7) (b : BitVec 7)
  /-- `VEXPAND`, R132. -/
  | vexpand (d : BitVec 7) (a : BitVec 7) (b : BitVec 7)
  /-- `VOTEANY`, R133. -/
  | voteany (d : BitVec 7) (a : BitVec 7)
  /-- `VOTEALL`, R133. -/
  | voteall (d : BitVec 7) (a : BitVec 7)
  /-- `BALLOT`, R133. -/
  | ballot (d : BitVec 7) (a : BitVec 7)
  /-- `RCP`, R134. -/
  | rcp (d : BitVec 7) (a : BitVec 7)
  /-- `RSQ`, R134. -/
  | rsq (d : BitVec 7) (a : BitVec 7)
  /-- `SQRT`, R134. -/
  | sqrt (d : BitVec 7) (a : BitVec 7)
  /-- `LOG2`, R134. -/
  | log2 (d : BitVec 7) (a : BitVec 7)
  /-- `EXP2`, R134. -/
  | exp2 (d : BitVec 7) (a : BitVec 7)
  /-- `SIN`, R134. -/
  | sin (d : BitVec 7) (a : BitVec 7)
  /-- `COS`, R134. -/
  | cos (d : BitVec 7) (a : BitVec 7)
  /-- `TANH`, R134. -/
  | tanh (d : BitVec 7) (a : BitVec 7)
  /-- `DRCP`, R134. -/
  | drcp (d : BitVec 7) (a : BitVec 7)
  /-- `DSQRT`, R134. -/
  | dsqrt (d : BitVec 7) (a : BitVec 7)
  /-- `LDL_N8`, R160. -/
  | ldlN8 (u : Bool) (d : BitVec 7) (a : BitVec 7) (o : BitVec 3) (n : BitVec 4)
  /-- `LDL_I8`, R160. -/
  | ldlI8 (u : Bool) (d : BitVec 7) (a : BitVec 7) (o : BitVec 3) (n : BitVec 4)
  /-- `LDL_N16`, R160. -/
  | ldlN16 (u : Bool) (d : BitVec 7) (a : BitVec 7) (o : BitVec 3) (n : BitVec 4)
  /-- `LDL_I16`, R160. -/
  | ldlI16 (u : Bool) (d : BitVec 7) (a : BitVec 7) (o : BitVec 3) (n : BitVec 4)
  /-- `LDL_32`, R160. -/
  | ldl32 (u : Bool) (d : BitVec 7) (a : BitVec 7) (o : BitVec 3) (n : BitVec 4)
  /-- `LDL_64`, R160. -/
  | ldl64 (u : Bool) (d : BitVec 7) (a : BitVec 7) (o : BitVec 3) (n : BitVec 4)
  /-- `LDL_128`, R160. -/
  | ldl128 (u : Bool) (d : BitVec 7) (a : BitVec 7) (o : BitVec 3) (n : BitVec 4)
  /-- `STL_8`, R160. -/
  | stl8 (u : Bool) (d : BitVec 7) (a : BitVec 7) (o : BitVec 3) (n : BitVec 4)
  /-- `STL_16`, R160. -/
  | stl16 (u : Bool) (d : BitVec 7) (a : BitVec 7) (o : BitVec 3) (n : BitVec 4)
  /-- `STL_32`, R160. -/
  | stl32 (u : Bool) (d : BitVec 7) (a : BitVec 7) (o : BitVec 3) (n : BitVec 4)
  /-- `STL_64`, R160. -/
  | stl64 (u : Bool) (d : BitVec 7) (a : BitVec 7) (o : BitVec 3) (n : BitVec 4)
  /-- `STL_128`, R160. -/
  | stl128 (u : Bool) (d : BitVec 7) (a : BitVec 7) (o : BitVec 3) (n : BitVec 4)
  /-- `ATL_ADD`, R162. -/
  | atlAdd (u : Bool) (d : BitVec 7) (a : BitVec 7) (o : BitVec 3) (n : BitVec 4)
  /-- `ATL_MIN_I`, R162. -/
  | atlMinI (u : Bool) (d : BitVec 7) (a : BitVec 7) (o : BitVec 3) (n : BitVec 4)
  /-- `ATL_MAX_I`, R162. -/
  | atlMaxI (u : Bool) (d : BitVec 7) (a : BitVec 7) (o : BitVec 3) (n : BitVec 4)
  /-- `ATL_AND`, R162. -/
  | atlAnd (u : Bool) (d : BitVec 7) (a : BitVec 7) (o : BitVec 3) (n : BitVec 4)
  /-- `ATL_OR`, R162. -/
  | atlOr (u : Bool) (d : BitVec 7) (a : BitVec 7) (o : BitVec 3) (n : BitVec 4)
  /-- `ATL_XOR`, R162. -/
  | atlXor (u : Bool) (d : BitVec 7) (a : BitVec 7) (o : BitVec 3) (n : BitVec 4)
  /-- `ATL_XCHG`, R162. -/
  | atlXchg (u : Bool) (d : BitVec 7) (a : BitVec 7) (o : BitVec 3) (n : BitVec 4)
  /-- `ATL_CAS`, R162. -/
  | atlCas (u : Bool) (d : BitVec 7) (a : BitVec 7) (o : BitVec 3) (n : BitVec 4)
  /-- `STL_E4`, R161. -/
  | stlE4 (d : BitVec 7) (a : BitVec 7) (o : BitVec 3) (n : BitVec 4)
  /-- `STL_E6`, R161. -/
  | stlE6 (d : BitVec 7) (a : BitVec 7) (o : BitVec 3) (n : BitVec 4)
  /-- `LDG_N8`, R183. -/
  | ldgN8 (u : Bool) (d : BitVec 7) (a : BitVec 7) (o : BitVec 3) (n : BitVec 4)
  /-- `LDG_I8`, R183. -/
  | ldgI8 (u : Bool) (d : BitVec 7) (a : BitVec 7) (o : BitVec 3) (n : BitVec 4)
  /-- `LDG_N16`, R183. -/
  | ldgN16 (u : Bool) (d : BitVec 7) (a : BitVec 7) (o : BitVec 3) (n : BitVec 4)
  /-- `LDG_I16`, R183. -/
  | ldgI16 (u : Bool) (d : BitVec 7) (a : BitVec 7) (o : BitVec 3) (n : BitVec 4)
  /-- `LDG_32`, R183. -/
  | ldg32 (u : Bool) (d : BitVec 7) (a : BitVec 7) (o : BitVec 3) (n : BitVec 4)
  /-- `LDG_64`, R183. -/
  | ldg64 (u : Bool) (d : BitVec 7) (a : BitVec 7) (o : BitVec 3) (n : BitVec 4)
  /-- `LDG_128`, R183. -/
  | ldg128 (u : Bool) (d : BitVec 7) (a : BitVec 7) (o : BitVec 3) (n : BitVec 4)
  /-- `STG_8`, R183. -/
  | stg8 (u : Bool) (d : BitVec 7) (a : BitVec 7) (o : BitVec 3) (n : BitVec 4)
  /-- `STG_16`, R183. -/
  | stg16 (u : Bool) (d : BitVec 7) (a : BitVec 7) (o : BitVec 3) (n : BitVec 4)
  /-- `STG_32`, R183. -/
  | stg32 (u : Bool) (d : BitVec 7) (a : BitVec 7) (o : BitVec 3) (n : BitVec 4)
  /-- `STG_64`, R183. -/
  | stg64 (u : Bool) (d : BitVec 7) (a : BitVec 7) (o : BitVec 3) (n : BitVec 4)
  /-- `STG_128`, R183. -/
  | stg128 (u : Bool) (d : BitVec 7) (a : BitVec 7) (o : BitVec 3) (n : BitVec 4)
  /-- `ATG_ADD`, R183. -/
  | atgAdd (u : Bool) (d : BitVec 7) (a : BitVec 7) (o : BitVec 3) (n : BitVec 4)
  /-- `ATG_MIN_I`, R183. -/
  | atgMinI (u : Bool) (d : BitVec 7) (a : BitVec 7) (o : BitVec 3) (n : BitVec 4)
  /-- `ATG_MAX_I`, R183. -/
  | atgMaxI (u : Bool) (d : BitVec 7) (a : BitVec 7) (o : BitVec 3) (n : BitVec 4)
  /-- `ATG_AND`, R183. -/
  | atgAnd (u : Bool) (d : BitVec 7) (a : BitVec 7) (o : BitVec 3) (n : BitVec 4)
  /-- `ATG_OR`, R183. -/
  | atgOr (u : Bool) (d : BitVec 7) (a : BitVec 7) (o : BitVec 3) (n : BitVec 4)
  /-- `ATG_XOR`, R183. -/
  | atgXor (u : Bool) (d : BitVec 7) (a : BitVec 7) (o : BitVec 3) (n : BitVec 4)
  /-- `ATG_XCHG`, R183. -/
  | atgXchg (u : Bool) (d : BitVec 7) (a : BitVec 7) (o : BitVec 3) (n : BitVec 4)
  /-- `ATG_CAS`, R183. -/
  | atgCas (u : Bool) (d : BitVec 7) (a : BitVec 7) (o : BitVec 3) (n : BitVec 4)
  /-- `STG_E4`, R183. -/
  | stgE4 (u : Bool) (d : BitVec 7) (a : BitVec 7) (o : BitVec 3) (n : BitVec 4)
  /-- `STG_E6`, R183. -/
  | stgE6 (u : Bool) (d : BitVec 7) (a : BitVec 7) (o : BitVec 3) (n : BitVec 4)
  /-- `ATG_CAS64`, R184. -/
  | atgCas64 (u : Bool) (d : BitVec 7) (a : BitVec 7) (o : BitVec 3) (n : BitVec 4)
  /-- `ATG_FADD`, R184. -/
  | atgFadd (u : Bool) (d : BitVec 7) (a : BitVec 7) (o : BitVec 3) (n : BitVec 4)
  /-- `RED_ADD`, R179. -/
  | redAdd (u : Bool) (d : BitVec 7) (a : BitVec 7) (o : BitVec 3) (n : BitVec 4)
  /-- `RED_FADD`, R179. -/
  | redFadd (u : Bool) (d : BitVec 7) (a : BitVec 7) (o : BitVec 3) (n : BitVec 4)
  /-- `RED_MIN_I`, R179. -/
  | redMinI (u : Bool) (d : BitVec 7) (a : BitVec 7) (o : BitVec 3) (n : BitVec 4)
  /-- `RED_MAX_I`, R179. -/
  | redMaxI (u : Bool) (d : BitVec 7) (a : BitVec 7) (o : BitVec 3) (n : BitVec 4)
  /-- `LDRQ_32`, R185. -/
  | ldrq32 (d : BitVec 7) (a : BitVec 7) (o : BitVec 3) (n : BitVec 4)
  /-- `LDRQ_128`, R185. -/
  | ldrq128 (d : BitVec 7) (a : BitVec 7) (o : BitVec 3) (n : BitVec 4)
  /-- `CSTORE`, R187. -/
  | cstore (d : BitVec 7) (a : BitVec 7) (o : BitVec 3) (n : BitVec 4)
  /-- `PREF`, R188. -/
  | pref (d : BitVec 7) (a : BitVec 7) (o : BitVec 3) (n : BitVec 4)
  /-- `TEX2D`, R327. -/
  | tex2d (d : BitVec 7) (a : BitVec 7) (b : BitVec 7)
  /-- `TEXFETCH`, R328. -/
  | texfetch (d : BitVec 7) (a : BitVec 7) (b : BitVec 7)
  /-- `TEXRQ`, R329. -/
  | texrq (d : BitVec 7) (a : BitVec 7) (b : BitVec 7)
  /-- `TEXLOD`, R327. -/
  | texlod (d : BitVec 7) (a : BitVec 7) (b : BitVec 7)
  /-- `RAYQ`, R299. -/
  | rayq (d : BitVec 7) (a : BitVec 7) (b : BitVec 7)
  /-- `RAYQ_64`, R299. -/
  | rayq64 (d : BitVec 7) (a : BitVec 7) (b : BitVec 7)
  /-- `RAYCONT`, R299. -/
  | raycont (d : BitVec 7) (b : BitVec 7)
  /-- `RAYHIT`, R299. -/
  | rayhit (d : BitVec 7)
  /-- `RAYCOMMIT`, R299. -/
  | raycommit (d : BitVec 7) (a : BitVec 7) (b : BitVec 7)
  /-- `RAYABORT`, R299. -/
  | rayabort
  /-- `NEVAL`, R269. -/
  | neval (d : BitVec 7) (a : BitVec 7) (b : BitVec 7)
  /-- `NEVAL_H`, R269. -/
  | nevalH (d : BitVec 7) (a : BitVec 7) (b : BitVec 7)
  /-- `XSORT_I`, R239. -/
  | xsortI (d : BitVec 7) (a : BitVec 7) (b : BitVec 7)
  /-- `XSORT_N`, R239. -/
  | xsortN (d : BitVec 7) (a : BitVec 7) (b : BitVec 7)
  /-- `XSORT_F`, R240. -/
  | xsortF (d : BitVec 7) (a : BitVec 7) (b : BitVec 7)
  /-- `XSCAN_ADD_I`, R239. -/
  | xscanAddI (d : BitVec 7) (a : BitVec 7)
  /-- `XSCAN_ADD_F`, R239. -/
  | xscanAddF (d : BitVec 7) (a : BitVec 7)
  /-- `XSCAN_MAX_I`, R239. -/
  | xscanMaxI (d : BitVec 7) (a : BitVec 7)
  /-- `XRED_ADD_I`, R239. -/
  | xredAddI (d : BitVec 7) (a : BitVec 7)
  /-- `XRED_ADD_F`, R241. -/
  | xredAddF (d : BitVec 7) (a : BitVec 7)
  /-- `XRED_MIN_I`, R239. -/
  | xredMinI (d : BitVec 7) (a : BitVec 7)
  /-- `XRED_MAX_I`, R239. -/
  | xredMaxI (d : BitVec 7) (a : BitVec 7)
  /-- `XHIST`, R239. -/
  | xhist (d : BitVec 7) (a : BitVec 7)
  /-- `XRANK`, R239. -/
  | xrank (d : BitVec 7) (a : BitVec 7)
  /-- `XSEARCH`, R239. -/
  | xsearch (d : BitVec 7) (a : BitVec 7) (b : BitVec 7)
  /-- `XMATCH`, R239. -/
  | xmatch (d : BitVec 7) (a : BitVec 7)
  /-- `CPY`, R221. -/
  | cpy (d : BitVec 7) (a : BitVec 7) (q : BitVec 7)
  /-- `QFENCE`, R222. -/
  | qfence (q : BitVec 7) (m : BitVec 7)
  /-- `QSTAT`, R233. -/
  | qstat (d : BitVec 7) (q : BitVec 7) (c : BitVec 7)
  /-- `MLOADW`, R250. -/
  | mloadw (a : BitVec 7)
  /-- `MSWAP`, R251. -/
  | mswap
  /-- `MSTREAM`, R252. -/
  | mstream (a : BitVec 7)
  /-- `MDRAIN`, R257. -/
  | mdrain (a : BitVec 7)
  /-- `MZERO`, R259. -/
  | mzero (a : BitVec 7)
  /-- `MSTAT`, R260. -/
  | mstat (d : BitVec 7)
  /-- `TTSTEP`, R283. -/
  | ttstep (a : BitVec 7)
  /-- `TTRUN`, R283. -/
  | ttrun (d : BitVec 7) (a : BitVec 7)
  /-- `NFLUSH`, R277. -/
  | nflush
  /-- `NCFG`, R277. -/
  | ncfg (a : BitVec 7)
  /-- `BINIT`, R207. -/
  | binit (d : BitVec 7) (a : BitVec 7) (b : BitVec 7)
  /-- `BARR`, R208. -/
  | barr (d : BitVec 7) (a : BitVec 7) (b : BitVec 7)
  /-- `BWAIT`, R210. -/
  | bwait (a : BitVec 7) (b : BitVec 7)
  /-- `BEXPB`, R211. -/
  | bexpb (a : BitVec 7) (b : BitVec 7)
  /-- `BPHASE`, R212. -/
  | bphase (d : BitVec 7) (a : BitVec 7)
  /-- `BBIND`, R213. -/
  | bbind (d : BitVec 7) (a : BitVec 7) (b : BitVec 7)
  /-- `BDROP`, R213. -/
  | bdrop (d : BitVec 7) (a : BitVec 7)
  /-- `FENCE_G`, R202. -/
  | fenceG
  /-- `FENCE_D`, R202. -/
  | fenceD
  /-- `FENCE_V`, R202. -/
  | fenceV
  /-- `FENCE_S`, R202. -/
  | fenceS
  /-- `PHINIT`, R216. -/
  | phinit (d : BitVec 7) (a : BitVec 7)
  /-- `PHARR`, R217. -/
  | pharr (a : BitVec 7) (b : BitVec 7)
  /-- `GETWORK`, R346. -/
  | getwork (d : BitVec 7)
  /-- `WORKDONE`, R347. -/
  | workdone (a : BitVec 7)
  /-- `CANCEL`, R348. -/
  | cancel (d : BitVec 7) (a : BitVec 7)
  /-- `CCOUNT`, R349. -/
  | ccount (d : BitVec 7) (a : BitVec 7)
  /-- `ENQ`, R350. -/
  | enq (d : BitVec 7) (a : BitVec 7) (b : BitVec 7)
  /-- `EMITVP`, R313. -/
  | emitvp (d : BitVec 7) (a : BitVec 7)
  /-- `VCLOSE`, R316. -/
  | vclose (d : BitVec 7) (a : BitVec 7)
  /-- `REFIT`, R305. -/
  | refit (d : BitVec 7) (a : BitVec 7)
  /-- `HPART`, R151. -/
  | hpart (d : BitVec 7) (a : BitVec 7)
  /-- `CINV`, R153. -/
  | cinv (a : BitVec 7)
  /-- `CFLUSH`, R153. -/
  | cflush (a : BitVec 7)
  /-- `BRA`, R102. -/
  | bra (o : BitVec 21)
  /-- `BRT`, R102. -/
  | brt (c : BitVec 3) (o : BitVec 21)
  /-- `BRF`, R102. -/
  | brf (c : BitVec 3) (o : BitVec 21)
  /-- `CALL`, R102. -/
  | call (o : BitVec 21)
  /-- `BRD`, R85. -/
  | brd (c : BitVec 3) (o : BitVec 21)
  /-- `BRDN`, R85. -/
  | brdn (c : BitVec 3) (o : BitVec 21)
  /-- `JMPR`, R102. -/
  | jmpr (a : BitVec 7)
  /-- `RET`, R102. -/
  | ret
  /-- `JOIN`, R86. -/
  | join (a : BitVec 7)
  /-- `WAITC`, R103. -/
  | waitc (d : BitVec 7) (n : BitVec 7)
  /-- `YIELD`, R93. -/
  | yieldSplit
  /-- `EXIT`, R80. -/
  | exitSplit
  /-- `REPEAT`, R105. -/
  | repeatN (n : BitVec 12)
  /-- `TRAP`, R106. -/
  | trapSw (c : BitVec 7)
  /-- `SLEEP`, R104. -/
  | sleep (a : BitVec 7)
  /-- `SETPRI`, R102. -/
  | setpri (p : BitVec 7)
  /-- `BREAK`, R106. -/
  | brk
  /-- `RETT`, R359. -/
  | rett
  /-- `TLBINV`, R361. -/
  | tlbinv (a : BitVec 7)
  /-- `SYSRD`, R360. -/
  | sysrd (d : BitVec 7) (n : BitVec 7)
  /-- `SYSWR`, R360. -/
  | syswr (n : BitVec 7) (b : BitVec 7)
  /-- `PARKRES`, R359. -/
  | parkres (a : BitVec 7)
  /-- `FLTREC`, R358. -/
  | fltrec (d : BitVec 7) (a : BitVec 7)
  /-- `POWER_OFF`, R8. -/
  | powerOff
  /-- `FIRMWARE_UNCORRECTABLE_ERROR`, R394. -/
  | firmwareUncorrectableError
  /-- `PTP_HOLDOVER`, R368. -/
  | ptpHoldover
  /-- `EVICTION`, R176. -/
  | eviction (line : Nat)
  /-- `FRAME_RING_FILL`, R171. -/
  | frameRingFill (core : Nat) (big : Bool) (frame : Nat)
  /-- `CORE_RETIREMENT`, R391. -/
  | coreRetirement (core : Nat)
  /-- `CONGESTION_NOTIFICATION`, R383. -/
  | congestionNotification (qp rate : Nat)
  /-- `MKA_KEY_AGREEMENT`, R385. -/
  | mkaKeyAgreement (port : Nat) (secured : Bool)
deriving DecidableEq, Repr

end Sys2Proof
end

