-- ==== Sys2Proof/Machine/State.lean ====
section
/-! DEFINITION. The state of the machine as plain data, the reasons a step can stop, and the state after reset.
The rule that names each piece of state stands in its docstring; INVENTORY.md lists them all. -/

namespace Sys2Proof.Machine

/-! ### Stops -/

/-- Why a step stops with a fault. The exceptions of the manual are no faults here: taking one is a next state. -/
inductive Fault where
  /-- Raised by `issue` (Machine/Ops.lean) when `State.cur` names no wave and no split that could have issued the
  instruction: no run reaches it, since `step` sets `cur` from a wave it has chosen. Safe. -/
  | noIssuer
deriving DecidableEq, Repr

/-- Why a step is refused. -/
inductive Refusal where
  /-- The instruction has no meaning in the model yet; raised by `exec` alone. Safe. -/
  | notModelled (mnemonic : String)
deriving DecidableEq, Repr

/-! ### Traps and fault records -/

/-- One fault record (spec/06 R181, Table 06.6). -/
structure Rec where
  cause : Nat
  lane : Nat
  split : Nat
  slot : Nat
  uni : Bool
  wr : Bool
  svc : Bool
  rpti : Nat
  fpf : BitVec 4
  pst : Nat
  lvl : Nat
  code : Nat
  va : DWord
  pc : DWord
  insn : Word
deriving DecidableEq, Repr

/-! ### Splits -/

/-- STATE of a split-table entry (spec/03 R82). -/
inductive SplitState where
  | free | ready | join | counter | barrier | sleep | parked | debugParked
deriving DecidableEq, Repr

/-- One open lookahead window (spec/03 R97 R98): the pending instruction, how many instructions may still issue
without a check, and its destination elements. -/
structure Win where
  pend : Nat
  left : Nat
  uni : Bool
  regs : List Nat
  lanes : Mask
deriving DecidableEq, Repr

/-- Where an instruction stands: bundle, slot, repetition and word; for a `BWAIT`, for the fault of its object (spec/07
R205), for a pending one, for a cause that is met when it is performed (spec/13 R356). -/
structure Origin where
  pc : DWord
  slot : Nat
  rptn : Nat
  rpti : Nat
  rpta : Bool
  rptNext : Option Nat
  insn : Word
deriving DecidableEq, Repr

/-- No place. -/
def Origin.none : Origin := { pc := 0#64, slot := 0, rptn := 0, rpti := 0, rpta := false, rptNext := .none, insn := 0#32 }

/-- A split-table entry (spec/03 R82) with what the device keeps for the split beside it. -/
structure Split where
  /-- MASK: the lanes of the split. -/
  mask : Mask
  /-- EXP: expected lanes, in state Join (R86). -/
  exp : Mask
  /-- The bundle address to issue from; the PC field is its bits [51:4]. -/
  pc : DWord
  /-- The address of the `JOIN` bundle, in state Join; the RJA field is its bits [51:4]. -/
  rja : DWord
  st : SplitState
  /-- SLOT: next slot to issue, 1 to 3; 0 in a free entry. -/
  slot : Nat
  /-- RPTN, RPTI, RPTA (R105). -/
  rptn : Nat
  rpti : Nat
  rpta : Bool
  /-- A `REPEAT` has issued in the present bundle: the count for the next bundle (R41 R105). -/
  rptNext : Option Nat
  /-- Open lookahead windows (R97). -/
  windows : List Win
  /-- Pending accesses that a `FENCE` of this split waits for before a later access issues (spec/07 R202). -/
  fence : List Nat
  /-- Counter wait: class and n (R103). -/
  wcls : Nat
  wn : Nat
  /-- Barrier wait: object and value (spec/07 R210). -/
  bobj : Nat
  bval : BitVec 16
  /-- The `BWAIT` that waits; none outside Barrier wait. -/
  origin : Option Origin
  /-- Device time at which a Sleep may end (R104). -/
  wake : Nat
  /-- State held before Debug parked (R84). -/
  prior : SplitState
  /-- Fault records kept while Parked (R90). -/
  recs : List Rec
  /-- The fault-service request that carries them, once reported (R91). -/
  request : Option Nat
  /-- Service was refused and `PARKRES` has not settled the entry (spec/13 R359). -/
  refused : Bool
  /-- Parked on a fetch fault (spec/13 R356). -/
  fetchFault : Bool
  /-- Resumed from a break-bit stop: the next issue ignores its break bit (spec/15 R378). -/
  brkSkip : Bool
  /-- A stop by `BREAK` or a watchpoint lands before the next slot: WHY, watchpoint, lanes (spec/15 R378). -/
  stopNext : Option (Nat × Nat × Mask)
  /-- The pending accesses of lanes that went on when this entry was parked: its replay is later than they (spec/06 R183). -/
  replays : List Nat := []
deriving DecidableEq, Repr

/-- A free entry: every field 0 (R82). -/
def Split.empty : Split :=
  { mask := 0#64, exp := 0#64, pc := 0#64, rja := 0#64, st := .free, slot := 0, rptn := 0, rpti := 0, rpta := false,
    rptNext := none, windows := [], fence := [], wcls := 0, wn := 0, bobj := 0, bval := 0#16, origin := none, wake := 0,
    prior := .free, recs := [], request := none, refused := false, fetchFault := false, brkSkip := false,
    stopNext := none }

/-! ### Instructions that have issued and not completed -/

/-- Where the bytes of an access lie. -/
inductive Loc where
  /-- Local address in CLM, as the group sees it (spec/05 R142). -/
  | clm (off : Nat)
  /-- Byte of the group's hamper scratch. -/
  | scratch (off : Nat)
  /-- Physical address: GDDR7, a column frame, or the group's column window (spec/06 R166). -/
  | phys (pa : Nat)
  /-- Byte of a host window: key of the peer (queue pair and port) and peer address (spec/06 R175). -/
  | host (peer addr : Nat)
deriving DecidableEq, Repr

/-- What a memory instruction does at its bytes. -/
inductive MemOp where
  | load (size : Nat) (sext : Bool)
  | store (size : Nat)
  /-- Element store: data and enabled bits (spec/05 R161). -/
  | estore
  /-- Atomic, by the number of its function in group 8 or 9 (spec/05 R162, spec/06 R184). -/
  | atomic (f : Nat)
  /-- Reduction, by the number of its function in group 9 (spec/06 R179). -/
  | red (f : Nat)
  /-- `LDRQ` of a number of words (spec/06 R185). -/
  | ldrq (words : Nat)
  /-- `CSTORE` (spec/06 R187). -/
  | cstore
  /-- The read-modify-write of `WORKDONE` (spec/13 R347). -/
  | workdone
deriving DecidableEq, Repr

/-- One lane's access. `data` holds the operands read at issue; `live` is false once performed, parked or dropped. -/
structure Acc where
  lane : Nat
  va : DWord
  loc : Loc
  data : List Word
  live : Bool
deriving DecidableEq, Repr

/-- One element to write when an instruction completes: lane, register, value, poison mark. -/
structure Wr where
  lane : Nat
  reg : Nat
  val : Word
  poison : Bool
deriving DecidableEq, Repr

/-- IEEE flags and SAT (spec/01 R36). -/
structure Flags where
  inv : Bool
  ovf : Bool
  unf : Bool
  inx : Bool
  sat : Bool
deriving DecidableEq, Repr

/-- What kind of work completes a pending instruction. -/
inductive PendKind where
  | mem (op : MemOp)
  /-- Lane group 7: the results and the flags of each lane (spec/04 R141). -/
  | special (flags : List (Nat × Flags))
  | mangle
  /-- Texture: one request per lane, performed by TEXTURE_FETCH_COMPLETE; function and handle block. -/
  | texture (f : Nat)
  | neval
  | ray
  /-- A command of counter class 3 in an engine. -/
  | engine
deriving DecidableEq, Repr

/-- An instruction of latency class L that has issued and not completed (spec/03 R96 R101). -/
structure Pend where
  id : Nat
  /-- Outstanding-counter class 0 to 7; 8 is no counter. -/
  cls : Nat
  /-- Destinations are uniform registers. -/
  uni : Bool
  /-- Destination registers. -/
  regs : List Nat
  /-- Lanes whose destination elements are pending (bit 0 for uniform ones). -/
  lanes : Mask
  /-- Every lane the instruction was issued for. -/
  mask : Mask
  kind : PendKind
  /-- Acquire and release of the ORD code (spec/01 R26, spec/07 R193). -/
  acq : Bool
  rel : Bool
  accs : List Acc
  wrs : List Wr
  /-- Poison found in the data of lanes: the records of the trap when it completes (spec/03 R421); for `LDRQ`, the pages
  to record (spec/06 R186). -/
  recs : List Rec
  /-- Where it issued: bundle, slot, word, repetition, split index (for its fault records). -/
  pc : DWord
  slot : Nat
  insn : Word
  rpti : Nat
  sp : Nat
  /-- The instruction's own place, and the place after it, for causes that are met when it is performed (spec/13 R356). -/
  here : Origin := .none
  after : Origin := .none
  /-- The wave of the group that issued it. -/
  wave : Nat := 0
  /-- A replay: the accesses of lanes that went on when its lanes were parked, which come first (spec/06 R183). -/
  replays : List Nat := []
deriving DecidableEq, Repr

/-! ### Waves -/

/-- Wave states (spec/03 R79). -/
inductive WaveState where
  | resident | trap | stopped | saved | retiring | retired
deriving DecidableEq, Repr

/-- The trap registers and records of a wave (spec/13 R356 R360). -/
structure TrapState where
  /-- The trap entry: outside the split table. -/
  entry : Split
  tpc : DWord
  tslot : Nat
  tsplit : Nat
  tscr0 : Word
  tscr1 : Word
  /-- Records delivered by this entry, in the order of R91. -/
  recs : List Rec
  /-- Records held for a further entry at `RETT` (spec/10 R275). -/
  held : List Rec
  /-- The handler wrote TPC or TSLOT. -/
  wrote : Bool
deriving DecidableEq, Repr

/-- The special registers that hold state (spec/01 R34 to R36). -/
structure Special where
  sticky : Word
  fpmode : Word
  last : DWord
  seed : Word
  strict : Bool
  bd : List (BitVec 16)
  /-- The high halves held: the low number read, and the half (R34). -/
  hold : List (Nat × Word)
deriving DecidableEq, Repr

/-- A wave (spec/03 R75 to R82, R101). -/
structure Wave where
  id : Nat
  /-- Lanes, 16, 32 or 64. -/
  width : Nat
  part : Nat
  wpos : Nat
  state : WaveState
  /-- State before Stopped (R79). -/
  priorState : WaveState
  /-- Lane registers: `v[r][lane]`. -/
  v : List (List Word)
  /-- Poison marks of the lane registers, one mask for each. -/
  vp : List Mask
  /-- Uniform registers s0 to s127. -/
  s : List Word
  sp : List Bool
  /-- Mask registers; k0 is not stored. -/
  k : List Mask
  /-- Condition bits; c0 is not stored. -/
  c : List Bool
  sr : Special
  /-- Stochastic-rounding generators (spec/02 R59). -/
  rng : List Word
  live : Mask
  splits : List Split
  trap : TrapState
  /-- Outstanding counters, eight classes (R101). -/
  counters : List Nat
  pend : List Pend
  nextPend : Nat
  prio : Nat
  /-- Creation or `YIELD` time: smaller is older (R93). -/
  age : Nat
  /-- Consecutive issue opportunities passed over (R93). -/
  passed : Nat
  /-- Split that issued last (R94). -/
  lastSplit : Nat
  /-- Lanes whose ray is Held (spec/11 R296). -/
  rays : Mask
  /-- Frozen by an all-stop debug stop (spec/15 R381). -/
  frozen : Bool
  /-- What the last issue opportunity found: the split examined, its stall code of Table 15.3, and sr.ccycle (spec/15
  R377). -/
  seen : Option (Nat × Nat × Nat)
  /-- Where its last issue took place: bundle address and slot (spec/15 R377). -/
  issuedAt : DWord × Nat := (0#64, 0)
  /-- `JOIN` or `EXIT` has issued while a Parked entry is unreported (R91). -/
  svcDue : Bool
deriving DecidableEq, Repr

/-! ### Barrier objects and groups -/

/-- Barrier-object states (spec/07 R204). -/
inductive BarState where
  | uninit | counting | fault
deriving DecidableEq, Repr

/-- A barrier object (spec/07 R204, Table 07.4). -/
structure Barrier where
  expa : Nat
  arr : Nat
  scope : Nat
  st : BarState
  lnk : Bool
  bnd : Bool
  rsp : Bool
  phase : BitVec 16
  wait : BitVec 16
  obs : BitVec 16
  prel : Nat
  expb : Nat
  bytes : Nat
  baseb : Nat
  rb : DWord
  rl : Word
  /-- sr.ccycle of the last completion: the splits that it woke become Ready 2 cycles later (R209). -/
  since : DWord
deriving DecidableEq, Repr

def Barrier.empty : Barrier :=
  { expa := 0, arr := 0, scope := 0, st := .uninit, lnk := false, bnd := false, rsp := false, phase := 0#16,
    wait := 0#16, obs := 0#16, prel := 0, expb := 0, bytes := 0, baseb := 0, rb := 0#64, rl := 0#32, since := 0#64 }

/-- A release of a `BARR` that is not yet performed (spec/07 R208): the object, the wave, and the pending accesses it
releases. -/
structure BarRel where
  nb : Nat
  wave : Nat
  pends : List Nat
deriving DecidableEq, Repr

/-- How a group stands (spec/13 R339 R353). -/
inductive GroupState where
  | resident | saved | completed | cancelled | faulted
deriving DecidableEq, Repr

/-- Why a group's waves stop at their next bundle boundary: a cancel (spec/13 R341), a save or a flush (R351 R353). A
group that is drained runs on until it completes. -/
inductive Stopping where
  | cancel | save | flush | drain
deriving DecidableEq, Repr

/-- How a group ends whose waves have ended while accesses of theirs are still to be performed (spec/13 R335 R339 R341
R351). -/
inductive Ending where
  | cancelled
  | faulted (first : Option Rec)
  | flushed
deriving DecidableEq, Repr

/-! ### Engine commands of a core -/

/-- An interval of the range-overlap scoreboard (spec/08 R235): ACM rows or local bytes `[lo, hi)`, read or written. -/
structure Iv where
  acm : Bool
  lo : Nat
  hi : Nat
  wr : Bool
deriving DecidableEq, Repr

/-- What a queued command is: copy (spec/08 R221), queue fence with the entries it waits for (R222), hamper control
(spec/05 R151 R153), packet (spec/12 R313), matrix (spec/09 R249) and chain (spec/10 R282) commands. -/
inductive CmdOp where
  | copy
  | qfence (waits : List (Nat × Nat × Nat))
  | hpart | cinv | cflush
  | packet
  | mloadw | mswap | mstream | mdrain | mzero
  | ttstep | ttrun
deriving DecidableEq, Repr

/-- A queued command. -/
structure Cmd where
  /-- Issue order in the core (spec/07 R198). -/
  ord : Nat
  group : Nat
  wave : Nat
  /-- Pending instruction of the issuing wave. -/
  pend : Nat
  /-- Sequence number in its queue (R221 R233). -/
  seq : Nat
  op : CmdOp
  /-- The registers read at issue, and for a chain command bd0 to bd7 after them (spec/10 R282). -/
  desc : List Word
  /-- Intervals in the range-overlap scoreboard. -/
  ivs : List Iv
  started : Bool
  /-- Elements, rows or steps performed. -/
  done : Nat
  /-- Boundary rows of a chain (spec/10 R283), destination register of a command that writes one. -/
  rows : Nat
  dreg : Nat
  /-- First status other than 0 (Table 08.5). -/
  status : Nat
  /-- Waits for fault service (R231): the fault's cause and address. -/
  stop : Option (Nat × DWord)
  /-- Bits that a copy or a drain has written without a break or a mark up to its present element: a word that it has written
  whole loses its mark. For a chain command 1 while a step that has begun waits for service. -/
  run : Nat
  /-- Generator of a copy, sr.seed at the issue of a drain (spec/02 R59). -/
  gen : Word
  /-- Elements that have been read or computed and have not landed yet, with their poison marks: the rest of an export whose local
  reads are done (spec/08 R234), of a decompressed block, or of the outputs of a chain step (spec/07 R200). -/
  ahead : List (Nat × Bool) := []
  /-- The local address of the next output of a chain step. -/
  dest : Nat := 0
deriving DecidableEq, Repr

/-- The `QSTAT` word of one group and one queue selector (spec/08 R233). -/
structure QStat where
  group : Nat
  sel : Nat
  code : Nat
  halt : Bool
  ticket : Nat
deriving DecidableEq, Repr

/-! ### Matrix engine -/

inductive PlaneState where
  | empty | filling | full
deriving DecidableEq, Repr

/-- A weight plane (spec/09 R247 R248 R250): the format-slot record it was loaded with, KBLK, the weight image with
its scales, and the column and poison flags. -/
structure Plane where
  st : PlaneState
  fs : DWord
  kblk : Nat
  image : List Byte
  col : BitVec 128
  colP : BitVec 128
deriving DecidableEq, Repr

def Plane.empty : Plane := { st := .empty, fs := 0#64, kblk := 0, image := [], col := 0#128, colP := 0#128 }

/-- A row of ACM that is not all zero (spec/09 R254): 128 binary32 elements and their S and P bits. -/
structure AcmRow where
  row : Nat
  vals : List Word
  s : BitVec 128
  p : BitVec 128
deriving DecidableEq, Repr

/-! ### Gather unit -/

/-- The key of a gather request (spec/10 R271): address-space tag, TBASE and handle. -/
structure NKey where
  tag : Nat
  tbase : DWord
  handle : Nat
deriving DecidableEq, Repr

/-- A gather request (spec/10 R269 R271). -/
structure NReq where
  key : NKey
  group : Nat
  wave : Nat
  pend : Nat
  lane : Nat
  half : Bool
  inputs : List Word
  poison : Bool
  dreg : Nat
  /-- sr.ccycle at entry to the pool: its age counts from it. -/
  entry : Nat
  /-- The group's window at entry (R277). -/
  window : Nat
  eligible : Bool
  /-- Parked for fault service (R275). -/
  parked : Bool
  request : Option Nat
deriving DecidableEq, Repr

inductive TileStage where
  | fetching | evaluating | scattering
deriving DecidableEq, Repr

/-- The tile being worked on (spec/10 R271). -/
structure NTile where
  key : NKey
  stage : TileStage
  rows : List NReq
  desc : List Word
  /-- Rows whose results wait to be written: the request, the output words, the poison mark. -/
  results : List (NReq × List Word × Bool)
deriving DecidableEq, Repr

/-! ### Ray unit -/

inductive RayState where
  | traversing | faultWait | candidate
deriving DecidableEq, Repr

/-- A ray (spec/11 R293): origin in binary64, direction, interval, flags and context. -/
structure Ray where
  org : List DWord
  dir : List Word
  tmin : Word
  tmax : Word
  hdr : DWord
  flags : Word
  ctx : Word
deriving DecidableEq, Repr

/-- A committed hit or a candidate (spec/11 R294 R295). -/
structure Hit where
  t : Word
  u : Word
  v : Word
  prim : Word
  inst : Word
  geom : Word
  front : Bool
  hk : Byte
deriving DecidableEq, Repr

/-- A frame of spec/11 R288: origin and direction in f32, whether it is the top level of a two-level structure, and the
instance it belongs to (INST, IFLG); none for the top frame. -/
structure RayFrame where
  o : List Word
  d : List Word
  two : Bool
  inst : Option (Word × Byte)
deriving DecidableEq, Repr

/-- What the traversal still has to visit (spec/11 R294): the header, a node, or the records of a leaf from a given
one on. The entry value is the exact fraction `num / den`. -/
inductive RayTask where
  | header
  | node (fr : RayFrame) (va : Nat) (depth : Nat) (num : Int) (den : Nat)
  | leaf (fr : RayFrame) (kind va idx cnt : Nat) (num : Int) (den : Nat)
deriving DecidableEq, Repr

/-- A ray slot (spec/11 R296). -/
structure RaySlot where
  idx : Nat
  st : RayState
  group : Nat
  wave : Nat
  lane : Nat
  /-- The pending instruction whose block the next stop writes, and the block's first register. -/
  pend : Nat
  dreg : Nat
  ray : Ray
  hit : Option Hit
  /-- Candidate, and whether it is procedural. -/
  cand : Option (Hit × Bool)
  stack : List RayTask
  /-- The ray ends with TERM = 1 at its next stop: TERMINATE or TERMFIRST. -/
  term : Bool
  spilled : Bool
  lastUse : Nat
  request : Option Nat
deriving DecidableEq, Repr

/-- A group (spec/13 R342 R343). -/
structure Group where
  job : Nat
  launch : Nat
  gidx : Nat
  core : Nat
  slot : Nat
  part : Nat
  clmb : Nat
  acmb : Nat
  nbb : Nat
  state : GroupState
  waves : List Wave
  bars : List Barrier
  barRel : List BarRel
  /-- Waves retired (R339). -/
  retired : Nat
  /-- Progress count (spec/01 R19). -/
  progress : Nat
  /-- The waves stop at their next bundle boundary. -/
  stopping : Option Stopping
  /-- Its waves have ended: it waits for the accesses that they have issued. -/
  ending : Option Ending
  /-- Device time since which the group is resident, and of its first issue (R351). -/
  placed : Nat
  first : Option Nat
  /-- `NCFG` window (spec/10 R277). -/
  window : Nat
  /-- Network header: NCOUNT, INW, OUTW (spec/10 R265). -/
  net : Option (Nat × Nat × Nat)
  /-- Items still to hand out: tile, begin, end, flags word (spec/13 R346). -/
  items : List (Nat × Nat × Nat × Word)
  /-- Shared tiles received as non-owner and not yet done (R347). -/
  shared : List Nat
  /-- The first fault record of a group that ended on a fault (R335). -/
  faultRec : Option Rec
  /-- Debug: some wave is Debug parked (spec/15 R380). -/
  suspended : Bool
  /-- CLM and scratch bytes and scratch ways of a saved group (R354). -/
  savedClm : List Host.Cell
  savedClmP : List Nat
  savedScr : List Host.Cell
  savedScrP : List Nat
  savedWays : Nat
  /-- Its unfinished commands by queue selector, planes, ACM rows, gather requests and ray slots while saved (R354). -/
  savedCmds : List (Nat × Cmd)
  savedQstat : List QStat
  savedPlanes : Plane × Plane
  savedAcm : List AcmRow
  savedReqs : List NReq
  savedRays : List RaySlot
  /-- Save area (R342). -/
  save : Nat
  /-- Bytes that its copies have landed while it was saved, to be counted at restore: selector and sequence number of the command,
  object, bytes (spec/07 R214). -/
  owed : List (Nat × Nat × Nat × Nat) := []
deriving DecidableEq, Repr

/-! ### Debug block -/

/-- Watchpoint i of Table 15.1. -/
structure Watch where
  lo : DWord
  hi : DWord
  ctl : Word
deriving DecidableEq, Repr

/-- The debug window of a core and what the block keeps beside it (spec/15 R374 R376 R379 R381). -/
structure Debug where
  own : Bool
  mode : Bool
  scfg : Word
  sbase : DWord
  slog : Word
  shead : Word
  stail : Word
  dumpb : DWord
  sdrop : Word
  jrel : Word
  ovarr : Word
  slost : Word
  stops : List (List Word)
  watch : List Watch
  /-- Last sampled position of each partition (R376). -/
  rot : List (Option Nat)
  /-- sr.ccycle of the last sample cycle (R376). -/
  lastSample : Option Nat
  /-- Partitions frozen in all-stop mode, with the dump of the freeze (R381 R382). -/
  frozen : List (Option (List Byte))
deriving DecidableEq, Repr

def Debug.clear : Debug :=
  { own := false, mode := false, scfg := 0#32, sbase := 0#64, slog := 0#32, shead := 0#32, stail := 0#32,
    dumpb := 0#64, sdrop := 0#32, jrel := 0#32, ovarr := 0#32, slost := 0#32, stops := [],
    watch := List.replicate 8 { lo := 0#64, hi := 0#64, ctl := 0#32 }, rot := List.replicate 4 none,
    lastSample := none, frozen := List.replicate 4 none }

/-! ### Cores -/

/-- A bundle held by the instruction caches (spec/13 R361, spec/15 R375). -/
structure Line where
  tag : Nat
  va : DWord
  words : List Word
deriving DecidableEq, Repr

/-- Physical memory as instruction fetch sees it (spec/15 R375): the bytes and the poison marks as they stood at one
moment. -/
structure CodeView where
  mem : List Host.Cell
  memP : List Nat
deriving DecidableEq, Repr

/-- A logical core (spec/00 R2 R6). -/
structure Core where
  ccycle : DWord
  /-- Sixteen bind records of eight words (spec/13 R342). -/
  binds : List (List Word)
  clm : List Host.Cell
  clmP : List Nat
  scr : List Host.Cell
  scrP : List Nat
  /-- Scratch ways of the hamper and the group that holds them (spec/05 R148 R150). -/
  ways : Nat
  holder : Option Nat
  icache : List Line
  /-- Launch last placed on the core (spec/15 R375). -/
  lastLaunch : Option Nat
  /-- What a fetch that misses the caches reads: memory as it stood when the caches were last invalidated; none before
  that (spec/15 R375). -/
  code : Option CodeView
  /-- Pages (address-space tag and number of 16 KiB) on which a fetch has waited for fault service since then, each with
  memory as it stood at its first fetch after the service (assumption 13). -/
  late : List (Nat × Nat × Option CodeView)
  /-- Copy queues cq0 to cq3, the matrix queue, the hamper control queue: selectors 0 to 5 of R233; then the core's
  commands at its packet unit. -/
  queues : List (List Cmd)
  seqs : List Nat
  qstat : List QStat
  nextOrd : Nat
  active : Plane
  shadow : Plane
  acm : List AcmRow
  pool : List NReq
  tile : Option NTile
  dcache : List (NKey × List Word)
  rays : List RaySlot
  /-- Round-robin pointer of the mangle (spec/08 R237). -/
  mangle : Nat
  dbg : Debug
  /-- Temperature sample in thousandths of a degree, refresh class, since when below the fall threshold, clock held
  (spec/14 R369). -/
  temp : Int
  rclass : Nat
  below : Option Nat
  held : Bool
  /-- Refresh takes more than the commitments leave: the target falls each millisecond until the class does (spec/14 R372). -/
  slowed : Bool
  /-- Firmware has decided to retire the core (spec/16 R391). -/
  retiring : Bool
deriving DecidableEq, Repr

/-- A core after power-on: nothing bound, nothing held (spec/13 R342, spec/15 R374). sr.ccycle, the temperature sample
and the class have no reset value of the manual's: zero (DESIGN CHOICE, assumption 2). -/
def Core.reset : Core :=
  { ccycle := 0#64, binds := List.replicate 16 (List.replicate 8 0#32), clm := [], clmP := [], scr := [], scrP := [],
    ways := 0, holder := none, icache := [], lastLaunch := none, code := none, late := [], queues := List.replicate 7 [],
    seqs := List.replicate 7 0, qstat := [], nextOrd := 0, active := Plane.empty, shadow := Plane.empty, acm := [],
    pool := [], tile := none, dcache := [], rays := [], mangle := 0, dbg := Debug.clear, temp := 0, rclass := 0,
    below := none, held := false, slowed := false, retiring := false }

/-! ### Jobs, queues, launches -/

/-- A job (spec/13 R331, spec/16 R387). -/
structure Job where
  live : Bool
  tag : Nat
  root : Nat
  wtab : Nat
  qtab : Nat
  qcount : Nat
  saveb : Nat
  savel : Nat
  key : Word
  /-- Physical frame of the job's die-table copy. -/
  frame : Nat
  /-- Queue entries completed (spec/13 R339). -/
  counter : Word
  /-- A JOB_DESTROY waits for the job's work to end: port and tag of its request (spec/16 R387). -/
  ending : Option (Nat × Word)
deriving DecidableEq, Repr

/-- State of a queue entry that the device has taken (spec/13 R334). -/
inductive EntState where
  | waiting | started | done
deriving DecidableEq, Repr

/-- A taken queue entry that has not completed. -/
structure Taken where
  index : Nat
  kind : Nat
  after : Bool
  words : List Word
  st : EntState
  /-- The launch, graph or stream it started. -/
  ref : Nat
  /-- Device time at which a WAIT times out; 0 for none. -/
  deadline : Nat
deriving DecidableEq, Repr

/-- A completion that is not yet written: words w0 to w7 of spec/13 R335, PH excepted. -/
structure Comp where
  words : List Word
deriving DecidableEq, Repr

/-- Queue q of the device: the job it belongs to and its index in the job's queue table, where its context lies
(spec/13 R331 Table 13.1), the entries taken and the completions to write. -/
structure Queue where
  num : Nat
  job : Nat
  idx : Nat
  taken : List Taken
  comps : List Comp
deriving DecidableEq, Repr

/-- A launch (spec/13 R336 to R339). -/
structure Launch where
  job : Nat
  /-- The sixty-four words of the launch record. -/
  words : List Word
  /-- Queue and entry index, or graph and node. -/
  queue : Nat
  index : Nat
  graph : Option (Nat × Nat)
  /-- Physical address of firmware's copy of the record (R342). -/
  lrec : Nat
  /-- The column set: the allocation number of each core (R336), as admission read it. -/
  csetNums : List Nat
  /-- Groups never placed yet: the next group index; groups flushed or unplaced again. -/
  next : Nat
  again : List Nat
  completed : Word
  /-- Groups whose binding the host has refused: no new request until some group leaves (R363). -/
  bindRefused : List Nat
  cancelled : Bool
  faulted : Option Rec
  anyCancelled : Bool
  ended : Bool
  /-- Tree context (spec/07 R215). -/
  tree : Option Nat
  /-- Sum of refresh charges in µs, a fraction (spec/14 R372). -/
  charge : Nat × Nat
deriving DecidableEq, Repr

inductive NodeState where
  | waiting | running | ok | failed | dropped
deriving DecidableEq, Repr

/-- A graph (spec/13 R338). -/
structure Graph where
  job : Nat
  queue : Nat
  index : Nat
  id : Word
  nodes : Nat
  base : DWord
  states : List NodeState
  counter : Word
  status : Nat
  ended : Bool
  /-- The first fault record of its nodes (R335). -/
  first : Option Rec := none
deriving DecidableEq, Repr

/-- Members of a host-assisted request (spec/13 R363): parked lanes of a wave, gather requests, ray slots, a copy or matrix
command, a group to bind, a victim, a refit list, the repair replay. -/
inductive ReqBody where
  | wave (g w : Nat)
  | gather (core : Nat)
  | ray (core : Nat)
  | command (g w pend : Nat)
  | bind (launch gidx : Nat)
  | preempt (victim requester allowed : Nat)
  | refit (die : Nat)
  | repair
deriving DecidableEq, Repr

/-- An outstanding request. -/
structure Request where
  id : Nat
  typ : Nat
  job : Nat
  body : ReqBody
  /-- Body in the save pool: offset and bytes. -/
  off : Nat
  len : Nat
  /-- Hardware mode: firmware serves it (spec/13 R362). -/
  hw : Bool
  /-- The fault records that it carries. -/
  recs : List Rec
deriving DecidableEq, Repr

/-! ### Device units -/

/-- A phase-tree context (spec/07 R215). -/
structure Tree where
  owner : Option Nat
  tph : BitVec 16
  armed : Bool
  rld : List Nat
  cnt0 : List Nat
  cnt1 : List Nat
deriving DecidableEq, Repr

def Tree.empty : Tree :=
  { owner := none, tph := 0#16, armed := false, rld := List.replicate 112 0, cnt0 := List.replicate 112 0,
    cnt1 := List.replicate 112 0 }

/-- A triangle of a packet (spec/12 R315): snapped vertices, depths, TID, rectangle. -/
structure Tri where
  x : List Int
  y : List Int
  z : List Word
  tid : Nat
  rxlo : Nat
  rxhi : Nat
  rylo : Nat
  ryhi : Nat
deriving DecidableEq, Repr

/-- A visibility packet (spec/12 R315 Table 12.5). -/
structure Packet where
  seq : Nat
  mesh : Nat
  gdie : Nat
  tris : List Tri
  bytes : Nat
  /-- Where it lies in the spill area, when it is not in the die's own buffer (R319). -/
  spill : Option Nat := none
deriving DecidableEq, Repr

/-- What a region-crossbar path carries: a packet, or a closing token (none is Closed). -/
inductive XBody where
  | packet (p : Packet)
  | token (t : Option Nat)
deriving DecidableEq, Repr

structure XMsg where
  stream : Nat
  gdie : Nat
  sdie : Nat
  body : XBody
deriving DecidableEq, Repr

/-- A candidate of the reprojection: where it lands, depth, upper word of its sample (spec/12 R324). -/
structure Cand where
  x : Nat
  y : Nat
  zn : Nat
  hi : Nat
deriving DecidableEq, Repr

/-- What one shading die keeps for a stream (spec/12 R318 R319 R324): `spilled` is the bytes of its packets in the spill area. -/
structure DieFrame where
  tokens : List (Option Nat)
  pkts : List Packet
  spilled : Nat
  ready : Bool
deriving DecidableEq, Repr

/-- A packet stream (spec/12 R309). -/
structure Stream where
  isOpen : Bool
  job : Nat
  queue : Nat
  index : Nat
  words : List Word
  map : List Byte
  tokens : List (Option Nat)
  dies : List DieFrame
  fault : Bool
  late : Nat
  drop : Nat
  /-- Holes that the reprojection of the frame has found. -/
  holes : Nat
  rdone : Bool
  /-- The candidates of every die, once they are sent (R324). -/
  sent : Option (List Cand) := none
deriving DecidableEq, Repr

def Stream.idle : Stream :=
  { isOpen := false, job := 0, queue := 0, index := 0, words := [], map := [], tokens := [], dies := [], fault := false,
    late := 0, drop := 0, holes := 0, rdone := false }

/-- A command in a geometry die's packet unit (spec/12 R314 R316); `final` once a FINAL token is sent. -/
structure GCmd where
  gdie : Nat
  group : Nat
  wave : Nat
  pend : Nat
  dreg : Nat
  close : Bool
  words : List Word
  final : Bool
  /-- The frame of a final token has ended, with this status. -/
  result : Option Nat
deriving DecidableEq, Repr

/-- A refit command of a memory die (spec/11 R305 R306). -/
structure Refit where
  die : Nat
  job : Nat
  group : Nat
  wave : Nat
  pend : Nat
  dreg : Nat
  words : List Word
  started : Bool
  /-- Next node to examine for EXPECT = 0; nodes whose last child has arrived. -/
  next : Nat
  ready : List Nat
  boxes : List (Nat × List Word)
  flagged : List Nat
  rootDone : Bool
  status : Nat
  /-- The fault-service request that the engine waits for. -/
  request : Option Nat
deriving DecidableEq, Repr

/-- A reduction in a write queue (spec/06 R178 R179). -/
structure RedEnt where
  /-- Number of the aligned 4-byte word that it reduces. -/
  word : Nat
  f : Nat
  data : Word
  /-- The groups whose reductions it carries, for their completion (spec/13 R340). -/
  groups : List Nat := []
deriving DecidableEq, Repr

/-- The same for a word of a host-window line: the peer, and the number of the word in its memory. -/
structure HostRed where
  peer : Nat
  word : Nat
  f : Nat
  data : Word
  groups : List Nat
deriving DecidableEq, Repr

/-- A host-window line held by the LLC (spec/06 R176): its queue pair and port, the remote key it was filled with, bytes and
which are dirty, numbers of the aligned 8-byte words that carry the poison mark. -/
structure HostLine where
  peer : Nat
  key : Word := 0#32
  line : Nat
  bytes : List (Nat × Byte × Bool)
  marks : List Nat := []
deriving DecidableEq, Repr

/-- Where a translation is cached (spec/06 R172): the L1 of a partition, or the L2 of a core. -/
inductive TlbAt where
  | l1 (core part : Nat)
  | l2 (core : Nat)
deriving DecidableEq, Repr

/-- A cached translation (spec/06 R172): tag, first address and size of the page, leaf entry. -/
structure Tlb where
  place : TlbAt
  tag : Nat
  base : Nat
  size : Nat
  leaf : DWord
  /-- Physical address of the leaf entry. -/
  at_ : Nat
deriving DecidableEq, Repr

/-- A table entry in the page-walk cache of a die (spec/06 R172): the level of the table that it names, the first address of
the range that this table maps, the table's address. -/
structure WalkEnt where
  die : Nat
  tag : Nat
  lvl : Nat
  base : Nat
  table : Nat
deriving DecidableEq, Repr

/-- Lanes of a wave, as parties that read copies: launch, group index, wave, lanes. -/
structure Reader where
  launch : Nat
  gidx : Nat
  wave : Nat
  lanes : Mask
deriving DecidableEq, Repr

/-- A hamper copy of a line from which lanes of the core may still read an older value: a line of an Open frame (spec/12
R322), or another line that plain loads read (spec/07 R192 R195). `marks` are its poisoned words; `hidden` are the lanes that
may not read it, since they have acquired or have seen newer bytes of it. -/
structure HCopy where
  core : Nat
  line : Nat
  bytes : List Byte
  marks : List Nat
  frame : Bool
  hidden : List Reader := []
deriving DecidableEq, Repr

/-- A column allocation (spec/05 R154, spec/16 R387). -/
structure ColAlloc where
  num : Nat
  job : Nat
  core : Nat
  base : Nat
  units : Nat
deriving DecidableEq, Repr

inductive ColState where
  | notReady | replaying | ready
deriving DecidableEq, Repr

/-- An entry of the die table (spec/16 R390). -/
structure Die where
  pres : Bool
  kind : Nat
  pos : Nat
  en : BitVec 13
  spr : Nat
  ret : Nat
  rpr : Nat
deriving DecidableEq, Repr

/-- The product mixes (spec/00 R3). -/
inductive Mix where
  | g2s8m4 | g1s4m2 | g0s8m4
deriving DecidableEq, Repr

/-- Boot state (spec/16 R388 R389 R394). -/
inductive Boot where
  | off
  | rom
  | requesting (reason : Nat)
  | receiving (host len : Nat) (store : Bool) (got : List Byte) (last : Nat)
  /-- The verified image is being written to the NOR. -/
  | storing (img : List Byte)
  | running
deriving DecidableEq, Repr

/-- A message that the device has sent to an outside party. -/
inductive Out where
  /-- Boot datagram (spec/16 R389): port, source and destination address, the two words of its header, the value in its
  body. -/
  | boot (port src dst : Nat) (hdr : List Word) (val : Nat)
  /-- Reply of the service protocol (R387): port, header words, body. -/
  | service (port : Nat) (hdr : List Word) (body : List Byte)
  /-- RDMA WRITE to a host or a peer: queue pair, port, key, address, bytes (spec/08 R230, spec/13 R335). -/
  | write (qpn port : Nat) (key : Word) (addr : Nat) (bytes : List Byte)
  /-- RDMA READ of a host window: queue pair, port, key, address, length (spec/06 R176). -/
  | read (qpn port : Nat) (key : Word) (addr len : Nat)
  /-- Data returned to an RDMA READ (R384). -/
  | readReply (port : Nat) (bytes : List Byte)
  | nak (port : Nat)
deriving DecidableEq, Repr

/-- Corrected and poisoned counts of a unit kind of a die (spec/16 R396). -/
structure ErrCount where
  die : Nat
  kind : Nat
  corrected : Nat
  poisoned : Nat
deriving DecidableEq, Repr

/-- A record of a die's error ring (spec/16 R396): unit, address, time, type (0 corrected, 1 poisoned, 2 link). -/
structure ErrRec where
  die : Nat
  unit : Nat
  addr : Nat
  time : Nat
  typ : Nat
deriving DecidableEq, Repr

/-! ### Issue context and agenda -/

/-- What an instruction is issued for: the wave, the split (an index of the split table; 64 is the trap entry), the
bundle and the slot, the literal that follows. The model's own. -/
structure Cur where
  g : Nat
  w : Nat
  sp : Nat
  pc : DWord
  slot : Nat
  words : List Word
  lit : Option Word
  insn : Word
deriving DecidableEq, Repr

/-- An error that ECC finds where the manual gives the word its marks: a register element (spec/03 R78), a word of CLM or
scratch (spec/05 R146), of GDDR7, a column, the LLC or a hamper's copy (spec/06 R180), an element of ACM (spec/09 R254); or
one that is corrected, which is counted only (R396). -/
inductive Upset where
  | laneReg (g w reg lane : Nat)
  | uniReg (g w reg : Nat)
  | clm (core addr : Nat)
  | scratch (core addr : Nat)
  | phys (addr : Nat)
  | host (peer addr : Nat)
  | copy (core addr : Nat)
  | acm (core row col : Nat)
  | corrected (die unit addr : Nat)
deriving DecidableEq, Repr

/-- What acts next (assumption 3): an event of the opcode table, an issue opportunity of a partition, time that passes
(ns, core cycles), an error found by ECC, a write of the host to its own memory behind a window, a copy of a line that a
hamper takes, an element of a unit that firmware replaces by a spare (spec/16 R391: the entry's TYPE, die, unit and failed
element), a die whose replay fails (R390), or a NAK for the remote copy at the head of a queue (spec/08 R230). The model's
own. -/
inductive Turn where
  | event (i : Instr)
  | issue (core part : Nat)
  | elapse (ns cycles : Nat)
  | upset (u : Upset)
  | hostWrites (peer addr : Nat) (bytes : List Byte)
  | share (core pa : Nat)
  | repair (typ die unit failed : Nat)
  | replayFails (die : Nat)
  | remoteNak (core q : Nat)
deriving DecidableEq, Repr

/-! ### The state -/

/-- The state of the device. -/
structure State where
  /-- Physical memory: addresses strictly rising, no byte equal to 0, which an unlisted address reads as
  (assumption 1). -/
  mem : List Host.Cell
  /-- Numbers of the aligned 8-byte words of physical memory that carry the poison mark (spec/06 R180). -/
  memP : List Nat
  mix : Mix
  boot : Boot
  norImage : List Byte
  journal : List (List Word)
  chain : List Byte
  fuses : List (List Word)
  rowset : List (List Word)
  softRepair : List (List Word)
  fwImage : List Byte
  dies : List Die
  cfg : List Word
  dtime : DWord
  columns : List ColState
  colAllocs : List ColAlloc
  jobs : List Job
  queues : List Queue
  launches : List Launch
  graphs : List Graph
  groups : List Group
  requests : List Request
  nextReq : Nat
  /-- Next offset of the device service area (spec/13 R363). -/
  svcOff : Nat
  trees : List Tree
  streams : List Stream
  xbar : List XMsg
  gcmds : List GCmd
  refits : List Refit
  redQueue : List RedEnt
  hostReds : List HostRed
  llcHost : List HostLine
  hostMem : List (Nat × Nat × Byte)
  /-- Words behind host windows that a write-back left poisoned at their home (R394): queue pair and port, word. -/
  hostMemP : List (Nat × Nat)
  tlb : List Tlb
  walks : List WalkEnt
  hcopies : List HCopy
  qpRates : List (Nat × Nat)
  rates : List Nat
  secured : List Bool
  errCounts : List ErrCount
  errRing : List ErrRec
  errLost : List (Nat × Nat)
  /-- Corrected errors of a unit within the last second: die, unit, times; and the units whose repair firmware has scheduled
  (spec/16 R396). -/
  corrected : List (Nat × Nat × List Nat)
  repairDue : List (Nat × Nat)
  /-- Repairs found during a replay, which are appended after it (R393). -/
  found : List (List Word)
  /-- A DARN_APPLY that is answered once the replay is verified: port, word w0 and tag (spec/16 R387). -/
  darnReply : Option (Nat × Word × Word)
  clocks : List (Nat × Nat)
  powerLimit : Nat
  powerLog : List Nat
  /-- Measurements in a row whose mean stayed 5% below the limit (spec/14 R373). -/
  powerLow : Nat
  cores : List Core
  outbox : List Out
  agenda : List Turn
  tick : Nat
  free : Nat
  cur : Option Cur
  /-- The last issue could not take place yet: why the instruction waits (spec/03 R97 to R101, spec/15 Table 15.3). The
  model's own. -/
  stalled : Option Nat
deriving DecidableEq, Repr

/-- The machine right after power came on (spec/16 R388): the ROM has not begun. Registers that the manual gives a reset
value hold it; the NOR, the fuses and the row-sets are empty (DESIGN CHOICE, assumption 5); memory lists nothing
(assumption 1); `free`, `tick`, `agenda` and `cur` are the model's own (assumptions 3 and 6). -/
def State.reset : State :=
  { mem := [], memP := [], mix := .g2s8m4, boot := .rom, norImage := [], journal := [], chain := [], fuses := [],
    rowset := [], softRepair := [], fwImage := [],
    dies := List.replicate 32 { pres := false, kind := 0, pos := 0, en := 0#13, spr := 0, ret := 0, rpr := 0 },
    cfg := List.replicate 1024 0#32, dtime := 0#64, columns := List.replicate 96 .notReady, colAllocs := [],
    jobs := [], queues := [], launches := [], graphs := [], groups := [], requests := [], nextReq := 0, svcOff := 0,
    trees := List.replicate 8 Tree.empty, streams := List.replicate 16 Stream.idle, xbar := [], gcmds := [],
    refits := [], redQueue := [], hostReds := [], llcHost := [], hostMem := [], hostMemP := [], tlb := [], walks := [], hcopies := [], qpRates := [],
    rates := [0, 0], secured := [false, false], errCounts := [], errRing := [], errLost := [], corrected := [], repairDue := [],
    found := [], darnReply := none, clocks := [],
    powerLimit := 2800, powerLog := [], powerLow := 0, cores := List.replicate 112 Core.reset, outbox := [],
    agenda := [], tick := 0, free := 0, cur := none,
    stalled := none }

end Sys2Proof.Machine
end

