-- ==== Sys2Proof/Machine/Bytes.lean ====
section
/-! DEFINITION. Byte stores in canonical form, and the little-endian reads and writes on them (spec/00 R11). A byte store
lists the bytes that are not 0 with their addresses strictly rising; every other byte reads 0 (assumption 1). -/

namespace Sys2Proof.Machine

/-- The byte at an address. -/
def cellRead : List Host.Cell → Nat → Byte
  | [], _ => 0#8
  | (k, v) :: t, a => if a < k then 0#8 else if a = k then v else cellRead t a

/-- Store one byte: a zero removes the entry, so that equal contents are equal lists. -/
def cellWrite : List Host.Cell → Nat → Byte → List Host.Cell
  | [], a, b => if b = 0#8 then [] else [(a, b)]
  | (k, v) :: t, a, b =>
    if a < k then (if b = 0#8 then (k, v) :: t else (a, b) :: (k, v) :: t)
    else if a = k then (if b = 0#8 then t else (a, b) :: t)
    else (k, v) :: cellWrite t a b

/-- Every address is above `lo` and addresses rise; no listed byte is 0. -/
def cellsFrom : Option Nat → List Host.Cell → Bool
  | _, [] => true
  | lo, (k, v) :: t => (match lo with | none => true | some l => decide (l < k)) && v != 0#8 && cellsFrom (some k) t

/-- The canonical form of a byte store. -/
def Memory.wf (m : List Host.Cell) : Bool := cellsFrom none m

/-- `n` bytes from `a`. -/
def cellBytes (m : List Host.Cell) (a : Nat) : Nat → List Byte
  | 0 => []
  | n + 1 => cellRead m a :: cellBytes m (a + 1) n

/-- Store bytes from `a` upward. -/
def cellWrites (m : List Host.Cell) (a : Nat) : List Byte → List Host.Cell
  | [] => m
  | b :: t => cellWrites (cellWrite m a b) (a + 1) t

/-- The number of little-endian bytes. -/
def leNat : List Byte → Nat
  | [] => 0
  | b :: t => b.toNat + 256 * leNat t

/-- The `n` little-endian bytes of a number. -/
def leBytes : Nat → Nat → List Byte
  | 0, _ => []
  | n + 1, x => BitVec.ofNat 8 x :: leBytes n (x / 256)

/-- Remove the bytes of [lo, hi). -/
def cellClear (m : List Host.Cell) (lo hi : Nat) : List Host.Cell := m.filter (fun c => c.1 < lo || hi ≤ c.1)

/-- The bytes of [lo, hi), at their own addresses. -/
def cellPart (m : List Host.Cell) (lo hi : Nat) : List Host.Cell := m.filter (fun c => lo ≤ c.1 && c.1 < hi)

/-- Put a part back, moved by `d`. -/
def cellRestore (m part : List Host.Cell) (d : Int) : List Host.Cell :=
  part.foldl (fun m c => cellWrite m ((c.1 : Int) + d).toNat c.2) m

/-- The 32-bit words of a byte list. -/
def leWords : Nat → List Byte → List Word
  | 0, _ => []
  | n + 1, l => BitVec.ofNat 32 (leNat (l.take 4)) :: leWords n (l.drop 4)

/-- A bit of a little-endian bit stream over the bytes (spec/02 R57). -/
def bitRead (m : List Host.Cell) (bit : Nat) : Bool := (cellRead m (bit / 8)).getLsbD (bit % 8)

/-- `w` bits from bit `t`. -/
def bitsAt (m : List Host.Cell) (t w : Nat) : Nat :=
  leNat (cellBytes m (t / 8) ((t % 8 + w + 7) / 8)) / 2 ^ (t % 8) % 2 ^ w

/-- Store `w` bits at bit `t`, leaving every other bit (spec/02 R57, spec/07 R200). -/
def bitsWrite (m : List Host.Cell) (t w x : Nat) : List Host.Cell :=
  let n := (t % 8 + w + 7) / 8
  let old := leNat (cellBytes m (t / 8) n)
  let lo := old % 2 ^ (t % 8)
  let hi := old / 2 ^ (t % 8 + w)
  cellWrites m (t / 8) (leBytes n (lo + 2 ^ (t % 8) * (x % 2 ^ w) + 2 ^ (t % 8 + w) * hi))

end Sys2Proof.Machine
end

