-- ==== Sys2Proof/Config.lean ====
section
/-! DEFINITION. What an implementation fixes and the manual leaves open. Every constant below is `opaque` and has no
body: nothing in Lean can evaluate it, so a theorem about the machine holds whatever it is. -/

namespace Sys2Proof.Config

/-- Free value number `n`: a choice the manual leaves to the device or its firmware (which tag, key, frame or
allocation number is handed out; assumption 6). `n` is the counter `State.free`, advanced at every draw. -/
opaque freeNat : Nat → Nat

/-- Free choice number `n` between two behaviours the manual allows (whether a cached translation is used, spec/06
R172 R173; assumption 8). -/
opaque freeBit : Nat → Bool

/-- Device time, in ns, that passes at step `n` (assumption 7). -/
opaque elapsedNs : Nat → Nat

/-- Core cycles, beyond the one of the issue itself, that pass at step `n` (assumption 7). -/
opaque elapsedCycles : Nat → Nat

/-- The bits that the binary32 approximating function `fn` (0 RCP, 1 RSQ, 3 LOG2, 4 EXP2, 5 SIN, 6 COS, 7 TANH) returns
for an input: "not published", a fixed function of the input (spec/04 R134; assumption 5). The machine holds it to
the bound of R134. -/
opaque approx32 : Nat → Word → Word

/-- The bits DRCP returns for an input, as `approx32` (spec/04 R134). -/
opaque approx64 : DWord → DWord

/-- Whether a signature over a digest verifies with the vendor public key whose digest is fused (spec/16 R388): the key is
not published (assumption 11). -/
opaque mldsaVerify : List Byte → List Byte → Bool

/-- MAC address of a port (spec/16 R389), which the manual does not give (assumption 29). -/
opaque mac : Nat → BitVec 48

/-- Whether a die of the mix answers at its bond port when the base die probes it (spec/16 R390; assumption 28). -/
opaque bonded : Nat → Bool

/-- The signature of the identity key over the first 320 bytes of a report (spec/16 R398), of which the machine takes 4,627
bytes: the key is not published (assumption 11). -/
opaque mldsaSign : List Byte → List Byte

/-- DBASE, DKEY, BWKEY and BWBASE as firmware sets them at boot (spec/16 R386; assumption 2). -/
opaque dbase : DWord
opaque dkey : Word
opaque bwkey : Word
opaque bwbase : DWord

end Sys2Proof.Config
end

