-- ==== Sys2Proof/Machine/Flags.lean ====
section
/-! DEFINITION. The flags that arithmetic raises, and how an instruction adds them to sr.sticky (spec/01 R36, spec/04
R139 R140). -/

namespace Sys2Proof.Machine

/-- No flag. -/
def Flags.none : Flags := { inv := false, ovf := false, unf := false, inx := false, sat := false }

def Flags.invalid : Flags := { Flags.none with inv := true }

/-- INV when `b`. -/
def Flags.ofInv (b : Bool) : Flags := { Flags.none with inv := b }

def Flags.ofSat (b : Bool) : Flags := { Flags.none with sat := b }

/-- The flags of several elements or lanes together (spec/04 R120). -/
def Flags.union (x y : Flags) : Flags :=
  { inv := x.inv || y.inv, ovf := x.ovf || y.ovf, unf := x.unf || y.unf, inx := x.inx || y.inx,
    sat := x.sat || y.sat }

def Flags.unions (l : List Flags) : Flags := l.foldl Flags.union Flags.none

/-- The four IEEE flags in the order of sr.sticky, of the FPF field and of the trap enables (R36 R181). -/
def Flags.ieee (x : Flags) : BitVec 4 :=
  BitVec.ofBool x.inx ++ BitVec.ofBool x.unf ++ BitVec.ofBool x.ovf ++ BitVec.ofBool x.inv

/-- Bits [4:0] of sr.sticky. -/
def Flags.bits (x : Flags) : Word := (BitVec.ofBool x.sat ++ x.ieee).setWidth 32

/-- Some flag whose enable in sr.fpmode is set (R140). -/
def Flags.traps (x : Flags) (fpmode : Word) : Bool := x.ieee &&& fpmode.extractLsb' 8 4 != 0#4

def stickyJBRK : Word := 0x20#32
def stickyLBR : Word := 0x40#32

end Sys2Proof.Machine
end

