-- ==== Sys2Proof/Machine/Num.lean ====
section
/-! DEFINITION. Numbers: element formats, rounding, narrowing and widening (spec/02), IEEE 754 arithmetic (spec/04 R117
to R129) and the special functions (R134 R135), all computed exactly on dyadic numbers and rounded once. -/

namespace Sys2Proof.Machine

/-! ### Exact numbers -/

/-- The number (-1)^neg × man × 2^exp. -/
structure Dy where
  neg : Bool
  man : Nat
  exp : Int
deriving DecidableEq, Repr

def Dy.zero (neg : Bool) : Dy := { neg := neg, man := 0, exp := 0 }

/-- The signed integer of a dyadic number in units of 2^e, exact for `e ≤ exp`. -/
def Dy.int (x : Dy) (e : Int) : Int :=
  let m : Int := x.man * 2 ^ (x.exp - e).toNat
  if x.neg then -m else m

def Dy.ofInt (z : Int) (e : Int) : Dy := { neg := decide (z < 0), man := z.natAbs, exp := e }

/-- Exact sum; a zero sum is +0 here, its sign is the caller's. -/
def Dy.add (x y : Dy) : Dy :=
  let e := min x.exp y.exp
  Dy.ofInt (x.int e + y.int e) e

def Dy.mul (x y : Dy) : Dy := { neg := x.neg != y.neg, man := x.man * y.man, exp := x.exp + y.exp }

def Dy.negate (x : Dy) : Dy := { x with neg := !x.neg }

def Dy.abs (x : Dy) : Dy := { x with neg := false }

/-- Exact comparison. -/
def Dy.lt (x y : Dy) : Bool := let e := min x.exp y.exp; decide (x.int e < y.int e)
def Dy.le (x y : Dy) : Bool := !(y.lt x)
def Dy.eq (x y : Dy) : Bool := !(x.lt y) && !(y.lt x)

/-- floor(log2 |x|) of a nonzero number. -/
def Dy.log2 (x : Dy) : Int := (Nat.log2 x.man : Int) + x.exp

/-- Multiply by 2^k. -/
def Dy.scale (x : Dy) (k : Int) : Dy := { x with exp := x.exp + k }

/-- Integer square root by Newton's method from above; `fuel` iterations suffice for operands below 2^fuel. -/
def isqrtAux (n : Nat) : Nat → Nat → Nat
  | 0, x => x
  | fuel + 1, x =>
    let y := (x + n / x) / 2
    if y < x then isqrtAux n fuel y else x

def isqrt (n : Nat) : Nat := if n = 0 then 0 else isqrtAux n (n.log2 + 4) (2 ^ (n.log2 / 2 + 1))

/-- A dyadic number that rounds, in every mode and format of at most 60 fraction bits, as |n/d| does: a quotient of at
least 70 bits with a sticky bit below it. -/
def Dy.quot (neg : Bool) (n d : Nat) : Dy :=
  let k := 70 + d.log2 + 1
  let q := n * 2 ^ k / d
  { neg := neg, man := q * 2 + (if n * 2 ^ k % d = 0 then 0 else 1), exp := -(k : Int) - 1 }

/-- x / y for nonzero y. -/
def Dy.div (x y : Dy) : Dy := (Dy.quot (x.neg != y.neg) x.man y.man).scale (x.exp - y.exp)

/-- The square root of a positive number, with a sticky bit. -/
def Dy.sqrt (x : Dy) : Dy :=
  let odd := x.exp % 2 != 0
  let m := (if odd then x.man * 2 else x.man) * 2 ^ 140
  let e := ((if odd then x.exp - 1 else x.exp) - 140) / 2
  let r := isqrt m
  { neg := false, man := r * 2 + (if r * r = m then 0 else 1), exp := e - 1 }

/-! ### Formats -/

/-- How a floating-point format uses its top exponent (spec/02 R53). -/
inductive TopExp where
  | ieee | e4m3 | numbers
deriving DecidableEq, Repr

/-- A floating-point format: exponent bits, mantissa bits, bias. -/
structure Fmt where
  ebits : Nat
  mbits : Nat
  bias : Nat
  top : TopExp
deriving DecidableEq, Repr

def f32 : Fmt := { ebits := 8, mbits := 23, bias := 127, top := .ieee }
def f64 : Fmt := { ebits := 11, mbits := 52, bias := 1023, top := .ieee }
def f16 : Fmt := { ebits := 5, mbits := 10, bias := 15, top := .ieee }
def bf16 : Fmt := { ebits := 8, mbits := 7, bias := 127, top := .ieee }
def e4m3 : Fmt := { ebits := 4, mbits := 3, bias := 7, top := .e4m3 }
def e5m2 : Fmt := { ebits := 5, mbits := 2, bias := 15, top := .ieee }
def e3m2 : Fmt := { ebits := 3, mbits := 2, bias := 3, top := .numbers }
def e2m3 : Fmt := { ebits := 2, mbits := 3, bias := 1, top := .numbers }
def e2m1 : Fmt := { ebits := 2, mbits := 1, bias := 1, top := .numbers }

def Fmt.bits (F : Fmt) : Nat := 1 + F.ebits + F.mbits

/-- Exponent of the smallest normal. -/
def Fmt.emin (F : Fmt) : Int := 1 - F.bias

/-- Largest finite encoding without its sign. -/
def Fmt.maxEnc (F : Fmt) : Nat :=
  match F.top with
  | .ieee => (2 ^ F.ebits - 1) * 2 ^ F.mbits - 1
  | .e4m3 => 0x7E
  | .numbers => 2 ^ (F.ebits + F.mbits) - 1

/-- The infinity of an IEEE format without its sign. -/
def Fmt.infEnc (F : Fmt) : Nat := (2 ^ F.ebits - 1) * 2 ^ F.mbits

/-- The canonical NaN (spec/02 R54 R61, spec/04 R118 R120). -/
def Fmt.nanEnc (F : Fmt) : Nat :=
  match F.top with
  | .ieee => if F.mbits = 2 then 0x7E else F.infEnc + 2 ^ (F.mbits - 1)
  | .e4m3 => 0x7F
  | .numbers => F.maxEnc

/-- Put a sign on an encoding. -/
def Fmt.signed (F : Fmt) (neg : Bool) (enc : Nat) : Nat := if neg then enc + 2 ^ (F.ebits + F.mbits) else enc

/-- What an encoding stands for. -/
inductive Fp where
  | nan (signaling : Bool)
  | inf (neg : Bool)
  | fin (x : Dy)
deriving DecidableEq, Repr

/-- The value of an encoding (R53). For e4m3 0x7C and 0x7D this is 384 and 416, as the formula of R53 has them, where Table 02.2
lists 320 and 352 (DEDUCED, assumption 61). A NaN is signaling when the top mantissa bit of an IEEE format is 0. -/
def Fmt.read (F : Fmt) (bits : Nat) : Fp :=
  let neg := bits.testBit (F.ebits + F.mbits)
  let mag := bits % 2 ^ (F.ebits + F.mbits)
  let E := mag / 2 ^ F.mbits
  let M := mag % 2 ^ F.mbits
  let fin : Fp :=
    if E = 0 then .fin { neg := neg, man := M, exp := F.emin - F.mbits }
    else .fin { neg := neg, man := M + 2 ^ F.mbits, exp := (E : Int) - F.bias - F.mbits }
  match F.top with
  | .ieee =>
    if E = 2 ^ F.ebits - 1 then
      if M = 0 then .inf neg else .nan (!M.testBit (F.mbits - 1))
    else fin
  | .e4m3 => if mag = 0x7F then .nan false else fin
  | .numbers => fin

/-! ### Rounding (spec/02 R58) -/

/-- Rounding: stochastic rounding carries sr_u of R60. -/
inductive Rnd where
  | rne | rz | ru | rd | ro
  | sr (u : Nat)
deriving DecidableEq, Repr

/-- sr.fpmode.RM. -/
def Rnd.ofRM (fpmode : Word) : Rnd :=
  match (fpmode.extractLsb' 0 2).toNat with
  | 0 => .rne
  | 1 => .rz
  | 2 => .ru
  | _ => .rd

/-- Whether the magnitude `lo + f` with remainder `rem` of `2^sh`, f nonzero, rounds away from zero. -/
def Rnd.up (rnd : Rnd) (neg : Bool) (lo rem sh : Nat) : Bool :=
  match rnd with
  | .rne => decide (2 ^ sh < 2 * rem) || (decide (2 * rem = 2 ^ sh) && lo % 2 == 1)
  | .rz => false
  | .ru => !neg
  | .rd => neg
  | .ro => lo % 2 == 0
  | .sr u => decide (u < rem * 65536 / 2 ^ sh)

/-- Round |x| to a multiple of 2^k: the multiple, and whether x was one. -/
def roundAt (rnd : Rnd) (x : Dy) (k : Int) : Nat × Bool :=
  if k ≤ x.exp then (x.man * 2 ^ (x.exp - k).toNat, true)
  else
    let sh := (k - x.exp).toNat
    let lo := x.man >>> sh
    let rem := x.man % 2 ^ sh
    if rem = 0 then (lo, true) else (if rnd.up x.neg lo rem sh then lo + 1 else lo, false)

/-- `round(x, (F, rnd))` of R58 with unbounded exponent: multiple of 2^k, k, exact. -/
def roundTo (F : Fmt) (rnd : Rnd) (x : Dy) : Nat × Int × Bool :=
  if x.man = 0 then (0, F.emin - F.mbits, true)
  else
    let k := max x.log2 F.emin - F.mbits
    let (r, ex) := roundAt rnd x k
    (r, k, ex)

/-- The encoding, without sign, of r × 2^k as `roundTo` gives it; none when it exceeds the largest finite number. -/
def Fmt.pack (F : Fmt) (r : Nat) (k : Int) : Option Nat :=
  let e := (k - (F.emin - F.mbits)).toNat
  let enc := if r < 2 ^ F.mbits then r else e * 2 ^ F.mbits + r
  if enc ≤ F.maxEnc then some enc else none

/-- IEEE 754 overflow: infinity or the largest finite number (R117, Table 02.6); for e4m3, NaN in place of infinity. -/
def Fmt.overflow (F : Fmt) (rnd : Rnd) (neg : Bool) : Nat :=
  let inf := match F.top with
    | .ieee => F.signed neg F.infEnc
    | .e4m3 => F.nanEnc
    | .numbers => F.signed neg F.maxEnc
  let max := F.signed neg F.maxEnc
  match rnd with
  | .rne | .ro | .sr _ => inf
  | .rz => max
  | .ru => if neg then max else inf
  | .rd => if neg then inf else max

/-- x is nonzero and below the smallest normal (tininess before rounding). -/
def Fmt.tiny (F : Fmt) (x : Dy) : Bool := x.man != 0 && decide (x.log2 < F.emin)

/-- Round an exact number to an encoding with IEEE overflow, and its flags (R117 R118). -/
def Fmt.round (F : Fmt) (rnd : Rnd) (x : Dy) : Nat × Flags :=
  let (r, k, ex) := roundTo F rnd x
  match F.pack r k with
  | some enc => (F.signed x.neg enc, { Flags.none with unf := F.tiny x && !ex, inx := !ex })
  | none => (F.overflow rnd x.neg, { Flags.none with ovf := true, inx := true })

/-! ### IEEE arithmetic (spec/04 R117 R118) -/

def Fp.isNan : Fp → Bool
  | .nan _ => true
  | _ => false

def Fp.signaling : Fp → Bool
  | .nan s => s
  | _ => false

def Fp.isInf : Fp → Bool
  | .inf _ => true
  | _ => false

def Fp.isZero : Fp → Bool
  | .fin x => x.man == 0
  | _ => false

def Fp.neg : Fp → Bool
  | .nan _ => false
  | .inf n => n
  | .fin x => x.neg

def Fp.negate : Fp → Fp
  | .nan s => .nan s
  | .inf n => .inf (!n)
  | .fin x => .fin x.negate

/-- The exact number of a finite value, zero otherwise. -/
def Fp.num : Fp → Dy
  | .fin x => x
  | _ => Dy.zero false

def Fmt.invalid (F : Fmt) : Nat × Flags := (F.nanEnc, Flags.invalid)

/-- Sum of two finite numbers with the IEEE sign of an exact zero. -/
def exactSum (rnd : Rnd) (x y : Dy) : Dy :=
  let z := x.add y
  if z.man = 0 then
    if x.man = 0 && y.man = 0 && x.neg == y.neg then Dy.zero x.neg else Dy.zero (rnd == .rd)
  else z

/-- a + b on values. -/
def Fmt.addV (F : Fmt) (rnd : Rnd) (a b : Fp) : Nat × Flags :=
  match a, b with
  | .nan s, y => (F.nanEnc, Flags.ofInv (s || y.signaling))
  | .inf _, .nan s | .fin _, .nan s => (F.nanEnc, Flags.ofInv s)
  | .inf m, .inf n => if m == n then (F.signed m F.infEnc, Flags.none) else F.invalid
  | .inf m, .fin _ => (F.signed m F.infEnc, Flags.none)
  | .fin _, .inf n => (F.signed n F.infEnc, Flags.none)
  | .fin x, .fin y => F.round rnd (exactSum rnd x y)

def Fmt.add (F : Fmt) (rnd : Rnd) (a b : Nat) : Nat × Flags := F.addV rnd (F.read a) (F.read b)
def Fmt.sub (F : Fmt) (rnd : Rnd) (a b : Nat) : Nat × Flags := F.addV rnd (F.read a) (F.read b).negate

/-- The exact product of two values, `none` for 0 × ∞. -/
def Fp.mul : Fp → Fp → Option Fp
  | .nan s, y => some (.nan (s || y.signaling))
  | x, .nan s => some (.nan (s || x.signaling))
  | .inf m, y => if y.isZero then none else some (.inf (m != y.neg))
  | x, .inf n => if x.isZero then none else some (.inf (x.neg != n))
  | .fin x, .fin y => some (.fin (x.mul y))

def Fmt.mul (F : Fmt) (rnd : Rnd) (a b : Nat) : Nat × Flags :=
  match (F.read a).mul (F.read b) with
  | none => F.invalid
  | some (.nan s) => (F.nanEnc, Flags.ofInv s)
  | some (.inf n) => (F.signed n F.infEnc, Flags.none)
  | some (.fin x) => F.round rnd x

/-- a × b + c with one rounding; 0 × ∞ is invalid whatever c holds (R118). -/
def Fmt.fma (F : Fmt) (rnd : Rnd) (a b c : Nat) : Nat × Flags :=
  match (F.read a).mul (F.read b) with
  | none => F.invalid
  | some p => F.addV rnd p (F.read c)

/-- The order of R119: -0 below +0. -/
def Fp.below : Fp → Fp → Bool
  | .inf m, y => m && !(y == .inf true)
  | .fin _, .inf n => !n
  | .fin x, .fin y => x.lt y || (x.eq y && x.neg && !y.neg)
  | _, _ => false

def Fmt.minmax (F : Fmt) (wantMax : Bool) (a b : Nat) : Nat × Flags :=
  let x := F.read a
  let y := F.read b
  let fl := Flags.ofInv (x.signaling || y.signaling)
  if x.isNan && y.isNan then (F.nanEnc, fl)
  else if x.isNan then (b, fl)
  else if y.isNan then (a, fl)
  else if wantMax then (if x.below y then b else a, fl)
  else (if y.below x then b else a, fl)

/-- Round to an integral value in the format (R121). -/
def Fmt.integral (F : Fmt) (rnd : Rnd) (a : Nat) : Nat × Flags :=
  match F.read a with
  | .nan s => (F.nanEnc, Flags.ofInv s)
  | .inf n => (F.signed n F.infEnc, Flags.none)
  | .fin x =>
    let (r, _) := roundAt rnd x 0
    ((F.round .rne { neg := x.neg, man := r, exp := 0 }).1, Flags.none)

/-- The class mask of R122. -/
def Fmt.classOf (F : Fmt) (a : Nat) : Nat :=
  let neg := a.testBit (F.ebits + F.mbits)
  match F.read a with
  | .nan s => if s then 2 ^ 8 else 2 ^ 9
  | .inf _ => if neg then 2 ^ 0 else 2 ^ 7
  | .fin x =>
    if x.man = 0 then (if neg then 2 ^ 3 else 2 ^ 4)
    else if x.man < 2 ^ F.mbits then (if neg then 2 ^ 2 else 2 ^ 5)
    else (if neg then 2 ^ 1 else 2 ^ 6)

/-- Square root, correctly rounded (R134 R135). -/
def Fmt.sqrt (F : Fmt) (rnd : Rnd) (a : Nat) : Nat × Flags :=
  match F.read a with
  | .nan s => (F.nanEnc, Flags.ofInv s)
  | .inf n => if n then F.invalid else (F.infEnc, Flags.none)
  | .fin x =>
    if x.man = 0 then (a, Flags.none)
    else if x.neg then F.invalid
    else F.round rnd x.sqrt

/-- Relations of `FCMP` and `DCMP` in the order of R123. -/
inductive FRel where
  | eq | ne | lt | le | gt | ge | un | ord
deriving DecidableEq, Repr

/-- a < b with -0 = +0; false with a NaN. -/
def Fp.lt : Fp → Fp → Bool
  | .inf m, y => m && !(y == .inf true) && !y.isNan
  | .fin _, .inf n => !n
  | .fin x, .fin y => x.lt y
  | _, _ => false

def Fp.eqv : Fp → Fp → Bool
  | .inf m, .inf n => m == n
  | .fin x, .fin y => x.eq y
  | _, _ => false

/-- Floating-point compares (R124). -/
def Fmt.compare (F : Fmt) (r : FRel) (a b : Nat) : Bool × Flags :=
  let x := F.read a
  let y := F.read b
  let un := x.isNan || y.isNan
  let quiet := Flags.ofInv (x.signaling || y.signaling)
  let loud := Flags.ofInv un
  match r with
  | .eq => (x.eqv y, quiet)
  | .ne => (!(x.eqv y), quiet)
  | .lt => (x.lt y, loud)
  | .le => (x.lt y || x.eqv y, loud)
  | .gt => (y.lt x, loud)
  | .ge => (y.lt x || x.eqv y, loud)
  | .un => (un, quiet)
  | .ord => (!un, quiet)

/-- Between IEEE formats with the target's canonical NaN (R126). -/
def Fmt.convert (F G : Fmt) (rnd : Rnd) (a : Nat) : Nat × Flags :=
  match F.read a with
  | .nan s => (G.nanEnc, Flags.ofInv s)
  | .inf n => (G.signed n G.infEnc, Flags.none)
  | .fin x => G.round rnd x

/-- To an integer in [lo, hi] (R127): value and flags. -/
def Fmt.toInt (F : Fmt) (rnd : Rnd) (lo hi : Int) (a : Nat) : Int × Flags :=
  match F.read a with
  | .nan _ => (0, Flags.invalid)
  | .inf n => (if n then lo else hi, Flags.ofSat true)
  | .fin x =>
    let (r, ex) := roundAt rnd x 0
    let v : Int := if x.neg then -(r : Int) else r
    let c := min (max v lo) hi
    (c, { Flags.none with sat := c != v, inx := c != v || !ex })

/-- From an integer. -/
def Fmt.ofInt (F : Fmt) (rnd : Rnd) (z : Int) : Nat × Flags := F.round rnd (Dy.ofInt z 0)

/-! ### Format slots (spec/02 R61 to R71) -/

/-- Element format of a slot: floating point, or integer of a width. -/
inductive Elem where
  | fp (F : Fmt)
  | int (bits : Nat) (signed : Bool)
deriving DecidableEq, Repr

/-- FMT code of Table 02.1. -/
def Elem.ofCode : Nat → Option Elem
  | 0 => some (.fp f32)
  | 1 => some (.fp f64)
  | 2 => some (.fp f16)
  | 3 => some (.fp bf16)
  | 4 => some (.fp e4m3)
  | 5 => some (.fp e5m2)
  | 6 => some (.fp e3m2)
  | 7 => some (.fp e2m3)
  | 8 => some (.fp e2m1)
  | 9 => some (.int 8 true)
  | 10 => some (.int 8 false)
  | 11 => some (.int 4 true)
  | 12 => some (.int 4 false)
  | _ => none

def Elem.bits : Elem → Nat
  | .fp F => F.bits
  | .int n _ => n

/-- The record of a format slot (R68). -/
structure Slot where
  code : Nat
  smode : Nat
  rnd : Nat
  sre : Bool
  ovi : Bool
  ftz : Bool
deriving DecidableEq, Repr

def Slot.ofRecord (r : DWord) : Slot :=
  { code := (r.extractLsb' 0 4).toNat, smode := (r.extractLsb' 4 2).toNat, rnd := (r.extractLsb' 6 3).toNat,
    sre := r.getLsbD 9, ovi := r.getLsbD 10, ftz := r.getLsbD 11 }

def Slot.elem (t : Slot) : Elem := (Elem.ofCode t.code).getD (.fp f32)
def Slot.bits (t : Slot) : Nat := t.elem.bits

/-- Stochastic rounding is in effect (R69). -/
def Slot.stochastic (t : Slot) : Bool := t.rnd == 5 && t.sre

/-- The slot's rounding; `u` is sr_u, used only under stochastic rounding (R69). -/
def Slot.rounding (t : Slot) (u : Nat) : Rnd :=
  match t.rnd with
  | 1 => .rz
  | 2 => .ru
  | 3 => .rd
  | 4 => .ro
  | 5 => if t.sre then .sr u else .rne
  | _ => .rne

/-- Admission refuses the record (R70). -/
def slotRefused (r : DWord) : Bool :=
  let t := Slot.ofRecord r
  r.extractLsb' 12 52 != 0#52 || decide (12 < t.code) || t.smode == 3 || decide (5 < t.rnd) || (t.sre && t.rnd != 5) ||
    (t.smode != 0 && decide (t.code ≤ 3))

/-- xorshift step of R59. -/
def srStep (st : Word) : Word :=
  let a := st ^^^ (st <<< 13)
  let b := a ^^^ (a >>> 17)
  b ^^^ (b <<< 5)

/-- `sr_init` of R59 for stream p. -/
def srInit (seed : Word) (p : Nat) : Word :=
  let st := seed ^^^ BitVec.ofNat 32 ((p + 1) * 0x85EBCA6B)
  if st = 0#32 then 0x85EBCA6B#32 else st

/-- sr_u of R60. -/
def srU (st : Word) : Nat := (st.extractLsb' 16 16).toNat

/-- Clamp to the range of an integer element, as its encoding. -/
def intElem (bits : Nat) (signed : Bool) (v : Int) : Int × Nat :=
  let lo : Int := if signed then -(2 ^ (bits - 1)) else 0
  let hi : Int := if signed then 2 ^ (bits - 1) - 1 else 2 ^ bits - 1
  let c := min (max v lo) hi
  (c, (c % (2 ^ bits : Int)).toNat)

/-- Formats whose NaN can be written. -/
def Fmt.hasNan (F : Fmt) : Bool := !(F.top == .numbers)

/-- FTZ applies: not on e2m1, e2m3, e3m2 (R63). -/
def Fmt.flushes (F : Fmt) : Bool := F.hasNan

/-- Ordinary wide targets f32 and f64 follow IEEE 754 whatever OVI holds (R61). -/
def Fmt.wide (F : Fmt) : Bool := decide (23 ≤ F.mbits)

/-- `narrow(x, slot, p)` of R61, with the flags of R64; `u` is sr_u. -/
def narrow (x : Fp) (t : Slot) (u : Nat) : Nat × Flags :=
  let rnd := t.rounding u
  match t.elem with
  | .int n sg =>
    match x with
    | .nan _ => (0, Flags.invalid)
    | .inf neg => ((intElem n sg (if neg then -(2 ^ n) else 2 ^ n)).2, Flags.ofSat true)
    | .fin d =>
      let (r, ex) := roundAt rnd d 0
      let v : Int := if d.neg then -(r : Int) else r
      let (c, e) := intElem n sg v
      (e, { Flags.none with sat := c != v, inx := c != v || !ex })
  | .fp F =>
    let ieee := t.ovi || F.wide
    match x with
    | .nan s => (F.nanEnc, Flags.ofInv (if F.hasNan then s else true))
    | .inf neg =>
      match F.top with
      | .numbers => (F.signed neg F.maxEnc, { Flags.none with ovf := true, inx := true })
      | .ieee =>
        if ieee then (F.signed neg F.infEnc, Flags.none)
        else (F.signed neg F.maxEnc, { Flags.none with ovf := true, inx := true })
      | .e4m3 =>
        if ieee then (F.nanEnc, Flags.invalid)
        else (F.signed neg F.maxEnc, { Flags.none with ovf := true, inx := true })
    | .fin d =>
      let (r, k, ex) := roundTo F rnd d
      match F.pack r k with
      | some enc =>
        if t.ftz && F.flushes && enc != 0 && decide (enc < 2 ^ F.mbits) then
          (F.signed d.neg 0, { Flags.none with unf := true, inx := true })
        else (F.signed d.neg enc, { Flags.none with unf := F.tiny d && !ex, inx := !ex })
      | none =>
        (if ieee && F.hasNan then F.overflow rnd d.neg else F.signed d.neg F.maxEnc,
          { Flags.none with ovf := true, inx := true })

/-- The value of an element; `ftz` reads a subnormal as zero (R62 R63). -/
def Elem.read (e : Elem) (ftz : Bool) (bits : Nat) : Fp :=
  match e with
  | .int n sg =>
    let b := bits % 2 ^ n
    .fin (Dy.ofInt (if sg && b.testBit (n - 1) then (b : Int) - 2 ^ n else b) 0)
  | .fp F =>
    match F.read bits with
    | .fin d => if ftz && F.flushes && decide (d.man < 2 ^ F.mbits) then .fin (Dy.zero d.neg) else .fin d
    | y => y

/-- `widen(e, slot)` as a value. -/
def widenV (t : Slot) (bits : Nat) : Fp := t.elem.read t.ftz bits

/-- The binary32 of a value that binary32 holds exactly; NaN is canonical (R62). -/
def Fp.toF32 (x : Fp) : Nat :=
  match x with
  | .nan _ => f32.nanEnc
  | .inf n => f32.signed n f32.infEnc
  | .fin d => (f32.round .rne d).1

/-- Binary32 of a number, to nearest, with IEEE overflow. -/
def rne32 (d : Dy) : Nat := (f32.round .rne d).1

/-- `round(x, f32.rne)` of R58, whose exponent is unbounded above: the rounded number itself. -/
def round32 (x : Dy) : Dy :=
  let r := roundTo f32 .rne x
  { neg := x.neg, man := r.1, exp := r.2.1 }

/-- fadd32 of spec/06 R184: no flag. -/
def fadd32 (a b : Nat) : Nat := (f32.add .rne a b).1
def fmul32 (a b : Nat) : Nat := (f32.mul .rne a b).1
def fma32 (a b c : Nat) : Nat := (f32.fma .rne a b c).1

/-! ### Special functions (spec/04 R134 R135) -/

/-- ln 2 and 2π in units of 2^-128. -/
def ln2Fix : Nat := 0xB17217F7D1CF79ABC9E3B39803F2F6AF
def twoPiFix : Nat := 0x6487ED5110B4611A62633145C06E0E689

/-- Fixed-point product in units of 2^-128. -/
def fixMul (a b : Int) : Int := a * b / 2 ^ 128

/-- Sum of x^(2n+s)/(2n+s)! with alternating or equal signs, by `fuel` terms. -/
def fixSeries (x : Int) (step : Nat) (alt : Bool) : Nat → Nat → Int → Int
  | 0, _, _ => 0
  | fuel + 1, n, term =>
    let next := if step = 1 then fixMul term x / (n + 1) else fixMul (fixMul term x) x / ((n + 1) * (n + 2))
    term + fixSeries x step alt fuel (n + step) (if alt then -next else next)

/-- e^x for |x| ≤ 1, fixed point. -/
def fixExp (x : Int) : Int := fixSeries x 1 false 40 0 (2 ^ 128)
def fixSin (x : Int) : Int := fixSeries x 2 true 40 1 x
def fixCos (x : Int) : Int := fixSeries x 2 true 40 0 (2 ^ 128)

/-- A number in units of 2^-128, rounded toward -∞. -/
def Dy.fix (x : Dy) : Int :=
  if -128 ≤ x.exp then x.int (-128)
  else (if x.neg then -(x.man : Int) else x.man) / 2 ^ (-128 - x.exp).toNat

/-- Fraction bits of log2 of m/2^128 in [1, 2), by repeated squaring. -/
def fixLog2 : Nat → Int → Int → Int
  | 0, _, _ => 0
  | fuel + 1, y, w =>
    let z := fixMul y y
    if 2 ^ 129 ≤ z then w + fixLog2 fuel (z / 2) (w / 2) else fixLog2 fuel z (w / 2)

/-- 1 as an exact number. -/
def Dy.one : Dy := { neg := false, man := 1, exp := 0 }

/-- The leading terms of a function near 0, where the fixed point would lose them: 1 + x ln 2, 2πx, 1 - 2π²x², x - x³/3. -/
def smallValue (fn : Nat) (x : Dy) : Dy :=
  let turn : Dy := { neg := false, man := twoPiFix, exp := -128 }
  match fn with
  | 4 => Dy.one.add (x.mul { neg := false, man := ln2Fix, exp := -128 })
  | 5 => x.mul turn
  | 6 => Dy.one.add (((x.mul turn).mul (x.mul turn)).scale (-1)).negate
  | _ => x.add (Dy.div (x.mul (x.mul x)) { neg := false, man := 3, exp := 0 }).negate

/-- The arguments for which the leading terms are the closer reference. -/
def smallFor (fn : Nat) (x : Dy) : Bool := decide (4 ≤ fn) && decide (x.log2 < if fn = 7 then -20 else -40)

/-- A reference value of each approximating function of a finite, non-special argument: 3 LOG2, 4 EXP2, 5 SIN, 6 COS,
7 TANH, in error by less than 2^-60 of its distance from 1 or 0 and of its ulp. -/
def refValue (fn : Nat) (x : Dy) : Dy :=
  if smallFor fn x then smallValue fn x
  else
  match fn with
  | 3 =>
    let e := x.log2
    let frac := fixLog2 70 ((x.scale (-e)).fix) (2 ^ 127)
    Dy.ofInt (e * 2 ^ 128 + frac) (-128)
  | 4 =>
    let z := x.fix
    let k := z / 2 ^ 128
    Dy.ofInt (fixExp (fixMul (z - k * 2 ^ 128) ln2Fix)) (k - 128)
  | 5 => Dy.ofInt (fixSin (fixMul (x.fix % 2 ^ 128) twoPiFix)) (-128)
  | 6 => Dy.ofInt (fixCos (fixMul (x.fix % 2 ^ 128) twoPiFix)) (-128)
  | _ =>
    let z := fixMul (x.abs.fix * 2) (2 ^ 256 / ln2Fix)
    let k := z / 2 ^ 128
    let t := fixExp (fixMul (z - k * 2 ^ 128) ln2Fix) * 2 ^ k.toNat
    Dy.div { neg := x.neg, man := (t - 2 ^ 128).toNat, exp := 0 } { neg := false, man := (t + 2 ^ 128).toNat, exp := 0 }

/-- One unit in the last place of the correctly rounded result. -/
def Fmt.ulp (F : Fmt) (x : Dy) : Dy :=
  let r := roundTo F .rne x
  { neg := false, man := 1, exp := max (if r.1 = 0 then F.emin else (Nat.log2 r.1 : Int) + r.2.1) F.emin - F.mbits }

/-- A candidate is accepted when it lies within `bound` of `ref`. -/
def within (F : Fmt) (cand : Nat) (ref bound : Dy) : Bool :=
  match F.read cand with
  | .fin c => (c.add ref.negate).abs.le bound
  | _ => false

/-- The result of an approximating function: the product's own bits where they lie within the published bound, else the
nearest number (R134; assumption 5). -/
def approximate (F : Fmt) (cand : Nat) (ref bound : Dy) : Nat :=
  if within F cand ref bound then cand else (F.round .rne ref).1

/-- Whether a number is an integer multiple of 2^e. -/
def Dy.multipleOf (x : Dy) (e : Int) : Bool := (roundAt .rz x e).2

/-- floor(x / 2^-2) modulo 4 of a multiple of a quarter. -/
def quarter (x : Dy) : Nat := ((x.scale 2).fix / 2 ^ 128 % 4).toNat

/-- The number is beyond the largest finite one of a format. -/
def Fmt.beyond (F : Fmt) (x : Dy) : Bool :=
  let r := roundTo F .rne x
  (F.pack r.1 r.2.1).isNone

/-- The binary32 special functions: 0 RCP, 1 RSQ, 3 LOG2, 4 EXP2, 5 SIN, 6 COS, 7 TANH (R134 R135). The manual states no
result for a reciprocal beyond the largest finite number: it is the product's own bits, whatever they are (assumption 5). -/
def specialFn (fn : Nat) (a : Nat) : Nat × Flags :=
  let one := 0x3F800000
  let minusOne := 0xBF800000
  let cand := (Config.approx32 fn (BitVec.ofNat 32 a)).toNat
  match f32.read a with
  | .nan s => (f32.nanEnc, Flags.ofInv s)
  | .inf n =>
    match fn with
    | 0 => (f32.signed n 0, Flags.none)
    | 1 => if n then f32.invalid else (0, Flags.none)
    | 3 => if n then f32.invalid else (f32.infEnc, Flags.none)
    | 4 => if n then (0, Flags.none) else (f32.infEnc, Flags.none)
    | 5 | 6 => f32.invalid
    | _ => (if n then minusOne else one, Flags.none)
  | .fin x =>
    let absBound : Dy := { neg := false, man := 1, exp := -22 }
    let ulps (k : Nat) (r : Dy) : Dy := { f32.ulp r with man := k }
    match fn with
    | 0 =>
      if x.man = 0 then (f32.signed x.neg f32.infEnc, Flags.none)
      else
        let r := Dy.one.div x
        (if f32.beyond r then cand else approximate f32 cand r (ulps 1 r), Flags.none)
    | 1 =>
      if x.man = 0 then (f32.signed x.neg f32.infEnc, Flags.none)
      else if x.neg then f32.invalid
      else
        let r := Dy.one.div x.sqrt
        (approximate f32 cand r (ulps 1 r), Flags.none)
    | 3 =>
      if x.man = 0 then (f32.signed true f32.infEnc, Flags.none)
      else if x.neg then f32.invalid
      else if a = one then (0, Flags.none)
      else
        let r := refValue 3 x
        (approximate f32 cand r (if -1 ≤ x.log2 && decide (x.log2 < 1) || a = 0x40000000 then absBound else ulps 2 r),
          Flags.none)
    | 4 =>
      if x.man = 0 then (one, Flags.none)
      else if 128 * 2 ^ 128 ≤ x.fix then (f32.infEnc, Flags.none)
      else if x.fix < -150 * 2 ^ 128 then (0, Flags.none)
      else if x.multipleOf 0 && decide (-149 * 2 ^ 128 ≤ x.fix) then
        ((f32.round .rne { neg := false, man := 1, exp := x.fix / 2 ^ 128 }).1, Flags.none)
      else
        let r := refValue 4 x
        (approximate f32 cand r (ulps 2 r), Flags.none)
    | 5 =>
      if x.man = 0 then (a, Flags.none)
      else if x.multipleOf (-1) then (0, Flags.none)
      else if x.multipleOf (-2) then (if quarter x = 1 then one else minusOne, Flags.none)
      else (approximate f32 cand (refValue 5 x) absBound, Flags.none)
    | 6 =>
      if x.multipleOf 0 then (one, Flags.none)
      else if x.multipleOf (-1) then (minusOne, Flags.none)
      else if x.multipleOf (-2) then (0, Flags.none)
      else (approximate f32 cand (refValue 6 x) absBound, Flags.none)
    | _ =>
      if x.man = 0 then (a, Flags.none)
      else if 10 * 2 ^ 128 ≤ x.abs.fix then (if x.neg then minusOne else one, Flags.none)
      else
        let r := refValue 7 x
        (approximate f32 cand r (ulps 2 r), Flags.none)

/-- DRCP (R134 R135), with a reciprocal beyond the largest finite number as for `RCP` (assumption 5). -/
def drcp (a : Nat) : Nat × Flags :=
  match f64.read a with
  | .nan s => (f64.nanEnc, Flags.ofInv s)
  | .inf n => (f64.signed n 0, Flags.none)
  | .fin x =>
    if x.man = 0 then (f64.signed x.neg f64.infEnc, Flags.none)
    else
      let r := Dy.one.div x
      let cand := (Config.approx64 (BitVec.ofNat 64 a)).toNat
      (if f64.beyond r then cand else approximate f64 cand r (f64.ulp r), Flags.none)

end Sys2Proof.Machine
end

