-- ==== Sys2Proof/Machine/Reduce.lean ====
section
/-! DEFINITION. Memory below the caches: the error log and poison marks (spec/16 R396, spec/06 R180), physical memory with its
reduction queue (spec/06 R178 R179), and the host-window lines of the LLC (R176). -/

namespace Sys2Proof.Machine

/-! ### Errors (spec/16 R396) -/

/-- Add one to a 32-bit saturating count. -/
def satInc (n : Nat) : Nat := min (n + 1) (2 ^ 32 - 1)

/-- A die's count of its unit kind. -/
def bumpErr (die kind : Nat) (poisoned : Bool) : List ErrCount → List ErrCount
  | [] => [{ die := die, kind := kind, corrected := if poisoned then 0 else 1, poisoned := if poisoned then 1 else 0 }]
  | e :: t =>
    if e.die == die && e.kind == kind then
      (if poisoned then { e with poisoned := satInc e.poisoned } else { e with corrected := satInc e.corrected }) :: t
    else e :: bumpErr die kind poisoned t

def bumpLost (die : Nat) : List (Nat × Nat) → List (Nat × Nat)
  | [] => [(die, 1)]
  | e :: t => if e.1 == die then (die, satInc e.2) :: t else e :: bumpLost die t

/-- An event of a die's error log: the counter, and a record in the ring of 1,024, which replaces the oldest when it is
full. -/
def State.errEvent (s : State) (die unit addr typ : Nat) : State :=
  let mine := s.errRing.filter (fun r => r.die == die)
  let full := decide (1024 ≤ mine.length)
  let ring := if full then
      match s.errRing.findIdx? (fun r => r.die == die) with
      | some i => s.errRing.eraseIdx i
      | none => s.errRing
    else s.errRing
  { s with
    errCounts := if typ = 2 then s.errCounts else bumpErr die (unit / 2 ^ 16) (typ == 1) s.errCounts
    errRing := ring ++ [{ die := die, unit := unit, addr := addr, time := s.dtime.toNat, typ := typ }]
    errLost := if full then bumpLost die s.errLost else s.errLost }

/-! ### Poison marks of aligned 8-byte words (spec/05 R146, spec/06 R180) -/

/-- Some word of [a, a + n) carries the mark. -/
def marked (p : List Nat) (a n : Nat) : Bool := p.any (fun w => decide (w * 8 < a + n) && decide (a < w * 8 + 8))

/-- Marks after a store to [a, a + n): a whole word written clears its own. -/
def unmark (p : List Nat) (a n : Nat) : List Nat :=
  p.filter (fun w => !(decide (a ≤ w * 8) && decide (w * 8 + 8 ≤ a + n)))

/-- Mark the word of an address. -/
def mark (p : List Nat) (a : Nat) : List Nat := if p.contains (a / 8) then p else p ++ [a / 8]

/-! ### Physical memory and the reduction queue (spec/06 R178 R179) -/

/-- Memory die that holds the home slice of a line (R166). -/
def State.homeDie (s : State) (pa : Nat) : Nat :=
  match s.mix with
  | .g1s4m2 => 12 + ((pa / 2 ^ 7) ^^^ (pa / 2 ^ 13) ^^^ (pa / 2 ^ 19)) % 2
  | _ => 12 + ((pa / 2 ^ 7) ^^^ (pa / 2 ^ 13) ^^^ (pa / 2 ^ 19)) % 4

/-- The value after a reduction or a 4-byte atomic: functions 12 to 19 of groups 8 and 9, 23 to 27 of group 9. -/
def atomicFn (f : Nat) (old x y : Word) : Word :=
  match f with
  | 12 | 24 => old + x
  | 13 | 26 => if x.slt old then x else old
  | 14 | 27 => if old.slt x then x else old
  | 15 => old &&& x
  | 16 => old ||| x
  | 17 => old ^^^ x
  | 18 => x
  | 19 => if old = y then x else old
  | _ => BitVec.ofNat 32 (fadd32 old.toNat x.toNat)

/-- Address and line of the word that a reduction reduces. -/
def RedEnt.addr (e : RedEnt) : Nat := 4 * e.word
def RedEnt.line (e : RedEnt) : Nat := e.word / 32

/-- Apply one reduction: on a poisoned word it is discarded and counted (R180). -/
def State.applyRed (s : State) (e : RedEnt) : State :=
  if marked s.memP e.addr 4 then s.errEvent (s.homeDie e.addr) 0 e.addr 1
  else
    let old := BitVec.ofNat 32 (leNat (cellBytes s.mem e.addr 4))
    { s with mem := cellWrites s.mem e.addr (leBytes 4 (atomicFn e.f old e.data 0#32).toNat) }

def RedEnt.touches (e : RedEnt) (pa n : Nat) : Bool := decide (pa / 128 ≤ e.line) && decide (e.line ≤ (pa + n - 1) / 128)

/-- Apply every queued reduction of the lines of [pa, pa + n), in arrival order, as any access to them does first. -/
def State.drain (s : State) (pa n : Nat) : State :=
  let s' := (s.redQueue.filter (fun e => e.touches pa n)).foldl State.applyRed s
  { s' with redQueue := s.redQueue.filter (fun e => !e.touches pa n) }

/-- The number of a peer. -/
def peerOf (qpn port : Nat) (key : Word := 0#32) : Nat := qpn + 4096 * port + 8192 * key.toNat
/-- The queue pair and port of a peer, and its key. -/
def peerQp (peer : Nat) : Nat := peer % 8192
def peerKey (peer : Nat) : Word := BitVec.ofNat 32 (peer / 8192)

/-- A reduction arrives at its home slice; it merges into the latest entry of its address when the choice says so and
R179 allows it. -/
def State.arriveRed (s : State) (g f addr : Nat) (x : Word) (merge : Bool) : State :=
  let last := s.redQueue.zipIdx.foldl (fun (o : Option (RedEnt × Nat)) p => if p.1.word == addr / 4 then some p else o) none
  let new : RedEnt := { word := addr / 4, f := f, data := x, groups := [g] }
  match last with
  | some (e, i) =>
    if merge && e.f == f then
      { s with redQueue := s.redQueue.set i { e with data := atomicFn f e.data x 0#32, groups := e.groups ++ [g] } }
    else { s with redQueue := s.redQueue ++ [new] }
  | none => { s with redQueue := s.redQueue ++ [new] }

/-- The same for a word of a host-window line, which waits at the LLC as any other (R176 R178). -/
def State.arriveHostRed (s : State) (g f peer addr : Nat) (x : Word) (merge : Bool) : State :=
  let same := fun (e : HostRed) => peerQp e.peer == peerQp peer && e.word == addr / 4
  let last := s.hostReds.zipIdx.foldl (fun (o : Option (HostRed × Nat)) p => if same p.1 then some p else o) none
  let new : HostRed := { peer := peer, word := addr / 4, f := f, data := x, groups := [g] }
  match last with
  | some (e, i) =>
    if merge && e.f == f then
      { s with hostReds := s.hostReds.set i { e with data := atomicFn f e.data x 0#32, groups := e.groups ++ [g] } }
    else { s with hostReds := s.hostReds ++ [new] }
  | none => { s with hostReds := s.hostReds ++ [new] }

/-- Bytes of physical memory with the reductions of their lines applied. -/
def State.peek (s : State) (pa n : Nat) : List Byte := cellBytes (s.drain pa n).mem pa n
def State.peekNat (s : State) (pa n : Nat) : Nat := leNat (s.peek pa n)
def State.peek32 (s : State) (pa : Nat) : Word := BitVec.ofNat 32 (s.peekNat pa 4)
def State.peek64 (s : State) (pa : Nat) : DWord := BitVec.ofNat 64 (s.peekNat pa 8)
/-- Words of physical memory. -/
def State.peekWords (s : State) (pa n : Nat) : List Word := leWords n (s.peek pa (4 * n))

/-- Store bytes to physical memory. -/
def State.poke (s : State) (pa : Nat) (b : List Byte) : State :=
  let s := s.drain pa b.length
  { s with mem := cellWrites s.mem pa b, memP := unmark s.memP pa b.length }

def State.poke32 (s : State) (pa : Nat) (w : Word) : State := s.poke pa (leBytes 4 w.toNat)
def State.poke64 (s : State) (pa : Nat) (w : DWord) : State := s.poke pa (leBytes 8 w.toNat)
def State.pokeWords (s : State) (pa : Nat) (ws : List Word) : State :=
  s.poke pa (ws.flatMap (fun w => leBytes 4 w.toNat))

/-! ### Host windows (spec/06 R176)

A peer is named by its remote key, queue pair and port; the memory behind a window belongs to the queue pair and port. -/

/-- A byte of host memory behind a window. -/
def State.hostByte (s : State) (peer a : Nat) : Byte :=
  ((s.hostMem.find? (fun c => c.1 == peerQp peer && c.2.1 == a)).map (fun c => c.2.2)).getD 0#8

/-- Write bytes of host memory; a zero removes its entry (assumption 1). -/
def State.hostBytes (s : State) (peer a : Nat) : List Byte → State
  | [] => s
  | b :: t =>
    let rest := s.hostMem.filter (fun c => !(c.1 == peerQp peer && c.2.1 == a))
    State.hostBytes { s with hostMem := if b = 0#8 then rest else rest ++ [(peerQp peer, a, b)] } peer (a + 1) t

/-- A write to host memory: a whole word that is written loses its mark. -/
def State.hostPut (s : State) (peer a : Nat) (b : List Byte) : State :=
  let s := s.hostBytes peer a b
  { s with hostMemP := s.hostMemP.filter (fun x => !(x.1 == peerQp peer && decide (a ≤ 8 * x.2) && decide (8 * x.2 + 8 ≤ a + b.length))) }

/-- The marked words of a line at its home. -/
def State.hostMarks (s : State) (peer line : Nat) : List Nat :=
  (s.hostMemP.filter (fun x => x.1 == peerQp peer && x.2 / 16 == line)).map Prod.snd

def HostLine.is (l : HostLine) (peer line : Nat) : Bool := l.peer == peerQp peer && l.line == line

/-- The line of a host window that the LLC holds. -/
def State.hostLine? (s : State) (peer line : Nat) : Option HostLine := s.llcHost.find? (fun l => l.is peer line)

def State.modHostLine (s : State) (peer line : Nat) (f : HostLine → HostLine) : State :=
  { s with llcHost := s.llcHost.map (fun l => if l.is peer line then f l else l) }

/-- The LLC holds a line of a host window: an RDMA READ fills it when it does not. -/
def State.hostFill (s : State) (peer line : Nat) : State :=
  if (s.hostLine? peer line).isSome then s
  else
    let bytes := (List.range 128).map (fun i => (128 * line + i, s.hostByte peer (128 * line + i), false))
    { s with
      llcHost := s.llcHost ++ [{ peer := peerQp peer, key := peerKey peer, line := line, bytes := bytes, marks := s.hostMarks peer line }]
      outbox := s.outbox ++ [.read (peerQp peer % 4096) (peerQp peer / 4096) (peerKey peer) (128 * line) 128] }

/-- The bytes that a held line shows. -/
def HostLine.byteAt (l : HostLine) (a : Nat) : Byte := ((l.bytes.find? (fun b => b.1 == a)).map (fun b => b.2.1)).getD 0#8

/-- A held line after a store of bytes from `a`: they are dirty, and a whole word that is written loses its mark. -/
def HostLine.put (l : HostLine) (a : Nat) (b : List Byte) : HostLine :=
  { l with
    bytes := l.bytes.map (fun x =>
      if decide (a ≤ x.1) && decide (x.1 < a + b.length) then (x.1, b.getD (x.1 - a) 0#8, true) else x)
    marks := unmark l.marks a b.length }

/-- Apply a reduction to a host-window line in the LLC; on a poisoned word it is discarded and counted (R180). -/
def State.hostApply (s : State) (e : HostRed) : State :=
  let s := s.hostFill e.peer (e.word / 32)
  match s.hostLine? e.peer (e.word / 32) with
  | none => s
  | some l =>
    if marked l.marks (4 * e.word) 4 then s.errEvent (s.homeDie (4 * e.word)) 0 (4 * e.word) 1
    else
      let old := BitVec.ofNat 32 (leNat ((List.range 4).map (fun i => l.byteAt (4 * e.word + i))))
      s.modHostLine e.peer (e.word / 32) (fun l => l.put (4 * e.word) (leBytes 4 (atomicFn e.f old e.data 0#32).toNat))

def HostRed.onLines (e : HostRed) (peer a n : Nat) : Bool :=
  peerQp e.peer == peerQp peer && decide (a / 128 ≤ e.word / 32) && decide (e.word / 32 ≤ (a + n - 1) / 128)

/-- The LLC holds every line of [a, a + n), with the queued reductions of those lines applied. -/
def State.hostFills (s : State) (peer a n : Nat) : State :=
  let s := (List.range ((a + n - 1) / 128 - a / 128 + 1)).foldl (fun s i => s.hostFill peer (a / 128 + i)) s
  let s' := (s.hostReds.filter (fun e => e.onLines peer a n)).foldl State.hostApply s
  { s' with hostReds := s.hostReds.filter (fun e => !e.onLines peer a n) }

/-- Bytes of a host window as the device sees them. -/
def State.hostRead (s : State) (peer a n : Nat) : List Byte :=
  let s := s.hostFills peer a n
  (List.range n).map (fun i => ((s.hostLine? peer ((a + i) / 128)).map (fun l => l.byteAt (a + i))).getD 0#8)

/-- Some word of [a, a + n) of a host window carries the mark. -/
def State.hostMarked (s : State) (peer a n : Nat) : Bool := s.llcHost.any (fun l => l.peer == peerQp peer && marked l.marks a n)

/-- Store bytes to a host window: they stay in the LLC, dirty. -/
def State.hostStore (s : State) (peer a : Nat) (b : List Byte) : State :=
  let s := s.hostFills peer a b.length
  { s with llcHost := s.llcHost.map (fun l => if l.peer == peerQp peer then l.put a b else l) }

/-- Mark the word of an address of a host window. -/
def State.hostMark (s : State) (peer a : Nat) : State :=
  (s.hostFills peer a 1).modHostLine peer (a / 128) (fun l => { l with marks := mark l.marks a })

/-- Runs of dirty bytes: first address and bytes. -/
def dirtyRuns : List (Nat × Byte × Bool) → List (Nat × List Byte)
  | [] => []
  | (a, b, d) :: t =>
    if !d then dirtyRuns t
    else
      match dirtyRuns t with
      | (a', bs) :: rest => if a' = a + 1 then (a, b :: bs) :: rest else (a, [b]) :: (a', bs) :: rest
      | [] => [(a, [b])]

/-- One RDMA WRITE to the host behind a line. -/
def State.hostSend (s : State) (l : HostLine) (run : Nat × List Byte) : State :=
  let s := s.hostPut l.peer run.1 run.2
  { s with outbox := s.outbox ++ [.write (l.peer % 4096) (l.peer / 4096) l.key run.1 run.2] }

/-- The words of a line that hold dirty bytes. -/
def HostLine.dirtyWords (l : HostLine) : List Nat := ((l.bytes.filter (fun b => b.2.2)).map (fun b => b.1 / 8)).eraseDups

/-- Leave words of a line poisoned at their home (R394). -/
def State.hostSpoil (s : State) (l : HostLine) (words : List Nat) : State :=
  { s with hostMemP := s.hostMemP ++ (words.filter (fun w => !s.hostMemP.contains (l.peer, w))).map (fun w => (l.peer, w)) }

/-- Write the dirty bytes of a line back to the host, by RDMA WRITE on the queue pair that its window names. A poisoned word
stays poisoned at its home (spec/16 R394). -/
def State.hostFlush (s : State) (l : HostLine) : State :=
  let s := s.hostFills l.peer (128 * l.line) 1
  let l := (s.hostLine? l.peer l.line).getD l
  let s := ((dirtyRuns l.bytes).foldl (fun s r => s.hostSend l r) s).hostSpoil l (l.marks.filter l.dirtyWords.contains)
  s.modHostLine l.peer l.line (fun x => { x with bytes := x.bytes.map (fun b => (b.1, b.2.1, false)) })

/-- Write a line back and drop it. -/
def State.hostEvict (s : State) (l : HostLine) : State :=
  let s := s.hostFlush l
  { s with llcHost := s.llcHost.filter (fun x => !(x.peer == l.peer && x.line == l.line)) }

/-- A write-back that fails: nothing is written, and what the line held dirty is poisoned at its home (R394). -/
def State.hostLose (s : State) (l : HostLine) : State :=
  { (s.hostSpoil l l.dirtyWords) with llcHost := s.llcHost.filter (fun x => !(x.peer == l.peer && x.line == l.line)) }

/-- Apply what the write queues still hold of a group's reductions (R179): those lines' entries, in arrival order. -/
def State.drainGroup (s : State) (g : Nat) : State :=
  let s := (s.redQueue.filter (fun e => e.groups.contains g)).foldl (fun s e => s.drain e.addr 4) s
  (s.hostReds.filter (fun e => e.groups.contains g)).foldl (fun s e => s.hostFills e.peer (4 * e.word) 4) s

end Sys2Proof.Machine
end

