-- ==== Sys2Proof/WellFormed.lean ====
section
/-! DEFINITION. The field rules of an instruction word that the word alone decides (spec/01 R26 R27 R30 R31 R33 R34 R42
and the encoding table of each chapter). An instruction that breaks one raises `ILLEGAL_INSN` at issue. What also
depends on the wave's allocation is checked in Machine/Operands.lean. -/

namespace Sys2Proof

/-- The rule that an instruction word breaks. -/
inductive Malformed where
  /-- An odd register where a pair is required, or a group or block that does not start at a multiple of its size, or a
  descriptor block that begins at s0 (R30 R33). -/
  | alignment
  /-- A mask, condition, queue, class, rounding-code or small index out of its range (R31 R32). -/
  | range
  /-- An ORD code that the function does not allow (R26 R27). -/
  | ordering
  /-- A special-register number that the access does not allow (R34). -/
  | special
deriving DecidableEq, Repr

/-- Special registers that `MOVS` and `MOVLS` read (spec/01 R34, Table 01.6), lane id excepted. -/
def readableSr (n : Nat) : Bool := n ≤ 0x12 || (0x20 ≤ n && n ≤ 0x28)

/-- Special registers that `MOVSW` writes: sr.sticky, sr.fpmode, sr.seed, sr.strict, bd0 to bd7. -/
def writableSr (n : Nat) : Bool := n == 0x0C || n == 0x0D || n == 0x10 || n == 0x12 || (0x20 ≤ n && n ≤ 0x27)

/-- A rule of a field: whether it holds, and what it is when it does not. -/
abbrev Rule := Bool × Malformed

/-- A register pair or group starts at a multiple of `k` (R33). -/
def multipleOf (k : Nat) (r : BitVec 7) : Rule := (r.toNat % k == 0, .alignment)

/-- A descriptor block starts at a multiple of `k` and lies within s1 to s127 (R30). -/
def blockOf (k : Nat) (r : BitVec 7) : Rule := (r.toNat % k == 0 && r.toNat != 0, .alignment)

/-- An index below `k` (R32). -/
def below (k : Nat) (r : BitVec 7) : Rule := (decide (r.toNat < k), .range)

/-- A destination that may not be s0. -/
def positive (r : BitVec 7) : Rule := (r.toNat != 0, .range)

/-- An ORD code below `k`: 1 plain only, 2 local, 5 loads and stores, 7 atomics and reductions (R26 R27). -/
def ordBelow (k : Nat) (o : BitVec 3) : Rule := (decide (o.toNat < k), .ordering)

/-- The first rule broken, if any. -/
def firstBroken : List Rule → Option Malformed
  | [] => none
  | (ok, m) :: t => if ok then firstBroken t else some m

/-- The field rule that an instruction breaks. -/
def Instr.illFormed : Instr → Option Malformed
  | .powerOn => none
  | .bootReq => none
  | .bootOffer _ _ _ => none
  | .bootData _ _ _ => none
  | .bootTransferTimeout => none
  | .watchdogExpiry => none
  | .columnReady _ => none
  | .backgroundTest _ _ _ => none
  | .linkFlitError _ _ _ _ => none
  | .ptpMessage _ _ _ _ _ => none
  | .clockTargetUpdate _ _ => none
  | .powerMeasure _ => none
  | .tempSample _ _ => none
  | .refreshClassFall _ => none
  | .refreshBurst _ _ => none
  | .refreshCharge _ => none
  | .doorbellTail _ _ => none
  | .doorbellChead _ _ => none
  | .launchEntry _ => none
  | .graphEntry _ => none
  | .graphNodeStart _ _ => none
  | .waitEntry _ => none
  | .waitReread _ => none
  | .waitTimeout _ => none
  | .cancelEntry _ => none
  | .frameEntry _ => none
  | .invalEntry _ => none
  | .resumeEntry _ => none
  | .completionWrite _ _ => none
  | .groupPlacement _ _ _ _ _ _ _ _ => none
  | .bindRecordWrite _ _ _ => none
  | .waveRetire _ _ => none
  | .groupSave _ => none
  | .groupRestore _ _ _ _ _ _ _ => none
  | .bundleFetch _ _ _ => none
  | .starvationPromote _ _ => none
  | .loadDataReturn _ _ _ _ => none
  | .storeComplete _ _ _ _ _ => none
  | .reductionApply _ => none
  | .faultServiceRequest _ _ => none
  | .faultServiceDone _ _ _ => none
  | .sleepWake _ _ _ => none
  | .specialFunctionComplete _ _ _ => none
  | .barrReleasePerformed _ _ _ => none
  | .phaseTreeComplete _ => none
  | .copyCommandRun _ _ _ => none
  | .copyFaultResume _ _ => none
  | .copyCommandComplete _ _ => none
  | .qfenceComplete _ _ => none
  | .hpartComplete _ => none
  | .cacheMaintComplete _ => none
  | .mangleReply _ _ _ => none
  | .mloadwStart _ => none
  | .mloadwComplete _ => none
  | .mswapPerform _ => none
  | .mstreamStart _ => none
  | .mstreamComplete _ => none
  | .mdrainRun _ => none
  | .mzeroRun _ => none
  | .chainStep _ => none
  | .gatherWindowExpiry _ _ => none
  | .gatherTileForm _ => none
  | .gatherFetchComplete _ => none
  | .gatherScatter _ _ => none
  | .rayTraversalStop _ _ => none
  | .textureFetchComplete _ _ _ _ => none
  | .refitNodeProcess _ _ => none
  | .refitComplete _ => none
  | .emitvpComplete _ => none
  | .vcloseComplete _ => none
  | .packetArrival _ _ => none
  | .tokenArrival _ _ => none
  | .rasterise _ _ => none
  | .reprojectionComplete _ _ => none
  | .frameEnd _ => none
  | .pcSample _ => none
  | .breakBitStop _ _ _ => none
  | .watchpointStop _ _ _ => none
  | .dctlOwn _ _ _ => none
  | .dctlHalt _ _ => none
  | .dctlResume _ _ => none
  | .dctlIcinv _ => none
  | .dctlDump _ _ => none
  | .spop _ _ => none
  | .debugRegWrite _ _ _ => none
  | .hostRdmaAccess _ _ _ _ _ => none
  | .jobCreate _ _ _ _ => none
  | .jobDestroy _ _ _ _ => none
  | .cfgRd _ _ _ _ => none
  | .cfgWr _ _ _ _ => none
  | .dbgRd _ _ _ _ => none
  | .dbgWr _ _ _ _ => none
  | .powerLimit _ _ _ _ => none
  | .errlog _ _ _ _ => none
  | .attest _ _ _ _ => none
  | .darnRd _ _ _ _ => none
  | .darnApply _ _ _ _ => none
  | .colAlloc _ _ _ _ => none
  | .colFree _ _ _ _ => none
  | .resetService _ _ _ _ => none
  | .nop => none
  | .iadd _ _ _ _ => none
  | .isub _ _ _ _ => none
  | .imul _ _ _ _ => none
  | .imulhI _ _ _ _ => none
  | .imulhN _ _ _ _ => none
  | .imad _ _ _ _ => none
  | .iand _ _ _ _ => none
  | .ior _ _ _ _ => none
  | .ixor _ _ _ _ => none
  | .iandn _ _ _ _ => none
  | .shl _ _ _ _ => none
  | .shr _ _ _ _ => none
  | .sar _ _ _ _ => none
  | .iminI _ _ _ _ => none
  | .iminN _ _ _ _ => none
  | .imaxI _ _ _ _ => none
  | .imaxN _ _ _ _ => none
  | .iabs _ _ _ => none
  | .clz _ _ _ => none
  | .popc _ _ _ => none
  | .brev _ _ _ => none
  | .bfxI _ _ _ _ => none
  | .bfxN _ _ _ _ => none
  | .bfi _ _ _ _ => none
  | .sel _ _ _ _ _ => none
  | .iaddI _ _ _ _ => none
  | .isubI _ _ _ _ => none
  | .imulI _ _ _ _ => none
  | .imulhII _ _ _ _ => none
  | .imulhNI _ _ _ _ => none
  | .imadI _ _ _ _ => none
  | .iandI _ _ _ _ => none
  | .iorI _ _ _ _ => none
  | .ixorI _ _ _ _ => none
  | .iandnI _ _ _ _ => none
  | .shlI _ _ _ _ => none
  | .shrI _ _ _ _ => none
  | .sarI _ _ _ _ => none
  | .iminII _ _ _ _ => none
  | .iminNI _ _ _ _ => none
  | .imaxII _ _ _ _ => none
  | .imaxNI _ _ _ _ => none
  | .bfxII _ _ _ _ => none
  | .bfxNI _ _ _ _ => none
  | .bfiI _ _ _ _ => none
  | .mov _ _ _ => none
  | .movi _ _ _ => none
  | .iadd64 _ d a b => firstBroken [multipleOf 2 d, multipleOf 2 a, multipleOf 2 b]
  | .isub64 _ d a b => firstBroken [multipleOf 2 d, multipleOf 2 a, multipleOf 2 b]
  | .imulwI _ d _ _ => firstBroken [multipleOf 2 d]
  | .imulwN _ d _ _ => firstBroken [multipleOf 2 d]
  | .movls _ a => firstBroken [(readableSr a.toNat || a.toNat == 0x30, .special)]
  | .paddH2 _ _ _ => none
  | .paddsH2 _ _ _ => none
  | .psubH2 _ _ _ => none
  | .psubsH2 _ _ _ => none
  | .paddB4 _ _ _ => none
  | .paddsB4 _ _ _ => none
  | .psubsB4 _ _ _ => none
  | .pmaddH2 _ _ _ => none
  | .pmaddB4 _ _ _ => none
  | .iadds _ _ _ => none
  | .isubs _ _ _ => none
  | .shrr _ _ _ => none
  | .shrrsH2 _ _ _ => none
  | .packH2 _ _ _ => none
  | .packsH2 _ _ _ => none
  | .pminH2 _ _ _ => none
  | .pmaxH2 _ _ _ => none
  | .paddH2I _ _ _ => none
  | .paddsH2I _ _ _ => none
  | .psubH2I _ _ _ => none
  | .psubsH2I _ _ _ => none
  | .paddB4I _ _ _ => none
  | .paddsB4I _ _ _ => none
  | .psubsB4I _ _ _ => none
  | .pmaddH2I _ _ _ => none
  | .pmaddB4I _ _ _ => none
  | .iaddsI _ _ _ => none
  | .isubsI _ _ _ => none
  | .shrrI _ _ _ => none
  | .shrrsH2I _ _ _ => none
  | .packH2I _ _ _ => none
  | .packsH2I _ _ _ => none
  | .pminH2I _ _ _ => none
  | .pmaxH2I _ _ _ => none
  | .fadd _ _ _ _ => none
  | .fsub _ _ _ _ => none
  | .fmul _ _ _ _ => none
  | .ffma _ _ _ _ => none
  | .fmin _ _ _ _ => none
  | .fmax _ _ _ _ => none
  | .fabs _ _ _ => none
  | .fneg _ _ _ => none
  | .hadd2 _ _ _ => none
  | .hmul2 _ _ _ => none
  | .hfma2 _ _ _ => none
  | .bfma2 _ _ _ => none
  | .frnd _ _ r => firstBroken [below 5 r]
  | .fclass _ _ => none
  | .dadd _ d a b => firstBroken [multipleOf 2 d, multipleOf 2 a, multipleOf 2 b]
  | .dsub _ d a b => firstBroken [multipleOf 2 d, multipleOf 2 a, multipleOf 2 b]
  | .dmul _ d a b => firstBroken [multipleOf 2 d, multipleOf 2 a, multipleOf 2 b]
  | .dfma _ d a b => firstBroken [multipleOf 2 d, multipleOf 2 a, multipleOf 2 b]
  | .dmin _ d a b => firstBroken [multipleOf 2 d, multipleOf 2 a, multipleOf 2 b]
  | .dmax _ d a b => firstBroken [multipleOf 2 d, multipleOf 2 a, multipleOf 2 b]
  | .dabs _ d a => firstBroken [multipleOf 2 d, multipleOf 2 a]
  | .dneg _ d a => firstBroken [multipleOf 2 d, multipleOf 2 a]
  | .drnd d a r => firstBroken [multipleOf 2 d, multipleOf 2 a, below 5 r]
  | .dclass _ a => firstBroken [multipleOf 2 a]
  | .icmpIEq _ d _ _ => firstBroken [below 8 d]
  | .icmpINe _ d _ _ => firstBroken [below 8 d]
  | .icmpILt _ d _ _ => firstBroken [below 8 d]
  | .icmpILe _ d _ _ => firstBroken [below 8 d]
  | .icmpIGt _ d _ _ => firstBroken [below 8 d]
  | .icmpIGe _ d _ _ => firstBroken [below 8 d]
  | .icmpNLt _ d _ _ => firstBroken [below 8 d]
  | .icmpNLe _ d _ _ => firstBroken [below 8 d]
  | .icmpNGt _ d _ _ => firstBroken [below 8 d]
  | .icmpNGe _ d _ _ => firstBroken [below 8 d]
  | .fcmpEq _ d _ _ => firstBroken [below 8 d]
  | .fcmpNe _ d _ _ => firstBroken [below 8 d]
  | .fcmpLt _ d _ _ => firstBroken [below 8 d]
  | .fcmpLe _ d _ _ => firstBroken [below 8 d]
  | .fcmpGt _ d _ _ => firstBroken [below 8 d]
  | .fcmpGe _ d _ _ => firstBroken [below 8 d]
  | .fcmpUn _ d _ _ => firstBroken [below 8 d]
  | .fcmpOrd _ d _ _ => firstBroken [below 8 d]
  | .dcmpEq _ d a b => firstBroken [below 8 d, multipleOf 2 a, multipleOf 2 b]
  | .dcmpNe _ d a b => firstBroken [below 8 d, multipleOf 2 a, multipleOf 2 b]
  | .dcmpLt _ d a b => firstBroken [below 8 d, multipleOf 2 a, multipleOf 2 b]
  | .dcmpLe _ d a b => firstBroken [below 8 d, multipleOf 2 a, multipleOf 2 b]
  | .dcmpGt _ d a b => firstBroken [below 8 d, multipleOf 2 a, multipleOf 2 b]
  | .dcmpGe _ d a b => firstBroken [below 8 d, multipleOf 2 a, multipleOf 2 b]
  | .dcmpUn _ d a b => firstBroken [below 8 d, multipleOf 2 a, multipleOf 2 b]
  | .dcmpOrd _ d a b => firstBroken [below 8 d, multipleOf 2 a, multipleOf 2 b]
  | .kand d a b => firstBroken [below 8 d, below 8 a, below 8 b]
  | .kor d a b => firstBroken [below 8 d, below 8 a, below 8 b]
  | .kxor d a b => firstBroken [below 8 d, below 8 a, below 8 b]
  | .kandn d a b => firstBroken [below 8 d, below 8 a, below 8 b]
  | .knot d a => firstBroken [below 8 d, below 8 a]
  | .kmov d a => firstBroken [below 8 d, below 8 a]
  | .ktov _ a => firstBroken [below 8 a]
  | .vtok d _ => firstBroken [below 8 d]
  | .cand d a b => firstBroken [below 8 d, below 8 a, below 8 b]
  | .cor d a b => firstBroken [below 8 d, below 8 a, below 8 b]
  | .cxor d a b => firstBroken [below 8 d, below 8 a, below 8 b]
  | .candn d a b => firstBroken [below 8 d, below 8 a, below 8 b]
  | .cnot d a => firstBroken [below 8 d, below 8 a]
  | .cmov d a => firstBroken [below 8 d, below 8 a]
  | .f2iI _ _ r => firstBroken [below 5 r]
  | .f2iN _ _ r => firstBroken [below 5 r]
  | .i2fI _ _ => none
  | .i2fN _ _ => none
  | .f2d d _ => firstBroken [multipleOf 2 d]
  | .d2f _ a => firstBroken [multipleOf 2 a]
  | .d2iI _ a r => firstBroken [multipleOf 2 a, below 5 r]
  | .i2dI d _ => firstBroken [multipleOf 2 d]
  | .f2h2 _ _ _ => none
  | .h2fLo _ _ => none
  | .h2fHi _ _ => none
  | .f2bf2 _ _ _ => none
  | .bf2fLo _ _ => none
  | .bf2fHi _ _ => none
  | .cvtn _ _ _ => none
  | .cvtw _ _ _ => none
  | .movs _ a => firstBroken [(readableSr a.toNat, .special)]
  | .movsw a _ => firstBroken [(writableSr a.toNat, .special)]
  | .rdlane _ _ _ => none
  | .wrlane _ _ _ => none
  | .ktos _ a h => firstBroken [below 8 a, below 2 h]
  | .stok d _ h => firstBroken [below 8 d, below 2 h]
  | .shfl _ _ _ => none
  | .shflx _ _ _ => none
  | .slideup _ _ _ => none
  | .slidedn _ _ _ => none
  | .slideuph _ _ _ => none
  | .slidednh _ _ _ => none
  | .bcast _ _ _ => none
  | .vcompress _ _ b => firstBroken [below 8 b]
  | .vcompressZ _ _ b => firstBroken [below 8 b]
  | .vexpand _ _ b => firstBroken [below 8 b]
  | .voteany d _ => firstBroken [below 8 d]
  | .voteall d _ => firstBroken [below 8 d]
  | .ballot d _ => firstBroken [below 8 d]
  | .rcp _ _ => none
  | .rsq _ _ => none
  | .sqrt _ _ => none
  | .log2 _ _ => none
  | .exp2 _ _ => none
  | .sin _ _ => none
  | .cos _ _ => none
  | .tanh _ _ => none
  | .drcp d a => firstBroken [multipleOf 2 d, multipleOf 2 a]
  | .dsqrt d a => firstBroken [multipleOf 2 d, multipleOf 2 a]
  | .ldlN8 _ _ _ o _ => firstBroken [ordBelow 2 o]
  | .ldlI8 _ _ _ o _ => firstBroken [ordBelow 2 o]
  | .ldlN16 _ _ _ o _ => firstBroken [ordBelow 2 o]
  | .ldlI16 _ _ _ o _ => firstBroken [ordBelow 2 o]
  | .ldl32 _ _ _ o _ => firstBroken [ordBelow 2 o]
  | .ldl64 _ d _ o _ => firstBroken [multipleOf 2 d, ordBelow 2 o]
  | .ldl128 _ d _ o _ => firstBroken [multipleOf 4 d, ordBelow 2 o]
  | .stl8 _ _ _ o _ => firstBroken [ordBelow 2 o]
  | .stl16 _ _ _ o _ => firstBroken [ordBelow 2 o]
  | .stl32 _ _ _ o _ => firstBroken [ordBelow 2 o]
  | .stl64 _ d _ o _ => firstBroken [multipleOf 2 d, ordBelow 2 o]
  | .stl128 _ d _ o _ => firstBroken [multipleOf 4 d, ordBelow 2 o]
  | .atlAdd _ _ _ o _ => firstBroken [ordBelow 2 o]
  | .atlMinI _ _ _ o _ => firstBroken [ordBelow 2 o]
  | .atlMaxI _ _ _ o _ => firstBroken [ordBelow 2 o]
  | .atlAnd _ _ _ o _ => firstBroken [ordBelow 2 o]
  | .atlOr _ _ _ o _ => firstBroken [ordBelow 2 o]
  | .atlXor _ _ _ o _ => firstBroken [ordBelow 2 o]
  | .atlXchg _ _ _ o _ => firstBroken [ordBelow 2 o]
  | .atlCas _ d _ o _ => firstBroken [multipleOf 2 d, ordBelow 2 o]
  | .stlE4 d _ o _ => firstBroken [multipleOf 2 d, ordBelow 2 o]
  | .stlE6 d _ o _ => firstBroken [multipleOf 2 d, ordBelow 2 o]
  | .ldgN8 _ _ _ o _ => firstBroken [ordBelow 5 o]
  | .ldgI8 _ _ _ o _ => firstBroken [ordBelow 5 o]
  | .ldgN16 _ _ _ o _ => firstBroken [ordBelow 5 o]
  | .ldgI16 _ _ _ o _ => firstBroken [ordBelow 5 o]
  | .ldg32 _ _ _ o _ => firstBroken [ordBelow 5 o]
  | .ldg64 _ d _ o _ => firstBroken [multipleOf 2 d, ordBelow 5 o]
  | .ldg128 _ d _ o _ => firstBroken [multipleOf 4 d, ordBelow 5 o]
  | .stg8 _ _ _ o _ => firstBroken [ordBelow 5 o]
  | .stg16 _ _ _ o _ => firstBroken [ordBelow 5 o]
  | .stg32 _ _ _ o _ => firstBroken [ordBelow 5 o]
  | .stg64 _ d _ o _ => firstBroken [multipleOf 2 d, ordBelow 5 o]
  | .stg128 _ d _ o _ => firstBroken [multipleOf 4 d, ordBelow 5 o]
  | .atgAdd _ _ _ o _ => firstBroken [ordBelow 7 o]
  | .atgMinI _ _ _ o _ => firstBroken [ordBelow 7 o]
  | .atgMaxI _ _ _ o _ => firstBroken [ordBelow 7 o]
  | .atgAnd _ _ _ o _ => firstBroken [ordBelow 7 o]
  | .atgOr _ _ _ o _ => firstBroken [ordBelow 7 o]
  | .atgXor _ _ _ o _ => firstBroken [ordBelow 7 o]
  | .atgXchg _ _ _ o _ => firstBroken [ordBelow 7 o]
  | .atgCas _ d _ o _ => firstBroken [multipleOf 2 d, ordBelow 7 o]
  | .stgE4 _ d _ o _ => firstBroken [multipleOf 2 d, ordBelow 5 o]
  | .stgE6 _ d _ o _ => firstBroken [multipleOf 2 d, ordBelow 5 o]
  | .atgCas64 _ d _ o _ => firstBroken [multipleOf 4 d, ordBelow 7 o]
  | .atgFadd _ _ _ o _ => firstBroken [ordBelow 7 o]
  | .redAdd _ _ _ o _ => firstBroken [ordBelow 7 o]
  | .redFadd _ _ _ o _ => firstBroken [ordBelow 7 o]
  | .redMinI _ _ _ o _ => firstBroken [ordBelow 7 o]
  | .redMaxI _ _ _ o _ => firstBroken [ordBelow 7 o]
  | .ldrq32 d _ o _ => firstBroken [multipleOf 2 d, ordBelow 1 o]
  | .ldrq128 d _ o _ => firstBroken [multipleOf 4 d, ordBelow 1 o]
  | .cstore d a o _ => firstBroken [multipleOf 2 d, ordBelow 7 o, below 8 a]
  | .pref d _ o _ => firstBroken [ordBelow 1 o, below 2 d]
  | .tex2d _ _ _ => none
  | .texfetch _ _ _ => none
  | .texrq _ _ _ => none
  | .texlod _ _ _ => none
  | .rayq _ _ b => firstBroken [multipleOf 4 b]
  | .rayq64 _ a b => firstBroken [multipleOf 2 a, multipleOf 4 b]
  | .raycont _ _ => none
  | .rayhit _ => none
  | .raycommit _ _ _ => none
  | .rayabort => none
  | .neval _ _ _ => none
  | .nevalH _ _ _ => none
  | .xsortI d _ _ => firstBroken [multipleOf 2 d]
  | .xsortN d _ _ => firstBroken [multipleOf 2 d]
  | .xsortF d _ _ => firstBroken [multipleOf 2 d]
  | .xscanAddI _ _ => none
  | .xscanAddF _ _ => none
  | .xscanMaxI _ _ => none
  | .xredAddI _ _ => none
  | .xredAddF _ _ => none
  | .xredMinI _ _ => none
  | .xredMaxI _ _ => none
  | .xhist _ _ => none
  | .xrank _ _ => none
  | .xsearch _ _ _ => none
  | .xmatch d _ => firstBroken [multipleOf 2 d]
  | .cpy _ a q => firstBroken [blockOf 8 a, below 4 q]
  | .qfence q m => firstBroken [below 4 q, below 16 m]
  | .qstat d q c => firstBroken [below 6 q, below 2 c, positive d]
  | .mloadw a => firstBroken [blockOf 2 a]
  | .mswap => none
  | .mstream a => firstBroken [blockOf 8 a]
  | .mdrain a => firstBroken [blockOf 4 a]
  | .mzero _ => none
  | .mstat d => firstBroken [positive d]
  | .ttstep a => firstBroken [blockOf 8 a]
  | .ttrun d a => firstBroken [multipleOf 2 d, blockOf 4 a]
  | .nflush => none
  | .ncfg _ => none
  | .binit d _ b => firstBroken [below 8 d, multipleOf 2 b]
  | .barr _ _ b => firstBroken [below 8 b]
  | .bwait _ _ => none
  | .bexpb _ _ => none
  | .bphase d _ => firstBroken [positive d]
  | .bbind d _ b => firstBroken [below 8 d, multipleOf 4 b]
  | .bdrop d _ => firstBroken [below 8 d]
  | .fenceG => none
  | .fenceD => none
  | .fenceV => none
  | .fenceS => none
  | .phinit d a => firstBroken [below 8 d, multipleOf 2 a]
  | .pharr _ _ => none
  | .getwork d => firstBroken [multipleOf 4 d]
  | .workdone _ => none
  | .cancel _ a => firstBroken [multipleOf 2 a]
  | .ccount d _ => firstBroken [positive d]
  | .enq d a _ => firstBroken [positive d, multipleOf 2 a]
  | .emitvp d a => firstBroken [positive d, blockOf 4 a]
  | .vclose d a => firstBroken [positive d, blockOf 2 a]
  | .refit d a => firstBroken [positive d, blockOf 8 a]
  | .hpart d _ => firstBroken [positive d]
  | .cinv a => firstBroken [blockOf 4 a]
  | .cflush a => firstBroken [blockOf 4 a]
  | .bra _ => none
  | .brt _ _ => none
  | .brf _ _ => none
  | .call _ => none
  | .brd _ _ => none
  | .brdn _ _ => none
  | .jmpr a => firstBroken [multipleOf 2 a]
  | .ret => none
  | .join a => firstBroken [below 8 a]
  | .waitc d _ => firstBroken [below 8 d]
  | .yieldSplit => none
  | .exitSplit => none
  | .repeatN _ => none
  | .trapSw _ => none
  | .sleep _ => none
  | .setpri p => firstBroken [below 4 p]
  | .brk => none
  | .rett => none
  | .tlbinv a => firstBroken [blockOf 4 a]
  | .sysrd _ n => firstBroken [below 8 n]
  | .syswr n _ => firstBroken [below 8 n]
  | .parkres a => firstBroken [multipleOf 2 a]
  | .fltrec d _ => firstBroken [multipleOf 8 d]
  | .powerOff => none
  | .firmwareUncorrectableError => none
  | .ptpHoldover => none
  | .eviction _ => none
  | .frameRingFill _ _ _ => none
  | .coreRetirement _ => none
  | .congestionNotification _ _ => none
  | .mkaKeyAgreement _ _ => none

/-- An instruction whose fields keep every rule that the word alone decides. -/
def Instr.wellFormed (i : Instr) : Bool := i.illFormed.isNone

end Sys2Proof
end

