-- ==== Sys2Proof/Machine/Ops.lean ====
section
/-! DEFINITION. The named operations of the machine: registers, splits, launches and their completions, taking an
exception and returning from one, and the conditions of issue that every instruction shares. -/

namespace Sys2Proof.Machine

/-- The outcome of an instruction or an event. -/
abbrev Out' := Host.Outcome State Fault Refusal

/-- An event that is not enabled: nothing happens but the note that it must wait. -/
def idle (s : State) : Out' := .next { s with stalled := some 31 }

/-! ### Access paths into the state -/

def State.modJob (s : State) (j : Nat) (f : Job → Job) : State := { s with jobs := s.jobs.modify j f }

/-- A message leaves for the outside. -/
def State.emit (s : State) (m : Out) : State := { s with outbox := s.outbox ++ [m] }

def State.modGroup (s : State) (g : Nat) (f : Group → Group) : State := { s with groups := s.groups.modify g f }
def State.modWave (s : State) (g w : Nat) (f : Wave → Wave) : State :=
  s.modGroup g (fun G => { G with waves := G.waves.modify w f })
def State.modCore (s : State) (c : Nat) (f : Core → Core) : State := { s with cores := s.cores.modify c f }
def State.modLaunch (s : State) (l : Nat) (f : Launch → Launch) : State := { s with launches := s.launches.modify l f }
def State.modQueue (s : State) (q : Nat) (f : Queue → Queue) : State :=
  { s with queues := s.queues.map (fun x => if x.num = q then f x else x) }

def State.core (s : State) (c : Nat) : Core := s.cores.getD c Core.reset
def State.wave? (s : State) (g w : Nat) : Option Wave := (s.groups[g]?).bind (fun G => G.waves[w]?)
def State.queue? (s : State) (q : Nat) : Option Queue := s.queues.find? (fun x => x.num = q)
def State.now (s : State) : Nat := s.dtime.toNat

/-- Draw the next free number (assumption 6). -/
def State.draw (s : State) : Nat × State := (Config.freeNat s.free, { s with free := s.free + 1 })

/-- Draw the next free choice (assumption 6). -/
def State.drawBit (s : State) : Bool × State := (Config.freeBit s.free, { s with free := s.free + 1 })

/-! ### The device configuration block (spec/16 R386) -/

def State.cfgWord (s : State) (n : Nat) : Word := s.cfg.getD n 0#32
def State.cfgSet (s : State) (n : Nat) (x : Word) : State := { s with cfg := s.cfg.set n x }
/-- Mode bit of spec/13 R362: true is host-assisted. -/
def State.mode (s : State) (b : Nat) : Bool := (s.cfgWord 0).getLsbD b
def State.cfgByte (s : State) (b : Nat) : Nat := ((s.cfgWord (b / 4)).toNat / 2 ^ (8 * (b % 4))) % 256
/-- PRIV[c]: private units of core c's column. -/
def State.priv (s : State) (c : Nat) : Nat := s.cfgByte (128 + c)

/-! ### The mix (spec/00 R2 R3) -/

/-- Die of a logical core. -/
def dieOf (c : Nat) : Nat := if c < 96 then c / 12 else 8 + (c - 96) / 8

def shading (c : Nat) : Bool := c < 96

def Mix.shadingDies : Mix → Nat
  | .g1s4m2 => 4
  | .g2s8m4 | .g0s8m4 => 8
def Mix.geometryDies : Mix → Nat
  | .g2s8m4 => 2
  | .g1s4m2 => 1
  | .g0s8m4 => 0
def Mix.memoryDies : Mix → Nat
  | .g1s4m2 => 2
  | .g2s8m4 | .g0s8m4 => 4

/-- The logical core exists: its die is listed as present (spec/00 R5, spec/16 R390). -/
def State.corePresent (s : State) (c : Nat) : Bool :=
  decide (c < 112) && ((s.dies[dieOf c]?).map (fun d => d.pres && d.rpr != 3)).getD false

def State.diePresent (s : State) (d : Nat) : Bool := ((s.dies[d]?).map (fun x => x.pres && x.rpr != 3)).getD false

/-! ### What instruction fetch sees (spec/15 R375) -/

/-- Memory as a fetch that misses the caches reads it from now on: with the queued reductions applied. -/
def State.codeNow (s : State) : CodeView :=
  let t := s.redQueue.foldl State.applyRed s
  { mem := t.mem, memP := t.memP }

/-- The instruction caches of a core are invalidated: until they are again, fetch reads memory as it stands now. -/
def State.refetch (s : State) (core : Nat) : State :=
  s.modCore core (fun c => { c with icache := [], code := some s.codeNow, late := [] })

/-! ### Fields of the launch record (spec/13 R336) -/

def Launch.w (l : Launch) (n : Nat) : Word := l.words.getD n 0#32
def Launch.dw (l : Launch) (n : Nat) : DWord := pairOf (l.w n) (l.w (n + 1))
def Launch.geom (l : Launch) : Bool := (l.w 0).getLsbD 9
def Launch.cres (l : Launch) : Bool := (l.w 0).getLsbD 10
def Launch.rstr (l : Launch) : Bool := (l.w 0).getLsbD 11
def Launch.wantsTree (l : Launch) : Bool := (l.w 0).getLsbD 12
def Launch.pers (l : Launch) : Bool := (l.w 0).getLsbD 13
def Launch.prio (l : Launch) : Nat := ((l.w 0).extractLsb' 14 3).toNat
def Launch.width (l : Launch) : Nat := 16 * 2 ^ ((l.w 0).extractLsb' 17 2).toNat
def Launch.id (l : Launch) : Word := l.w 1
def Launch.code (l : Launch) : DWord := l.dw 2
def Launch.traph (l : Launch) : DWord := l.dw 4
def Launch.args (l : Launch) : DWord := l.dw 6
def Launch.lregs (l : Launch) : Nat := ((l.w 8).extractLsb' 0 8).toNat
def Launch.sregs (l : Launch) : Nat := ((l.w 8).extractLsb' 8 8).toNat
def Launch.waves (l : Launch) : Nat := ((l.w 8).extractLsb' 16 5).toNat
def Launch.bars (l : Launch) : Nat := ((l.w 8).extractLsb' 21 7).toNat
def Launch.localBytes (l : Launch) : Nat := ((l.w 9).extractLsb' 0 10).toNat * 1024
def Launch.acm (l : Launch) : Nat := ((l.w 9).extractLsb' 10 10).toNat
def Launch.colw (l : Launch) : Nat := ((l.w 9).extractLsb' 20 4).toNat
def Launch.grid (l : Launch) : Nat := (l.dw 10).toNat
def Launch.cset (l : Launch) : DWord := l.dw 12
def Launch.ntab (l : Launch) : DWord := l.dw 14
def Launch.txbase (l : Launch) : DWord := l.dw 16
def Launch.txcount (l : Launch) : Nat := (l.w 18).toNat
def Launch.refb (l : Launch) : Nat := ((l.w 19).extractLsb' 0 16).toNat
def Launch.latb (l : Launch) : Nat := (l.w 20).toNat
def Launch.eph (l : Launch) : Nat := (l.w 21).toNat
def Launch.ptiles (l : Launch) : Nat := (l.w 22).toNat
def Launch.pkiter (l : Launch) : Nat := (l.w 23).toNat
def Launch.fbuf (l : Launch) : DWord := l.dw 24
def Launch.fixb (l : Launch) : DWord := l.dw 26
/-- The record of format slot n. -/
def Launch.slotRecord (l : Launch) (n : Nat) : DWord := l.dw (32 + 2 * n)
def Launch.slot (l : Launch) (n : Nat) : Slot := Slot.ofRecord (l.slotRecord n)

def Launch.empty : Launch :=
  { job := 0, words := [], queue := 0, index := 0, graph := none, lrec := 0, csetNums := [], next := 0, again := [], completed := 0#32, bindRefused := [],
    cancelled := false, faulted := none, anyCancelled := false, ended := false, tree := none, charge := (0, 1) }

def State.launch (s : State) (l : Nat) : Launch := s.launches.getD l Launch.empty

def Job.empty : Job :=
  { live := false, tag := 0, root := 0, wtab := 0, qtab := 0, qcount := 0, saveb := 0, savel := 0, key := 0#32,
    frame := 0, counter := 0#32, ending := none }

def State.job (s : State) (j : Nat) : Job := s.jobs.getD j Job.empty

/-! ### Registers (spec/01 R32, spec/03 R78) -/

def Wave.vget (wv : Wave) (r lane : Nat) : Word := (wv.v.getD r []).getD lane 0#32
def setBit (m : Mask) (i : Nat) (b : Bool) : Mask := if b then m ||| Mask.bit i else m &&& ~~~(Mask.bit i)
/-- Write an element; the write sets or clears its poison mark. -/
def Wave.vset (wv : Wave) (r lane : Nat) (x : Word) (p : Bool) : Wave :=
  { wv with v := wv.v.modify r (fun row => row.set lane x), vp := wv.vp.modify r (fun m => setBit m lane p) }
def Wave.vpoison (wv : Wave) (r lane : Nat) : Bool := (wv.vp.getD r 0#64).getLsbD lane
/-- s0 reads 0 and ignores writes. -/
def Wave.sget (wv : Wave) (r : Nat) : Word := if r = 0 then 0#32 else wv.s.getD r 0#32
def Wave.sset (wv : Wave) (r : Nat) (x : Word) (p : Bool) : Wave :=
  if r = 0 then wv else { wv with s := wv.s.set r x, sp := wv.sp.set r p }
def Wave.spoison (wv : Wave) (r : Nat) : Bool := r != 0 && wv.sp.getD r false
/-- k0 reads as the active mask and ignores writes; a write changes only the bits of active lanes. -/
def Wave.kget (wv : Wave) (act : Mask) (k : Nat) : Mask := if k = 0 then act else wv.k.getD k 0#64
def Wave.kput (wv : Wave) (act : Mask) (k : Nat) (m : Mask) : Wave :=
  if k = 0 then wv else { wv with k := wv.k.modify k (fun o => (o &&& ~~~act) ||| (m &&& act)) }
/-- c0 reads 1 and ignores writes. -/
def Wave.cget (wv : Wave) (c : Nat) : Bool := if c = 0 then true else wv.c.getD c false
def Wave.cset (wv : Wave) (c : Nat) (b : Bool) : Wave := if c = 0 then wv else { wv with c := wv.c.set c b }
def Wave.spair (wv : Wave) (r : Nat) : DWord := pairOf (wv.sget r) (wv.sget (r + 1))
def Wave.vpair (wv : Wave) (r lane : Nat) : DWord := pairOf (wv.vget r lane) (wv.vget (r + 1) lane)
/-- `n` uniform registers from `r`. -/
def Wave.sblock (wv : Wave) (r n : Nat) : List Word := (List.range n).map (fun i => wv.sget (r + i))
/-- Several elements from register `r` of a lane. -/
def Wave.vsets (wv : Wave) (r lane : Nat) : List Word → Wave
  | [] => wv
  | x :: t => (wv.vset r lane x false).vsets (r + 1) lane t
def Wave.ssets (wv : Wave) (r : Nat) : List Word → Wave
  | [] => wv
  | x :: t => (wv.sset r x false).ssets (r + 1) t
def Wave.setSticky (wv : Wave) (f : Word) : Wave := { wv with sr := { wv.sr with sticky := wv.sr.sticky ||| f } }
def Wave.rm (wv : Wave) : Rnd := Rnd.ofRM wv.sr.fpmode

/-! ### Splits (spec/03 R81 to R88) -/

/-- Index that stands for the trap entry of a wave (spec/13 R356). -/
def trapIdx : Nat := 64

def Wave.entry (wv : Wave) (sp : Nat) : Split :=
  if sp = trapIdx then wv.trap.entry else wv.splits.getD sp Split.empty
def Wave.setEntry (wv : Wave) (sp : Nat) (e : Split) : Wave :=
  if sp = trapIdx then { wv with trap := { wv.trap with entry := e } } else { wv with splits := wv.splits.set sp e }
def Wave.modEntry (wv : Wave) (sp : Nat) (f : Split → Split) : Wave := wv.setEntry sp (f (wv.entry sp))
def Wave.trapLevel (wv : Wave) (sp : Nat) : Bool := sp == trapIdx && wv.state == .trap

/-- Lowest-numbered free entry (R83). -/
def Wave.freeEntry (wv : Wave) : Option Nat := wv.splits.findIdx? (fun e => e.st == .free)

/-- Entries in use with their indices, ascending. -/
def Wave.valid (wv : Wave) : List (Nat × Split) :=
  (wv.splits.zipIdx.map (fun p => (p.2, p.1))).filter (fun p => p.2.st != .free)

/-- A split is Ready again at a bundle, slot 1, with no repeat state. -/
def Split.at (e : Split) (pc : DWord) : Split :=
  { e with pc := pc, slot := 1, rptn := 0, rpti := 0, rpta := false, rptNext := none }

/-- Lanes in Join at a bundle. -/
def Wave.here (wv : Wave) (rja : DWord) : Mask :=
  wv.valid.foldl (fun m p => if p.2.st == .join && p.2.rja == rja then m ||| p.2.mask else m) 0#64

/-- The join of split `i` is complete (R87). -/
def Wave.joinDone (wv : Wave) (i : Nat) : Bool :=
  let e := wv.entry i
  e.st == .join && (e.exp &&& wv.live &&& ~~~(wv.here e.rja)) == 0#64

/-- Merge at the join of split `i` (R87): the lowest index keeps the union of the masks. -/
def Wave.merge (wv : Wave) (i : Nat) : Wave :=
  let e := wv.entry i
  let m := wv.valid.filter (fun p => p.2.st == .join && p.2.rja == e.rja && (p.2.mask &&& ~~~e.exp) == 0#64)
  match m with
  | [] => wv
  | (lo, _) :: _ =>
    let mask := m.foldl (fun a p => a ||| p.2.mask) 0#64
    let cleared := m.foldl (fun wv p => wv.setEntry p.1 Split.empty) wv
    cleared.setEntry lo { (Split.at Split.empty (e.rja + 16#64)) with
      mask := mask, st := .ready, fence := m.flatMap (fun p => p.2.fence) }

/-- Evaluate joins until nothing changes (R87). -/
def Wave.joins : Nat → Wave → Wave
  | 0, wv => wv
  | fuel + 1, wv =>
    match wv.valid.find? (fun p => wv.joinDone p.1) with
    | some p => Wave.joins fuel (wv.merge p.1)
    | none => wv

/-- Every valid entry waits in Join (R88). -/
def Wave.deadlocked (wv : Wave) : Bool := !wv.valid.isEmpty && wv.valid.all (fun p => p.2.st == .join)

/-- Joins and join-deadlock releases: the wave, and how many releases took place (R87 R88). -/
def Wave.settle : Nat → Wave → Wave × Nat
  | 0, wv => (wv, 0)
  | fuel + 1, wv =>
    let wv := wv.joins 65
    if wv.state == .resident && wv.deadlocked then
      match wv.valid with
      | [] => (wv, 0)
      | (i, e) :: _ =>
        let r := Wave.settle fuel
          ((wv.setEntry i { (e.at (e.rja + 16#64)) with st := .ready, exp := 0#64, rja := 0#64 }).setSticky stickyJBRK)
        (r.1, r.2 + 1)
    else (wv, 0)

/-- Lanes leave a split for ever (R80): they are dead, their pending elements are discarded. An entry with no lane left
is freed. -/
def Wave.kill (wv : Wave) (lanes : Mask) : Wave :=
  { wv with
    live := wv.live &&& ~~~lanes
    splits := wv.splits.map (fun e =>
      if e.st == .free then e
      else if (e.mask &&& ~~~lanes) == 0#64 then Split.empty
      else { e with mask := e.mask &&& ~~~lanes }) }

/-! ### Completion of pending instructions (spec/03 R96 R99 R101) -/

/-- Decrement counter class `c`; class 8 is none. -/
def Wave.leave (wv : Wave) (c : Nat) : Wave := { wv with counters := wv.counters.modify c (fun n => n - 1) }

/-- Change every split of the wave, the handler split of a wave in Trap too. -/
def Wave.mapEntries (wv : Wave) (f : Split → Split) : Wave :=
  { wv with splits := wv.splits.map f, trap := { wv.trap with entry := f wv.trap.entry } }

/-- Every split of the wave, the handler split too. -/
def Wave.entries (wv : Wave) : List Split := wv.splits ++ [wv.trap.entry]

/-- A split in Counter wait whose counter has fallen is Ready (R84 R103). -/
def Wave.counterWake (wv : Wave) : Wave :=
  wv.mapEntries (fun e =>
    if e.st == .counter && wv.counters.getD e.wcls 0 ≤ e.wn then { e with st := .ready } else e)

def Wave.pend? (wv : Wave) (id : Nat) : Option Pend := wv.pend.find? (fun p => p.id == id)
def Wave.modPend (wv : Wave) (id : Nat) (f : Pend → Pend) : Wave :=
  { wv with pend := wv.pend.map (fun p => if p.id == id then f p else p) }

/-- A pending instruction has completed: it leaves its counter and the scoreboard. -/
def Wave.retirePend (wv : Wave) (id : Nat) : Wave :=
  match wv.pend? id with
  | none => wv
  | some p =>
    ({ wv with pend := wv.pend.filter (fun q => q.id != id) }.leave p.cls).counterWake

/-- Lanes leave a pending instruction without a result; it completes when none is left. -/
def Wave.shedLanes (wv : Wave) (id : Nat) (lanes : Mask) : Wave :=
  let wv := wv.modPend id (fun p => { p with lanes := p.lanes &&& ~~~lanes })
  match wv.pend? id with
  | some p => if p.lanes = 0#64 then wv.retirePend id else wv
  | none => wv

/-- The shares of lanes in pending ray instructions end with their rays. -/
def Wave.shedRays (wv : Wave) (lanes : Mask) : Wave :=
  wv.pend.foldl (fun wv p => if p.kind == .ray then wv.shedLanes p.id lanes else wv) wv

/-- Write the elements of an instruction that completes; a dead lane discards its own (R80). -/
def Wave.writeAll (wv : Wave) (uni : Bool) : List Wr → Wave
  | [] => wv
  | x :: t =>
    (if uni then wv.sset x.reg x.val x.poison
     else if wv.live.getLsbD x.lane then wv.vset x.reg x.lane x.val x.poison
     else wv).writeAll uni t

/-- Some access of the instruction is still to be performed. -/
def Pend.open (p : Pend) : Bool := p.accs.any (fun a => a.live)

/-! ### Barrier objects: completion of a phase (spec/07 R205 R209 R210) -/

/-- The phase has passed v (R210). -/
def passed (phase v : BitVec 16) : Bool := let d := (phase - v).toNat; 1 ≤ d && d ≤ 32767

/-- A split waits on object `nb`. -/
def Split.waitsOn (e : Split) (nb : Nat) : Bool :=
  (e.st == .barrier || (e.st == .debugParked && e.prior == .barrier)) && e.bobj == nb && e.origin.isSome

/-- A completion of object `nb` has woken the split, and it is not Ready yet (R209). -/
def Split.wokenBy (e : Split) (nb : Nat) : Bool :=
  (e.st == .barrier || (e.st == .debugParked && e.prior == .barrier)) && e.bobj == nb && e.origin.isNone

/-- The bits of the waves with a split of a kind. -/
def Group.wavesWith (G : Group) (p : Split → Bool) : BitVec 16 :=
  G.waves.zipIdx.foldl (fun m x => if x.1.entries.any p then m ||| BitVec.shiftLeft 1#16 x.2 else m) 0#16

/-- The bits of the waves with a split that waits on object `nb`. -/
def Group.waiters (G : Group) (nb : Nat) : BitVec 16 := G.wavesWith (fun e => e.waitsOn nb)

/-- WAIT of every object after splits of the group have ended. -/
def Group.refreshWaits (G : Group) : Group :=
  { G with bars := G.bars.zipIdx.map (fun p => { p.1 with wait := G.waiters p.2 }) }

/-- Wake the splits whose value has passed: OBS shows their waves until they are Ready, WAIT the waves that still hold a
waiting split, as its meaning in R204 has it (DEDUCED, assumption 59). `now` is the core's sr.ccycle (R209). -/
def Group.wakeBarrier (G : Group) (nb : Nat) (now : DWord) : Group :=
  let ph := (G.bars.getD nb Barrier.empty).phase
  let wake := fun (e : Split) => if e.waitsOn nb && passed ph e.bval then { e with origin := none } else e
  let G := { G with waves := G.waves.map (fun (wv : Wave) => wv.mapEntries wake) }
  { G with bars := G.bars.modify nb (fun b =>
      { b with wait := G.waiters nb, obs := G.wavesWith (fun e => e.wokenBy nb), since := now }) }

/-- The woken splits of object `nb` become Ready, and OBS is 0 (R209). -/
def Group.observe (G : Group) (nb : Nat) : Group :=
  let rise := fun (e : Split) =>
    if e.wokenBy nb then (if e.st == .debugParked then { e with prior := .ready } else { e with st := .ready }) else e
  { G with waves := G.waves.map (fun (wv : Wave) => wv.mapEntries rise), bars := G.bars.modify nb (fun b => { b with obs := 0#16 }) }

/-- Splits become Ready whose object has completed 2 cycles ago (R209). -/
def Group.observeAt (G : Group) (now : DWord) : Group :=
  ((List.range G.bars.length).filter (fun nb =>
    let b := G.bars.getD nb Barrier.empty
    b.obs != 0#16 && decide (2 ≤ (now - b.since).toNat))).foldl Group.observe G

/-! ### Queues, completions, ends of groups and launches (spec/13 R335 R339 R341) -/

def stOK : Nat := 0
def stCancelled : Nat := 1
def stFaulted : Nat := 10

/-- The detail words of a completion: CAUSE and VA[31:0] of the first fault record, for FAULTED (R335). -/
def faultDetail (r : Option Rec) : Word × Word :=
  match r with
  | some r => (BitVec.ofNat 32 r.cause, lo32 r.va)
  | none => (0#32, 0#32)

/-- Refresh charge of a launch in µs, as its completion reports it (spec/14 R372). -/
def Launch.charged (L : Launch) : Word := BitVec.ofNat 32 (min (L.charge.1 / L.charge.2) (2 ^ 32 - 1))

/-- Queue a completion: kind, status, w1, index, detail words (R335). -/
def State.addComp (s : State) (q kind status : Nat) (w1 w2 w3 w6 w7 : Word) : State :=
  s.modQueue q (fun x => { x with comps := x.comps ++ [{ words :=
    [BitVec.ofNat 32 (kind + 256 * status), w1, w2, w3, lo32 s.dtime, hi32 s.dtime, w6, w7] }] })

/-- An entry that the device has taken completes (R335 R339). -/
def State.completeEntry (s : State) (q index status : Nat) (w1 w3 w6 w7 : Word) : State :=
  match s.queue? q with
  | none => s
  | some x =>
    let kind := ((x.taken.find? (fun t => t.index == index)).map (fun t => t.kind)).getD 0
    let s := s.modQueue q (fun x => { x with taken := x.taken.filter (fun t => t.index != index) })
    let s : State := { s with jobs := s.jobs.modify x.job (fun j => { j with counter := j.counter + 1#32 }) }
    s.addComp q kind status w1 (BitVec.ofNat 32 index) w3 w6 w7

/-- A graph whose nodes have all ended completes (R338). -/
def State.graphCheck (s : State) (i : Nat) : State :=
  match s.graphs[i]? with
  | none => s
  | some gr =>
    let busy := gr.states.any (fun n => n == .running || (n == .waiting && gr.status == 0))
    if gr.ended || busy then s
    else
      let s : State := { s with graphs := s.graphs.modify i (fun x => { x with ended := true }) }
      let d := faultDetail (if gr.status = stFaulted then gr.first else none)
      s.completeEntry gr.queue gr.index gr.status gr.id 0#32 d.1 d.2

/-- A launch whose groups have all ended completes (R339): its tree context is free, cached network descriptors of its
table go (spec/10 R268), its entry or node is done. -/
def State.launchCheck (s : State) (l : Nat) : State :=
  let L := s.launch l
  let active := s.groups.any (fun G => G.launch == l && (G.state == .resident || G.state == .saved))
  if L.ended || active || (!L.cancelled && (decide (L.next < L.grid) || !L.again.isEmpty)) then s
  else
    let status := if L.faulted.isSome then stFaulted else if L.anyCancelled || L.cancelled then stCancelled else stOK
    let s := s.modLaunch l (fun x => { x with ended := true })
    let s : State := { s with
      trees := s.trees.map (fun t => if t.owner == some l then Tree.empty else t)
      cores := s.cores.map (fun c => { c with dcache := c.dcache.filter (fun d =>
        !(d.1.tag == (s.job L.job).tag && d.1.tbase == L.ntab)) }) }
    match L.graph with
    | none => s.completeEntry L.queue L.index status L.id L.charged (faultDetail L.faulted).1 (faultDetail L.faulted).2
    | some (gi, n) =>
      let st := if status = 0 then NodeState.ok else .failed
      let s : State := { s with graphs := s.graphs.modify gi (fun x =>
        { x with states := x.states.set n st, counter := x.counter + 1#32,
                 status := if x.status = 0 then status else x.status, first := x.first.orElse (fun _ => L.faulted) }) }
      s.graphCheck gi

/-- Fatal codes of spec/08 Table 08.5, of spec/09 Table 09.8 and of spec/10 R283. -/
def fatalCode (n : Nat) : Bool := (decide (3 ≤ n) && decide (n ≤ 10)) || (decide (13 ≤ n) && decide (n ≤ 16))

/-- The status word of a group among those of a list; one that is not listed reads 0. -/
def statusIn (l : List QStat) (g sel : Nat) : QStat :=
  (l.find? (fun q => q.group == g && q.sel == sel)).getD { group := g, sel := sel, code := 0, halt := false, ticket := 0 }

/-- A status reported to a list of status words: CODE keeps the first, a fatal one sets HALT (spec/08 R232 R233). -/
def reportIn (l : List QStat) (g sel code ticket : Nat) : List QStat :=
  if code = 0 then l
  else
    let q := statusIn l g sel
    let q' := { q with
      code := if q.code = 0 then code else q.code
      ticket := if q.code = 0 then ticket else q.ticket
      halt := q.halt || fatalCode code }
    q' :: l.filter (fun x => !(x.group == g && x.sel == sel))

/-- A drain that a cancel finds within a row ends after that row (spec/09 R263): its M counts the rows up to it. -/
def Cmd.cutShort (x : Cmd) : Cmd :=
  { x with desc := x.desc.modify 1 (fun w => (w &&& ~~~0x03FF_0000#32) ||| BitVec.ofNat 32 ((x.done / 128 + 1) * 2 ^ 16)) }

/-- A drain within a row. -/
def Cmd.midRow (x : Cmd) : Bool := x.op == .mdrain && x.started && x.stop.isNone && x.status == 0 && x.done % 128 != 0

/-- The tile without a group's requests; a tile that none is left in is free. -/
def NTile.without (t : NTile) (g : Nat) : Option NTile :=
  let rows := t.rows.filter (fun x => x.group != g)
  let results := t.results.filter (fun x => x.1.group != g)
  if (t.stage == .scattering && results.isEmpty) || (t.stage != .scattering && rows.isEmpty) then none
  else some { t with rows := rows, results := results }

/-- The units of a core drop a group's commands, requests and rays (R80 R276 R304). The commands complete as CANCELLED
(spec/08 R234, code 12); a drain ends with its present row, a load leaves the shadow plane Empty (spec/09 R263). -/
def Core.dropWork (c : Core) (g : Nat) : Core :=
  let gone := fun (q : List Cmd) => q.find? (fun x => x.group == g && !x.midRow)
  { c with
    queues := c.queues.map (fun q => (q.filter (fun x => x.group != g || x.midRow)).map (fun x => if x.group = g then x.cutShort else x))
    qstat := c.queues.zipIdx.foldl (fun l p =>
      match gone p.1 with
      | some x => reportIn l g p.2 12 x.seq
      | none => l) c.qstat
    shadow := if c.queues.any (fun q => q.any (fun x => x.group == g && x.op == .mloadw && x.started)) then Plane.empty else c.shadow
    pool := c.pool.filter (fun x => x.group != g)
    tile := c.tile.bind (fun t => t.without g)
    rays := c.rays.filter (fun x => x.group != g) }

/-- The core gives up what the group held (R80 R150 R263 R276 R296 R342): its slot, its commands, requests and rays, its
scratch, and for a matrix group the planes. -/
def Core.release (c : Core) (g slot : Nat) (matrix : Bool) : Core :=
  let c := c.dropWork g
  let c := { c with
    queues := c.queues.map (fun q => q.filter (fun x => x.group != g))
    binds := c.binds.modify slot (fun ws => ws.set 0 (ws.getD 0 0#32 &&& ~~~1#32))
    qstat := c.qstat.filter (fun x => x.group != g) }
  let c := if c.holder == some g then { c with holder := none, ways := 0, scr := [], scrP := [] } else c
  if matrix then { c with active := Plane.empty, shadow := Plane.empty } else c

/-- A group has completed, was saved or cancelled: refused bindings are asked for again (R363). -/
def State.askAgain (s : State) : State := { s with launches := s.launches.map (fun L => { L with bindRefused := [] }) }

/-- The commands of a group in units outside its core end; a refit that has started runs on. -/
def State.dropUnits (s : State) (g : Nat) : State :=
  { s with gcmds := s.gcmds.filter (fun x => x.group != g), refits := s.refits.filter (fun x => x.group != g || x.started) }

/-- What commands of a group have left to do on cores that it has been saved from ends (spec/08 R234). -/
def State.dropElsewhere (s : State) (g core : Nat) : State :=
  { s with cores := s.cores.zipIdx.map (fun c =>
      if c.2 = core then c.1 else { c.1 with queues := c.1.queues.map (fun q => q.filter (fun x => x.group != g)) }) }

/-- A group ends in a state: completed, cancelled or faulted. Its queued reductions are applied first (spec/06 R179). -/
def State.endGroup (s : State) (g : Nat) (st : GroupState) (rec : Option Rec) : State :=
  match s.groups[g]? with
  | none => s
  | some G =>
    if G.state != .resident && G.state != .saved then s
    else
      let s := (s.drainGroup g).dropElsewhere g G.core
      let s := if G.state == .resident then
          s.modCore G.core (fun c => c.release g G.slot (decide (0 < (s.launch G.launch).acm)))
        else s.modCore G.core (fun c => { c with queues := c.queues.map (fun q => q.filter (fun x => x.group != g)) })
      let s := s.modGroup g (fun G => { G with state := st, faultRec := G.faultRec.orElse (fun _ => rec), waves := G.waves.map (fun wv =>
          { wv with state := .retired, live := 0#64, splits := wv.splits.map (fun _ => Split.empty), pend := [],
                    counters := List.replicate 8 0, rays := 0#64, trap := { wv.trap with entry := Split.empty } }) })
      let s := (s.dropUnits g).askAgain
      let s := s.modLaunch G.launch (fun L =>
        match st with
        | .completed => { L with completed := L.completed + 1#32 }
        | .faulted => { L with faulted := L.faulted.orElse (fun _ => rec) }
        | .cancelled => { L with anyCancelled := true }
        | .resident | .saved => L)
      s.launchCheck G.launch

/-- A flush: the group is cancelled without completion and waits to be placed again from its start (R351). -/
def State.flushGroup (s : State) (g : Nat) : State :=
  match s.groups[g]? with
  | none => s
  | some G =>
    let s := (s.modLaunch G.launch (fun L => { L with again := L.again ++ [G.gidx] })).dropElsewhere g G.core
    let s := s.modCore G.core (fun c => c.release g G.slot (decide (0 < (s.launch G.launch).acm)))
    let s := s.modGroup g (fun G => { G with state := .cancelled, waves := [] })
    (s.dropUnits g).askAgain

/-- Commands of the group in the engines of its core or of the device (R80 R339). -/
def State.groupBusy (s : State) (g : Nat) : Bool :=
  match s.groups[g]? with
  | none => false
  | some G =>
    s.cores.any (fun c => c.queues.any (fun q => q.any (fun x => x.group == g))) || s.gcmds.any (fun x => x.group == g) ||
      s.refits.any (fun x => x.group == g) || G.waves.any (fun wv => wv.pend.any (fun p => p.cls == 3))

/-- A group whose waves have all retired and whose commands have completed completes, or ends as its waves have ended
(R339). -/
def State.groupCheck (s : State) (g : Nat) : State :=
  match s.groups[g]? with
  | none => s
  | some G =>
    if G.state == .resident && G.waves.all (fun wv => wv.state == .retired) && !s.groupBusy g then
      match G.ending with
      | none => s.endGroup g .completed none
      | some .cancelled => s.endGroup g .cancelled none
      | some (.faulted r) => s.endGroup g .faulted r
      | some .flushed => s.flushGroup g
    else s

/-- A wave ends: its lanes are dead; the accesses that it has issued are still performed (R80 R335). -/
def Wave.finish (wv : Wave) : Wave :=
  let keep := wv.pend.filter (fun p =>
    (match p.kind with
      | .mem _ => true
      | _ => false) && p.open)
  { wv with
    state := if wv.state == .retired || keep.isEmpty then .retired else .retiring
    live := 0#64, splits := wv.splits.map (fun _ => Split.empty), pend := keep,
    counters := (List.range 8).map (fun c => (keep.filter (fun p => p.cls == c)).length), rays := 0#64
    trap := { wv.trap with entry := Split.empty, held := [] } }

/-- The waves of a group end by a cancel, a fault or a flush; a saved group has nothing more to perform. Its commands, requests and rays are dropped; the group has
ended when every access that its waves have issued has been performed, as a completion requires (R335 R341). -/
def State.finishGroup (s : State) (g : Nat) (how : Ending) : State :=
  match s.groups[g]? with
  | none => s
  | some G =>
    if G.state == .saved then
      match how with
      | .cancelled => s.endGroup g .cancelled none
      | .faulted r => s.endGroup g .faulted r
      | .flushed => s
    else if G.state != .resident then s
    else if G.ending.isSome then
      (if G.ending == some .flushed && how == .cancelled then s.modGroup g (fun G => { G with ending := some how }) else s)
    else
      let s := (s.modCore G.core (fun c => c.dropWork g)).dropElsewhere g G.core
      let s := s.modGroup g (fun G => { G with ending := some how, waves := G.waves.map (fun (wv : Wave) => wv.finish), barRel := [] })
      (s.dropUnits g).groupCheck g

/-! ### Bundle boundaries (R341 R351 R353) -/

/-- The debugger has parked or frozen the wave: R79 calls it Stopped. -/
def Wave.halted (wv : Wave) : Bool := wv.frozen || wv.state == .stopped

/-- A split that still runs inside a bundle. One that waits for a counter or sleeps there ends its bundle first before a
cancel or a flush; a save keeps it as it waits (R353 R354). -/
def Split.inside (e : Split) (save : Bool) : Bool :=
  (e.st == .ready || e.wokenBy e.bobj || (!save && (e.st == .counter || e.st == .sleep))) && decide (1 < e.slot)

/-- Every split that issues stands at a bundle boundary. A wave that the debugger has stopped or frozen ends with a cancel; it is
neither saved nor flushed before it is resumed (spec/15 R381, R351). -/
def Group.atBoundary (G : Group) : Bool :=
  let save := G.stopping == some .save
  G.waves.all (fun wv => if wv.halted then G.stopping == some .cancel else
    !(match wv.state with
      | .resident => wv.splits.any (fun e => e.inside save)
      | .trap => wv.trap.entry.inside save
      | _ => false))

/-- A stopping group whose splits stand at boundaries ends or is flushed; a save waits for GROUP_SAVE. -/
def State.boundary (s : State) (g : Nat) : State :=
  match s.groups[g]? with
  | none => s
  | some G =>
    if G.state == .resident && G.atBoundary then
      match G.stopping with
      | some .cancel => s.finishGroup g .cancelled
      | some .flush => s.finishGroup g .flushed
      | some .save | some .drain | none => s
    else s

/-- Cancel a group (R341): a resident one at its next bundle boundaries, a saved one at once. -/
def State.cancelGroup (s : State) (g : Nat) : State :=
  match s.groups[g]? with
  | none => s
  | some G =>
    if G.state == .saved then s.endGroup g .cancelled none
    else if G.state == .resident then (s.modGroup g (fun G => { G with stopping := some .cancel })).boundary g
    else s

/-- After splits or lanes of a wave changed: joins, releases (counted at the core, R88), Retiring (R79). -/
def State.settle (s : State) (g w : Nat) : State :=
  match s.groups[g]?, s.wave? g w with
  | some G, some wv =>
    if wv.state == .resident then
      let (wv', n) := wv.settle 65
      let wv' := if wv'.live == 0#64 then { wv' with state := .retiring } else wv'
      let s := s.modWave g w (fun _ => wv')
      if n = 0 then s
      else s.modCore G.core (fun c => { c with dbg := { c.dbg with jrel :=
        if c.dbg.jrel.toNat + n < 2 ^ 32 then c.dbg.jrel + BitVec.ofNat 32 n else 0xFFFFFFFF#32 } })
    else if wv.state == .trap && wv.live == 0#64 then
      s.modWave g w (fun wv => { wv with state := .retiring, trap := { wv.trap with entry := Split.empty } })
    else s
  | _, _ => s

/-! ### Causes and records (spec/13 Table 13.8, spec/06 R181) -/

def cIllegalBundle : Nat := 1
def cIllegalInsn : Nat := 2
def cPriv : Nat := 3
def cMisalignedTarget : Nat := 4
def cUnitAbsent : Nat := 5
def cLookahead : Nat := 6
def cSwTrap : Nat := 7
def cBreakpoint : Nat := 8
def cFp : Nat := 9
def cMisaligned : Nat := 10
def cLocalRange : Nat := 11
def cGlobalRange : Nat := 12
def cPageFault : Nat := 13
def cColumn : Nat := 14
def cPermission : Nat := 15
def cBadEntry : Nat := 16
def cPoison : Nat := 17
def cCompressed : Nat := 18
def cRemote : Nat := 19
def cBadDescriptor : Nat := 20
def cBarrier : Nat := 21
def cNeval : Nat := 22
def cBond : Nat := 23
def cRay : Nat := 24
def cTex : Nat := 25
def cWork : Nat := 26

/-- SVC is 1 only for causes 13 and 14. -/
def serviceable (cause : Nat) : Bool := cause == cPageFault || cause == cColumn

/-- A fault as a check finds it: cause, address, page state, walk level. PST is 6 when no translation failed (DEDUCED,
assumption 12). -/
structure Flt where
  cause : Nat
  va : DWord
  pst : Nat
  lvl : Nat
deriving DecidableEq, Repr

def Flt.plain (cause : Nat) (va : DWord) : Flt := { cause := cause, va := va, pst := 6, lvl := 0 }

/-- The record of a fault of a split's instruction (R181). The trap entry counts as index 0 (spec/15 R379). -/
def mkRec (cur : Cur) (rpti lane : Nat) (uni wr : Bool) (f : Flt) : Rec :=
  { cause := f.cause, lane := lane, split := cur.sp % 64, slot := cur.slot, uni := uni, wr := wr,
    svc := serviceable f.cause, rpti := rpti, fpf := 0#4, pst := f.pst, lvl := f.lvl, code := 0, va := f.va,
    pc := cur.pc, insn := cur.insn }

/-- The eight words of a record (Table 06.6). -/
def Rec.words (r : Rec) : List Word :=
  [BitVec.ofNat 32 (r.cause + 2 ^ 8 * (r.lane % 64) + 2 ^ 14 * (r.split % 64) + 2 ^ 20 * (r.slot % 4) + 2 ^ 22 * r.uni.toNat +
     2 ^ 23 * r.wr.toNat + 2 ^ 24 * r.svc.toNat),
   BitVec.ofNat 32 (r.rpti % 4096 + 2 ^ 12 * r.fpf.toNat + 2 ^ 16 * (r.pst % 8) + 2 ^ 19 * (r.lvl % 4) +
     2 ^ 24 * (r.code % 128)),
   lo32 r.va, hi32 r.va, lo32 r.pc, hi32 r.pc, r.insn, 0#32]

/-- Records in the order of spec/03 R91: split-table index, then lane. -/
def insertRec (r : Rec) : List Rec → List Rec
  | [] => [r]
  | x :: t => if r.split < x.split || (r.split == x.split && r.lane < x.lane) then r :: x :: t else x :: insertRec r t

def sortRecs (l : List Rec) : List Rec := l.foldl (fun a r => insertRec r a) []

/-! ### Taking an exception and returning from it (spec/13 R356 R359 R360) -/

/-- Entry to Trap with records already in order: every split keeps its place; the handler split takes every live lane
and starts at TRAPH, slot 1; TPC, TSLOT and TSPLIT describe the split of record 0; the 64-bit holding register is
dropped (spec/01 R34). -/
def Wave.enterTrap (wv : Wave) (traph : DWord) (recs : List Rec) : Wave :=
  let tsp := ((recs.head?).map (fun r => r.split)).getD 0
  let e := wv.entry tsp
  { wv with
    state := .trap
    sr := { wv.sr with hold := [] }
    trap := { wv.trap with
      entry := { (Split.at Split.empty traph) with mask := wv.live, st := .ready }
      tpc := e.pc, tslot := e.slot, tsplit := tsp, recs := recs, wrote := false } }

/-- A wave takes a trap (R356). A Retiring wave takes none: it can only retire (spec/03 R79). A wave of a group that is being
cancelled takes none: it ends there (R341). With no
handler, or when the handler itself raised the cause, the group ends on a fault; a cause of another party that reaches a
wave in Trap is held until `RETT`; a Stopped or a saved wave is in Trap once it runs again. -/
def State.takeTrap (s : State) (g w : Nat) (fromHandler : Bool) (recs : List Rec) : State :=
  match s.groups[g]?, s.wave? g w with
  | some G, some wv =>
    let recs := sortRecs recs
    let traph := (s.launch G.launch).traph
    if (G.state != .resident && G.state != .saved) || G.ending.isSome || wv.state == .retiring || wv.state == .retired then s
    else if G.stopping == some .cancel then s.modWave g w (fun wv => wv.mapEntries (fun e => { e with slot := min e.slot 1 }))
    else if fromHandler || traph == 0#64 then s.finishGroup g (.faulted recs.head?)
    else if wv.state == .trap || ((wv.state == .stopped || wv.state == .saved) && wv.priorState == .trap) then
      s.modWave g w (fun wv => { wv with trap := { wv.trap with held := wv.trap.held ++ recs } })
    else if wv.state == .stopped then
      s.modWave g w (fun wv =>
        let wv := wv.enterTrap traph recs
        { wv with state := .stopped, priorState := .trap,
                  trap := { wv.trap with entry := { wv.trap.entry with st := .debugParked, prior := .ready } } })
    else if wv.state == .saved then
      s.modWave g w (fun wv => { (wv.enterTrap traph recs) with state := .saved, priorState := .trap })
    else s.modWave g w (fun wv => wv.enterTrap traph recs)
  | _, _ => s

/-- The end of a bundle for a split: the next repetition, the bundle to repeat, or the next bundle (spec/03 R85 R105). -/
def Split.endBundle (e : Split) : Split :=
  if e.rpta && decide (0 < e.rptn) then { e with slot := 1, rptn := e.rptn - 1, rpti := e.rpti + 1 }
  else
    let e' := e.at (e.pc + 16#64)
    match e.rptNext with
    | some n => { e' with rpta := true, rptn := n }
    | none => e'

/-- Slot `n` of a bundle is a literal (spec/01 R13). -/
def litSlot (cw : Word) (n : Nat) : Bool := (n == 2 && cw.getLsbD 14) || (n == 3 && cw.getLsbD 15)

/-- The slot after slot `n`, literals passed over; 4 is the end of the bundle. -/
def slotAfter (cw : Word) (n : Nat) : Nat :=
  let m := n + 1
  if litSlot cw m then m + 1 else m

/-- Past the present slot when the control word is not at hand: a literal slot is passed over when the split issues
(spec/13 R359). -/
def Split.skip (e : Split) : Split := if e.slot < 3 then { e with slot := e.slot + 1 } else e.endBundle

/-- The split stands at a place. -/
def Split.standAt (e : Split) (o : Origin) : Split :=
  { e with pc := o.pc, slot := o.slot, rptn := o.rptn, rpti := o.rpti, rpta := o.rpta, rptNext := o.rptNext }

/-- Where a split stands. -/
def Split.place (e : Split) (insn : Word) : Origin :=
  { pc := e.pc, slot := e.slot, rptn := e.rptn, rpti := e.rpti, rpta := e.rpta, rptNext := e.rptNext, insn := insn }

/-- The split moves past the slot it stands at. -/
def Split.advance (e : Split) (cw : Word) : Split :=
  let n := slotAfter cw e.slot
  if n ≤ 3 then { e with slot := n } else e.endBundle

/-- A refused Parked entry that is settled resumes after its instruction; a fetch entry fetches again (R359). -/
def Split.settled (e : Split) : Split :=
  let e' := { e with st := .ready, refused := false, recs := [], request := none, fetchFault := false }
  if e.fetchFault then e' else e'.skip

/-- `RETT` settles the refused Parked entries that `PARKRES` has left (R359), but for those whose records are still to
be delivered by a further entry. -/
def Wave.settleRefused (wv : Wave) : Wave :=
  { wv with splits := wv.splits.map (fun e =>
      if e.st == .parked && e.refused && !(e.recs.any wv.trap.held.contains) then e.settled else e) }

/-- The resume point that a handler has written; a move to another bundle ends a repetition (R105). -/
def Split.resumeAt (e : Split) (pc : DWord) (slot : Nat) : Split :=
  { (if e.pc = pc then e else e.at pc) with slot := if slot % 4 = 0 then 1 else slot % 4 }

/-- `RETT` (R359 R360): the handler split ends, the trapping split resumes at TPC and TSLOT, which are its own resume
point unless the handler wrote one of them, the others at their own place; records held meanwhile make a further entry
before any split issues (spec/10 R275). -/
def Wave.returnTrap (wv : Wave) (traph : DWord) : Wave :=
  let t := wv.trap
  let wv := wv.settleRefused
  let e := wv.entry t.tsplit
  let wv := if t.wrote && e.st != .free then wv.setEntry t.tsplit (e.resumeAt t.tpc t.tslot) else wv
  let wv := { wv with state := .resident, trap := { t with entry := Split.empty, recs := [], held := [] } }
  if t.held.isEmpty then wv else wv.enterTrap traph (sortRecs t.held)

end Sys2Proof.Machine
end

