-- ==== Sys2Proof/Machine/Operands.lean ====
section
/-! DEFINITION. What an instruction is issued for, and every operand form: registers of either side, literals,
immediates, pairs, and the effective address of form M (spec/01 R22 to R34). -/

namespace Sys2Proof.Machine

/-- The issuing wave and split with their group and launch. -/
structure Ctx where
  cur : Cur
  grp : Group
  wave : Wave
  ent : Split
  lau : Launch

/-- The context of the instruction that `State.cur` names. -/
def State.ctx? (s : State) : Option Ctx :=
  match s.cur with
  | none => none
  | some cur =>
    match s.groups[cur.g]? with
    | none => none
    | some G =>
      match G.waves[cur.w]? with
      | none => none
      | some wv => some { cur := cur, grp := G, wave := wv, ent := wv.entry cur.sp, lau := s.launch G.launch }

/-- The active mask of the split. -/
def Ctx.act (c : Ctx) : Mask := c.ent.mask

/-- Active lanes, ascending. -/
def Ctx.lanes (c : Ctx) : List Nat := (List.range c.wave.width).filter (fun i => c.act.getLsbD i)

/-- The source register `r` of a lane, or of the uniform file. -/
def Ctx.src (c : Ctx) (u : Bool) (r lane : Nat) : Word := if u then c.wave.sget r else c.wave.vget r lane

/-- Operand A. -/
def Ctx.A (c : Ctx) (u : Bool) (a : BitVec 7) (lane : Nat) : Word := c.src u a.toNat lane

/-- Operand B, or the literal in its place (R29). -/
def Ctx.B (c : Ctx) (u : Bool) (b : BitVec 7) (lane : Nat) : Word := c.cur.lit.getD (c.src u b.toNat lane)

def Ctx.pair (c : Ctx) (u : Bool) (r lane : Nat) : DWord := if u then c.wave.spair r else c.wave.vpair r lane
def Ctx.A64 (c : Ctx) (u : Bool) (a : BitVec 7) (lane : Nat) : DWord := c.pair u a.toNat lane

/-- 64-bit integer B: a literal is sign-extended (R29). -/
def Ctx.B64 (c : Ctx) (u : Bool) (b : BitVec 7) (lane : Nat) : DWord :=
  match c.cur.lit with
  | some l => l.signExtend 64
  | none => c.pair u b.toNat lane

/-- Binary64 B: a literal gives bits [63:32] (R29). -/
def Ctx.BD (c : Ctx) (u : Bool) (b : BitVec 7) (lane : Nat) : DWord :=
  match c.cur.lit with
  | some l => pairOf 0#32 l
  | none => c.pair u b.toNat lane

/-- The immediate of form I for 32-bit, halved and byte operations (R24). -/
def imm32 (i : BitVec 7) : Word := i.signExtend 32
def immH2 (i : BitVec 7) : Word := i.signExtend 16 ++ i.signExtend 16
def immB4 (i : BitVec 7) : Word := let b := i.signExtend 8; b ++ b ++ b ++ b

/-- Rounding code of spec/04 R121. -/
def Ctx.code (c : Ctx) (r : BitVec 7) : Rnd :=
  match r.toNat with
  | 1 => .rne
  | 2 => .rz
  | 3 => .ru
  | 4 => .rd
  | _ => c.wave.rm

/-- The effective address of form M (R25). -/
def Ctx.addr (c : Ctx) (u : Bool) (a : BitVec 7) (n : BitVec 4) (lane : Nat) : DWord :=
  let base := if n = 0#4 then 0#64 else c.wave.spair (2 * n.toNat)
  let lit := match c.cur.lit with
    | some l => l.signExtend 64
    | none => 0#64
  base + (c.A u a lane).setWidth 64 + lit

/-- A word decides by side, group and function alone whether it takes a literal (R29). -/
def takesLiteral (w : Word) : Bool :=
  let u := w.getLsbD 31
  let f := (w.extractLsb' 21 6).toNat
  match (w.extractLsb' 27 4).toNat with
  | 0 => f ≤ 16 || (21 ≤ f && f ≤ 31) || f == 56 || (58 ≤ f && f ≤ 61)
  | 1 => !u && f ≤ 16
  | 2 => f ≤ 5 || (!u && 8 ≤ f && f ≤ 11)
  | 3 => f ≤ 5
  | 4 => f ≤ 25
  | 5 => if u then 1 ≤ f && f ≤ 3 else f == 8 || f == 11
  | 6 => !u && f ≤ 6
  | 8 => if u then f ≤ 19 else f ≤ 21
  | 9 => if u then f ≤ 27 else f ≤ 31
  | 10 => !u && f ≤ 3
  | 11 => !u && (f == 2 || f == 4)
  | 12 => !u && f ≤ 1
  | 13 => !u && (f ≤ 2 || f == 12)
  | _ => false

/-- The control word breaks R14. -/
def badBundle (ws : List Word) : Bool :=
  let cw := ws.getD 0 0#32
  cw.getLsbD 16 || cw.extractLsb' 0 12 != 0#12 || cw.extractLsb' 12 2 == 3#2 || (cw.getLsbD 14 && cw.getLsbD 15) ||
    (cw.getLsbD 14 && !takesLiteral (ws.getD 1 0#32)) || (cw.getLsbD 15 && !takesLiteral (ws.getD 2 0#32))

/-- Lookahead of a slot (R13). -/
def laOf (cw : Word) (slot : Nat) : Nat := cw.toNat / 2 ^ (32 - 4 * slot) % 16
/-- Break bit of a slot (R13). -/
def brkOf (cw : Word) (slot : Nat) : Bool := cw.getLsbD (16 + slot)

/-- The word that fills an unused slot (R20). -/
def nopWord : Word := 0xF7E00000#32

end Sys2Proof.Machine
end

