-- ==== Sys2Proof/Machine/Issue.lean ====
section
/-! DEFINITION. The conditions of issue that every instruction shares (spec/01 R40 to R43, spec/03 R92 to R101), and the
end of an instruction: windows, the next slot, a trap. -/

namespace Sys2Proof.Machine

/-- A group of registers that an instruction reads or writes. -/
structure Use where
  uni : Bool
  reg : Nat
  cnt : Nat
  wr : Bool
  /-- Operand B, which a literal replaces (R29). -/
  isB : Bool := false

def rdV (r : BitVec 7) (n : Nat := 1) : Use := { uni := false, reg := r.toNat, cnt := n, wr := false }
def wrV (r : BitVec 7) (n : Nat := 1) : Use := { uni := false, reg := r.toNat, cnt := n, wr := true }
def rdS (r : BitVec 7) (n : Nat := 1) : Use := { uni := true, reg := r.toNat, cnt := n, wr := false }
def wrS (r : BitVec 7) (n : Nat := 1) : Use := { uni := true, reg := r.toNat, cnt := n, wr := true }
def rdR (u : Bool) (r : BitVec 7) (n : Nat := 1) : Use := { uni := u, reg := r.toNat, cnt := n, wr := false }
def wrR (u : Bool) (r : BitVec 7) (n : Nat := 1) : Use := { uni := u, reg := r.toNat, cnt := n, wr := true }

def rdB (u : Bool) (r : BitVec 7) (n : Nat := 1) : Use := { uni := u, reg := r.toNat, cnt := n, wr := false, isB := true }

/-- Where an instruction may run: any core, shading cores, geometry cores of a mix that has them (spec/00 R4). -/
inductive Where where
  | any | shading | geometry
deriving DecidableEq, Repr

/-- What the conditions of issue need to know of an instruction. -/
structure Op where
  /-- A uniform instruction (R22). -/
  uni : Bool
  /-- Class L (R37). -/
  long : Bool := false
  /-- Outstanding-counter class; 8 is none (R101). -/
  ctr : Nat := 8
  /-- The field rule it breaks (R42). -/
  bad : Option Malformed := none
  /-- B, which must be 0 beside a literal (R29). -/
  litB : BitVec 7 := 0#7
  uses : List Use := []
  /-- Registers that must lie in the allocation and whose elements are named by `cross`. -/
  also : List Use := []
  /-- Elements of other lanes: for an active lane, pairs of register and lane, read or written (spec/04 R130 R136). -/
  cross : Nat → List (Nat × Nat) := fun _ => []
  crossWr : Bool := false
  /-- A memory access or an engine command, which waits behind a `FENCE` (spec/07 R202). -/
  mem : Bool := false
  on : Where := .any
  /-- A trap-level function (R40). -/
  priv : Bool := false
  /-- Refused at trap level: `BRD`, `BRDN`, `JOIN` (spec/13 R356). -/
  noTrap : Bool := false
  /-- `NOP`: not counted by lookahead windows (R17). -/
  nop : Bool := false
  /-- Refused for a reason of its own with `ILLEGAL_INSN`. -/
  illegal : Bool := false
  /-- The unit cannot accept it now, and the stall code of Table 15.3 for that. -/
  hold : Bool := false
  why : Nat := 31
  /-- Poisoned sources raise no trap: the result carries the mark (spec/08 R238). -/
  carries : Bool := false
  /-- Destinations, of the instruction's own side, that a class L instruction writes as it issues. -/
  instant : List Nat := []

/-- What follows an instruction: the next slot, a transfer of control, nothing more to do for the split, or a trap that
resumes at the instruction or after it. -/
inductive Flow where
  | next
  | jump (pc : DWord)
  | stay
  | trap (after : Bool) (recs : List Rec)

/-- The conditions of issue: wait, trap, or go with or without a lookahead breach. -/
inductive Gate where
  | stall (why : Nat)
  | trap (recs : List Rec)
  | go (breach : Bool)

/-- Registers in the wave's allocation (R32 R33). -/
def Use.inRange (L U : Nat) (x : Use) : Bool :=
  if x.uni then decide (x.reg + x.cnt ≤ U) || (decide (126 ≤ x.reg) && decide (x.reg + x.cnt ≤ 128))
  else decide (x.reg + x.cnt ≤ L)

def Use.has (x : Use) (r : Nat) : Bool := decide (x.reg ≤ r) && decide (r < x.reg + x.cnt)

/-- An instruction touches a pending element (R99). -/
def touches (op : Op) (act : Mask) (lanes : List Nat) (uni : Bool) (regs : List Nat) (pl : Mask) : Bool :=
  op.uses.any (fun x => x.uni == uni && regs.any x.has && (uni || (act &&& pl) != 0#64)) ||
    (!uni && lanes.any (fun i => (op.cross i).any (fun p => regs.contains p.1 && pl.getLsbD p.2)))

/-- The stall code of a pending result that the scoreboard guards (spec/15 Table 15.3). -/
def Pend.stallCode (p : Pend) : Nat :=
  match p.cls with
  | 0 => 3
  | 1 => 4
  | 4 => 5
  | 5 => 6
  | 6 => 7
  | 7 => 8
  | _ =>
    match p.kind with
    | .special _ => 9
    | _ => if p.uni then 10 else 31

/-- An open window that has run out holds the instruction (R97). -/
def lookaheadHolds (c : Ctx) : Bool := c.ent.windows.any (fun x => x.left == 0 && (c.wave.pend? x.pend).isSome)

/-- The pending results by which the scoreboard holds the instruction (R99). -/
def scoreboard (op : Op) (c : Ctx) : List Pend :=
  let lanes := if op.uni then [0] else c.lanes
  c.wave.pend.filter (fun p =>
    !(c.ent.windows.any (fun x => x.pend == p.id && decide (0 < x.left))) && touches op c.act lanes p.uni p.regs p.lanes)

/-- Touches a destination element of an open window (R100). -/
def breaches (op : Op) (c : Ctx) : Bool :=
  let lanes := if op.uni then [0] else c.lanes
  c.ent.windows.any (fun x => decide (0 < x.left) && touches op c.act lanes x.uni x.regs x.lanes)

/-- Earlier accesses that a `FENCE` of the split waits for (spec/07 R202). -/
def fenced (c : Ctx) : Bool :=
  c.ent.fence.any (fun id => ((c.wave.pend? id).map (fun p => p.open)).getD false)

/-- Every reason for which the instruction waits, as codes of Table 15.3. -/
def waits (op : Op) (c : Ctx) : List Nat :=
  (if lookaheadHolds c then [2] else []) ++ (scoreboard op c).map Pend.stallCode ++
    (if decide (op.ctr < 8) && decide (63 ≤ c.wave.counters.getD op.ctr 0) then [11] else []) ++
    (if op.mem && fenced c then [23] else []) ++ (if op.hold then [op.why] else [])

/-- The lowest of the codes. -/
def lowest (l : List Nat) : Option Nat := l.foldl (fun o n => some (match o with
  | none => n
  | some m => min m n)) none

/-- A record of the whole split for a cause found at issue (R43). -/
def Ctx.splitRec (c : Ctx) (cause : Nat) : Rec := mkRec c.cur c.ent.rpti 0 true false (Flt.plain cause 0#64)

def Ctx.laneRec (c : Ctx) (lane : Nat) (wr : Bool) (f : Flt) : Rec := mkRec c.cur c.ent.rpti lane false wr f

/-- Poison read by the instruction (spec/03 R78): one record per lane, or one for a uniform instruction. -/
def poisonRecs (op : Op) (c : Ctx) : List Rec :=
  let uniBad := op.uses.any (fun x => x.uni && !x.wr && (List.range x.cnt).any (fun i => c.wave.spoison (x.reg + i)))
  if op.uni then
    let crossBad := !op.crossWr && (op.cross 0).any (fun p => c.wave.vpoison p.1 p.2)
    if uniBad || crossBad then [c.splitRec cPoison] else []
  else
    (c.lanes.filter (fun i =>
      uniBad ||
      op.uses.any (fun x => !x.uni && !x.wr && (List.range x.cnt).any (fun k => c.wave.vpoison (x.reg + k) i)) ||
      (op.cross i).any (fun p => c.wave.vpoison p.1 p.2))).map
        (fun i => c.laneRec i false (Flt.plain cPoison 0#64))

/-- The mix has geometry dies, and the core is of the kind the instruction needs. -/
def runsOn (k : Where) (s : State) (core : Nat) : Bool :=
  match k with
  | .any => true
  | .shading => shading core
  | .geometry => !shading core && decide (0 < s.mix.geometryDies)

/-- May the instruction issue now? Faults of the word come first, then what it must wait for, then what it raises from
the state of the wave (R40 R42 R43, spec/03 R97 to R101). -/
def gate (op : Op) (c : Ctx) (s : State) : Gate :=
  let atTrap := c.wave.trapLevel c.cur.sp
  if op.priv && !atTrap then .trap [c.splitRec cPriv]
  else if op.bad.isSome || op.illegal || (c.cur.lit.isSome && op.litB != 0#7) || (op.noTrap && atTrap) ||
      !((op.uses ++ op.also).all (Use.inRange c.lau.lregs c.lau.sregs)) then .trap [c.splitRec cIllegalInsn]
  else if !(runsOn op.on s c.grp.core) then .trap [c.splitRec cUnitAbsent]
  else if op.nop then .go false
  else
    match lowest (waits op c) with
    | some n => .stall n
    | none =>
      let br := breaches op c
      if br && c.wave.sr.strict then .trap [c.splitRec cLookahead]
      else
        match (if op.carries then [] else poisonRecs op c) with
        | [] => .go br
        | recs => .trap recs

/-- YLD of a bundle whose last slot has run (R19). -/
def State.yld (s : State) (c : Ctx) : State :=
  match ((c.cur.words.getD 0 0#32).extractLsb' 12 2).toNat with
  | 1 => s.modWave c.cur.g c.cur.w (fun wv => { wv with age := s.tick + 1, passed := 0 })
  | 2 => s.modGroup c.cur.g (fun G => { G with progress := G.progress + 1 })
  | _ => s

def State.modEntry (s : State) (c : Ctx) (f : Split → Split) : State :=
  s.modWave c.cur.g c.cur.w (fun wv => wv.modEntry c.cur.sp f)

/-- Move the issuing split past its slot. -/
def State.stepPast (s : State) (c : Ctx) : State :=
  let cw := c.cur.words.getD 0 0#32
  let last := decide (3 < slotAfter cw c.cur.slot) && !(c.ent.rpta && decide (0 < c.ent.rptn))
  let s := s.modEntry c (fun e => e.advance cw)
  if last then s.yld c else s

/-- The slot is reached: its break bit may stop the split again (spec/15 R378). -/
def Wave.reached (wv : Wave) (sp : Nat) : Wave := wv.modEntry sp (fun e => { e with brkSkip := false })

/-- Count the instruction in the open windows; drop those that are over (R97 R98). An instruction that parks its lanes has
been counted, and is counted again when it issues again (DESIGN CHOICE, assumption 55). -/
def Ctx.countWindows (c : Ctx) (wv : Wave) : Wave :=
  let count := fun (x : Win) => { x with left := x.left - 1 }
  let keep := fun (x : Win) => decide (0 < x.left) || (wv.pend? x.pend).isSome
  wv.modEntry c.cur.sp (fun e => { e with brkSkip := false, replays := [], windows := (e.windows.map count).filter keep })

/-- Open the window of the instruction's LA field for what it left pending (R97), and for the destinations `instant` that it
has written at once: a touch inside the window is a breach either way (R100). -/
def State.openWindow (s : State) (c : Ctx) (uni : Bool) (instant : List Nat) : State :=
  let la := laOf (c.cur.words.getD 0 0#32) c.cur.slot
  let all := if uni then 1#64 else c.act
  if la = 15 then s
  else s.modWave c.cur.g c.cur.w (fun wv =>
    match wv.pend? c.wave.nextPend with
    | none =>
      if instant.isEmpty then wv
      else { (wv.modEntry c.cur.sp (fun e => { e with windows := e.windows ++
        [{ pend := wv.nextPend, left := la, uni := uni, regs := instant, lanes := all }] })) with nextPend := wv.nextPend + 1 }
    | some p => wv.modEntry c.cur.sp (fun e => { e with windows := e.windows ++
        [{ pend := p.id, left := la, uni := p.uni, regs := p.regs, lanes := if instant.isEmpty then p.lanes else all }] }))

/-- The end of an instruction. -/
def State.finish (s : State) (c : Ctx) (op : Op) (flow : Flow) : State :=
  let s := if op.long then s.openWindow c op.uni op.instant else s
  let s := s.modGroup c.cur.g (fun G => { G with first := some (G.first.getD s.now) })
  match flow with
  | .next => s.stepPast c
  | .jump pc => (s.modEntry c (fun e => e.at pc)).yld c
  | .stay => s.settle c.cur.g c.cur.w
  | .trap after recs =>
    let s := if after then s.stepPast c else s
    s.takeTrap c.cur.g c.cur.w (c.cur.sp == trapIdx) recs

/-- Issue an instruction: the conditions, then its body, then the end. -/
def issue (op : Op) (s : State) (body : Ctx → State → State × Flow) : Host.Outcome State Fault Refusal :=
  match s.ctx? with
  | none => .fault .noIssuer
  | some c =>
    let op := if c.cur.lit.isSome then { op with uses := op.uses.filter (fun x => !x.isB) } else op
    match gate op c s with
    | .stall n => .next { s with stalled := some n }
    | .trap recs =>
      let s : State := { s with stalled := none }
      let s := s.modWave c.cur.g c.cur.w (fun wv => wv.reached c.cur.sp)
      .next ((s.takeTrap c.cur.g c.cur.w (c.cur.sp == trapIdx) recs).boundary c.cur.g)
    | .go breach =>
      let s : State := { s with stalled := none }
      let s := s.modWave c.cur.g c.cur.w (fun wv =>
        let wv := if op.nop then wv.reached c.cur.sp else c.countWindows wv
        if breach then wv.setSticky stickyLBR else wv)
      let r := body c s
      .next ((r.1.finish c op r.2).boundary c.cur.g)

/-- Trap level without handler and causes found by a unit at issue: the whole split, before any effect (R43). -/
def raise (c : Ctx) (s : State) (cause : Nat) : State × Flow := (s, .trap false [c.splitRec cause])

/-- An FP record of a lane or of a uniform instruction (spec/04 R140 R141). -/
def Ctx.fpRec (c : Ctx) (uni : Bool) (lane : Nat) (fl : Flags) : Rec :=
  { mkRec c.cur c.ent.rpti lane uni false (Flt.plain cFp 0#64) with fpf := fl.ieee }

/-- Compute on registers: the results of each active lane (or the one uniform result) go to the registers from `d`;
flags are sticky; a lane that raises an enabled flag keeps its destination and traps (spec/04 R108 R109 R139 to R141). -/
def compute (u : Bool) (d : Nat) (f : Nat → List Word × Flags) (c : Ctx) (s : State) : State × Flow :=
  let fpmode := c.wave.sr.fpmode
  let lanes := if u then [0] else c.lanes
  let res := lanes.map (fun i => (i, f i))
  let fl := Flags.unions (res.map (fun r => r.2.2))
  let s := s.modWave c.cur.g c.cur.w (fun wv =>
    (res.filter (fun r => !r.2.2.traps fpmode)).foldl
      (fun wv r => if u then wv.ssets d r.2.1 else wv.vsets d r.1 r.2.1) (wv.setSticky fl.bits))
  let recs := (res.filter (fun r => r.2.2.traps fpmode)).map (fun r => c.fpRec u r.1 r.2.2)
  (s, if recs.isEmpty then .next else .trap true recs)

/-- As `compute` for a mask or condition result (spec/04 R123 R140). -/
def computeMask (u : Bool) (d : Nat) (f : Nat → Bool × Flags) (c : Ctx) (s : State) : State × Flow :=
  let fpmode := c.wave.sr.fpmode
  let lanes := if u then [0] else c.lanes
  let res := lanes.map (fun i => (i, f i))
  let fl := Flags.unions (res.map (fun r => r.2.2))
  let good := res.filter (fun r => !r.2.2.traps fpmode)
  let s := s.modWave c.cur.g c.cur.w (fun wv =>
    let wv := wv.setSticky fl.bits
    if u then good.foldl (fun wv r => wv.cset d r.2.1) wv
    else wv.kput (Mask.ofLanes (good.map (fun r => r.1)))
      d (Mask.ofLanes ((good.filter (fun r => r.2.1)).map (fun r => r.1))))
  let recs := (res.filter (fun r => r.2.2.traps fpmode)).map (fun r => c.fpRec u r.1 r.2.2)
  (s, if recs.isEmpty then .next else .trap true recs)

/-- The place of the present instruction. -/
def Ctx.origin (c : Ctx) : Origin :=
  { pc := c.cur.pc, slot := c.cur.slot, rptn := c.ent.rptn, rpti := c.ent.rpti, rpta := c.ent.rpta,
    rptNext := c.ent.rptNext, insn := c.cur.insn }

/-- The place after the present instruction. -/
def Ctx.afterward (c : Ctx) : Origin := (c.ent.advance (c.cur.words.getD 0 0#32)).place c.cur.insn

/-- Leave an instruction pending: it joins its counter (spec/03 R96 R101). -/
def State.addPend (s : State) (c : Ctx) (cls : Nat) (uni : Bool) (regs : List Nat) (lanes mask : Mask) (kind : PendKind)
    (acq rel : Bool) (accs : List Acc) (wrs : List Wr) : State :=
  s.modWave c.cur.g c.cur.w (fun wv => { wv with
    nextPend := wv.nextPend + 1
    counters := wv.counters.modify cls (fun n => n + 1)
    pend := wv.pend ++ [{ id := wv.nextPend, cls := cls, uni := uni, regs := regs, lanes := lanes, mask := mask, kind := kind,
                          acq := acq, rel := rel, accs := accs, wrs := wrs, recs := [], pc := c.cur.pc, slot := c.cur.slot,
                          insn := c.cur.insn, rpti := c.ent.rpti, sp := c.cur.sp,
                          here := c.origin, after := c.afterward, wave := c.cur.w,
                          replays := c.ent.replays }] })

end Sys2Proof.Machine
end

