-- ==== Sys2Proof/Machine/Integer.lean ====
section
/-! DEFINITION. Lane and uniform group 0: integers (spec/04 R111 to R114). -/

namespace Sys2Proof.Machine


/-! ### Shapes -/

/-- d = f a b, with b a register or the literal. -/
def intRR (u : Bool) (d a b : BitVec 7) (s : State) (f : Word → Word → Word) : Out' :=
  issue { uni := u, litB := b, uses := [rdR u a, rdB u b, wrR u d] } s fun c s =>
    compute u d.toNat (fun i => ([f (c.A u a i) (c.B u b i)], Flags.none)) c s

/-- d = f a imm (form I). -/
def intRI (u : Bool) (d a i7 : BitVec 7) (s : State) (f : Word → Word → Word) : Out' :=
  issue { uni := u, uses := [rdR u a, wrR u d] } s fun c s =>
    compute u d.toNat (fun i => ([f (c.A u a i) (imm32 i7)], Flags.none)) c s

/-- d = f d a b: the destination is also a source (R114). -/
def intRRd (u : Bool) (d a b : BitVec 7) (s : State) (f : Word → Word → Word → Word) : Out' :=
  issue { uni := u, litB := b, uses := [rdR u a, rdB u b, rdR u d, wrR u d] } s fun c s =>
    compute u d.toNat (fun i => ([f (c.A u d i) (c.A u a i) (c.B u b i)], Flags.none)) c s

def intRId (u : Bool) (d a i7 : BitVec 7) (s : State) (f : Word → Word → Word → Word) : Out' :=
  issue { uni := u, uses := [rdR u a, rdR u d, wrR u d] } s fun c s =>
    compute u d.toNat (fun i => ([f (c.A u d i) (c.A u a i) (imm32 i7)], Flags.none)) c s

/-- d = f a. -/
def intR (u : Bool) (d a : BitVec 7) (s : State) (f : Word → Word) : Out' :=
  issue { uni := u, uses := [rdR u a, wrR u d] } s fun c s =>
    compute u d.toNat (fun i => ([f (c.A u a i)], Flags.none)) c s

/-- 64-bit sum or difference on pairs. -/
def int64 (u : Bool) (d a b : BitVec 7) (s : State) (f : DWord → DWord → DWord) : Out' :=
  issue { uni := u, bad := firstBroken [multipleOf 2 d, multipleOf 2 a, multipleOf 2 b], litB := b,
          uses := [rdR u a 2, rdB u b 2, wrR u d 2] } s fun c s =>
    compute u d.toNat (fun i => let x := f (c.A64 u a i) (c.B64 u b i); ([lo32 x, hi32 x], Flags.none)) c s

/-- Exact 64-bit product. -/
def intWide (u : Bool) (d a b : BitVec 7) (s : State) (f : Word → Word → DWord) : Out' :=
  issue { uni := u, bad := firstBroken [multipleOf 2 d], litB := b, uses := [rdR u a, rdB u b, wrR u d 2] } s fun c s =>
    compute u d.toNat (fun i => let x := f (c.A u a i) (c.B u b i); ([lo32 x, hi32 x], Flags.none)) c s

/-! ### Functions -/

def mulS (a b : Word) : DWord := a.signExtend 64 * b.signExtend 64
def mulU (a b : Word) : DWord := a.setWidth 64 * b.setWidth 64

/-- Shifts by bits [7:0] of b (R112). -/
def shlW (a b : Word) : Word := a <<< (b.extractLsb' 0 8).toNat
def shrW (a b : Word) : Word := a >>> (b.extractLsb' 0 8).toNat
def sarW (a b : Word) : Word := a.sshiftRight (b.extractLsb' 0 8).toNat

def minS (a b : Word) : Word := if b.slt a then b else a
def maxS (a b : Word) : Word := if a.slt b then b else a
def minU (a b : Word) : Word := if b < a then b else a
def maxU (a b : Word) : Word := if a < b then b else a

def absW (a : Word) : Word := if a.getLsbD 31 then 0#32 - a else a
def clzW (a : Word) : Word := if a = 0#32 then 32#32 else BitVec.ofNat 32 (31 - a.toNat.log2)
def popCount : Nat → Nat → Nat
  | 0, _ => 0
  | n + 1, x => x % 2 + popCount n (x / 2)
def popcW (a : Word) : Word := BitVec.ofNat 32 (popCount 32 a.toNat)

/-- Position, length and mask of a field descriptor (R113). -/
def fieldOf (b : Word) : Nat × Nat :=
  let pos := (b.extractLsb' 0 5).toNat
  (pos, min (b.extractLsb' 8 6).toNat (32 - pos))

def bfxU (a b : Word) : Word :=
  let p := fieldOf b
  BitVec.ofNat 32 (a.toNat / 2 ^ p.1 % 2 ^ p.2)

def bfxS (a b : Word) : Word :=
  let p := fieldOf b
  let x := a.toNat / 2 ^ p.1 % 2 ^ p.2
  if p.2 = 0 then 0#32
  else if x.testBit (p.2 - 1) then BitVec.ofNat 32 (x + (2 ^ 32 - 2 ^ p.2)) else BitVec.ofNat 32 x

def bfiW (d a b : Word) : Word :=
  let p := fieldOf b
  let m := BitVec.ofNat 32 (2 ^ p.2 - 1)
  (d &&& ~~~(m <<< p.1)) ||| ((a &&& m) <<< p.1)

/-! ### Meanings -/

def execIadd (u : Bool) (d a b : BitVec 7) (s : State) : Out' := intRR u d a b s (· + ·)
def execIsub (u : Bool) (d a b : BitVec 7) (s : State) : Out' := intRR u d a b s (· - ·)
def execImul (u : Bool) (d a b : BitVec 7) (s : State) : Out' := intRR u d a b s (· * ·)
def execImulhI (u : Bool) (d a b : BitVec 7) (s : State) : Out' := intRR u d a b s (fun x y => hi32 (mulS x y))
def execImulhN (u : Bool) (d a b : BitVec 7) (s : State) : Out' := intRR u d a b s (fun x y => hi32 (mulU x y))
def execImad (u : Bool) (d a b : BitVec 7) (s : State) : Out' := intRRd u d a b s (fun z x y => z + x * y)
def execIand (u : Bool) (d a b : BitVec 7) (s : State) : Out' := intRR u d a b s (· &&& ·)
def execIor (u : Bool) (d a b : BitVec 7) (s : State) : Out' := intRR u d a b s (· ||| ·)
def execIxor (u : Bool) (d a b : BitVec 7) (s : State) : Out' := intRR u d a b s (· ^^^ ·)
def execIandn (u : Bool) (d a b : BitVec 7) (s : State) : Out' := intRR u d a b s (fun x y => x &&& ~~~y)
def execShl (u : Bool) (d a b : BitVec 7) (s : State) : Out' := intRR u d a b s shlW
def execShr (u : Bool) (d a b : BitVec 7) (s : State) : Out' := intRR u d a b s shrW
def execSar (u : Bool) (d a b : BitVec 7) (s : State) : Out' := intRR u d a b s sarW
def execIminI (u : Bool) (d a b : BitVec 7) (s : State) : Out' := intRR u d a b s minS
def execIminN (u : Bool) (d a b : BitVec 7) (s : State) : Out' := intRR u d a b s minU
def execImaxI (u : Bool) (d a b : BitVec 7) (s : State) : Out' := intRR u d a b s maxS
def execImaxN (u : Bool) (d a b : BitVec 7) (s : State) : Out' := intRR u d a b s maxU
def execIabs (u : Bool) (d a : BitVec 7) (s : State) : Out' := intR u d a s absW
def execClz (u : Bool) (d a : BitVec 7) (s : State) : Out' := intR u d a s clzW
def execPopc (u : Bool) (d a : BitVec 7) (s : State) : Out' := intR u d a s popcW
def execBrev (u : Bool) (d a : BitVec 7) (s : State) : Out' := intR u d a s BitVec.reverse
def execBfxI (u : Bool) (d a b : BitVec 7) (s : State) : Out' := intRR u d a b s bfxS
def execBfxN (u : Bool) (d a b : BitVec 7) (s : State) : Out' := intRR u d a b s bfxU
def execBfi (u : Bool) (d a b : BitVec 7) (s : State) : Out' := intRRd u d a b s bfiW

/-- `SEL.kn` reads its mask per lane, `SEL.cn` its condition bit; index 0 is the active mask, or 1. -/
def execSel (u : Bool) (n : BitVec 3) (d a b : BitVec 7) (s : State) : Out' :=
  issue { uni := u, litB := b, uses := [rdR u a, rdB u b, wrR u d] } s fun c s =>
    compute u d.toNat (fun i =>
      let k := if u then c.wave.cget n.toNat else (c.wave.kget c.act n.toNat).getLsbD i
      ([if k then c.A u a i else c.B u b i], Flags.none)) c s

def execIaddI (u : Bool) (d a i : BitVec 7) (s : State) : Out' := intRI u d a i s (· + ·)
def execIsubI (u : Bool) (d a i : BitVec 7) (s : State) : Out' := intRI u d a i s (· - ·)
def execImulI (u : Bool) (d a i : BitVec 7) (s : State) : Out' := intRI u d a i s (· * ·)
def execImulhII (u : Bool) (d a i : BitVec 7) (s : State) : Out' := intRI u d a i s (fun x y => hi32 (mulS x y))
def execImulhNI (u : Bool) (d a i : BitVec 7) (s : State) : Out' := intRI u d a i s (fun x y => hi32 (mulU x y))
def execImadI (u : Bool) (d a i : BitVec 7) (s : State) : Out' := intRId u d a i s (fun z x y => z + x * y)
def execIandI (u : Bool) (d a i : BitVec 7) (s : State) : Out' := intRI u d a i s (· &&& ·)
def execIorI (u : Bool) (d a i : BitVec 7) (s : State) : Out' := intRI u d a i s (· ||| ·)
def execIxorI (u : Bool) (d a i : BitVec 7) (s : State) : Out' := intRI u d a i s (· ^^^ ·)
def execIandnI (u : Bool) (d a i : BitVec 7) (s : State) : Out' := intRI u d a i s (fun x y => x &&& ~~~y)
def execShlI (u : Bool) (d a i : BitVec 7) (s : State) : Out' := intRI u d a i s shlW
def execShrI (u : Bool) (d a i : BitVec 7) (s : State) : Out' := intRI u d a i s shrW
def execSarI (u : Bool) (d a i : BitVec 7) (s : State) : Out' := intRI u d a i s sarW
def execIminII (u : Bool) (d a i : BitVec 7) (s : State) : Out' := intRI u d a i s minS
def execIminNI (u : Bool) (d a i : BitVec 7) (s : State) : Out' := intRI u d a i s minU
def execImaxII (u : Bool) (d a i : BitVec 7) (s : State) : Out' := intRI u d a i s maxS
def execImaxNI (u : Bool) (d a i : BitVec 7) (s : State) : Out' := intRI u d a i s maxU
def execBfxII (u : Bool) (d a i : BitVec 7) (s : State) : Out' := intRI u d a i s bfxS
def execBfxNI (u : Bool) (d a i : BitVec 7) (s : State) : Out' := intRI u d a i s bfxU
def execBfiI (u : Bool) (d a i : BitVec 7) (s : State) : Out' := intRId u d a i s bfiW

/-- `MOV` takes its source in B, or the literal. -/
def execMov (u : Bool) (d b : BitVec 7) (s : State) : Out' :=
  issue { uni := u, litB := b, uses := [rdB u b, wrR u d] } s fun c s =>
    compute u d.toNat (fun i => ([c.B u b i], Flags.none)) c s

def execMovi (u : Bool) (d : BitVec 7) (i : BitVec 14) (s : State) : Out' :=
  issue { uni := u, uses := [wrR u d] } s fun c s =>
    compute u d.toNat (fun _ => ([i.signExtend 32], Flags.none)) c s

def execIadd64 (u : Bool) (d a b : BitVec 7) (s : State) : Out' := int64 u d a b s (· + ·)
def execIsub64 (u : Bool) (d a b : BitVec 7) (s : State) : Out' := int64 u d a b s (· - ·)
def execImulwI (u : Bool) (d a b : BitVec 7) (s : State) : Out' := intWide u d a b s mulS
def execImulwN (u : Bool) (d a b : BitVec 7) (s : State) : Out' := intWide u d a b s mulU

end Sys2Proof.Machine
end

