-- ==== Sys2Proof/Machine/Packed.lean ====
section
/-! DEFINITION. Lane group 1: packed and saturating integers (spec/02 R65, spec/04 R115 R116). -/

namespace Sys2Proof.Machine

/-- Clamp to a signed width; whether the value changed. -/
def satS (w : Nat) (x : Int) : Int × Bool :=
  let y := min (max x (-(2 ^ (w - 1)))) (2 ^ (w - 1) - 1)
  (y, y != x)

def halfS (x : Word) (h : Nat) : Int := (x.extractLsb' (16 * h) 16).toInt
def byteS (x : Word) (j : Nat) : Int := (x.extractLsb' (8 * j) 8).toInt

/-- A register from elements of width w, lowest first. -/
def packW (w : Nat) : List Int → Nat
  | [] => 0
  | x :: t => (x % 2 ^ w).toNat + 2 ^ w * packW w t

/-- Elementwise on halves or bytes; each element gives its value and whether it was clamped. -/
def packed (w : Nat) (f : Nat → Int × Bool) : List Word × Flags :=
  let r := (List.range (32 / w)).map f
  ([BitVec.ofNat 32 (packW w (r.map Prod.fst))], Flags.ofSat (r.any Prod.snd))

def wrapS (x : Int) : Int × Bool := (x, false)

/-- A whole register, clamped to 32 bits. -/
def sat32 (x : Int) : List Word × Flags := let r := satS 32 x; ([BitVec.ofInt 32 r.1], Flags.ofSat r.2)

/-- d = f d a b on the lane side, b a register or the literal, or an immediate prepared by `im`. -/
def packRR (d a b : BitVec 7) (rd : Bool) (s : State) (f : Word → Word → Word → List Word × Flags) : Out' :=
  issue { uni := false, litB := b, uses := [rdV a, rdB false b, wrV d] ++ (if rd then [rdV d] else []) } s fun c s =>
    compute false d.toNat (fun i => f (c.A false d i) (c.A false a i) (c.B false b i)) c s

def packRI (d a : BitVec 7) (im : Word) (rd : Bool) (s : State) (f : Word → Word → Word → List Word × Flags) : Out' :=
  issue { uni := false, uses := [rdV a, wrV d] ++ (if rd then [rdV d] else []) } s fun c s =>
    compute false d.toNat (fun i => f (c.A false d i) (c.A false a i) im) c s

/-- Rounding right shift, half upward (R116). -/
def rshr (x : Int) (c : Nat) : Int := if c = 0 then x else (x + 2 ^ (c - 1)) / 2 ^ c

def fPaddH2 (_ a b : Word) : List Word × Flags := packed 16 (fun h => wrapS (halfS a h + halfS b h))
def fPaddsH2 (_ a b : Word) : List Word × Flags := packed 16 (fun h => satS 16 (halfS a h + halfS b h))
def fPsubH2 (_ a b : Word) : List Word × Flags := packed 16 (fun h => wrapS (halfS a h - halfS b h))
def fPsubsH2 (_ a b : Word) : List Word × Flags := packed 16 (fun h => satS 16 (halfS a h - halfS b h))
def fPaddB4 (_ a b : Word) : List Word × Flags := packed 8 (fun j => wrapS (byteS a j + byteS b j))
def fPaddsB4 (_ a b : Word) : List Word × Flags := packed 8 (fun j => satS 8 (byteS a j + byteS b j))
def fPsubsB4 (_ a b : Word) : List Word × Flags := packed 8 (fun j => satS 8 (byteS a j - byteS b j))
/-- Products and the old d are summed exactly and clamped once. -/
def fPmaddH2 (d a b : Word) : List Word × Flags := sat32 (d.toInt + halfS a 0 * halfS b 0 + halfS a 1 * halfS b 1)
def fPmaddB4 (d a b : Word) : List Word × Flags :=
  sat32 (d.toInt + byteS a 0 * byteS b 0 + byteS a 1 * byteS b 1 + byteS a 2 * byteS b 2 + byteS a 3 * byteS b 3)
def fIadds (_ a b : Word) : List Word × Flags := sat32 (a.toInt + b.toInt)
def fIsubs (_ a b : Word) : List Word × Flags := sat32 (a.toInt - b.toInt)
def fShrr (_ a b : Word) : List Word × Flags :=
  ([BitVec.ofInt 32 (rshr a.toInt (min (b.toNat % 256) 32))], Flags.none)
def fShrrsH2 (_ a b : Word) : List Word × Flags :=
  packed 16 (fun h =>
    let c := halfS b h
    satS 16 (if 0 ≤ c then rshr (halfS a h) (min c.toNat 16) else halfS a h * 2 ^ min (-c).toNat 16))
def fPackH2 (_ a b : Word) : List Word × Flags := ([b.extractLsb' 0 16 ++ a.extractLsb' 0 16], Flags.none)
def fPacksH2 (_ a b : Word) : List Word × Flags :=
  packed 16 (fun h => satS 16 (if h = 0 then a.toInt else b.toInt))
def fPminH2 (_ a b : Word) : List Word × Flags := packed 16 (fun h => wrapS (min (halfS a h) (halfS b h)))
def fPmaxH2 (_ a b : Word) : List Word × Flags := packed 16 (fun h => wrapS (max (halfS a h) (halfS b h)))

def execPaddH2 (d a b : BitVec 7) (s : State) : Out' := packRR d a b false s fPaddH2
def execPaddH2I (d a i : BitVec 7) (s : State) : Out' := packRI d a (immH2 i) false s fPaddH2
def execPaddsH2 (d a b : BitVec 7) (s : State) : Out' := packRR d a b false s fPaddsH2
def execPaddsH2I (d a i : BitVec 7) (s : State) : Out' := packRI d a (immH2 i) false s fPaddsH2
def execPsubH2 (d a b : BitVec 7) (s : State) : Out' := packRR d a b false s fPsubH2
def execPsubH2I (d a i : BitVec 7) (s : State) : Out' := packRI d a (immH2 i) false s fPsubH2
def execPsubsH2 (d a b : BitVec 7) (s : State) : Out' := packRR d a b false s fPsubsH2
def execPsubsH2I (d a i : BitVec 7) (s : State) : Out' := packRI d a (immH2 i) false s fPsubsH2
def execPaddB4 (d a b : BitVec 7) (s : State) : Out' := packRR d a b false s fPaddB4
def execPaddB4I (d a i : BitVec 7) (s : State) : Out' := packRI d a (immB4 i) false s fPaddB4
def execPaddsB4 (d a b : BitVec 7) (s : State) : Out' := packRR d a b false s fPaddsB4
def execPaddsB4I (d a i : BitVec 7) (s : State) : Out' := packRI d a (immB4 i) false s fPaddsB4
def execPsubsB4 (d a b : BitVec 7) (s : State) : Out' := packRR d a b false s fPsubsB4
def execPsubsB4I (d a i : BitVec 7) (s : State) : Out' := packRI d a (immB4 i) false s fPsubsB4
def execPmaddH2 (d a b : BitVec 7) (s : State) : Out' := packRR d a b true s fPmaddH2
def execPmaddH2I (d a i : BitVec 7) (s : State) : Out' := packRI d a (immH2 i) true s fPmaddH2
def execPmaddB4 (d a b : BitVec 7) (s : State) : Out' := packRR d a b true s fPmaddB4
def execPmaddB4I (d a i : BitVec 7) (s : State) : Out' := packRI d a (immB4 i) true s fPmaddB4
def execIadds (d a b : BitVec 7) (s : State) : Out' := packRR d a b false s fIadds
def execIaddsI (d a i : BitVec 7) (s : State) : Out' := packRI d a (imm32 i) false s fIadds
def execIsubs (d a b : BitVec 7) (s : State) : Out' := packRR d a b false s fIsubs
def execIsubsI (d a i : BitVec 7) (s : State) : Out' := packRI d a (imm32 i) false s fIsubs
def execShrr (d a b : BitVec 7) (s : State) : Out' := packRR d a b false s fShrr
def execShrrI (d a i : BitVec 7) (s : State) : Out' := packRI d a (imm32 i) false s fShrr
def execShrrsH2 (d a b : BitVec 7) (s : State) : Out' := packRR d a b false s fShrrsH2
def execShrrsH2I (d a i : BitVec 7) (s : State) : Out' := packRI d a (immH2 i) false s fShrrsH2
def execPackH2 (d a b : BitVec 7) (s : State) : Out' := packRR d a b false s fPackH2
def execPackH2I (d a i : BitVec 7) (s : State) : Out' := packRI d a (immH2 i) false s fPackH2
def execPacksH2 (d a b : BitVec 7) (s : State) : Out' := packRR d a b false s fPacksH2
def execPacksH2I (d a i : BitVec 7) (s : State) : Out' := packRI d a (imm32 i) false s fPacksH2
def execPminH2 (d a b : BitVec 7) (s : State) : Out' := packRR d a b false s fPminH2
def execPminH2I (d a i : BitVec 7) (s : State) : Out' := packRI d a (immH2 i) false s fPminH2
def execPmaxH2 (d a b : BitVec 7) (s : State) : Out' := packRR d a b false s fPmaxH2
def execPmaxH2I (d a i : BitVec 7) (s : State) : Out' := packRI d a (immH2 i) false s fPmaxH2

end Sys2Proof.Machine
end

