-- ==== Sys2Proof/Machine/Float.lean ====
section
/-! DEFINITION. Lane and uniform groups 2 and 3: binary32, binary64 and packed half arithmetic (spec/04 R117 to R122). -/

namespace Sys2Proof.Machine

/-! ### Shapes -/

/-- A result of a number function as one register, or as a pair. -/
def out32 (r : Nat × Flags) : List Word × Flags := ([BitVec.ofNat 32 r.1], r.2)
def out64 (r : Nat × Flags) : List Word × Flags := ([lo32 (BitVec.ofNat 64 r.1), hi32 (BitVec.ofNat 64 r.1)], r.2)

/-- d = f rm d a b in binary32; `rd` when d is read. -/
def fpRR (u : Bool) (d a b : BitVec 7) (rd : Bool) (s : State) (f : Rnd → Nat → Nat → Nat → Nat × Flags) : Out' :=
  issue { uni := u, litB := b, uses := [rdR u a, rdB u b, wrR u d] ++ (if rd then [rdR u d] else []) } s fun c s =>
    compute u d.toNat (fun i =>
      out32 (f c.wave.rm (c.A u d i).toNat (c.A u a i).toNat (c.B u b i).toNat)) c s

/-- d = f a on the bits of a binary32. -/
def fpBits (u : Bool) (d a : BitVec 7) (s : State) (f : Word → Word) : Out' :=
  issue { uni := u, uses := [rdR u a, wrR u d] } s fun c s =>
    compute u d.toNat (fun i => ([f (c.A u a i)], Flags.none)) c s

/-- d = f rm d a b on binary64 pairs. -/
def dpRR (u : Bool) (d a b : BitVec 7) (rd : Bool) (s : State) (f : Rnd → Nat → Nat → Nat → Nat × Flags) : Out' :=
  issue { uni := u, bad := firstBroken [multipleOf 2 d, multipleOf 2 a, multipleOf 2 b], litB := b,
          uses := [rdR u a 2, rdB u b 2, wrR u d 2] ++ (if rd then [rdR u d 2] else []) } s fun c s =>
    compute u d.toNat (fun i =>
      out64 (f c.wave.rm (c.A64 u d i).toNat (c.A64 u a i).toNat (c.BD u b i).toNat)) c s

def dpBits (u : Bool) (d a : BitVec 7) (s : State) (f : DWord → DWord) : Out' :=
  issue { uni := u, bad := firstBroken [multipleOf 2 d, multipleOf 2 a], uses := [rdR u a 2, wrR u d 2] } s fun c s =>
    compute u d.toNat (fun i => let x := f (c.A64 u a i); ([lo32 x, hi32 x], Flags.none)) c s

/-- Two half elements of one register; the flags are those of both (R120). -/
def halves (f : Nat → Nat × Flags) : List Word × Flags :=
  let lo := f 0
  let hi := f 1
  ([BitVec.ofNat 16 hi.1 ++ BitVec.ofNat 16 lo.1], lo.2.union hi.2)

def half (x : Word) (h : Nat) : Nat := (x.extractLsb' (16 * h) 16).toNat

def hpRR (d a b : BitVec 7) (rd : Bool) (s : State) (f : Rnd → Nat → Nat → Nat → Nat × Flags) : Out' :=
  issue { uni := false, litB := b, uses := [rdV a, rdB false b, wrV d] ++ (if rd then [rdV d] else []) } s fun c s =>
    compute false d.toNat (fun i =>
      halves (fun h => f c.wave.rm (half (c.A false d i) h) (half (c.A false a i) h) (half (c.B false b i) h))) c s

/-! ### Binary32 -/

def execFadd (u : Bool) (d a b : BitVec 7) (s : State) : Out' := fpRR u d a b false s (fun rm _ x y => f32.add rm x y)
def execFsub (u : Bool) (d a b : BitVec 7) (s : State) : Out' := fpRR u d a b false s (fun rm _ x y => f32.sub rm x y)
def execFmul (u : Bool) (d a b : BitVec 7) (s : State) : Out' := fpRR u d a b false s (fun rm _ x y => f32.mul rm x y)
def execFfma (u : Bool) (d a b : BitVec 7) (s : State) : Out' := fpRR u d a b true s (fun rm z x y => f32.fma rm x y z)
def execFmin (u : Bool) (d a b : BitVec 7) (s : State) : Out' :=
  fpRR u d a b false s (fun _ _ x y => f32.minmax false x y)
def execFmax (u : Bool) (d a b : BitVec 7) (s : State) : Out' :=
  fpRR u d a b false s (fun _ _ x y => f32.minmax true x y)
def execFabs (u : Bool) (d a : BitVec 7) (s : State) : Out' := fpBits u d a s (fun x => x &&& 0x7FFFFFFF#32)
def execFneg (u : Bool) (d a : BitVec 7) (s : State) : Out' := fpBits u d a s (fun x => x ^^^ 0x80000000#32)

def execFrnd (d a r : BitVec 7) (s : State) : Out' :=
  issue { uni := false, bad := firstBroken [below 5 r], uses := [rdV a, wrV d] } s fun c s =>
    compute false d.toNat (fun i => out32 (f32.integral (c.code r) (c.A false a i).toNat)) c s

def execFclass (d a : BitVec 7) (s : State) : Out' :=
  issue { uni := false, uses := [rdV a, wrV d] } s fun c s =>
    compute false d.toNat (fun i => ([BitVec.ofNat 32 (f32.classOf (c.A false a i).toNat)], Flags.none)) c s

/-! ### Packed halves -/

def execHadd2 (d a b : BitVec 7) (s : State) : Out' := hpRR d a b false s (fun rm _ x y => f16.add rm x y)
def execHmul2 (d a b : BitVec 7) (s : State) : Out' := hpRR d a b false s (fun rm _ x y => f16.mul rm x y)
def execHfma2 (d a b : BitVec 7) (s : State) : Out' := hpRR d a b true s (fun rm z x y => f16.fma rm x y z)
def execBfma2 (d a b : BitVec 7) (s : State) : Out' := hpRR d a b true s (fun rm z x y => bf16.fma rm x y z)

/-! ### Binary64 -/

def execDadd (u : Bool) (d a b : BitVec 7) (s : State) : Out' := dpRR u d a b false s (fun rm _ x y => f64.add rm x y)
def execDsub (u : Bool) (d a b : BitVec 7) (s : State) : Out' := dpRR u d a b false s (fun rm _ x y => f64.sub rm x y)
def execDmul (u : Bool) (d a b : BitVec 7) (s : State) : Out' := dpRR u d a b false s (fun rm _ x y => f64.mul rm x y)
def execDfma (u : Bool) (d a b : BitVec 7) (s : State) : Out' := dpRR u d a b true s (fun rm z x y => f64.fma rm x y z)
def execDmin (u : Bool) (d a b : BitVec 7) (s : State) : Out' :=
  dpRR u d a b false s (fun _ _ x y => f64.minmax false x y)
def execDmax (u : Bool) (d a b : BitVec 7) (s : State) : Out' :=
  dpRR u d a b false s (fun _ _ x y => f64.minmax true x y)
def execDabs (u : Bool) (d a : BitVec 7) (s : State) : Out' := dpBits u d a s (fun x => x &&& 0x7FFFFFFFFFFFFFFF#64)
def execDneg (u : Bool) (d a : BitVec 7) (s : State) : Out' := dpBits u d a s (fun x => x ^^^ 0x8000000000000000#64)

def execDrnd (d a r : BitVec 7) (s : State) : Out' :=
  issue { uni := false, bad := firstBroken [multipleOf 2 d, multipleOf 2 a, below 5 r], uses := [rdV a 2, wrV d 2] } s
    fun c s => compute false d.toNat (fun i => out64 (f64.integral (c.code r) (c.A64 false a i).toNat)) c s

def execDclass (d a : BitVec 7) (s : State) : Out' :=
  issue { uni := false, bad := firstBroken [multipleOf 2 a], uses := [rdV a 2, wrV d] } s fun c s =>
    compute false d.toNat (fun i => ([BitVec.ofNat 32 (f64.classOf (c.A64 false a i).toNat)], Flags.none)) c s

end Sys2Proof.Machine
end

