-- ==== Sys2Proof/Machine/Compare.lean ====
section
/-! DEFINITION. Lane and uniform group 4: compares, masks and conditions (spec/04 R123 to R125). -/

namespace Sys2Proof.Machine

/-- Compare a with b, a register or the literal, into kD or cD. -/
def cmp32 (u : Bool) (d a b : BitVec 7) (s : State) (f : Word → Word → Bool × Flags) : Out' :=
  issue { uni := u, bad := firstBroken [below 8 d], litB := b, uses := [rdR u a, rdB u b] } s fun c s =>
    computeMask u d.toNat (fun i => f (c.A u a i) (c.B u b i)) c s

def icmp (u : Bool) (d a b : BitVec 7) (s : State) (f : Word → Word → Bool) : Out' :=
  cmp32 u d a b s (fun x y => (f x y, Flags.none))

def fcmp (r : FRel) (u : Bool) (d a b : BitVec 7) (s : State) : Out' :=
  cmp32 u d a b s (fun x y => f32.compare r x.toNat y.toNat)

def dcmp (r : FRel) (u : Bool) (d a b : BitVec 7) (s : State) : Out' :=
  issue { uni := u, bad := firstBroken [below 8 d, multipleOf 2 a, multipleOf 2 b], litB := b,
          uses := [rdR u a 2, rdB u b 2] } s fun c s =>
    computeMask u d.toNat (fun i => f64.compare r (c.A64 u a i).toNat (c.BD u b i).toNat) c s

def execIcmpIEq (u : Bool) (d a b : BitVec 7) (s : State) : Out' := icmp u d a b s (fun x y => x == y)
def execIcmpINe (u : Bool) (d a b : BitVec 7) (s : State) : Out' := icmp u d a b s (fun x y => x != y)
def execIcmpILt (u : Bool) (d a b : BitVec 7) (s : State) : Out' := icmp u d a b s (fun x y => x.slt y)
def execIcmpILe (u : Bool) (d a b : BitVec 7) (s : State) : Out' := icmp u d a b s (fun x y => !y.slt x)
def execIcmpIGt (u : Bool) (d a b : BitVec 7) (s : State) : Out' := icmp u d a b s (fun x y => y.slt x)
def execIcmpIGe (u : Bool) (d a b : BitVec 7) (s : State) : Out' := icmp u d a b s (fun x y => !x.slt y)
def execIcmpNLt (u : Bool) (d a b : BitVec 7) (s : State) : Out' := icmp u d a b s (fun x y => x.ult y)
def execIcmpNLe (u : Bool) (d a b : BitVec 7) (s : State) : Out' := icmp u d a b s (fun x y => !y.ult x)
def execIcmpNGt (u : Bool) (d a b : BitVec 7) (s : State) : Out' := icmp u d a b s (fun x y => y.ult x)
def execIcmpNGe (u : Bool) (d a b : BitVec 7) (s : State) : Out' := icmp u d a b s (fun x y => !x.ult y)

def execFcmpEq (u : Bool) (d a b : BitVec 7) (s : State) : Out' := fcmp .eq u d a b s
def execFcmpNe (u : Bool) (d a b : BitVec 7) (s : State) : Out' := fcmp .ne u d a b s
def execFcmpLt (u : Bool) (d a b : BitVec 7) (s : State) : Out' := fcmp .lt u d a b s
def execFcmpLe (u : Bool) (d a b : BitVec 7) (s : State) : Out' := fcmp .le u d a b s
def execFcmpGt (u : Bool) (d a b : BitVec 7) (s : State) : Out' := fcmp .gt u d a b s
def execFcmpGe (u : Bool) (d a b : BitVec 7) (s : State) : Out' := fcmp .ge u d a b s
def execFcmpUn (u : Bool) (d a b : BitVec 7) (s : State) : Out' := fcmp .un u d a b s
def execFcmpOrd (u : Bool) (d a b : BitVec 7) (s : State) : Out' := fcmp .ord u d a b s

def execDcmpEq (u : Bool) (d a b : BitVec 7) (s : State) : Out' := dcmp .eq u d a b s
def execDcmpNe (u : Bool) (d a b : BitVec 7) (s : State) : Out' := dcmp .ne u d a b s
def execDcmpLt (u : Bool) (d a b : BitVec 7) (s : State) : Out' := dcmp .lt u d a b s
def execDcmpLe (u : Bool) (d a b : BitVec 7) (s : State) : Out' := dcmp .le u d a b s
def execDcmpGt (u : Bool) (d a b : BitVec 7) (s : State) : Out' := dcmp .gt u d a b s
def execDcmpGe (u : Bool) (d a b : BitVec 7) (s : State) : Out' := dcmp .ge u d a b s
def execDcmpUn (u : Bool) (d a b : BitVec 7) (s : State) : Out' := dcmp .un u d a b s
def execDcmpOrd (u : Bool) (d a b : BitVec 7) (s : State) : Out' := dcmp .ord u d a b s

/-- Mask logic, bit by bit, on the active lanes. -/
def maskOp (d a b : BitVec 7) (rules : List Rule) (s : State) (f : Mask → Mask → Mask) : Out' :=
  issue { uni := false, bad := firstBroken rules } s fun c s =>
    (s.modWave c.cur.g c.cur.w (fun wv =>
      wv.kput c.act d.toNat (f (wv.kget c.act a.toNat) (wv.kget c.act b.toNat))), .next)

/-- Condition logic. -/
def condOp (d a b : BitVec 7) (rules : List Rule) (s : State) (f : Bool → Bool → Bool) : Out' :=
  issue { uni := true, bad := firstBroken rules } s fun c s =>
    (s.modWave c.cur.g c.cur.w (fun wv => wv.cset d.toNat (f (wv.cget a.toNat) (wv.cget b.toNat))), .next)

def execKand (d a b : BitVec 7) (s : State) : Out' := maskOp d a b [below 8 d, below 8 a, below 8 b] s (· &&& ·)
def execKor (d a b : BitVec 7) (s : State) : Out' := maskOp d a b [below 8 d, below 8 a, below 8 b] s (· ||| ·)
def execKxor (d a b : BitVec 7) (s : State) : Out' := maskOp d a b [below 8 d, below 8 a, below 8 b] s (· ^^^ ·)
def execKandn (d a b : BitVec 7) (s : State) : Out' :=
  maskOp d a b [below 8 d, below 8 a, below 8 b] s (fun x y => x &&& ~~~y)
def execKnot (d a : BitVec 7) (s : State) : Out' := maskOp d a 0#7 [below 8 d, below 8 a] s (fun x _ => ~~~x)
def execKmov (d a : BitVec 7) (s : State) : Out' := maskOp d a 0#7 [below 8 d, below 8 a] s (fun x _ => x)

def execKtov (d a : BitVec 7) (s : State) : Out' :=
  issue { uni := false, bad := firstBroken [below 8 a], uses := [wrV d] } s fun c s =>
    compute false d.toNat (fun i =>
      ([if (c.wave.kget c.act a.toNat).getLsbD i then 1#32 else 0#32], Flags.none)) c s

def execVtok (d a : BitVec 7) (s : State) : Out' :=
  issue { uni := false, bad := firstBroken [below 8 d], uses := [rdV a] } s fun c s =>
    computeMask false d.toNat (fun i => (c.A false a i != 0#32, Flags.none)) c s

def execCand (d a b : BitVec 7) (s : State) : Out' := condOp d a b [below 8 d, below 8 a, below 8 b] s (· && ·)
def execCor (d a b : BitVec 7) (s : State) : Out' := condOp d a b [below 8 d, below 8 a, below 8 b] s (· || ·)
def execCxor (d a b : BitVec 7) (s : State) : Out' := condOp d a b [below 8 d, below 8 a, below 8 b] s (· != ·)
def execCandn (d a b : BitVec 7) (s : State) : Out' :=
  condOp d a b [below 8 d, below 8 a, below 8 b] s (fun x y => x && !y)
def execCnot (d a : BitVec 7) (s : State) : Out' := condOp d a 0#7 [below 8 d, below 8 a] s (fun x _ => !x)
def execCmov (d a : BitVec 7) (s : State) : Out' := condOp d a 0#7 [below 8 d, below 8 a] s (fun x _ => x)

end Sys2Proof.Machine
end

