-- ==== Sys2Proof/Machine/Convert.lean ====
section
/-! DEFINITION. Lane group 5: conversions (spec/04 R126 to R129, spec/02 R59 to R64). -/

namespace Sys2Proof.Machine

/-- One register from one register. -/
def cvtR (d a : BitVec 7) (s : State) (f : Rnd → Nat → Nat × Flags) : Out' :=
  issue { uni := false, uses := [rdV a, wrV d] } s fun c s =>
    compute false d.toNat (fun i => out32 (f c.wave.rm (c.A false a i).toNat)) c s

/-- One register from one register under a rounding code. -/
def cvtCode (d a r : BitVec 7) (s : State) (f : Rnd → Nat → List Word × Flags) : Out' :=
  issue { uni := false, bad := firstBroken [below 5 r], uses := [rdV a, wrV d] } s fun c s =>
    compute false d.toNat (fun i => f (c.code r) (c.A false a i).toNat) c s

def int32Out (r : Int × Flags) : List Word × Flags := ([BitVec.ofInt 32 r.1], r.2)

def execF2iI (d a r : BitVec 7) (s : State) : Out' :=
  cvtCode d a r s (fun rm x => int32Out (f32.toInt rm (-(2 ^ 31)) (2 ^ 31 - 1) x))
def execF2iN (d a r : BitVec 7) (s : State) : Out' :=
  cvtCode d a r s (fun rm x => int32Out (f32.toInt rm 0 (2 ^ 32 - 1) x))
def execI2fI (d a : BitVec 7) (s : State) : Out' :=
  cvtR d a s (fun rm x => f32.ofInt rm (BitVec.ofNat 32 x).toInt)
def execI2fN (d a : BitVec 7) (s : State) : Out' := cvtR d a s (fun rm x => f32.ofInt rm x)

def execF2d (d a : BitVec 7) (s : State) : Out' :=
  issue { uni := false, bad := firstBroken [multipleOf 2 d], uses := [rdV a, wrV d 2] } s fun c s =>
    compute false d.toNat (fun i => out64 (f32.convert f64 .rne (c.A false a i).toNat)) c s
def execD2f (d a : BitVec 7) (s : State) : Out' :=
  issue { uni := false, bad := firstBroken [multipleOf 2 a], uses := [rdV a 2, wrV d] } s fun c s =>
    compute false d.toNat (fun i => out32 (f64.convert f32 c.wave.rm (c.A64 false a i).toNat)) c s
def execD2iI (d a r : BitVec 7) (s : State) : Out' :=
  issue { uni := false, bad := firstBroken [multipleOf 2 a, below 5 r], uses := [rdV a 2, wrV d] } s fun c s =>
    compute false d.toNat (fun i =>
      int32Out (f64.toInt (c.code r) (-(2 ^ 31)) (2 ^ 31 - 1) (c.A64 false a i).toNat)) c s
def execI2dI (d a : BitVec 7) (s : State) : Out' :=
  issue { uni := false, bad := firstBroken [multipleOf 2 d], uses := [rdV a, wrV d 2] } s fun c s =>
    compute false d.toNat (fun i => out64 (f64.ofInt .rne (c.A false a i).toInt)) c s

/-- Two binary32 values into the halves of one register. -/
def toHalves (F : Fmt) (d a b : BitVec 7) (s : State) : Out' :=
  issue { uni := false, litB := b, uses := [rdV a, rdB false b, wrV d] } s fun c s =>
    compute false d.toNat (fun i => halves (fun h =>
      f32.convert F c.wave.rm (if h = 0 then c.A false a i else c.B false b i).toNat)) c s

/-- One half of a register to binary32. -/
def fromHalf (F : Fmt) (h : Nat) (d a : BitVec 7) (s : State) : Out' :=
  cvtR d a s (fun _ x => F.convert f32 .rne (half (BitVec.ofNat 32 x) h))

def execF2h2 (d a b : BitVec 7) (s : State) : Out' := toHalves f16 d a b s
def execH2fLo (d a : BitVec 7) (s : State) : Out' := fromHalf f16 0 d a s
def execH2fHi (d a : BitVec 7) (s : State) : Out' := fromHalf f16 1 d a s
def execF2bf2 (d a b : BitVec 7) (s : State) : Out' := toHalves bf16 d a b s
def execBf2fLo (d a : BitVec 7) (s : State) : Out' := fromHalf bf16 0 d a s
def execBf2fHi (d a : BitVec 7) (s : State) : Out' := fromHalf bf16 1 d a s

/-! ### Format slots -/

/-- The launch of the instruction that issues. -/
def State.curLaunch (s : State) : Launch := ((s.ctx?).map Ctx.lau).getD Launch.empty

/-- Elements of a slot format in a lane register (Table 04.4): 0 for f32 and f64. -/
def laneCount (t : Slot) : Nat :=
  match t.bits with
  | 4 => 8
  | 6 | 8 => 4
  | 16 => 2
  | _ => 0

/-- Narrow a list of values with one generator: the elements, the flags, the generator (R60). -/
def narrowList (t : Slot) : Word → List Nat → List Nat × Flags × Word
  | st, [] => ([], Flags.none, st)
  | st, x :: xs =>
    let st' := if t.stochastic then srStep st else st
    let r := narrow (f32.read x) t (srU st')
    let rest := narrowList t st' xs
    (r.1 :: rest.1, r.2.union rest.2.1, rest.2.2)

/-- A register from elements of w bits, lowest first. -/
def packBits (w : Nat) : List Nat → Nat
  | [] => 0
  | x :: t => x % 2 ^ w + 2 ^ w * packBits w t

def execCvtn (n : BitVec 3) (d a : BitVec 7) (s : State) : Out' :=
  let t := s.curLaunch.slot n.toNat
  let k := laneCount t
  issue { uni := false, illegal := k == 0 || a.toNat % k != 0, uses := [rdV a k, wrV d] } s fun c s =>
    let r := fun i => narrowList t (c.wave.rng.getD i 0#32) ((List.range k).map (fun j => (c.wave.vget (a.toNat + j) i).toNat))
    let s := s.modWave c.cur.g c.cur.w (fun wv =>
      { wv with rng := wv.rng.zipIdx.map (fun p => if c.act.getLsbD p.2 then (r p.2).2.2 else p.1) })
    compute false d.toNat (fun i => ([BitVec.ofNat 32 (packBits t.bits (r i).1)], (r i).2.1)) c s

/-- `widen` of a lane conversion: the binary32 bits; INV for a signaling f16 or bf16 NaN only (R62 R129). -/
def widenLane (t : Slot) (bits : Nat) : Word × Flags :=
  let x := widenV t bits
  (BitVec.ofNat 32 x.toF32, Flags.ofInv (x.signaling && t.bits == 16))

def execCvtw (n : BitVec 3) (d a : BitVec 7) (s : State) : Out' :=
  let t := s.curLaunch.slot n.toNat
  let k := laneCount t
  issue { uni := false, illegal := k == 0 || d.toNat % k != 0, uses := [rdV a, wrV d k] } s fun c s =>
    compute false d.toNat (fun i =>
      let r := (List.range k).map (fun j => widenLane t ((c.A false a i).toNat / 2 ^ (t.bits * j) % 2 ^ t.bits))
      (r.map Prod.fst, Flags.unions (r.map Prod.snd))) c s

end Sys2Proof.Machine
end

