-- ==== Sys2Proof/Machine/CrossLane.lean ====
section
/-! DEFINITION. Lane group 6: cross-lane operations (spec/04 R130 to R133). -/

namespace Sys2Proof.Machine

/-- Lanes `js` of register `r`. -/
def elems (r : BitVec 7) (js : List Nat) : List (Nat × Nat) := js.map (fun j => (r.toNat, j))

/-- The wave width and the literal of the instruction that issues. -/
def State.curWidth (s : State) : Nat := ((s.ctx?).map (fun c => c.wave.width)).getD 64
def State.curLit (s : State) : Option Word := (s.ctx?).bind (fun c => c.cur.lit)

/-- Lane i receives register A of lane `pick c i`. -/
def shuffle (d a b : BitVec 7) (s : State) (pick : Ctx → Nat → Nat) : Out' :=
  issue { uni := false, litB := b, uses := [rdB false b, wrV d], also := [rdV a],
          cross := fun i => match s.ctx? with
            | some c => elems a [pick c i]
            | none => [] } s fun c s =>
    compute false d.toNat (fun i => ([c.wave.vget a.toNat (pick c i)], Flags.none)) c s

def execShfl (d a b : BitVec 7) (s : State) : Out' :=
  shuffle d a b s (fun c i => (c.B false b i).toNat % c.wave.width)
def execShflx (d a b : BitVec 7) (s : State) : Out' :=
  shuffle d a b s (fun c i => i ^^^ ((c.B false b i).toNat % c.wave.width))

/-- The slide count: the literal, 1 without one (R131). -/
def slideCount (s : State) : Nat := ((s.curLit).map BitVec.toNat).getD 1

/-- Slides by elements of `32 / h` bits: h elements in a lane, element e in lane e / h (R131). `src W n e` says
which element of which register comes to e: true for the fill register. -/
def slide (h : Nat) (d a b : BitVec 7) (s : State) (src : Nat → Nat → Nat → Bool × Nat) : Out' :=
  let n := slideCount s
  let T := h * s.curWidth
  let from_ := fun e => src T n e
  issue { uni := false, illegal := decide (T < n), uses := [wrV d], also := [rdV a, rdV b],
          cross := fun i => (List.range h).map (fun x =>
            let p := from_ (h * i + x); (if p.1 then b.toNat else a.toNat, p.2 / h)) } s fun c s =>
    compute false d.toNat (fun i =>
      ([BitVec.ofNat 32 (packBits (32 / h) ((List.range h).map (fun x =>
        let p := from_ (h * i + x)
        (c.wave.vget (if p.1 then b.toNat else a.toNat) (p.2 / h)).toNat / 2 ^ (32 / h * (p.2 % h)))))], Flags.none)) c s

def upSource (T n e : Nat) : Bool × Nat := if n ≤ e then (false, e - n) else (true, T - n + e)
def downSource (T n e : Nat) : Bool × Nat := if e + n < T then (false, e + n) else (true, e + n - T)

def execSlideup (d a b : BitVec 7) (s : State) : Out' := slide 1 d a b s upSource
def execSlidedn (d a b : BitVec 7) (s : State) : Out' := slide 1 d a b s downSource
def execSlideuph (d a b : BitVec 7) (s : State) : Out' := slide 2 d a b s upSource
def execSlidednh (d a b : BitVec 7) (s : State) : Out' := slide 2 d a b s downSource

/-- `BCAST` takes its lane number from a uniform register or the literal. -/
def execBcast (d a b : BitVec 7) (s : State) : Out' :=
  let lane := fun (c : Ctx) => (c.cur.lit.getD (c.wave.sget b.toNat)).toNat % c.wave.width
  issue { uni := false, litB := b, uses := [rdB true b, wrV d], also := [rdV a],
          cross := fun _ => match s.ctx? with
            | some c => elems a [lane c]
            | none => [] } s fun c s =>
    compute false d.toNat (fun _ => ([c.wave.vget a.toNat (lane c)], Flags.none)) c s

/-- sr.last of a wave. -/
def State.setLast (s : State) (c : Ctx) (x : DWord) : State :=
  s.modWave c.cur.g c.cur.w (fun wv => { wv with sr := { wv.sr with last := x } })

/-- Move elements of register A: pairs (to lane, from lane), and lanes to zero (R132). -/
def moveLanes (d a : BitVec 7) (moves : List (Nat × Nat)) (zero : List Nat) (c : Ctx) (s : State) : State :=
  s.modWave c.cur.g c.cur.w (fun wv =>
    let wv := moves.foldl (fun wv p => wv.vset d.toNat p.1 (c.wave.vget a.toNat p.2) false) wv
    zero.foldl (fun wv i => wv.vset d.toNat i 0#32 false) wv)

/-- Selected lanes of kB among the active ones, ascending. -/
def Ctx.selected (c : Ctx) (b : BitVec 7) : List Nat :=
  c.lanes.filter (fun i => (c.wave.kget c.act b.toNat).getLsbD i)

/-- The element that active lane i reads when the pairs (to lane, from lane) are `moves`: every one is read for the
lane that receives it. -/
def readsOf (a : BitVec 7) (s : State) (moves : Ctx → List (Nat × Nat)) (i : Nat) : List (Nat × Nat) :=
  match s.ctx? with
  | some c => elems a (((moves c).filter (fun p => p.1 == i)).map Prod.snd)
  | none => []

def compress (z : Bool) (d a b : BitVec 7) (s : State) : Out' :=
  issue { uni := false, bad := firstBroken [below 8 b], uses := [wrV d], also := [rdV a],
          cross := readsOf a s (fun c => c.lanes.zip (c.selected b)) } s fun c s =>
    let sel := c.selected b
    let s := moveLanes d a (c.lanes.zip sel) (if z then c.lanes.drop sel.length else []) c s
    (s.setLast c (BitVec.ofNat 64 sel.length), .next)

def execVcompress (d a b : BitVec 7) (s : State) : Out' := compress false d a b s
def execVcompressZ (d a b : BitVec 7) (s : State) : Out' := compress true d a b s

def execVexpand (d a b : BitVec 7) (s : State) : Out' :=
  issue { uni := false, bad := firstBroken [below 8 b], uses := [wrV d], also := [rdV a],
          cross := readsOf a s (fun c => (c.selected b).zip c.lanes) } s fun c s =>
    let sel := c.selected b
    let s := moveLanes d a (sel.zip c.lanes) [] c s
    (s.setLast c (BitVec.ofNat 64 sel.length), .next)

/-- Votes: the mask of the p_i gives the bits written and sr.last (R133). -/
def vote (d a : BitVec 7) (s : State) (f : Mask → Mask → Mask × DWord) : Out' :=
  issue { uni := false, bad := firstBroken [below 8 d], uses := [rdV a] } s fun c s =>
    let p := Mask.ofLanes (c.lanes.filter (fun i => c.A false a i != 0#32))
    let r := f c.act p
    let s := s.modWave c.cur.g c.cur.w (fun wv => wv.kput c.act d.toNat r.1)
    (s.setLast c r.2, .next)

def execVoteany (d a : BitVec 7) (s : State) : Out' :=
  vote d a s (fun _ p => if p = 0#64 then (0#64, 0#64) else (~~~0#64, 1#64))
def execVoteall (d a : BitVec 7) (s : State) : Out' :=
  vote d a s (fun act p => if p = act then (~~~0#64, 1#64) else (0#64, 0#64))
def execBallot (d a : BitVec 7) (s : State) : Out' := vote d a s (fun _ p => (p, p))

end Sys2Proof.Machine
end

