-- ==== Sys2Proof/Machine/Special.lean ====
section
/-! DEFINITION. Lane group 7: special functions and their completion (spec/04 R134 R135 R139 to R141). The results and
flags of each lane are computed at issue, under the mode read at issue, and take effect at completion. -/

namespace Sys2Proof.Machine

/-- Leave a special function pending: destinations of the lanes that raise no enabled flag receive their results when
it completes. -/
def pendSpecial (d k : Nat) (f : Nat → List Word × Flags) (c : Ctx) (s : State) : State × Flow :=
  let fpmode := c.wave.sr.fpmode
  let res := c.lanes.map (fun i => (i, f i))
  let good := res.filter (fun r => !r.2.2.traps fpmode)
  let wrs := good.flatMap (fun r => r.2.1.zipIdx.map (fun x => { lane := r.1, reg := d + x.2, val := x.1, poison := false : Wr }))
  -- Flags of lanes that trap keep their enables as read at issue: the others are stored as flags that never trap.
  let flags := res.map (fun r => (if r.2.2.traps fpmode then r.1 else r.1 + 64, r.2.2))
  (s.addPend c 8 false ((List.range k).map (fun j => d + j)) c.act c.act (.special flags) false false [] wrs, .next)

def special32 (d a : BitVec 7) (s : State) (f : Rnd → Nat → Nat × Flags) : Out' :=
  issue { uni := false, long := true, uses := [rdV a, wrV d] } s fun c s =>
    pendSpecial d.toNat 1 (fun i => out32 (f c.wave.rm (c.A false a i).toNat)) c s

def special64 (d a : BitVec 7) (s : State) (f : Rnd → Nat → Nat × Flags) : Out' :=
  issue { uni := false, long := true, bad := firstBroken [multipleOf 2 d, multipleOf 2 a], uses := [rdV a 2, wrV d 2] } s
    fun c s => pendSpecial d.toNat 2 (fun i => out64 (f c.wave.rm (c.A64 false a i).toNat)) c s

def execRcp (d a : BitVec 7) (s : State) : Out' := special32 d a s (fun _ x => specialFn 0 x)
def execRsq (d a : BitVec 7) (s : State) : Out' := special32 d a s (fun _ x => specialFn 1 x)
def execSqrt (d a : BitVec 7) (s : State) : Out' := special32 d a s (fun rm x => f32.sqrt rm x)
def execLog2 (d a : BitVec 7) (s : State) : Out' := special32 d a s (fun _ x => specialFn 3 x)
def execExp2 (d a : BitVec 7) (s : State) : Out' := special32 d a s (fun _ x => specialFn 4 x)
def execSin (d a : BitVec 7) (s : State) : Out' := special32 d a s (fun _ x => specialFn 5 x)
def execCos (d a : BitVec 7) (s : State) : Out' := special32 d a s (fun _ x => specialFn 6 x)
def execTanh (d a : BitVec 7) (s : State) : Out' := special32 d a s (fun _ x => specialFn 7 x)
def execDrcp (d a : BitVec 7) (s : State) : Out' := special64 d a s (fun _ x => Sys2Proof.Machine.drcp x)
def execDsqrt (d a : BitVec 7) (s : State) : Out' := special64 d a s (fun rm x => f64.sqrt rm x)

/-- The fault record of a pending instruction, which names its own bundle and slot (R141, spec/06 R181). -/
def Pend.record (p : Pend) (lane : Nat) (uni wr : Bool) (f : Flt) : Rec :=
  { cause := f.cause, lane := lane, split := p.sp % 64, slot := p.slot, uni := uni, wr := wr,
    svc := serviceable f.cause, rpti := p.rpti, fpf := 0#4, pst := f.pst, lvl := f.lvl, code := 0, va := f.va,
    pc := p.pc, insn := p.insn }

/-- The split-table index of the split that holds a lane. -/
def Wave.holderOf (wv : Wave) (lane : Nat) : Nat :=
  ((wv.valid.find? (fun p => p.2.mask.getLsbD lane)).map Prod.fst).getD 0

/-- Records of a pending instruction whose cause arrives after later instructions have issued: they name the split that
holds each lane now (spec/10 R275). -/
def Pend.held (p : Pend) (wv : Wave) (recs : List Rec) : List Rec :=
  recs.map (fun r => { r with split := wv.holderOf (if r.uni then (p.mask.lanes.find? (fun i => wv.live.getLsbD i)).getD 0 else r.lane) })

/-- The records of lanes that have not died meanwhile. -/
def Pend.liveRecs (p : Pend) (wv : Wave) (recs : List Rec) : List Rec :=
  recs.filter (fun r => if r.uni then (p.mask &&& wv.live) != 0#64 else wv.live.getLsbD r.lane)

/-- The wave traps for causes that a pending instruction raised (spec/13 R356). A lane that has died meanwhile gives no record. A
cause that an instruction of the handler split meets after its `RETT` is one that the handler raised (DESIGN CHOICE, assumption
56). -/
def State.trapFor (s : State) (g w : Nat) (p : Pend) (recs : List Rec) : State :=
  match s.wave? g w with
  | none => s
  | some wv =>
    let recs := p.liveRecs wv recs
    if recs.isEmpty then s else s.takeTrap g w (p.sp == trapIdx) (p.held wv recs)

/-- The clock of the core of a group is held (spec/14 R369). -/
def State.coreHeld (s : State) (g : Nat) : Bool := ((s.groups[g]?).map (fun G => (s.core G.core).held)).getD false

/-- SPECIAL_FUNCTION_COMPLETE (R139 R141): the results, the sticky flags of every lane for which the instruction issued, and
a trap of the split where it now stands when a lane raised an enabled flag. A lane that has died meanwhile gives no
record: what it left pending is discarded (spec/03 R80; DESIGN CHOICE, assumption 56). -/
def execSpecialFunctionComplete (g w p : Nat) (s : State) : Out' :=
  match (s.wave? g w).bind (fun wv => wv.pend? p) with
  | none => idle s
  | some q =>
    match q.kind with
    | .special flags =>
      if s.coreHeld g then idle s
      else
      let s := s.modWave g w (fun wv =>
        ((wv.writeAll false q.wrs).setSticky (Flags.unions (flags.map Prod.snd)).bits).retirePend p)
      let bad := flags.filter (fun f => decide (f.1 < 64))
      let recs := bad.map (fun f => { q.record f.1 false false (Flt.plain cFp 0#64) with fpf := f.2.ieee })
      .next (s.trapFor g w q recs)
    | _ => idle s

end Sys2Proof.Machine
end

