-- ==== Sys2Proof/Machine/Memory.lean ====
section
/-! DEFINITION. The memories as a group on its core reads and writes them: a location in core-local memory, scratch, physical
memory or a host window (spec/05 R146 R147, spec/06 R176 to R180). -/

namespace Sys2Proof.Machine

/-! ### A location (spec/05 R142, spec/06 R166) -/

/-- Where a group's own CLM starts in its core. -/
def Group.clmBase (G : Group) : Nat := G.clmb * 1024

/-- Bytes at a location, for a group on its core. -/
def State.locRead (s : State) (G : Group) (l : Loc) (n : Nat) : List Byte :=
  match l with
  | .clm o => cellBytes (s.core G.core).clm (G.clmBase + o) n
  | .scratch o => cellBytes (s.core G.core).scr o n
  | .phys pa => s.peek pa n
  | .host p a => s.hostRead p a n

/-- Some byte read is poisoned. -/
def State.locPoison (s : State) (G : Group) (l : Loc) (n : Nat) : Bool :=
  match l with
  | .clm o => marked (s.core G.core).clmP (G.clmBase + o) n
  | .scratch o => marked (s.core G.core).scrP o n
  | .phys pa => marked s.memP pa n
  | .host p a => (s.hostFills p a n).hostMarked p a n

/-- What a read leaves behind: applied reductions, a filled line. -/
def State.locTouch (s : State) (l : Loc) (n : Nat) : State :=
  match l with
  | .phys pa => s.drain pa n
  | .host p a => s.hostFills p a n
  | .clm _ | .scratch _ => s

/-- Store bytes at a location. -/
def State.locWrite (s : State) (G : Group) (l : Loc) (b : List Byte) : State :=
  match l with
  | .clm o => s.modCore G.core (fun c =>
      { c with clm := cellWrites c.clm (G.clmBase + o) b, clmP := unmark c.clmP (G.clmBase + o) b.length })
  | .scratch o => s.modCore G.core (fun c => { c with scr := cellWrites c.scr o b, scrP := unmark c.scrP o b.length })
  | .phys pa => s.poke pa b
  | .host p a => s.hostStore p a b

def Loc.add (l : Loc) (k : Nat) : Loc :=
  match l with
  | .clm o => .clm (o + k)
  | .scratch o => .scratch (o + k)
  | .phys pa => .phys (pa + k)
  | .host p a => .host p (a + k)

/-- Two accesses of one group's wave share a byte. -/
def Loc.overlaps (l : Loc) (n : Nat) (l' : Loc) (n' : Nat) : Bool :=
  match l, l' with
  | .clm a, .clm b | .scratch a, .scratch b | .phys a, .phys b => decide (a < b + n') && decide (b < a + n)
  | .host p a, .host q b => peerQp p == peerQp q && decide (a < b + n') && decide (b < a + n)
  | _, _ => false

end Sys2Proof.Machine
end

