-- ==== Sys2Proof/Machine/Translate.lean ====
section
/-! DEFINITION. Translation of global addresses: page tables, first touch, windows, the cached translations (spec/06 R165
to R175). -/

namespace Sys2Proof.Machine

/-! ### The physical map (spec/06 R166, spec/05 R154) -/

/-- Usable GDDR7 of the mix in bytes. -/
def Mix.gddr : Mix → Nat
  | .g1s4m2 => 0x0007_C000_0000
  | .g2s8m4 | .g0s8m4 => 0x000F_8000_0000

def colBase (c : Nat) : Nat := 0x1000_0000_0000 + c * 0x2_0000_0000
def retBase (d : Nat) : Nat := 0x1800_0000_0000 + d * 0x2_0000_0000
def colSize : Nat := 6 * 2 ^ 30
def unitSize : Nat := 512 * 2 ^ 20

/-- [pa, pa + n) lies in the pool area of a column or of a retired column. -/
def State.inPool (s : State) (pa n : Nat) : Bool :=
  (List.range (12 * s.mix.shadingDies)).any (fun c =>
    s.diePresent (dieOf c) && decide (colBase c + s.priv c * unitSize ≤ pa) && decide (pa + n ≤ colBase c + colSize)) ||
  (List.range s.mix.shadingDies).any (fun d =>
    s.diePresent d && ((s.dies[d]?).map (fun x => x.ret != 15)).getD false &&
      decide (retBase d ≤ pa) && decide (pa + n ≤ retBase d + colSize))

/-- The column that holds a physical address, unless it is a retired one. -/
def columnOf (pa : Nat) : Option Nat :=
  if decide (colBase 0 ≤ pa) && decide (pa < colBase 96) then some ((pa - colBase 0) / 0x2_0000_0000) else none

/-- The memory at a physical address serves accesses: its column is Ready (spec/05 R157). -/
def State.serves (s : State) (pa : Nat) : Bool :=
  match columnOf pa with
  | some c => s.columns.getD c .notReady == .ready
  | none => true

/-! ### Page-table entries (spec/06 R168 R169) -/

def eV (e : DWord) : Bool := e.getLsbD 0
def eLeaf (e : DWord) : Bool := e.getLsbD 1
def eW (e : DWord) : Bool := e.getLsbD 2
def eX (e : DWord) : Bool := e.getLsbD 3
def eKind (e : DWord) : Nat := (e.extractLsb' 4 3).toNat
def eCsch (e : DWord) : Bool := e.getLsbD 7
def eState (e : DWord) : Nat := (e.extractLsb' 8 2).toNat
def ePlaced (e : DWord) : Bool := e.getLsbD 10
def eA (e : DWord) : Bool := e.getLsbD 11
def eD (e : DWord) : Bool := e.getLsbD 12
/-- PFN or NEXT as an address: bits [47:14]. -/
def eAddr (e : DWord) : Nat := (e.extractLsb' 14 34).toNat * 2 ^ 14
/-- Bits [13] and [63:48], which must be 0. -/
def eReserved (e : DWord) : Bool := e.getLsbD 13 || e.extractLsb' 48 16 != 0#16

/-- log2 of the bytes that a leaf of a level maps. -/
def pageShift (lvl : Nat) : Nat := 14 + 11 * lvl

/-- Window number and page within the window. -/
def eWindow (e : DWord) : Nat := (e.extractLsb' 36 12).toNat
def ePage (e : DWord) : Nat := (e.extractLsb' 14 22).toNat

/-- The range of a kind: usable GDDR7, or a pool area. The manual names no check that hides the metadata space: a GDDR7 leaf
may name it (DESIGN CHOICE, assumption 57). -/
def State.inKind (s : State) (kind pa n : Nat) : Bool :=
  if kind = 1 then s.inPool pa n else decide (pa + n ≤ s.mix.gddr)

/-- A leaf that the walker refuses (R169). A pool leaf that is not placed has no frame to check; PLACED of another kind is
not looked at (DESIGN CHOICE, assumption 57). -/
def State.badLeaf (s : State) (e : DWord) (lvl : Nat) : Bool :=
  let k := eKind e
  eReserved e || decide (4 < k) || (eCsch e && k != 4) || lvl == 3 ||
    (lvl == 1 && e.extractLsb' 14 11 != 0#11) || (lvl == 2 && e.extractLsb' 14 22 != 0#22) ||
    (k == 1 && lvl == 2) || (k == 4 && lvl != 0) ||
    ((k == 0 || k == 4) && !s.inKind 0 (eAddr e) 1) || (k == 1 && ePlaced e && !s.inKind 1 (eAddr e) 1)

/-- A table entry uses only V, LEAF and NEXT. -/
def badTable (e : DWord) : Bool := eReserved e || e.extractLsb' 2 11 != 0#11

/-- What a walk finds: a fault (cause, page state, level), or a leaf with its level and the address of the entry. -/
inductive Walked where
  | fault (cause pst lvl : Nat)
  | leaf (e : DWord) (lvl at_ : Nat)
deriving DecidableEq, Repr

/-- A table address that the walker refuses: not aligned to the table's size (DESIGN CHOICE, assumption 57), or outside usable
GDDR7 (R169). -/
def State.badTableAt (s : State) (lvl tab : Nat) : Bool :=
  let size := if lvl = 3 then 256 else 16384
  tab % size != 0 || decide (s.mix.gddr < tab + size)

/-- Walk from a table of level `lvl`. PST is 6 for an entry that has no page state (DEDUCED, assumption 12). A table that is
not aligned to its size, ROOT among them, is a bad entry (DESIGN CHOICE, assumption 57). -/
def State.walk (s : State) (va : Nat) : Nat → Nat → Walked
  | lvl, tab =>
    if s.badTableAt lvl tab then .fault cBadEntry 6 lvl
    else
      let at_ := tab + 8 * (va / 2 ^ pageShift lvl % ((if lvl = 3 then 256 else 16384) / 8))
      let e := s.peek64 at_
      if !eV e then .fault cPageFault 4 lvl
      else if eLeaf e then (if s.badLeaf e lvl then .fault cBadEntry 6 lvl else .leaf e lvl at_)
      else if badTable e then .fault cBadEntry 6 lvl
      else
        match lvl with
        | 0 => .fault cBadEntry 6 0
        | l + 1 => s.walk va l (eAddr e)

/-- The tables below the root that the walk reads, by level, the root's child first. The walk ends at a table that is refused. -/
def State.walkTables (s : State) (va : Nat) : Nat → Nat → List (Nat × Nat)
  | 0, _ => []
  | l + 1, tab =>
    let e := s.peek64 (tab + 8 * (va / 2 ^ pageShift (l + 1) % ((if l = 2 then 256 else 16384) / 8)))
    if s.badTableAt (l + 1) tab || !eV e || eLeaf e || badTable e || s.badTableAt l (eAddr e) then []
    else (l, eAddr e) :: s.walkTables va l (eAddr e)

/-! ### Frames in use -/

/-- The entries other than zero of a table. -/
def State.tableEntries (s : State) (tab size : Nat) : List DWord :=
  (((cellPart s.mem tab (tab + size)).map (fun c => c.1 / 8)).eraseDups).map (fun w => s.peek64 (8 * w))

/-- The leaves below a table of a level, with their levels. -/
def State.leavesUnder (s : State) : Nat → Nat → List (Nat × DWord)
  | lvl, tab =>
    (s.tableEntries tab (if lvl = 3 then 256 else 16384)).flatMap (fun e =>
      if !eV e then []
      else if eLeaf e then [(lvl, e)]
      else if badTable e then []
      else
        match lvl with
        | 0 => []
        | l + 1 => s.leavesUnder l (eAddr e))

/-- The frames that leaves of live jobs name: first byte and size. -/
def State.mapped (s : State) : List (Nat × Nat) :=
  ((s.jobs.filter Job.live).flatMap (fun J => s.leavesUnder 3 J.root)).filterMap (fun x =>
    if 1 < eKind x.2 || (eKind x.2 == 1 && !ePlaced x.2) then none else some (eAddr x.2, 2 ^ pageShift x.1))

/-! ### Pool frame rings (spec/16 R386, spec/06 R171) -/

/-- First configuration word of RING16 or RING32 of a core. -/
def ringWord (core : Nat) (big : Bool) : Nat := 256 + 8 * core + (if big then 4 else 0)
def State.ringBase (s : State) (w : Nat) : Nat :=
  (s.cfgWord w).toNat + ((s.cfgWord (w + 1)).extractLsb' 0 16).toNat * 2 ^ 32
def State.ringLog (s : State) (w : Nat) : Nat := ((s.cfgWord (w + 1)).extractLsb' 16 8).toNat
def State.ringSlot (s : State) (w : Nat) (i : Word) : Nat := s.ringBase w + 8 * (i.toNat % 2 ^ s.ringLog w)

/-- The frames that a ring holds: first byte and size. -/
def State.ringFrames (s : State) (core : Nat) (big : Bool) : List (Nat × Nat) :=
  let w := ringWord core big
  let head := s.cfgWord (w + 2)
  (List.range (s.cfgWord (w + 3) - head).toNat).map (fun i =>
    ((s.peek64 (s.ringSlot w (head + BitVec.ofNat 32 i))).toNat, if big then 32 * 2 ^ 20 else 2 ^ 14))

/-- The frames in use: those of leaves, and those that wait in rings. -/
def State.framesInUse (s : State) : List (Nat × Nat) :=
  s.mapped ++ (List.range 96).flatMap (fun c => s.ringFrames c false ++ s.ringFrames c true)

/-- Some frame in use has a byte in [a, a + n). -/
def State.frameUsed (s : State) (a n : Nat) : Bool := s.framesInUse.any (fun f => decide (f.1 < a + n) && decide (a < f.1 + f.2))

/-- Take the frame at the head of a ring; none when the ring is empty. -/
def State.takeFrame (s : State) (core : Nat) (big : Bool) : Option (Nat × State) :=
  let w := ringWord core big
  let head := s.cfgWord (w + 2)
  if head = s.cfgWord (w + 3) then none
  else some ((s.peek64 (s.ringSlot w head)).toNat, s.cfgSet (w + 2) (head + 1#32))

/-! ### Window tables (spec/06 R175) -/

structure WinEntry where
  base : DWord
  key : Word
  qpn : Nat
  port : Nat
  host : Bool
  pages : Nat

/-- Entry `n` of a window table; none where it is refused for a leaf of that kind. -/
def State.window (s : State) (wtab n : Nat) (host : Bool) : Option WinEntry :=
  let ws := s.peekWords (wtab + 32 * n) 8
  let w3 := ws.getD 3 0#32
  if !w3.getLsbD 14 || w3.getLsbD 13 != host || w3.extractLsb' 15 17 != 0#17 || (ws.drop 5).any (fun w => w != 0#32) then none
  else some { base := pairOf (ws.getD 0 0#32) (ws.getD 1 0#32), key := ws.getD 2 0#32, qpn := (w3.extractLsb' 0 12).toNat,
              port := (w3.extractLsb' 12 1).toNat, host := w3.getLsbD 13, pages := (ws.getD 4 0#32).toNat }

/-! ### Translation -/

/-- Who translates, and for what. `core` is the shading core whose ring serves a first touch; none for parties without
a ring and for translations that place nothing. `tlb` is the core whose L2 TLB serves the request; none for parties of the
device, which only the walkers of their die serve. -/
structure XReq where
  die : Nat
  job : Nat
  wr : Bool
  fetch : Bool
  core : Option Nat
  tlb : Option Nat := none

/-- A translated page: kind, leaf level, leaf, and the address of its first byte, physical or at the peer. -/
structure Page where
  kind : Nat
  lvl : Nat
  entry : DWord
  base : Nat
  peer : Nat
  qpn : Nat
  port : Nat
  key : Word
  /-- 16 KiB pages of the window from the page's first byte. -/
  pages : Nat

inductive Xlated where
  | page (p : Page)
  | fault (f : Flt)

/-- The partition of the issuing wave, when it runs on a core. -/
def State.curPart (s : State) (core : Nat) : Option Nat :=
  match s.cur with
  | none => none
  | some c =>
    match s.groups[c.g]?, s.wave? c.g c.w with
    | some G, some wv => if G.core = core then some wv.part else none
    | _, _ => none

/-- The TLBs that a request looks at: those of its core, and of the partition whose wave issues (R172). -/
def State.tlbsOf (s : State) (q : XReq) : List TlbAt :=
  match q.tlb with
  | none => []
  | some c =>
    match s.curPart c with
    | none => [.l2 c]
    | some p => [.l1 c p, .l2 c]

/-- Entries of a TLB. -/
def TlbAt.room : TlbAt → Nat
  | .l1 _ _ => 64
  | .l2 _ => 2048

/-- Remove the oldest of the entries that satisfy `p`, when there are `n` of them or more; the newest stands first. -/
def roomFor {α : Type} (p : α → Bool) (n : Nat) (l : List α) : List α :=
  if (l.filter p).length < n then l else (l.reverse.eraseP p).reverse

/-- Enter a translation into a TLB. -/
def State.tlbPut (s : State) (t : Tlb) : State :=
  let rest := s.tlb.filter (fun x => !(x.place == t.place && x.tag == t.tag && x.base == t.base && x.size == t.size))
  { s with tlb := t :: roomFor (fun x => x.place == t.place) t.place.room rest }

/-- The page of a cached leaf holds an address of the request's job. -/
def State.tlbNames (s : State) (q : XReq) (va : Nat) (t : Tlb) : Bool :=
  (s.tlbsOf q).contains t.place && t.tag == (s.job q.job).tag && decide (t.base ≤ va) && decide (va < t.base + t.size)

/-- A cached leaf that may serve the request: valid entries and resident leaves only, and D already set for a write. -/
def State.tlbHit (s : State) (q : XReq) (va : Nat) : Option Tlb :=
  s.tlb.find? (fun t => s.tlbNames q va t && (!q.wr || (eW t.leaf && eD t.leaf)) &&
    (!q.fetch || (eX t.leaf && decide (eKind t.leaf ≤ 1))))

def lvlOf (size : Nat) : Nat := (size.log2 - 14) / 11

/-- The entries of a die's page-walk cache from which a walk for an address may start. -/
def State.walkHits (s : State) (q : XReq) (va : Nat) : List WalkEnt :=
  s.walks.filter (fun e => e.die == q.die && e.tag == (s.job q.job).tag && e.base == va / 2 ^ pageShift (e.lvl + 1))

/-- Enter the table entries of a walk into the page-walk cache of the die, 256 at the most. -/
def State.rememberWalk (s : State) (q : XReq) (va : Nat) (l : List (Nat × Nat)) : State :=
  let tag := (s.job q.job).tag
  { s with walks := l.foldl (fun w x =>
      let e : WalkEnt := { die := q.die, tag := tag, lvl := x.1, base := va / 2 ^ pageShift (x.1 + 1), table := x.2 }
      e :: roomFor (fun y => y.die == q.die) 256 (w.filter (fun y => !(y.die == e.die && y.tag == e.tag && y.lvl == e.lvl &&
        y.base == e.base)))) s.walks }

/-- A cached answer comes to the same as the walk's: they differ in nothing but an A or a D that only the walk found set. -/
def Walked.agrees (old new : Walked) : Bool :=
  match old, new with
  | .leaf e l a, .leaf e' l' a' => l == l' && a == a' && (e ||| 0x1800#64) == (e' ||| 0x1800#64) && (e &&& ~~~e') == 0#64
  | _, _ => old == new

/-- The present answer, or an older one that a cache gives: free wherever they differ (R172 R173; assumption 8). -/
def State.pick (s : State) (w : Walked) : List Walked → Walked × State
  | [] => (w, s)
  | a :: rest =>
    if a.agrees w then s.pick w rest
    else
      let (b, s') := s.drawBit
      if b then (a, s') else State.pick s' w rest

/-- The walk met no entry and no table that it refuses: the caches hold valid entries alone (R172). -/
def Walked.sound : Walked → Bool
  | .fault c _ _ => c != cBadEntry
  | .leaf _ _ _ => true

/-- The leaf for an address: what the walk finds, a cached leaf, or what a walk from a cached table entry finds (R172). -/
def State.findLeaf (s : State) (q : XReq) (va : Nat) : Walked × State :=
  let root := (s.job q.job).root
  let full := s.walk va 3 root
  let old := ((s.tlbHit q va).map (fun t => Walked.leaf t.leaf (lvlOf t.size) t.at_)).toList ++
    (s.walkHits q va).map (fun e => s.walk va e.lvl e.table)
  let r := s.pick full old
  (r.1, if r.1 = full ∧ full.sound = true then r.2.rememberWalk q va (s.walkTables va 3 root) else r.2)

/-- Set A, and D for a write, by an atomic OR, and remember the leaf. -/
def State.useLeaf (s : State) (q : XReq) (va : Nat) (e : DWord) (lvl at_ : Nat) : DWord × State :=
  let need := eA e && (!q.wr || eD e)
  let e' := e ||| 0x800#64 ||| (if q.wr then 0x1000#64 else 0#64)
  let s := if need then s else s.poke64 at_ (s.peek64 at_ ||| 0x800#64 ||| (if q.wr then 0x1000#64 else 0#64))
  let size := 2 ^ pageShift lvl
  (e', (s.tlbsOf q).foldl (fun s p => s.tlbPut
    { place := p, tag := (s.job q.job).tag, base := va / size * size, size := size, leaf := e', at_ := at_ }) s)

/-- A frame is taken: no hamper keeps an older copy of its lines. -/
def State.dropFrame (s : State) (frame n : Nat) : State :=
  { s with hcopies := s.hcopies.filter (fun h => !(decide (frame ≤ 128 * h.line) && decide (128 * h.line < frame + n))) }

/-- First touch of a pool page in hardware mode: the ring's frame by compare-and-swap; none where no frame is to be had
(R171). The swap of the model never fails, since a step is whole. -/
def State.place (s : State) (q : XReq) (e : DWord) (lvl at_ : Nat) : Option (DWord × State) :=
  if s.mode 0 then none
  else
    match q.core with
    | none => none
    | some c =>
      match s.takeFrame c (lvl == 1) with
      | none => none
      | some (frame, s) =>
        let e' := (e &&& 0xFFFF000000003FFF#64) ||| BitVec.ofNat 64 frame ||| 0xC00#64 |||
          (if q.wr then 0x1000#64 else 0#64)
        some (e', (s.poke64 at_ e').dropFrame frame (2 ^ pageShift lvl))

/-- Translate the page of an address (R165 step 3, R170, R171, R175). -/
def State.xpage (s : State) (q : XReq) (va : DWord) : Xlated × State :=
  let bad := fun (c p l : Nat) => Xlated.fault { cause := c, va := va, pst := p, lvl := l }
  match s.findLeaf q va.toNat with
  | (.fault c p l, s) => (bad c p l, s)
  | (.leaf e lvl at_, s) =>
    let k := eKind e
    match eState e with
    | 1 => (bad cPageFault 1 lvl, s)
    | 2 => (bad cPageFault 2 lvl, s)
    | 3 => (bad cPoison 3 lvl, s)
    | _ =>
      if (q.wr && !eW e) || (q.fetch && (!eX e || decide (1 < k))) then (bad cPermission 0 lvl, s)
      else if k = 2 ∨ k = 3 then
        match s.window (s.job q.job).wtab (eWindow e) (k == 2) with
        | none => (bad cBadEntry 6 lvl, s)
        | some w =>
          if w.pages ≤ ePage e + va.toNat % 2 ^ pageShift lvl / 16384 then (bad cBadEntry 6 lvl, s)
          else
            let (e', s) := s.useLeaf q va.toNat e lvl at_
            (.page { kind := k, lvl := lvl, entry := e', base := (w.base + BitVec.ofNat 64 (16384 * ePage e)).toNat,
                     peer := peerOf w.qpn w.port w.key, qpn := w.qpn, port := w.port, key := w.key,
                     pages := w.pages - ePage e }, s)
      else if k = 1 ∧ !ePlaced e then
        match s.place q e lvl at_ with
        | none => (bad cPageFault 5 lvl, s)
        | some (e', s) =>
          let (e', s) := s.useLeaf q va.toNat e' lvl at_
          (.page { kind := k, lvl := lvl, entry := e', base := eAddr e', peer := 0, qpn := 0, port := 0, key := 0#32, pages := 0 }, s)
      else
        let (e', s) := s.useLeaf q va.toNat e lvl at_
        (.page { kind := k, lvl := lvl, entry := e', base := eAddr e', peer := 0, qpn := 0, port := 0, key := 0#32, pages := 0 }, s)

/-- The outcome of a checked access: a location, or a fault. -/
inductive Placed where
  | loc (l : Loc)
  | fault (f : Flt)
deriving DecidableEq, Repr

/-- The location of [va, va + n) in a page: bytes outside the range of the kind raise `BAD_ENTRY` (R169); remote and
compressed pages are closed to lanes (Table 06.4); a column that is not Ready raises `COLUMN_NOT_READY` in host-assisted
mode (spec/05 R157). -/
def State.inPage (s : State) (p : Page) (va : DWord) (n : Nat) : Placed :=
  let off := va.toNat % 2 ^ pageShift p.lvl
  let bad := fun (c pst : Nat) => Placed.fault { cause := c, va := va, pst := pst, lvl := p.lvl }
  if p.kind = 2 then
    if p.pages * 16384 < off + n then bad cBadEntry 6 else .loc (.host p.peer (p.base + off))
  else if p.kind = 3 then bad cRemote 0
  else if !s.inKind p.kind (p.base + off) n then bad cBadEntry 6
  else if p.kind = 4 then bad cCompressed 0
  else if s.mode 0 && !s.serves (p.base + off) then bad cColumn 0
  else .loc (.phys (p.base + off))

/-- The checks of R165 on one access: alignment, range, translation. -/
def State.xaccess (s : State) (q : XReq) (va : DWord) (n align : Nat) : Placed × State :=
  if va.toNat % align != 0 then (.fault (Flt.plain cMisaligned va), s)
  else if va.extractLsb' 52 12 != 0#12 then (.fault (Flt.plain cGlobalRange va), s)
  else
    match s.xpage q va with
    | (.fault f, s) => (.fault f, s)
    | (.page p, s) => (s.inPage p va n, s)

/-- The translation request of a core's lanes, engines and fetches. -/
def coreReq (core job : Nat) (wr fetch : Bool) : XReq :=
  { die := dieOf core, job := job, wr := wr, fetch := fetch,
    core := if shading core then some core else none, tlb := some core }

end Sys2Proof.Machine
end

