-- ==== Sys2Proof/Machine/Access.lean ====
section
/-! DEFINITION. Memory instructions of groups 8 and 9: the checks of every lane at issue, parking, and the performing of
one lane's access (spec/03 R90 R421, spec/05 R142 to R163, spec/06 R165 R178 to R185, spec/07 R191 to R202). -/

namespace Sys2Proof.Machine

/-! ### Local addresses (spec/05 R142 R143) -/

/-- The column allocation that a launch holds on a core (R155). -/
def State.colAlloc? (s : State) (l : Launch) (core : Nat) : Option ColAlloc :=
  s.colAllocs.find? (fun a => a.core == core && l.csetNums.getD core 0xFFFFFFFF == a.num)

/-- Scratch ways that a group holds. -/
def State.waysOf (s : State) (g core : Nat) : Nat :=
  if (s.core core).holder == some g then (s.core core).ways else 0

def scratchBase : Nat := 0x100_0000
def windowBase : Nat := 0x1_0000_0000
def waySize : Nat := 2 * 2 ^ 20

/-- The location of local bytes [a, a + n) of a group; none outside the extent of one window. -/
def State.localLoc (s : State) (g : Nat) (G : Group) (L : Launch) (a n : Nat) : Option Loc :=
  if a + n ≤ L.localBytes then some (.clm a)
  else if scratchBase ≤ a ∧ a + n ≤ scratchBase + waySize * s.waysOf g G.core then some (.scratch (a - scratchBase))
  else if windowBase ≤ a ∧ a + n ≤ windowBase + unitSize * L.colw then
    (s.colAlloc? L G.core).map (fun al => .phys (colBase G.core + al.base * unitSize + (a - windowBase)))
  else none

/-- The checks of R143 on one access, and the column's readiness in host-assisted mode (R157). -/
def State.laccess (s : State) (g : Nat) (G : Group) (L : Launch) (va : DWord) (n align : Nat) : Placed :=
  if va.toNat % align != 0 then .fault (Flt.plain cMisaligned va)
  else if va.extractLsb' 36 28 != 0#28 then .fault (Flt.plain cLocalRange va)
  else
    match s.localLoc g G L va.toNat n with
    | none => .fault (Flt.plain cLocalRange va)
    | some (.phys pa) => if s.mode 0 && !s.serves pa then .fault (Flt.plain cColumn va) else .loc (.phys pa)
    | some l => .loc l

/-- A command of the group's `HPART` is in progress (R152). -/
def State.hpartBusy (s : State) (g core : Nat) : Bool :=
  ((s.core core).queues.getD 5 []).any (fun x => x.op == .hpart && x.group == g)

/-! ### Watchpoints (spec/15 R378) -/

/-- Watchpoint w of a core matches an access. -/
def Watch.hits (w : Watch) (glob wr rd : Bool) (tag slot a n : Nat) : Bool :=
  w.ctl.getLsbD 0 && ((rd && w.ctl.getLsbD 1) || (wr && w.ctl.getLsbD 2)) &&
    (if glob then !w.ctl.getLsbD 3 && (w.ctl.extractLsb' 4 12).toNat == tag
     else w.ctl.getLsbD 3 && (w.ctl.extractLsb' 16 4).toNat == slot) &&
    decide (max a w.lo.toNat ≤ min (a + n - 1) w.hi.toNat)

/-- The first watchpoint that matches some lane, and the lanes that match it. -/
def State.watched (s : State) (c : Ctx) (glob wr rd : Bool) (n : Nat) (accs : List (Nat × DWord)) : Option (Nat × Mask) :=
  let dbg := (s.core c.grp.core).dbg
  if !dbg.own then none
  else
    let hit := fun (w : Watch) => Mask.ofLanes ((accs.filter (fun p =>
      w.hits glob wr rd (s.job c.grp.job).tag c.grp.slot p.2.toNat n)).map Prod.fst)
    (dbg.watch.zipIdx.map (fun p => (p.2, hit p.1))).find? (fun p => p.2 != 0#64)

/-- The stop of a watchpoint lands before the next slot. -/
def State.noteWatch (s : State) (c : Ctx) (hit : Option (Nat × Mask)) : State :=
  match hit with
  | none => s
  | some (i, m) => s.modEntry c (fun e => { e with stopNext := some (3, i, m) })

/-! ### Parking (spec/03 R83 R90) -/

/-- Park lanes at the instruction: a new entry, or the whole split when none of its lanes goes on. A new entry keeps the
open windows and the fence of its split (DESIGN CHOICE, assumption 55: the manual lists what it inherits and does not name
them). Its replay is a later access than those of the lanes that go on (spec/06 R183). -/
def Wave.park (wv : Wave) (c : Ctx) (lanes : Mask) (recs : List Rec) : Wave :=
  let e := wv.entry c.cur.sp
  if (e.mask &&& ~~~lanes) == 0#64 then
    wv.setEntry c.cur.sp { e with st := .parked, recs := recs, refused := false, request := none, replays := c.ent.replays }
  else
    match wv.freeEntry with
    | none => wv
    | some i =>
      let wv := wv.setEntry c.cur.sp { e with mask := e.mask &&& ~~~lanes }
      wv.setEntry i { e with mask := lanes, st := .parked, recs := recs.map (fun r => { r with split := i }),
                             refused := false, request := none, stopNext := none,
                             replays := c.ent.replays ++ [wv.nextPend] }

/-- What checks found for the lanes of an instruction: locations and faults, in lane order. -/
abbrev Checked := List (Nat × DWord × Placed)

/-- Check each lane in turn. -/
def checkLanes (f : State → Nat → DWord → Placed × State) : State → List (Nat × DWord) → Checked × State
  | s, [] => ([], s)
  | s, (i, va) :: t =>
    let (p, s) := f s i va
    let (rest, s) := checkLanes f s t
    ((i, va, p) :: rest, s)

def Placed.flt? : Placed → Option Flt
  | .fault f => some f
  | .loc _ => none
def Placed.loc? : Placed → Option Loc
  | .loc l => some l
  | .fault _ => none

/-- The faults of checked lanes as records. -/
def Ctx.faults (c : Ctx) (uni wr : Bool) (ch : Checked) : List Rec :=
  ch.filterMap (fun x => x.2.2.flt?.map (mkRec c.cur c.ent.rpti (if uni then 0 else x.1) uni wr))

/-- The lanes with a location. -/
def Checked.good (ch : Checked) : List (Nat × DWord × Loc) := ch.filterMap (fun x => x.2.2.loc?.map (fun l => (x.1, x.2.1, l)))

/-- R421: a cause that is not serviceable traps before any effect; serviceable ones park their lanes, and the lanes with
a location go on through `body`. At trap level the handler split cannot park: its fault ends the group (spec/13 R356). -/
def outcome (c : Ctx) (s : State) (uni wr : Bool) (ch : Checked) (body : List (Nat × DWord × Loc) → State → State) :
    State × Flow :=
  let recs := c.faults uni wr ch
  if recs.any (fun r => !r.svc) || (!recs.isEmpty && c.cur.sp == trapIdx) then (s, .trap false recs)
  else
    let good := ch.good
    if recs.isEmpty then (body good s, .next)
    else
      let lanes := if uni then c.act else Mask.ofLanes (recs.map (fun r => r.lane))
      let s := s.modWave c.cur.g c.cur.w (fun wv => wv.park c lanes recs)
      if good.isEmpty || uni then (s, .stay) else (body good s, .next)

/-! ### Sizes -/

def MemOp.size : MemOp → Nat
  | .load n _ | .store n => n
  | .atomic f => if f = 22 then 8 else 4
  | .ldrq w => 4 * w
  | .estore | .red _ | .cstore | .workdone => 4

def Pend.op? (p : Pend) : Option MemOp :=
  match p.kind with
  | .mem op => some op
  | _ => none

def Pend.size (p : Pend) : Nat := ((p.op?).map MemOp.size).getD 0

/-- A pure load. -/
def Pend.isLoad (p : Pend) : Bool :=
  match p.kind with
  | .mem (.load _ _) | .mem (.ldrq _) | .texture _ => true
  | _ => false

/-- The end of the page of a `CSTORE`, of the range of its kind, the selected lanes, and the level of the leaf: the words of
its access before the values. -/
def Acc.pageEnd (a : Acc) : Nat := (pairOf (a.data.getD 0 0#32) (a.data.getD 1 0#32)).toNat
def Acc.rangeEnd (a : Acc) : Nat := (pairOf (a.data.getD 2 0#32) (a.data.getD 3 0#32)).toNat
def Acc.selected (a : Acc) : Mask := pairOf (a.data.getD 4 0#32) (a.data.getD 5 0#32)
def Acc.level (a : Acc) : Nat := (a.data.getD 6 0#32).toNat
def Acc.values (a : Acc) : List Word := a.data.drop 7

/-- Bytes that one access may touch: a texel's own size stands in its data; the elements of a `CSTORE` lie anywhere up to
the end of its page (DEDUCED, assumption 32). -/
def Pend.accSize (p : Pend) (a : Acc) : Nat :=
  match p.kind with
  | .texture _ => (a.data.headD 0#32).toNat
  | .mem .cstore => a.pageEnd - a.va.toNat
  | _ => p.size

/-! ### Loads, stores and atomics -/

/-- Acquire and release of an ORD code (spec/01 R26): kind 0 load, 1 store, 2 atomic or reduction. -/
def ordOf (kind : Nat) (o : BitVec 3) : Bool × Bool :=
  match o.toNat with
  | 0 => (false, false)
  | 5 => (kind == 2, false)
  | 6 => (false, kind == 2)
  | 7 => (false, false)
  | _ => (kind != 1, kind != 0)

/-- What a memory instruction is: its space, operation, bytes, data registers read from D, destination registers at D,
counter class, ORD kind. -/
structure MemSpec where
  glob : Bool
  op : MemOp
  size : Nat
  reads : Nat
  writes : Nat
  cls : Nat
  kind : Nat

def MemSpec.wr (m : MemSpec) : Bool := m.kind != 0
def MemSpec.rd (m : MemSpec) : Bool := m.kind != 1

/-- The registers of the base pair. -/
def baseUse (n : BitVec 4) : List Use :=
  if n = 0#4 then [] else [{ uni := true, reg := 2 * n.toNat, cnt := 2, wr := false }]

/-- The data operands of a lane, as registers from D; element stores keep the data and the enabled bits (R161). -/
def memData (m : MemSpec) (c : Ctx) (u : Bool) (d : BitVec 7) (lane : Nat) (e4 : Bool) : List Word :=
  let xs := (List.range m.reads).map (fun j => c.src u (d.toNat + j) lane)
  match m.op with
  | .estore =>
    let en := xs.getD 1 0#32
    let mask := if e4 then (List.range 8).foldl (fun (a : Word) j => if en.getLsbD j then a ||| (0xF#32 <<< (4 * j)) else a) 0#32
      else en
    [xs.getD 0 0#32, mask]
  | _ => xs

/-- Check one access of the instruction. -/
def State.memCheck (c : Ctx) (m : MemSpec) (s : State) (va : DWord) : Placed × State :=
  if m.glob then s.xaccess (coreReq c.grp.core c.grp.job m.wr false) va m.size m.size
  else (s.laccess c.cur.g c.grp c.lau va m.size m.size, s)

/-- Some lane of a group 8 instruction names the scratch window while an `HPART` of the group is in progress. -/
def scratchHold (m : MemSpec) (u : Bool) (a : BitVec 7) (n : BitVec 4) (s : State) : Bool :=
  match s.ctx? with
  | none => false
  | some c => !m.glob && s.hpartBusy c.cur.g c.grp.core &&
      (if u then [0] else c.lanes).any (fun i =>
        let x := (c.addr u a n i).toNat
        decide (scratchBase ≤ x) && decide (x < scratchBase + 12 * waySize))

/-! ### When an access may be performed -/

/-- The access is one for all lanes of the instruction: a uniform one, or a `CSTORE`. -/
def Pend.whole (p : Pend) : Bool := p.uni || p.kind == .mem .cstore

/-- The lanes in whose program order an access stands (spec/07 R189). -/
def Pend.lanesOf (p : Pend) (a : Acc) : Mask := if p.whole then p.mask else Mask.bit a.lane

/-- `p` is the replay of lanes that were parked at the instruction of `q` (spec/06 R183). -/
def Pend.replayOf (p q : Pend) : Bool := p.replays.contains q.id && q.insn == p.insn

/-- An earlier access holds a later one: of a common lane an acquire, anything before a release, or the same bytes (spec/07
R191 to R193); of the lanes that went on, a replay at the same bytes (spec/06 R183). -/
def holds (q p : Pend) (b a : Acc) : Bool :=
  let same := b.loc.overlaps (q.accSize b) a.loc (p.accSize a)
  b.live && (((q.lanesOf b &&& p.lanesOf a) != 0#64 && (q.acq || p.rel || same)) || (p.replayOf q && same))

/-- An interval names a byte of a location. -/
def Iv.meets (v : Iv) (wr : Bool) (l : Loc) (n : Nat) (colOff : Option Nat) : Bool :=
  !v.acm && (v.wr || wr) &&
    match l with
    | .clm a => decide (v.lo < a + n) && decide (a < v.hi)
    | .scratch a => decide (v.lo < scratchBase + a + n) && decide (scratchBase + a < v.hi)
    | .phys _ => match colOff with
      | some a => decide (v.lo < a + n) && decide (a < v.hi)
      | none => false
    | .host _ _ => false

/-- Two intervals overlap and one of them is written. -/
def Iv.clash (a b : Iv) : Bool := a.acm == b.acm && (a.wr || b.wr) && decide (a.lo < b.hi) && decide (b.lo < a.hi)

/-- An interval of the column window. -/
def Iv.inWindow (a : Iv) : Bool := !a.acm && decide (windowBase ≤ a.lo)

/-- Two groups see the same allocation of a core's column. -/
def State.sameColumn (s : State) (core g h : Nat) : Bool :=
  match s.groups[g]?, s.groups[h]? with
  | some G, some H =>
    let a := (s.colAlloc? (s.launch G.launch) core).map (fun x => x.num)
    a.isSome && a == (s.colAlloc? (s.launch H.launch) core).map (fun x => x.num)
  | _, _ => false

/-- Intervals of two commands of a core have a common byte or ACM row, and one of the two writes it. -/
def State.ivsClash (s : State) (core : Nat) (x y : Cmd) (xs ys : List Iv) : Bool :=
  xs.any (fun a => ys.any (fun b => a.clash b &&
    (x.group == y.group || (a.inWindow && b.inWindow && s.sameColumn core x.group y.group))))

/-- An earlier group 8 access of the issuing wave names bytes of intervals of the command: of the bounding interval of R235
only the lanes' own bytes are accesses in an overlap (DEDUCED, assumption 39). -/
def State.lanesHold (s : State) (x : Cmd) (xs : List Iv) : Bool :=
  match s.wave? x.group x.wave with
  | none => false
  | some wv => wv.pend.any (fun p => decide (p.id < x.pend) && p.insn.extractLsb' 27 4 == 8#4 && p.accs.any (fun a => a.live &&
      xs.any (fun v => v.meets (!p.isLoad) a.loc p.size (if windowBase ≤ a.va.toNat then some a.va.toNat else none))))

/-- The commands of a core that have not completed: those in its queues, and those of groups that were saved from it, which
keep their intervals and their place in issue order (spec/08 R234 R236). -/
def State.unfinished (s : State) (core : Nat) : List Cmd :=
  (s.core core).queues.flatten ++
    (s.groups.filter (fun G => G.state == .saved && G.core == core)).flatMap (fun G => G.savedCmds.map Prod.snd)

/-- The largest packet block. -/
def blockBytes : Nat := 16 + 12 * 256 + 4 * 128

/-- Nothing earlier can still write the header of the packet block of a command. -/
def State.headerSettled (s : State) (core : Nat) (x : Cmd) (off : Nat) : Bool :=
  let h : List Iv := [{ acm := false, lo := off, hi := off + 16, wr := false }]
  !((s.unfinished core).any (fun y => decide (y.ord < x.ord) && s.ivsClash core y x y.ivs h)) && !s.lanesHold x h

/-- The intervals of a command. That of an `EMITVP` is its actual block (spec/12 R313), as the header in CLM or in the image of
its saved group gives it; while
something earlier can still write the header it is the largest block (DEDUCED, assumption 23). -/
def State.cmdIvs (s : State) (core : Nat) (x : Cmd) : List Iv :=
  match x.op, s.groups[x.group]? with
  | .packet, some G =>
    x.ivs.map (fun v =>
      if s.headerSettled core x v.lo then
        let w := BitVec.ofNat 32 (leNat (if G.state == .saved then cellBytes G.savedClm v.lo 4 else s.locRead G (.clm v.lo) 4))
        { v with hi := v.lo + min blockBytes (16 + 12 * (w.extractLsb' 8 9).toNat + 4 * (w.extractLsb' 0 8).toNat) }
      else v)
  | _, _ => x.ivs

/-- Two commands of a core name a common byte or ACM row, and one of them writes it. -/
def State.cmdsClash (s : State) (core : Nat) (x y : Cmd) : Bool := s.ivsClash core x y (s.cmdIvs core x) (s.cmdIvs core y)

/-- An earlier engine command of the wave names the bytes of a local access (spec/08 R236). Commands keep their
intervals until they complete. -/
def State.engineHolds (s : State) (g w core : Nat) (p : Pend) (a : Acc) : Bool :=
  p.insn.extractLsb' 27 4 == 8#4 && (s.core core).queues.any (fun q => q.any (fun x =>
    x.group == g && x.wave == w && decide (x.pend < p.id) &&
      (s.cmdIvs core x).any (fun v => v.meets (!p.isLoad) a.loc p.size (if windowBase ≤ a.va.toNat then some a.va.toNat else none))))

/-- An access that waits while the clock of its core is held: one of CLM or of hamper scratch, or one that the core itself ends. A
write that is on its way to its memory goes on (spec/14 R369; DEDUCED, assumption 29). -/
def Acc.inCore (a : Acc) (p : Pend) : Bool :=
  match p.kind, a.loc with
  | .mem (.store _), .phys _ | .mem .estore, .phys _ | .mem (.red _), .phys _ | .mem .workdone, .phys _ => false
  | .mem (.store _), .host _ _ | .mem (.red _), .host _ _ => false
  | _, _ => true

/-- The access of a lane may be performed now. Where lanes of one instruction meet, the lower goes first; loads of several lanes are
not ordered so, since nothing tells their order (DEDUCED, assumption 10). -/
def State.mayPerform (s : State) (g w : Nat) (G : Group) (wv : Wave) (p : Pend) (a : Acc) : Bool :=
  a.live &&
    !(wv.pend.any (fun q => decide (q.id < p.id) && q.accs.any (fun b => holds q p b a))) &&
    (p.isLoad || !(p.accs.any (fun b => b.live && decide (b.lane < a.lane) && b.loc.overlaps p.size a.loc p.size))) &&
    !(s.engineHolds g w G.core p a) &&
    !((s.core G.core).held && a.inCore p) &&
    (match a.loc with
     | .phys pa => s.serves pa
     | _ => true)

/-! ### Issue -/

/-- An earlier store of a lane, or an earlier engine command of the wave, has still to write whole words of a location, and so to
clear their marks (spec/05 R146). -/
def Ctx.willClear (c : Ctx) (s : State) (glob : Bool) (lanes : Mask) (va : DWord) (l : Loc) (n : Nat) : Bool :=
  c.wave.pend.any (fun p => (p.op?).any (fun op => match op with
      | .store k => decide (8 ≤ k)
      | _ => false) && p.accs.any (fun a => a.live && (p.lanesOf a &&& lanes) != 0#64 && a.loc.overlaps p.size l n)) ||
    (!glob && (s.core c.grp.core).queues.any (fun q => q.any (fun x => x.group == c.cur.g && x.wave == c.cur.w &&
      (s.cmdIvs c.grp.core x).any (fun v => v.meets false l n (if windowBase ≤ va.toNat then some va.toNat else none)))))

/-- An atomic waits while a marked word of one of its lanes is still to be written by what the lane has issued before: what it
meets there is known only then (spec/05 R146; DEDUCED, assumption 12). -/
def atomicHold (m : MemSpec) (u : Bool) (a : BitVec 7) (n : BitVec 4) (s : State) : Bool :=
  match s.ctx?, m.op with
  | some c, .atomic _ =>
    let r := checkLanes (fun s _ va => State.memCheck c m s va) s ((if u then [0] else c.lanes).map (fun i => (i, c.addr u a n i)))
    r.1.good.any (fun x => r.2.locPoison c.grp x.2.2 m.size &&
      c.willClear r.2 m.glob (if u then c.act else Mask.bit x.1) x.2.1 x.2.2 m.size)
  | _, _ => false

/-- What a memory instruction waits for beside the conditions that all share. -/
def memHold (m : MemSpec) (u : Bool) (a : BitVec 7) (n : BitVec 4) (s : State) : Bool :=
  scratchHold m u a n s || atomicHold m u a n s

/-- The lanes of an atomic whose word carries the mark as it issues (spec/05 R146, R421). -/
def Ctx.spoiled (c : Ctx) (m : MemSpec) (s : State) (good : List (Nat × DWord × Loc)) : List (Nat × DWord × Loc) :=
  match m.op with
  | .atomic _ => good.filter (fun x => s.locPoison c.grp x.2.2 m.size)
  | _ => []

/-- Loads, stores, atomics and reductions of groups 8 and 9. A lane of an atomic that meets a poisoned word performs nothing:
its record makes the trap after the instruction (R421). -/
def memIssue (m : MemSpec) (u : Bool) (rules : List Rule) (e4 : Bool) (d a : BitVec 7) (o : BitVec 3) (n : BitVec 4)
    (s : State) : Out' :=
  issue { uni := u, long := true, ctr := m.cls, bad := firstBroken rules, mem := true, hold := memHold m u a n s,
          why := if scratchHold m u a n s then 24 else 4,
          uses := [rdR u a] ++ baseUse n ++ (if m.reads = 0 then [] else [rdR u d m.reads]) ++
            (if m.writes = 0 then [] else [wrR u d m.writes]) } s fun c s =>
    let lanes := if u then [0] else c.lanes
    let want := lanes.map (fun i => (i, c.addr u a n i))
    let r := checkLanes (fun s _ va => State.memCheck c m s va) s want
    let spoiled := c.spoiled m r.2 r.1.good
    let out := outcome c r.2 u m.wr r.1 fun good s =>
      let kept := good.filter (fun x => !spoiled.contains x)
      let accs := kept.map (fun x => { lane := x.1, va := x.2.1, loc := x.2.2, data := memData m c u d x.1 e4, live := true : Acc })
      let done := if u then c.act else Mask.ofLanes (kept.map (fun x => x.1))
      let s := if good.isEmpty || !kept.isEmpty then
          s.addPend c m.cls u ((List.range m.writes).map (fun j => d.toNat + j)) (if u then 1#64 else done) done (.mem m.op)
            (ordOf m.kind o).1 (ordOf m.kind o).2 accs []
        else s
      s.noteWatch c (s.watched c m.glob m.wr m.rd m.size (good.map (fun x => (x.1, x.2.1))))
    match out.2 with
    | .next =>
      let recs := spoiled.map (fun x => mkRec c.cur c.ent.rpti (if u then 0 else x.1) u m.wr (Flt.plain cPoison x.2.1))
      (out.1, if recs.isEmpty then .next else .trap true recs)
    | f => (out.1, f)

/-! ### Performing an access -/

/-- Some byte of [pa, pa + n) lies in the line of a copy. -/
def HCopy.meets (h : HCopy) (pa n : Nat) : Bool := decide (pa / 128 ≤ h.line) && decide (h.line ≤ (pa + n - 1) / 128)

/-- Copies of lines of Open frames in hampers (spec/12 R322): a write by a party of a die invalidates those of the die. -/
def State.dropCopies (s : State) (die pa n : Nat) : State :=
  { s with hcopies := s.hcopies.filter (fun h => !(h.frame && dieOf h.core == die && h.meets pa n)) }

/-- A copy of a line of physical memory as it stands. -/
def State.keepCopy (s : State) (core pa : Nat) (frame : Bool) : State :=
  { s with hcopies := s.hcopies ++ [{ core := core, line := pa / 128, bytes := cellBytes s.mem (pa / 128 * 128) 128,
                                      marks := s.memP.filter (fun w => w / 16 == pa / 128), frame := frame }] }

/-- Lanes of a wave of a group. -/
def Group.reader (G : Group) (w : Nat) (lanes : Mask) : Reader := { launch := G.launch, gidx := G.gidx, wave := w, lanes := lanes }

/-- The lanes of the present instruction. -/
def Ctx.reader (c : Ctx) : Reader := c.grp.reader c.cur.w c.act

/-- Some of the lanes may not read the copy. -/
def HCopy.hides (h : HCopy) (r : Reader) : Bool :=
  h.hidden.any (fun x => x.launch == r.launch && x.gidx == r.gidx && x.wave == r.wave && (x.lanes &&& r.lanes) != 0#64)

/-- The copies of a core that satisfy `p` are hidden from lanes. -/
def State.hideCopies (s : State) (core : Nat) (r : Reader) (p : HCopy → Bool) : State :=
  { s with hcopies := s.hcopies.map (fun h => if h.core == core && p h then { h with hidden := r :: h.hidden } else h) }

/-- The other copies of lines (assumption 9) when a store writes: it invalidates them in every hamper before it leaves its counter
class (spec/06 R177). -/
def State.dropShared (s : State) (pa n : Nat) : State := { s with hcopies := s.hcopies.filter (fun h => h.frame || !h.meets pa n) }

/-- Parties of a core that is not told apart by lanes acquire: its lanes see no older copy (spec/07 R194 R195). -/
def State.acquired (s : State) (core : Nat) : State :=
  { s with hcopies := s.hcopies.filter (fun h => h.frame || h.core != core) }

/-- Lanes acquire: their later loads see no older copy (spec/07 R194 R195). -/
def State.acquiredBy (s : State) (core : Nat) (r : Reader) : State := s.hideCopies core r (fun h => !h.frame)

/-- Lanes have seen bytes of memory itself: their later loads read no older copy of them (spec/07 R191). -/
def State.ownSeen (s : State) (core : Nat) (r : Reader) (pa n : Nat) : State := s.hideCopies core r (fun h => h.meets pa n)

/-- Copies of lines before lanes of a group write [pa, pa + n): a store, or an atomic or a reduction, which leaves the older
copies to the other lanes (assumption 9). -/
def State.claim (s : State) (store : Bool) (G : Group) (r : Reader) (pa n : Nat) : State :=
  let s := s.dropCopies (dieOf G.core) pa n
  if store then s.dropShared pa n else s.ownSeen G.core r pa n

/-- The hamper of a core takes a copy of a line of GDDR7 as it stands; of a line that it holds already it takes none. -/
def State.takeCopy (s : State) (core pa : Nat) (frame : Bool) : State :=
  let s := s.drain (pa / 128 * 128) 128
  if s.hcopies.any (fun h => h.core == core && h.line == pa / 128) || decide (s.mix.gddr ≤ pa) then s
  else s.keepCopy core pa frame

/-- Region-tiled buffers of an Open stream: base address and bytes per region (spec/12 R311 R322). -/
def Stream.planes (st : Stream) : List (Nat × Nat) :=
  let w := fun i => st.words.getD i 0#32
  let spp := if (w 0).getLsbD 7 then 4 else 1
  ((pairOf (w 2) (w 3)).toNat, 8192 * spp) :: ((pairOf (w 8) (w 9)).toNat, 128) ::
    (List.range 4).map (fun i => ((pairOf (w (32 + 4 * i)) (w (33 + 4 * i))).toNat, 1024 * ((w (34 + 4 * i)).toNat % 256)))

/-- The die that owns the region of a byte of an Open frame's buffers, if the address lies in one. -/
def Stream.ownerAt (st : Stream) (va : Nat) : Option Nat :=
  let w1 := st.words.getD 1 0#32
  let rw := ((w1.extractLsb' 0 15).toNat + 32) / 32
  let rh := ((w1.extractLsb' 16 15).toNat + 32) / 32
  ((st.planes.find? (fun p => p.1 != 0 && decide (p.1 ≤ va) && decide (va < p.1 + rw * rh * p.2))).map (fun p =>
    let r := (va - p.1) / p.2
    (st.map.getD ((r / rw) % 64 * 64 + (r % rw) % 64) 0#8).toNat))

/-- The byte lies in an Open frame's buffers, in a region of another die: the core's hamper holds no copy of its line (spec/12
R322). -/
def State.foreignLine (s : State) (G : Group) (va : Nat) : Bool :=
  s.streams.any (fun st => st.isOpen && st.job == G.job && (st.ownerAt va).any (fun d => d != dieOf G.core))

/-- A load of a lane on a core may return an older copy of a line of an Open frame (spec/07 R196, spec/12 R322). -/
def State.frameLine (s : State) (G : Group) (va : Nat) : Bool :=
  s.streams.any (fun st => st.isOpen && st.job == G.job && st.ownerAt va == some (dieOf G.core))

/-- Which of the 4-byte words from an address carry the mark, for `n` bytes. -/
def badWords (p : List Nat) (a n : Nat) : List Bool := (List.range ((n + 3) / 4)).map (fun j => marked p (a + 4 * j) (min n 4))

/-- What a read gives: bytes, poison by words, and what it leaves behind. -/
structure Seen where
  bytes : List Byte
  bad : List Bool
  s : State

/-- A read of physical memory as it stands. -/
def State.seen (s : State) (pa n : Nat) : Seen := { bytes := cellBytes s.mem pa n, bad := badWords s.memP pa n, s := s }

/-- A read of a copy. -/
def HCopy.seen (h : HCopy) (s : State) (pa n : Nat) : Seen :=
  { bytes := (h.bytes.drop (pa % 128)).take n, bad := badWords h.marks pa n, s := s }

/-- An aligned 8-byte word of a copy becomes what memory holds now: the unit of single-copy atomicity (spec/07 R200). -/
def HCopy.renew (h : HCopy) (s : State) (pa : Nat) : HCopy :=
  let a := pa / 8 * 8
  { h with bytes := h.bytes.take (a % 128) ++ cellBytes s.mem a 8 ++ h.bytes.drop (a % 128 + 8)
           marks := h.marks.filter (fun w => w != a / 8) ++ s.memP.filter (fun w => w == a / 8) }

/-- Lanes of a core may from now on read at an address what memory holds now, after other parties have written it: a copy of the
line of GDDR7 or of a pool area is taken. Of a line that has one the word of the address is renewed, so that words of one line may
be of different ages; where it is renewed already the whole line is taken anew (spec/07 R195, spec/18 R410; assumption 9). -/
def State.shareLine (s : State) (core pa : Nat) : State :=
  let s := s.drain (pa / 128 * 128) 128
  match s.hcopies.find? (fun h => h.core == core && h.line == pa / 128) with
  | some h =>
    if h.frame then s
    else if h.renew s pa != h then { s with hcopies := s.hcopies.map (fun x => if x == h then h.renew s pa else x) }
    else ({ s with hcopies := s.hcopies.filter (fun x => x != h) } : State).keepCopy core pa false
  | none => if pa < s.mix.gddr ∨ s.inPool pa 1 = true ∧ s.serves pa = true then s.keepCopy core pa false else s

/-- What a lane of a group reads at a location. A load of global memory reads the copy that the hamper of its core holds: an
older one of an Open frame's line until it is dropped (spec/07 R196), of another line unless the load is an acquire
(R195), or the copy is hidden from the lane. The hamper holds no line of the column window (spec/05 R149). -/
def State.laneRead (s : State) (G : Group) (r : Reader) (glob acq : Bool) (va : DWord) (l : Loc) (n : Nat) : Seen :=
  match l with
  | .phys pa =>
    let s := s.drain pa n
    if !glob || s.foreignLine G va.toNat then s.seen pa n
    else
      match s.hcopies.find? (fun h => h.core == G.core && h.line == pa / 128 && !h.hides r) with
      | some h =>
        if h.frame then
          let (b, s) := s.drawBit
          if b then h.seen s pa n else ({ s with hcopies := s.hcopies.filter (fun x => x != h) } : State).seen pa n
        else if acq then s.seen pa n
        else h.seen s pa n
      | none =>
        if s.frameLine G va.toNat then
          let (b, s) := s.drawBit
          (if b then s.takeCopy G.core pa true else s).seen pa n
        else s.seen pa n
  | _ => { bytes := s.locRead G l n, bad := (List.range ((n + 3) / 4)).map (fun j => s.locPoison G (l.add (4 * j)) (min n 4)),
           s := s.locTouch l n }

/-- Bytes that a lane of a group writes, by a store or by an atomic. -/
def State.laneWrite (s : State) (store : Bool) (G : Group) (r : Reader) (l : Loc) (b : List Byte) : State :=
  match l with
  | .phys pa => (s.claim store G r pa b.length).locWrite G l b
  | _ => s.locWrite G l b

/-- Lanes have read bytes at the memory itself and written none of them. -/
def State.seenAt (s : State) (G : Group) (r : Reader) (l : Loc) (n : Nat) : State :=
  match l with
  | .phys pa => s.ownSeen G.core r pa n
  | _ => s

def wordsBytes (ws : List Word) : List Byte := ws.flatMap (fun w => leBytes 4 w.toNat)

/-- A fault that an access meets when it is performed: its lane, whether it is one of the whole instruction. -/
structure LaneFlt where
  lane : Nat
  uni : Bool
  flt : Flt
deriving DecidableEq, Repr

/-- The effect of one access: the state, the destination words with their poison marks, the faults that it met. -/
structure Performed where
  s : State
  out : List (Word × Bool)
  faults : List LaneFlt := []

/-- A fault of one access of a pending instruction. -/
def Pend.laneFlt (p : Pend) (a : Acc) (f : Flt) : LaneFlt := { lane := if p.whole then 0 else a.lane, uni := p.whole, flt := f }

/-- Perform a load. -/
def State.doLoad (s : State) (G : Group) (w : Reader) (glob acq : Bool) (a : Acc) (n : Nat) (sext : Bool) : Performed :=
  let r := s.laneRead G w glob acq a.va a.loc n
  let out := (List.range ((n + 3) / 4)).map (fun j =>
    let x := leNat ((r.bytes.drop (4 * j)).take 4)
    (if sext && x.testBit (8 * n - 1) then BitVec.ofNat 32 (x + (2 ^ 32 - 2 ^ (8 * n))) else BitVec.ofNat 32 x, r.bad.getD j false))
  { s := r.s, out := out }

/-- Perform an atomic: on a poisoned word it changes nothing and raises `POISON`. -/
def State.doAtomic (s : State) (G : Group) (w : Reader) (p : Pend) (a : Acc) (f : Nat) : Performed :=
  let n := if f = 22 then 8 else 4
  let x := a.data.getD 0 0#32
  let y := a.data.getD 1 0#32
  if s.locPoison G a.loc n then { s := s, out := [], faults := [p.laneFlt a (Flt.plain cPoison a.va)] }
  else
    let old := leWords (n / 4) (s.locRead G a.loc n)
    let s := s.locTouch a.loc n
    if f = 22 then
      let same := old.getD 0 0#32 == a.data.getD 2 0#32 && old.getD 1 0#32 == a.data.getD 3 0#32
      { s := if same then s.laneWrite false G w a.loc (wordsBytes [x, y]) else s.seenAt G w a.loc 8, out := old.map (fun w => (w, false)) }
    else
      let o := old.getD 0 0#32
      { s := s.laneWrite false G w a.loc (wordsBytes [atomicFn f o x y]), out := [(o, false)] }

/-- Perform an element store: the enabled bits of the word. -/
def State.doElement (s : State) (G : Group) (w : Reader) (a : Acc) : Performed :=
  let m := a.data.getD 1 0#32
  if m = 0#32 then { s := s, out := [] }
  else
    let old := BitVec.ofNat 32 (leNat (s.locRead G a.loc 4))
    let new := (old &&& ~~~m) ||| (a.data.getD 0 0#32 &&& m)
    { s := (s.locTouch a.loc 4).laneWrite true G w a.loc (wordsBytes [new]), out := [] }

/-- Perform a reduction of group `g`: it enters the write queue of its line. -/
def State.doRed (s : State) (g : Nat) (G : Group) (w : Reader) (a : Acc) (f : Nat) (merge : Bool) : Performed :=
  let x := a.data.headD 0#32
  match a.loc with
  | .phys pa => { s := (s.claim false G w pa 4).arriveRed g f pa x merge, out := [] }
  | .host p b => { s := s.arriveHostRed g f p b x merge, out := [] }
  | l =>
    let o := BitVec.ofNat 32 (leNat (s.locRead G l 4))
    { s := s.locWrite G l (wordsBytes [atomicFn f o x 0#32]), out := [] }

/-- `LDRQ` of a resident page: the data, or zero with state 3 when a byte is poisoned (spec/06 R185). -/
def State.doLdrq (s : State) (G : Group) (x : Reader) (p : Pend) (a : Acc) (w : Nat) : Performed :=
  let r := s.laneRead G x true false a.va a.loc (4 * w)
  let bad := r.bad.any id
  let data := if bad then List.replicate w 0#32 else leWords w r.bytes
  let st := if bad then 3#32 else 0#32
  { s := r.s, out := (data ++ (if w = 1 then [st] else [0#32, st])).map (fun y => (y, false)),
    faults := if bad then [p.laneFlt a { cause := cPoison, va := a.va, pst := 3, lvl := 0 }] else [] }

/-- The addresses of the elements that a `CSTORE` writes, with their lanes and values, for the header's INDEX and CAP. -/
def Acc.cells (a : Acc) (old cap : Nat) : List (Nat × Nat × Word) :=
  ((a.selected.lanes.zip a.values).zipIdx.filter (fun p => decide (old + p.2 < cap))).map (fun p =>
    (64 + 4 * (old + p.2), p.1))

/-- What is wrong with a `CSTORE` for the header's INDEX and CAP: its capacity ends beyond its page, a fault of the split
(spec/06 R187), or elements lie beyond the range of the page's kind, one fault for the lane of each (R169). -/
def Acc.cstoreFaults (a : Acc) (old cap : Nat) : List LaneFlt :=
  if a.pageEnd < a.va.toNat + 64 + 4 * cap then [{ lane := 0, uni := true, flt := Flt.plain cGlobalRange a.va }]
  else ((a.cells old cap).filter (fun x => decide (a.rangeEnd < a.va.toNat + x.1 + 4))).map (fun x =>
    { lane := x.2.1, uni := false
      flt := { cause := cBadEntry, va := a.va + BitVec.ofNat 64 x.1, pst := 6, lvl := a.level } })

/-- INDEX and CAP of the header of a `CSTORE`, as memory stands. -/
def State.queueHead (s : State) (G : Group) (l : Loc) : Nat × Nat :=
  let hd := leWords 2 (s.locRead G l 8)
  ((hd.getD 0 0#32).toNat, (hd.getD 1 0#32).toNat)

/-- `CSTORE` at its header (spec/06 R187): the elements, then INDEX; every active lane receives the old INDEX. Whether the
header carries the poison mark is not looked at (DESIGN CHOICE, assumption 57). -/
def State.doCstore (s : State) (G : Group) (w : Reader) (a : Acc) : Performed :=
  let old := (s.queueHead G a.loc).1
  let cap := (s.queueHead G a.loc).2
  let n := a.values.length
  match a.cstoreFaults old cap with
  | [] =>
    let s := s.locTouch a.loc 8
    let s := (a.cells old cap).foldl (fun s x => s.laneWrite true G w (a.loc.add x.1) (wordsBytes [x.2.2])) s
    let s := if n = 0 then s.seenAt G w a.loc 8 else s.laneWrite true G w a.loc (wordsBytes [BitVec.ofNat 32 (old + n)])
    { s := s, out := [(BitVec.ofNat 32 old, false)] }
  | fs => { s := s, out := [], faults := fs }

/-- The lanes of an access. -/
def Pend.reader (p : Pend) (G : Group) (a : Acc) : Reader := G.reader p.wave (p.lanesOf a)

/-- One access of an instruction of group `g`. -/
def State.doAccess (s : State) (g : Nat) (G : Group) (p : Pend) (a : Acc) (merge : Bool) : Performed :=
  let w := p.reader G a
  match p.kind with
  | .mem (.load n sext) => s.doLoad G w (p.insn.extractLsb' 27 4 == 9#4) p.acq a n sext
  | .mem (.store n) => { s := s.laneWrite true G w a.loc ((wordsBytes a.data).take n), out := [] }
  | .mem .estore => s.doElement G w a
  | .mem (.atomic f) => s.doAtomic G w p a f
  | .mem (.red f) => s.doRed g G w a f merge
  | .mem (.ldrq n) => s.doLdrq G w p a n
  | .mem .cstore => s.doCstore G w a
  | .mem .workdone => { (s.doAtomic G w p a 12) with out := [] }
  | _ => { s := s, out := [] }

/-! ### The feedback buffer (spec/06 R186) -/

/-- A word of the feedback buffer as a device-scope party of the job reaches it: no placement, writable, GDDR7 or pool. In a
column that is not Ready it is dropped in host-assisted mode and written at once in hardware mode (DESIGN CHOICE, assumption 57:
R186 lists no such failure). -/
def State.fbWord (s : State) (die job va n : Nat) : Option (Nat × State) :=
  if 2 ^ 52 ≤ va then none
  else
  match s.xpage { die := die, job := job, wr := true, fetch := false, core := none } (BitVec.ofNat 64 va) with
  | (.page p, s) =>
    if p.kind = 0 ∨ p.kind = 1 then
      match s.inPage p (BitVec.ofNat 64 va) n with
      | .loc (.phys pa) => some (pa, s)
      | _ => none
    else none
  | (.fault _, _) => none

/-- Append one entry. -/
def State.feedback (s : State) (die job fbuf : Nat) (e : DWord) : State :=
  if fbuf = 0 then s
  else
    match s.fbWord die job fbuf 4 with
    | none => s
    | some (pa, s) =>
      let count := s.peek32 pa
      let s := s.poke32 pa (count + 1#32)
      match s.fbWord die job (fbuf + 4) 4 with
      | none => s
      | some (pc, s) =>
        if (s.peek32 pc).toNat ≤ count.toNat then s
        else
          match s.fbWord die job (fbuf + 16 + 8 * count.toNat) 8 with
          | none => s
          | some (pe, s) => s.poke64 pe e

/-- The entry of a page and its state. -/
def fbEntry (va : DWord) (st src lod : Nat) : DWord :=
  BitVec.ofNat 64 (va.toNat / 2 ^ 14 % 2 ^ 38 + 2 ^ 38 * st + 2 ^ 41 * src + 2 ^ 43 * lod)

/-- Append every distinct entry of an instruction. -/
def State.feedbacks (s : State) (G : Group) (L : Launch) (es : List DWord) : State :=
  es.eraseDups.foldl (fun s e => s.feedback (dieOf G.core) G.job L.fbuf.toNat e) s

/-! ### Completion -/

/-- The elements that a performed access writes. -/
def Pend.elements (p : Pend) (a : Acc) (out : List (Word × Bool)) : List Wr :=
  let lanes := if p.uni then [0] else if p.whole then p.mask.lanes else [a.lane]
  lanes.flatMap (fun i => (p.regs.zip out).map (fun x => { lane := i, reg := x.1, val := x.2.1, poison := x.2.2 : Wr }))

/-- Lanes whose elements are still pending after an access. -/
def Pend.lanesAfter (p : Pend) (a : Acc) : Mask := if p.whole then 0#64 else p.lanes &&& ~~~(Mask.bit a.lane)

/-- The last of the accesses that a `FENCE` of some split waits for is performed: the fence acquires (spec/07 R197). -/
def State.fencePassed (s : State) (g w pid : Nat) : State :=
  match s.groups[g]?, s.wave? g w with
  | some G, some wv =>
    ((wv.entries.filter (fun e => e.fence.contains pid)).map Split.mask).foldl (fun s m => s.acquiredBy G.core (G.reader w m)) s
  | _, _ => s

/-- Where the splits of the lanes that met a cause stand before the trap: after an atomic that met poison, at a `CSTORE` that
could not be performed (spec/13 R356). A split that has been joined by lanes for which the instruction did not issue stays where
it is (DEDUCED, assumption 12). -/
def Wave.resumeFor (wv : Wave) (p : Pend) (recs : List Rec) : Wave :=
  let place := if p.kind == .mem .cstore then p.here else p.after
  (((p.held wv (p.liveRecs wv recs)).map Rec.split).eraseDups).foldl (fun wv i =>
    if ((wv.entry i).mask &&& ~~~p.mask) == 0#64 then wv.modEntry i (fun e => e.standAt place) else wv) wv

/-- A memory instruction with nothing left to perform leaves its counter; the causes that it met when it was performed trap the
wave (R421, spec/13 R356), or are recorded for `LDRQ`. -/
def State.memDone (s : State) (g w pid : Nat) : State :=
  match s.groups[g]?, (s.wave? g w).bind (fun wv => wv.pend? pid) with
  | some G, some p =>
    if p.open then s
    else
      let s := (s.fencePassed g w pid).modWave g w (fun wv => wv.retirePend pid)
      if p.recs.isEmpty then s
      else if p.isLoad then s.feedbacks G (s.launch G.launch) (p.recs.map (fun r => fbEntry r.va 3 0 0))
      else (s.modWave g w (fun wv => wv.resumeFor p p.recs)).trapFor g w p p.recs
  | _, _ => s

/-- The watchpoint that the elements of a `CSTORE` match, and the lanes they belong to (spec/15 R378). -/
def State.cellsWatched (s : State) (G : Group) (p : Pend) (a : Acc) : Option (Nat × Mask) :=
  let dbg := (s.core G.core).dbg
  if p.kind != .mem .cstore || !dbg.own then none
  else
    let old := (s.queueHead G a.loc).1
    let cap := (s.queueHead G a.loc).2
    let cells := if (a.cstoreFaults old cap).isEmpty then a.cells old cap else []
    (dbg.watch.zipIdx.map (fun x => (x.2, Mask.ofLanes ((cells.filter (fun y =>
      x.1.hits true true false (s.job G.job).tag G.slot (a.va.toNat + y.1) 4)).map (fun y => y.2.1))))).find? (fun x => x.2 != 0#64)

/-- The split issues nothing while a `CSTORE` of its lanes is still to be performed that would fault as memory stands, or that a
watchpoint may stop: its fault is one of the instruction itself (spec/01 R43), its stop lands before the next slot (spec/15
R378; DEDUCED, assumption 32). -/
def State.cstoreHolds (s : State) (g w sp : Nat) : Bool :=
  match s.groups[g]?, s.wave? g w with
  | some G, some wv =>
    wv.pend.any (fun p => p.kind == .mem .cstore && p.sp == sp && (p.mask &&& (wv.entry sp).mask) != 0#64 &&
      p.accs.any (fun a => a.live && ((s.core G.core).dbg.own ||
        !(a.cstoreFaults (s.queueHead G a.loc).1 (s.queueHead G a.loc).2).isEmpty)))
  | _, _ => false

/-- Perform the access of one lane of a pending instruction; none when it may not be performed now. -/
def State.performLane (s : State) (g w pid lane : Nat) (merge : Bool) : Option State :=
  match s.groups[g]?, s.wave? g w, (s.wave? g w).bind (fun wv => wv.pend? pid) with
  | some G, some wv, some p =>
    match p.accs.find? (fun a => a.live && a.lane == lane) with
    | none => none
    | some a =>
      if !s.mayPerform g w G wv p a then none
      else
        let hit := s.cellsWatched G p a
        let s := if p.acq then s.acquiredBy G.core (p.reader G a) else s
        let r := s.doAccess g G p a merge
        let recs := r.faults.map (fun f => p.record f.lane f.uni (!p.isLoad) f.flt)
        let s := r.s.modWave g w (fun wv =>
          (wv.writeAll p.uni (p.elements a r.out)).modPend pid (fun p => { p with
            accs := p.accs.map (fun b => if b.lane == lane then { b with live := false } else b)
            lanes := p.lanesAfter a
            recs := p.recs ++ recs }))
        let s := match hit with
          | some (i, m) => s.modWave g w (fun wv => wv.modEntry p.sp (fun e => { e with stopNext := some (3, i, m) }))
          | none => s
        some (s.memDone g w pid)
  | _, _, _ => none

/-- An event that takes place when its condition holds. -/
def happens (s : State) (r : Option State) : Out' :=
  match r with
  | some s' => .next s'
  | none => idle s

/-- LOAD_DATA_RETURN: a load or atomic, which returns data (spec/03 R96). -/
def execLoadDataReturn (g w p lane : Nat) (s : State) : Out' :=
  match (s.wave? g w).bind (fun wv => wv.pend? p) with
  | some q =>
    match q.kind with
    | .mem (.load _ _) | .mem (.atomic _) | .mem (.ldrq _) => happens s (s.performLane g w p lane false)
    | _ => idle s
  | none => idle s

/-- STORE_COMPLETE: a store, reduction, `CSTORE` or `WORKDONE` reaches its memory (spec/03 R101); `merge` says whether a
reduction merges where it may (spec/06 R179). -/
def execStoreComplete (g w p lane : Nat) (merge : Bool) (s : State) : Out' :=
  match (s.wave? g w).bind (fun wv => wv.pend? p) with
  | some q =>
    match q.kind with
    | .mem (.store _) | .mem .estore | .mem (.red _) | .mem .cstore | .mem .workdone =>
      happens s (s.performLane g w p lane merge)
    | _ => idle s
  | none => idle s

/-- REDUCTION_APPLY: the oldest queued reduction of the line of entry `idx` is applied; entries of host-window lines are
numbered after those of physical memory (spec/06 R178 R179). -/
def execReductionApply (idx : Nat) (s : State) : Out' :=
  match s.redQueue[idx]? with
  | some e =>
    match s.redQueue.zipIdx.find? (fun x => x.1.line == e.line) with
    | some (x, i) => .next { s.applyRed x with redQueue := s.redQueue.eraseIdx i }
    | none => idle s
  | none =>
    match s.hostReds[idx - s.redQueue.length]? with
    | some e =>
      match s.hostReds.zipIdx.find? (fun x => x.1.onLines e.peer (4 * e.word) 4) with
      | some (x, i) => .next { s.hostApply x with hostReds := s.hostReds.eraseIdx i }
      | none => idle s
    | none => idle s

/-- EVICTION: the LLC writes a host-window line back and drops it (spec/06 R176). -/
def execEviction (line : Nat) (s : State) : Out' :=
  match s.llcHost[line]? with
  | some l => .next (s.hostEvict l)
  | none => idle s

end Sys2Proof.Machine
end

