-- ==== Sys2Proof/Machine/GlobalMem.lean ====
section
/-! DEFINITION. Lane and uniform group 9: global memory (spec/06 R182 to R188). -/

namespace Sys2Proof.Machine

def globLoad (n : Nat) (sext : Bool) : MemSpec :=
  { glob := true, op := .load n sext, size := n, reads := 0, writes := (n + 3) / 4, cls := 0, kind := 0 }
def globStore (n : Nat) : MemSpec :=
  { glob := true, op := .store n, size := n, reads := (n + 3) / 4, writes := 0, cls := 2, kind := 1 }
def globAtomic (f : Nat) : MemSpec :=
  { glob := true, op := .atomic f, size := 4, reads := if f = 19 then 2 else 1, writes := 1, cls := 0, kind := 2 }
/-- `ATG.cas64`: new value in D:D+1, compare value in D+2:D+3 (R184). -/
def globCas64 : MemSpec :=
  { glob := true, op := .atomic 22, size := 8, reads := 4, writes := 2, cls := 0, kind := 2 }
def globElement : MemSpec :=
  { glob := true, op := .estore, size := 4, reads := 2, writes := 0, cls := 2, kind := 1 }
def globRed (f : Nat) : MemSpec :=
  { glob := true, op := .red f, size := 4, reads := 1, writes := 0, cls := 2, kind := 2 }

def execLdgN8 (u : Bool) (d a : BitVec 7) (o : BitVec 3) (n : BitVec 4) (s : State) : Out' :=
  memIssue (globLoad 1 false) u [ordBelow 5 o] false d a o n s
def execLdgI8 (u : Bool) (d a : BitVec 7) (o : BitVec 3) (n : BitVec 4) (s : State) : Out' :=
  memIssue (globLoad 1 true) u [ordBelow 5 o] false d a o n s
def execLdgN16 (u : Bool) (d a : BitVec 7) (o : BitVec 3) (n : BitVec 4) (s : State) : Out' :=
  memIssue (globLoad 2 false) u [ordBelow 5 o] false d a o n s
def execLdgI16 (u : Bool) (d a : BitVec 7) (o : BitVec 3) (n : BitVec 4) (s : State) : Out' :=
  memIssue (globLoad 2 true) u [ordBelow 5 o] false d a o n s
def execLdg32 (u : Bool) (d a : BitVec 7) (o : BitVec 3) (n : BitVec 4) (s : State) : Out' :=
  memIssue (globLoad 4 false) u [ordBelow 5 o] false d a o n s
def execLdg64 (u : Bool) (d a : BitVec 7) (o : BitVec 3) (n : BitVec 4) (s : State) : Out' :=
  memIssue (globLoad 8 false) u [multipleOf 2 d, ordBelow 5 o] false d a o n s
def execLdg128 (u : Bool) (d a : BitVec 7) (o : BitVec 3) (n : BitVec 4) (s : State) : Out' :=
  memIssue (globLoad 16 false) u [multipleOf 4 d, ordBelow 5 o] false d a o n s
def execStg8 (u : Bool) (d a : BitVec 7) (o : BitVec 3) (n : BitVec 4) (s : State) : Out' :=
  memIssue (globStore 1) u [ordBelow 5 o] false d a o n s
def execStg16 (u : Bool) (d a : BitVec 7) (o : BitVec 3) (n : BitVec 4) (s : State) : Out' :=
  memIssue (globStore 2) u [ordBelow 5 o] false d a o n s
def execStg32 (u : Bool) (d a : BitVec 7) (o : BitVec 3) (n : BitVec 4) (s : State) : Out' :=
  memIssue (globStore 4) u [ordBelow 5 o] false d a o n s
def execStg64 (u : Bool) (d a : BitVec 7) (o : BitVec 3) (n : BitVec 4) (s : State) : Out' :=
  memIssue (globStore 8) u [multipleOf 2 d, ordBelow 5 o] false d a o n s
def execStg128 (u : Bool) (d a : BitVec 7) (o : BitVec 3) (n : BitVec 4) (s : State) : Out' :=
  memIssue (globStore 16) u [multipleOf 4 d, ordBelow 5 o] false d a o n s
def execAtgAdd (u : Bool) (d a : BitVec 7) (o : BitVec 3) (n : BitVec 4) (s : State) : Out' :=
  memIssue (globAtomic 12) u [ordBelow 7 o] false d a o n s
def execAtgMinI (u : Bool) (d a : BitVec 7) (o : BitVec 3) (n : BitVec 4) (s : State) : Out' :=
  memIssue (globAtomic 13) u [ordBelow 7 o] false d a o n s
def execAtgMaxI (u : Bool) (d a : BitVec 7) (o : BitVec 3) (n : BitVec 4) (s : State) : Out' :=
  memIssue (globAtomic 14) u [ordBelow 7 o] false d a o n s
def execAtgAnd (u : Bool) (d a : BitVec 7) (o : BitVec 3) (n : BitVec 4) (s : State) : Out' :=
  memIssue (globAtomic 15) u [ordBelow 7 o] false d a o n s
def execAtgOr (u : Bool) (d a : BitVec 7) (o : BitVec 3) (n : BitVec 4) (s : State) : Out' :=
  memIssue (globAtomic 16) u [ordBelow 7 o] false d a o n s
def execAtgXor (u : Bool) (d a : BitVec 7) (o : BitVec 3) (n : BitVec 4) (s : State) : Out' :=
  memIssue (globAtomic 17) u [ordBelow 7 o] false d a o n s
def execAtgXchg (u : Bool) (d a : BitVec 7) (o : BitVec 3) (n : BitVec 4) (s : State) : Out' :=
  memIssue (globAtomic 18) u [ordBelow 7 o] false d a o n s
def execAtgCas (u : Bool) (d a : BitVec 7) (o : BitVec 3) (n : BitVec 4) (s : State) : Out' :=
  memIssue (globAtomic 19) u [multipleOf 2 d, ordBelow 7 o] false d a o n s
def execStgE4 (u : Bool) (d a : BitVec 7) (o : BitVec 3) (n : BitVec 4) (s : State) : Out' :=
  memIssue globElement u [multipleOf 2 d, ordBelow 5 o] true d a o n s
def execStgE6 (u : Bool) (d a : BitVec 7) (o : BitVec 3) (n : BitVec 4) (s : State) : Out' :=
  memIssue globElement u [multipleOf 2 d, ordBelow 5 o] false d a o n s
def execAtgCas64 (u : Bool) (d a : BitVec 7) (o : BitVec 3) (n : BitVec 4) (s : State) : Out' :=
  memIssue globCas64 u [multipleOf 4 d, ordBelow 7 o] false d a o n s
def execAtgFadd (u : Bool) (d a : BitVec 7) (o : BitVec 3) (n : BitVec 4) (s : State) : Out' :=
  memIssue (globAtomic 23) u [ordBelow 7 o] false d a o n s
def execRedAdd (u : Bool) (d a : BitVec 7) (o : BitVec 3) (n : BitVec 4) (s : State) : Out' :=
  memIssue (globRed 24) u [ordBelow 7 o] false d a o n s
def execRedFadd (u : Bool) (d a : BitVec 7) (o : BitVec 3) (n : BitVec 4) (s : State) : Out' :=
  memIssue (globRed 25) u [ordBelow 7 o] false d a o n s
def execRedMinI (u : Bool) (d a : BitVec 7) (o : BitVec 3) (n : BitVec 4) (s : State) : Out' :=
  memIssue (globRed 26) u [ordBelow 7 o] false d a o n s
def execRedMaxI (u : Bool) (d a : BitVec 7) (o : BitVec 3) (n : BitVec 4) (s : State) : Out' :=
  memIssue (globRed 27) u [ordBelow 7 o] false d a o n s

/-! ### LDRQ, CSTORE and PREF -/

/-- The check of one lane of `LDRQ`: a location, a page state to report, or a fault (R185). It places nothing. -/
inductive Resid where
  | loc (l : Loc)
  | state (st : Nat)
  | fault (f : Flt)

/-- The checks of a lane of `LDRQ`, or of a tile of a sparse fetch. A resident pool page whose column is not ready is read by
`LDRQ` once it is (`late`): R185 names no `COLUMN_NOT_READY` among its faults (DESIGN CHOICE, assumption 57). -/
def State.ldrqCheck (s : State) (c : Ctx) (late : Bool) (va : DWord) (n : Nat) : Resid × State :=
  if va.toNat % n != 0 then (.fault (Flt.plain cMisaligned va), s)
  else if va.extractLsb' 52 12 != 0#12 then (.fault (Flt.plain cGlobalRange va), s)
  else
    match s.xpage { coreReq c.grp.core c.grp.job false false with core := none } va with
    | (.fault f, s) =>
      if f.cause = cPageFault then (.state (if f.pst = 2 then 2 else 1), s)
      else if f.cause = cPoison then (.state 3, s)
      else (.fault f, s)
    | (.page p, s) =>
      match s.inPage p va n with
      | .loc l => (.loc l, s)
      | .fault f =>
        if late && f.cause == cColumn then (.loc (.phys (p.base + va.toNat % 2 ^ pageShift p.lvl)), s) else (.fault f, s)

def Resid.flt? : Resid → Option Flt
  | .fault f => some f
  | _ => none
def Resid.st? : Resid → Option Nat
  | .state st => some st
  | _ => none
def Resid.loc? : Resid → Option Loc
  | .loc l => some l
  | _ => none

/-- Lanes of `LDRQ`, one after another. -/
def ldrqLanes (c : Ctx) (n : Nat) : State → List (Nat × DWord) → List (Nat × DWord × Resid) × State
  | s, [] => ([], s)
  | s, (i, va) :: t =>
    let (r, s) := s.ldrqCheck c true va n
    let (rest, s) := ldrqLanes c n s t
    ((i, va, r) :: rest, s)

/-- `LDRQ` of `w` words: lanes whose page is not resident receive zero and the state at once, and are recorded. -/
def ldrq (w : Nat) (rules : List Rule) (d a : BitVec 7) (n : BitVec 4) (s : State) : Out' :=
  let k := if w = 1 then 2 else 6
  issue { uni := false, long := true, ctr := 0, bad := firstBroken rules, mem := true,
          uses := [rdV a] ++ baseUse n ++ [wrV d k], instant := (List.range k).map (fun j => d.toNat + j) } s fun c s =>
    let r := ldrqLanes c (4 * w) s (c.lanes.map (fun i => (i, c.addr false a n i)))
    let recs := r.1.filterMap (fun x => x.2.2.flt?.map (c.laneRec x.1 false))
    if !recs.isEmpty then (r.2, .trap false recs)
    else
      let gone := r.1.filterMap (fun x => x.2.2.st?.map (fun st => (x.1, x.2.1, st)))
      let accs := r.1.filterMap (fun x => x.2.2.loc?.map (fun l =>
        { lane := x.1, va := x.2.1, loc := l, data := [], live := true : Acc }))
      let s := r.2.modWave c.cur.g c.cur.w (fun wv => gone.foldl (fun wv x =>
        wv.vsets d.toNat x.1 (List.replicate (k - 1) 0#32 ++ [BitVec.ofNat 32 x.2.2])) wv)
      let s := s.feedbacks c.grp c.lau (gone.map (fun x => fbEntry x.2.1 x.2.2 0 0))
      let live := Mask.ofLanes (accs.map (fun x => x.lane))
      let s := if accs.isEmpty then s
        else s.addPend c 0 false ((List.range k).map (fun j => d.toNat + j)) live live (.mem (.ldrq w)) false false accs []
      (s.noteWatch c (s.watched c true false true (4 * w) (r.1.map (fun x => (x.1, x.2.1)))), .next)

def execLdrq32 (d a : BitVec 7) (o : BitVec 3) (n : BitVec 4) (s : State) : Out' :=
  ldrq 1 [multipleOf 2 d, ordBelow 1 o] d a n s
def execLdrq128 (d a : BitVec 7) (o : BitVec 3) (n : BitVec 4) (s : State) : Out' :=
  ldrq 4 [multipleOf 4 d, ordBelow 1 o] d a n s

/-- The queue header of `CSTORE`: base and literal (R187). -/
def Ctx.header (c : Ctx) (n : BitVec 4) : DWord :=
  (if n = 0#4 then 0#64 else c.wave.spair (2 * n.toNat)) +
    match c.cur.lit with
    | some l => l.signExtend 64
    | none => 0#64

/-- An earlier access of the split to the header is not yet performed. -/
def headerHold (n : BitVec 4) (s : State) : Bool :=
  match s.ctx? with
  | none => false
  | some c => c.wave.pend.any (fun p => (p.mask &&& c.act) != 0#64 &&
      p.accs.any (fun a => a.live && a.va.toNat / 64 == (c.header n).toNat / 64))

/-- The translation that was used last for an address. -/
def State.cached (s : State) (q : XReq) (va : DWord) : Option Tlb := s.tlb.find? (s.tlbNames q va.toNat)

/-- The end of the page of an address, as the leaf that was used last gives it. -/
def State.pageEnd (s : State) (q : XReq) (va : DWord) : Nat := ((s.cached q va).map (fun t => t.base + t.size)).getD 0

/-- The level of the leaf that was used last for an address. -/
def State.pageLevel (s : State) (q : XReq) (va : DWord) : Nat := ((s.cached q va).map (fun t => lvlOf t.size)).getD 0

/-- The virtual address at which the range of the kind of a page ends (R169 R175), for an address at a location. -/
def State.rangeEnd (s : State) (q : XReq) (va : DWord) (l : Loc) : Nat :=
  match l with
  | .phys pa =>
    va.toNat + ((if pa < s.mix.gddr then s.mix.gddr else pa / 2 ^ 33 * 2 ^ 33 + colSize) - pa)
  | _ =>
    match s.cached q va with
    | none => 0
    | some t =>
      match s.window (s.job q.job).wtab (eWindow t.leaf) true with
      | none => 0
      | some w => t.base + 16384 * (w.pages - ePage t.leaf)

/-- The access that a `CSTORE` leaves: the ends of its page and of the range of its kind, the selected lanes, the level of the
leaf, the values. -/
def Ctx.cstoreAcc (c : Ctx) (s : State) (d a : BitVec 7) (P : DWord) (l : Loc) : Acc :=
  let q := coreReq c.grp.core c.grp.job true false
  let e := BitVec.ofNat 64 (s.pageEnd q P)
  let r := BitVec.ofNat 64 (s.rangeEnd q P l)
  let sel := Mask.ofLanes (c.selected a)
  { lane := 0, va := P, loc := l, live := true
    data := [lo32 e, hi32 e, lo32 r, hi32 r, lo32 sel, hi32 sel, BitVec.ofNat 32 (s.pageLevel q P)] ++ (c.selected a).map (fun i => c.wave.vget d.toNat i) }

/-- `CSTORE` is translated once for the split: a fault is one of the whole split, and a serviceable one parks every active
lane. INDEX and CAP are looked at when it is performed at the LLC. Its release
covers its own element writes alone, which the one access performs before INDEX (spec/07 R193). -/
def execCstore (d a : BitVec 7) (o : BitVec 3) (n : BitVec 4) (s : State) : Out' :=
  issue { uni := false, long := true, ctr := 2, bad := firstBroken [multipleOf 2 d, ordBelow 7 o, below 8 a], mem := true,
          hold := headerHold n s, uses := baseUse n ++ [rdV d, wrV (d + 1#7)] } s fun c s =>
    let P := c.header n
    let (r, s) := s.xaccess (coreReq c.grp.core c.grp.job true false) P 8 64
    match r with
    | .fault f =>
      let recs := [mkRec c.cur c.ent.rpti 0 true true f]
      if serviceable f.cause && c.cur.sp != trapIdx then
        (s.modWave c.cur.g c.cur.w (fun wv => wv.park c c.act recs), .stay)
      else (s, .trap false recs)
    | .loc l =>
      let s := s.addPend c 2 false [d.toNat + 1] c.act c.act (.mem .cstore) false false [c.cstoreAcc s d a P l] []
      (s.noteWatch c (s.watched c true true true 8 [((c.lanes.head?).getD 0, P)]), .next)

/-! ### PREF (R188) -/

/-- Some cache of translations of the core or of its die knows an address. -/
def State.xcached (s : State) (q : XReq) (va : Nat) : Bool := (s.cached q (BitVec.ofNat 64 va)).isSome || !(s.walkHits q va).isEmpty

/-- Request the line of one address: into the LLC, and for D = 0 into the hamper of a shading core; whether the request comes about
is free (DESIGN CHOICE, assumption 8). The address need not be a multiple of 128: R188 requests the line that holds it (DEDUCED,
assumption 57). -/
def State.prefLane (c : Ctx) (d : BitVec 7) (s : State) (va : DWord) : State :=
  let q : XReq := { coreReq c.grp.core c.grp.job false false with core := none }
  if va.extractLsb' 52 12 != 0#12 || !s.xcached q va.toNat then s
  else
    let (b, s') := s.drawBit
    if b then s'
    else
      match s'.xpage q va with
      | (.fault _, _) => s'
      | (.page p, t) =>
        match t.inPage p va 1 with
        | .loc (.phys pa) => if d = 0#7 ∧ shading c.grp.core ∧ t.serves pa then t.takeCopy c.grp.core pa (t.frameLine c.grp va.toNat) else t
        | .loc (.host x a) => if d = 1#7 then t.hostFills x a 1 else t
        | _ => t

/-- `PREF`: no register, no counter, no fault. -/
def execPref (d a : BitVec 7) (o : BitVec 3) (n : BitVec 4) (s : State) : Out' :=
  issue { uni := false, long := true, bad := firstBroken [ordBelow 1 o, below 2 d], uses := [rdV a] ++ baseUse n } s fun c s =>
    ((c.lanes.map (c.addr false a n)).foldl (State.prefLane c d) s, .next)

end Sys2Proof.Machine
end

