-- ==== Sys2Proof/Machine/UniformMove.lean ====
section
/-! DEFINITION. Uniform group 5 and `MOVLS`: moves between the register files and the special registers (spec/01 R34 to
R36, spec/04 R136 to R139). -/

namespace Sys2Proof.Machine

/-- A wave generator of every lane from a seed (spec/02 R59). -/
def rngInit (seed : Word) : List Word := (List.range 64).map (srInit seed)

/-- A special register of the issuing wave as it stands; `lane` for the lane id (Table 01.6). -/
def srLive (c : Ctx) (s : State) (n lane : Nat) : Word :=
  let core := s.core c.grp.core
  match n with
  | 0x00 => BitVec.ofNat 32 c.cur.w
  | 0x01 => BitVec.ofNat 32 c.grp.gidx
  | 0x02 => BitVec.ofNat 32 (c.grp.gidx / 2 ^ 32)
  | 0x03 => BitVec.ofNat 32 c.grp.core
  | 0x04 => BitVec.ofNat 32 (dieOf c.grp.core)
  | 0x05 => BitVec.ofNat 32 c.wave.width
  | 0x06 => lo32 c.act
  | 0x07 => hi32 c.act
  | 0x08 => lo32 s.dtime
  | 0x09 => hi32 s.dtime
  | 0x0A => lo32 core.ccycle
  | 0x0B => hi32 core.ccycle
  | 0x0C => c.wave.sr.sticky
  | 0x0D => c.wave.sr.fpmode
  | 0x0E => lo32 c.wave.sr.last
  | 0x0F => hi32 c.wave.sr.last
  | 0x10 => c.wave.sr.seed
  | 0x11 => c.lau.id
  | 0x12 => if c.wave.sr.strict then 1#32 else 0#32
  | 0x28 => BitVec.ofNat 32 (core.rclass % 4)
  | 0x30 => BitVec.ofNat 32 lane
  | _ => (c.wave.sr.bd.getD (n - 0x20) 0#16).setWidth 32

/-- The low numbers of the 64-bit quantities. -/
def srLow (n : Nat) : Bool := n == 0x01 || n == 0x06 || n == 0x08 || n == 0x0A || n == 0x0E

/-- What a read of number n returns: the held half where the low number has been read (R34). -/
def srRead (c : Ctx) (s : State) (n lane : Nat) : Word :=
  match c.wave.sr.hold.find? (fun x => n == x.1 + 1) with
  | some x => x.2
  | none => srLive c s n lane

/-- What is held after a read: a read of a low number takes the high half of its quantity, in place of one held before
(DEDUCED, assumption 33). -/
def State.srHold (s : State) (c : Ctx) (n : Nat) : State :=
  if srLow n then
    s.modWave c.cur.g c.cur.w (fun wv => { wv with sr := { wv.sr with
      hold := (n, srLive c s (n + 1) 0) :: wv.sr.hold.filter (fun x => x.1 != n) } })
  else s

/-- sr.sticky waits for every lane group 7 instruction of the wave (spec/04 R139). -/
def stickyWaits (s : State) (n : BitVec 7) : Bool :=
  n == 0x0C#7 && (((s.ctx?).map (fun c => c.wave.pend.any (fun p =>
    match p.kind with
    | .special _ => true
    | _ => false))).getD false)

def execMovs (d a : BitVec 7) (s : State) : Out' :=
  issue { uni := true, bad := firstBroken [(readableSr a.toNat, .special)], uses := [wrS d], hold := stickyWaits s a, why := 9 } s
    fun c s => compute true d.toNat (fun _ => ([srRead c s a.toNat 0], Flags.none)) c (s.srHold c a.toNat)

def execMovls (d a : BitVec 7) (s : State) : Out' :=
  issue { uni := false, bad := firstBroken [(readableSr a.toNat || a.toNat == 0x30, .special)], uses := [wrV d],
          hold := stickyWaits s a, why := 9 } s
    fun c s => compute false d.toNat (fun i => ([srRead c s a.toNat i], Flags.none)) c (s.srHold c a.toNat)

/-- A write of a special register: reserved bits ignore it (R35 R36 R137). -/
def Wave.srWrite (wv : Wave) (n : Nat) (x : Word) : Wave :=
  let wv := { wv with sr := { wv.sr with hold := [] } }
  match n with
  | 0x0C => { wv with sr := { wv.sr with sticky := x &&& 0x7F#32 } }
  | 0x0D => { wv with sr := { wv.sr with fpmode := x &&& 0xF03#32 } }
  | 0x10 => { wv with sr := { wv.sr with seed := x }, rng := rngInit x }
  | 0x12 => { wv with sr := { wv.sr with strict := x.getLsbD 0 } }
  | _ => { wv with sr := { wv.sr with bd := wv.sr.bd.set (n - 0x20) (x.extractLsb' 0 16) } }

def execMovsw (a b : BitVec 7) (s : State) : Out' :=
  issue { uni := true, bad := firstBroken [(writableSr a.toNat, .special)], litB := b, uses := [rdB true b],
          hold := stickyWaits s a, why := 9 } s fun c s =>
    (s.modWave c.cur.g c.cur.w (fun wv => wv.srWrite a.toNat (c.B true b 0)), .next)

/-- The lane that `RDLANE` and `WRLANE` name: B mod W. -/
def Ctx.laneOf (c : Ctx) (b : BitVec 7) : Nat := (c.B true b 0).toNat % c.wave.width

def execRdlane (d a b : BitVec 7) (s : State) : Out' :=
  issue { uni := true, litB := b, uses := [rdB true b, wrS d], also := [rdV a],
          cross := fun _ => match s.ctx? with
            | some c => elems a [c.laneOf b]
            | none => [] } s fun c s =>
    compute true d.toNat (fun _ => ([c.wave.vget a.toNat (c.laneOf b)], Flags.none)) c s

/-- `WRLANE` writes its lane even when it is inactive in the split. -/
def execWrlane (d a b : BitVec 7) (s : State) : Out' :=
  issue { uni := true, litB := b, uses := [rdS a, rdB true b], also := [wrV d], crossWr := true,
          cross := fun _ => match s.ctx? with
            | some c => elems d [c.laneOf b]
            | none => [] } s fun c s =>
    (s.modWave c.cur.g c.cur.w (fun wv => wv.vset d.toNat (c.laneOf b) (c.A true a 0) false), .next)

def execKtos (d a h : BitVec 7) (s : State) : Out' :=
  issue { uni := true, bad := firstBroken [below 8 a, below 2 h], uses := [wrS d] } s fun c s =>
    let m := c.wave.kget c.act a.toNat
    compute true d.toNat (fun _ => ([if h = 0#7 then lo32 m else hi32 m], Flags.none)) c s

/-- `STOK` changes the bits of active lanes 32h to 32h + 31 only. -/
def execStok (d a h : BitVec 7) (s : State) : Out' :=
  issue { uni := true, bad := firstBroken [below 8 d, below 2 h], uses := [rdS a] } s fun c s =>
    let x := c.A true a 0
    let (m, w) := if h = 0#7 then (pairOf x 0#32, 0xFFFFFFFF#64) else (pairOf 0#32 x, 0xFFFFFFFF00000000#64)
    (s.modWave c.cur.g c.cur.w (fun wv => wv.kput (c.act &&& w) d.toNat m), .next)

end Sys2Proof.Machine
end

