-- ==== Sys2Proof/Machine/Control.lean ====
section
/-! DEFINITION. Uniform groups 12 and 13: branches, splits and joins, waits, repetition, software traps (spec/03 R85 to R88,
R102 to R106), and the events that wake a split. -/

namespace Sys2Proof.Machine

/-! ### Branches -/

/-- The bundle `o` bundles away (spec/01 R28). -/
def Ctx.target (c : Ctx) (o : BitVec 21) : DWord := c.cur.pc + (o.signExtend 64 <<< 4)

def execBra (o : BitVec 21) (s : State) : Out' :=
  issue { uni := true } s fun c s => (s, .jump (c.target o))

def execBrt (k : BitVec 3) (o : BitVec 21) (s : State) : Out' :=
  issue { uni := true } s fun c s => (s, if c.wave.cget k.toNat then .jump (c.target o) else .next)

def execBrf (k : BitVec 3) (o : BitVec 21) (s : State) : Out' :=
  issue { uni := true } s fun c s => (s, if c.wave.cget k.toNat then .next else .jump (c.target o))

/-- The link registers s126:s127. -/
def linkReg : Nat := 126

def execCall (o : BitVec 21) (s : State) : Out' :=
  issue { uni := true, uses := [wrS 126#7 2] } s fun c s =>
    let r := c.cur.pc + 16#64
    (s.modWave c.cur.g c.cur.w (fun wv => wv.ssets linkReg [lo32 r, hi32 r]), .jump (c.target o))

/-- Divide the split: the lanes of `t` go to the target (R85). The new split inherits the open windows (R98) and what a
`FENCE` holds back. -/
def divide (t : Mask) (target : DWord) (c : Ctx) (s : State) : State × Flow :=
  if t = 0#64 then (s, .next)
  else if t = c.act then (s, .jump target)
  else
    (s.modWave c.cur.g c.cur.w (fun wv =>
      match wv.freeEntry with
      | none => wv
      | some n =>
        let e := wv.entry c.cur.sp
        let wv := wv.setEntry c.cur.sp { e with mask := e.mask &&& ~~~t }
        wv.setEntry n { (Split.at Split.empty target) with mask := t, st := .ready, windows := e.windows, fence := e.fence }), .next)

def execBrd (k : BitVec 3) (o : BitVec 21) (s : State) : Out' :=
  issue { uni := true, noTrap := true } s fun c s =>
    divide (c.act &&& c.wave.kget c.act k.toNat) (c.target o) c s

def execBrdn (k : BitVec 3) (o : BitVec 21) (s : State) : Out' :=
  issue { uni := true, noTrap := true } s fun c s =>
    divide (c.act &&& ~~~(c.wave.kget c.act k.toNat)) (c.target o) c s

/-- Jump to an address from registers; it must be a bundle address. -/
def indirect (x : DWord) (c : Ctx) (s : State) : State × Flow :=
  if x.extractLsb' 0 4 != 0#4 then raise c s cMisalignedTarget else (s, .jump x)

def execJmpr (a : BitVec 7) (s : State) : Out' :=
  issue { uni := true, bad := firstBroken [multipleOf 2 a], uses := [rdS a 2] } s fun c s =>
    indirect (c.wave.spair a.toNat) c s

def execRet (s : State) : Out' :=
  issue { uni := true, uses := [rdS 126#7 2] } s fun c s => indirect (c.wave.spair linkReg) c s

/-! ### Joins, waits, ends -/

/-- Some entry of the wave holds records that no request carries yet (R91). -/
def Split.unreported (e : Split) : Bool := e.st == .parked && e.request.isNone && !e.refused
def Wave.unreported (wv : Wave) : Bool := wv.splits.any Split.unreported

/-- `JOIN` or `EXIT` issues while entries are unreported: the wave requests service (R91). -/
def Wave.noteService (wv : Wave) : Wave := if wv.unreported then { wv with svcDue := true } else wv

/-- Inside a repeated bundle. -/
def repeating (s : State) : Bool := ((s.ctx?).map (fun c => c.ent.rpta)).getD false

/-- A window of 0 to 14 that the split has open holds its `JOIN` (R86). -/
def joinWaits (s : State) : Bool :=
  ((s.ctx?).map (fun c => c.ent.windows.any (fun x => (c.wave.pend? x.pend).isSome))).getD false

/-- `JOIN`: the split waits for the bundle after it (R86). -/
def execJoin (a : BitVec 7) (s : State) : Out' :=
  issue { uni := true, bad := firstBroken [below 8 a], noTrap := true, illegal := repeating s, hold := joinWaits s, why := 2 } s
    fun c s =>
      (s.modWave c.cur.g c.cur.w (fun wv =>
        (wv.modEntry c.cur.sp (fun e => { e.at (c.cur.pc + 16#64) with
          st := .join, rja := c.cur.pc, exp := (wv.kget c.act a.toNat ||| e.mask) &&& wv.live, windows := [] })).noteService)
        |>.yld c, .stay)

def execWaitc (d n : BitVec 7) (s : State) : Out' :=
  issue { uni := true, bad := firstBroken [below 8 d] } s fun c s =>
    if c.wave.counters.getD d.toNat 0 ≤ n.toNat then (s, .next)
    else (s.modEntry c (fun e => { e with st := .counter, wcls := d.toNat, wn := n.toNat }), .next)

/-- The wave is the youngest from now on (R93). -/
def State.young (s : State) (c : Ctx) : State :=
  s.modWave c.cur.g c.cur.w (fun wv => { wv with age := s.tick + 1, passed := 0 })

def execYieldSplit (s : State) : Out' :=
  issue { uni := true } s fun c s => (s.young c, .next)

/-- The rays of lanes that end are released (spec/11 R299). -/
def State.dropRays (s : State) (core g w : Nat) (lanes : Mask) : State :=
  let s := s.modCore core (fun k => { k with rays := k.rays.filter (fun r =>
    !(r.group == g && r.wave == w && lanes.getLsbD r.lane)) })
  s.modWave g w (fun wv => { (wv.shedRays lanes) with rays := wv.rays &&& ~~~lanes })

/-- `EXIT`: the lanes of the split die; at trap level every live lane of the wave (spec/13 R356). -/
def execExitSplit (s : State) : Out' :=
  issue { uni := true } s fun c s =>
    let lanes := if c.cur.sp = trapIdx then c.wave.live else c.act
    let s := s.dropRays c.grp.core c.cur.g c.cur.w lanes
    let s := s.modWave c.cur.g c.cur.w (fun wv => (wv.kill lanes).noteService)
    ((s.modGroup c.cur.g Group.refreshWaits).yld c, .stay)

/-- Some slot after the present one holds an instruction other than `NOP` (spec/01 R41). A word that is no instruction counts as
one: the `REPEAT` raises `ILLEGAL_INSN` before it (DEDUCED, assumption 60). -/
def notLast (s : State) : Bool :=
  ((s.ctx?).map (fun c => (c.cur.words.drop (c.cur.slot + 1)).any (fun w => w != nopWord))).getD false

def execRepeatN (n : BitVec 12) (s : State) : Out' :=
  issue { uni := true, illegal := repeating s || notLast s } s fun c s =>
    (s.modEntry c (fun e => { e with rptNext := some n.toNat }), .next)

/-- `TRAP` resumes at the bundle after it, with the code in its record. -/
def execTrapSw (k : BitVec 7) (s : State) : Out' :=
  issue { uni := true } s fun c s =>
    let r := { c.splitRec cSwTrap with code := k.toNat }
    ((s.modEntry c (fun e => e.at (c.cur.pc + 16#64))).yld c, .trap false [r])

def execSleep (a : BitVec 7) (s : State) : Out' :=
  issue { uni := true, uses := [rdS a] } s fun c s =>
    let n := (c.wave.sget a.toNat).toNat
    if n = 0 then (s.young c, .next)
    else (s.modEntry c (fun e => { e with st := .sleep, wake := s.now + n }), .next)

def execSetpri (p : BitVec 7) (s : State) : Out' :=
  issue { uni := true, bad := firstBroken [below 4 p] } s fun c s =>
    (s.modWave c.cur.g c.cur.w (fun wv => { wv with prio := p.toNat }), .next)

/-- `BREAK`: with a debugger the split stops before the slot that follows; else the trap BREAKPOINT (R106). -/
def execBrk (s : State) : Out' :=
  issue { uni := true } s fun c s =>
    if (s.core c.grp.core).dbg.own then
      (s.modEntry c (fun e => { e with stopNext := some (2, 0, e.mask) }), .next)
    else raise c s cBreakpoint

/-! ### Events -/

/-- SLEEP_WAKE: the wake time of a sleeping split has passed, and no debug stop suspends its group (R104, spec/15
R380). -/
def execSleepWake (g w sp : Nat) (s : State) : Out' :=
  match s.groups[g]?, s.wave? g w with
  | some G, some wv =>
    if (wv.entry sp).st == .sleep && decide ((wv.entry sp).wake ≤ s.now) && !G.suspended && G.state == .resident then
      .next (s.modWave g w (fun wv => wv.modEntry sp (fun e => { e with st := .ready })))
    else idle s
  | _, _ => idle s

/-- STARVATION_PROMOTE: a wave that has been passed over 64 times comes first at the next opportunity (R93). -/
def execStarvationPromote (g w : Nat) (s : State) : Out' :=
  match s.wave? g w with
  | some wv => if 64 ≤ wv.passed then .next (s.modWave g w (fun wv => { wv with passed := 65 })) else idle s
  | none => idle s

end Sys2Proof.Machine
end

