-- ==== Sys2Proof/Machine/Barrier.lean ====
section
/-! DEFINITION. Uniform group 10: barrier objects, fences and the device phase tree (spec/07 R202 to R218). -/

namespace Sys2Proof.Machine

/-! ### Phase completion and Fault (R205 R209) -/

def maxCount : Nat := 2 ^ 32 - 1

def Group.bar (G : Group) (nb : Nat) : Barrier := G.bars.getD nb Barrier.empty
def Group.modBar (G : Group) (nb : Nat) (f : Barrier → Barrier) : Group := { G with bars := G.bars.modify nb f }
def State.modBar (s : State) (g nb : Nat) (f : Barrier → Barrier) : State := s.modGroup g (fun G => G.modBar nb f)

/-- The record of a split whose wait ends on the object's Fault. -/
def Split.barrierRec (e : Split) (i : Nat) : Option Rec :=
  e.origin.map (fun o =>
    { cause := cBarrier, lane := 0, split := i % 64, slot := o.slot, uni := true, wr := false, svc := false, rpti := o.rpti,
      fpf := 0#4, pst := 6, lvl := 0, code := 0, va := 0#64, pc := o.pc, insn := o.insn })

/-- Leave the wait and stand at the `BWAIT` again (DEDUCED: a cause found at issue resumes at its instruction). -/
def Split.leaveWait (e : Split) : Split :=
  match e.origin with
  | none => { e with st := .ready }
  | some o => { (e.standAt o) with st := .ready, origin := none }

/-- The splits of wave `w` that wait on the object leave and raise `BARRIER_STATE`. -/
def State.faultWave (s : State) (g nb w : Nat) : State :=
  match s.wave? g w with
  | none => s
  | some wv =>
    let recs := wv.valid.filterMap (fun p => if p.2.waitsOn nb then p.2.barrierRec p.1 else none)
    let own := if wv.trap.entry.waitsOn nb then (wv.trap.entry.barrierRec 0).toList else []
    let s := s.modWave g w (fun (wv : Wave) => wv.mapEntries (fun e => if e.waitsOn nb then e.leaveWait else e))
    if !own.isEmpty then s.takeTrap g w true own
    else if recs.isEmpty then s else s.takeTrap g w false recs

/-- The object enters Fault; splits that its last completion woke are Ready before that. -/
def State.barFault (s : State) (g nb : Nat) : State :=
  let s := (s.modGroup g (fun G => G.observe nb)).modBar g nb (fun b => { b with st := .fault, wait := 0#16, obs := 0#16 })
  (List.range 16).foldl (fun s w => s.faultWave g nb w) s

/-- Evaluate an unlinked object after ARR, PREL, BYTES or EXPB changed; a suspended group waits for its resume (spec/15
R380). -/
def State.barCheck (s : State) (g nb : Nat) : State :=
  match s.groups[g]? with
  | none => s
  | some G =>
    let b := G.bar nb
    if G.suspended || b.st != .counting || b.lnk then s
    else if decide (maxCount < b.expb) || decide (maxCount < b.bytes) then s.barFault g nb
    else if b.arr = b.expa ∧ b.prel = 0 then
      if b.expb < b.bytes then s.barFault g nb
      else if b.bytes = b.expb then
        (s.modGroup g (fun G => (G.modBar nb (fun b =>
          { b with phase := b.phase + 1#16, arr := 0, bytes := 0, expb := b.baseb })).wakeBarrier nb (s.core G.core).ccycle)).acquired
            G.core
      else s
    else s

/-- An engine counts bytes on an object of a group; none when the object cannot count them (R211). -/
def State.countBytes (s : State) (g nb n : Nat) : Option State :=
  match s.groups[g]? with
  | none => some s
  | some G =>
    if (G.bar nb).st != .counting || (G.bar nb).lnk then none
    else some ((s.modBar g nb (fun b => { b with bytes := b.bytes + n })).barCheck g nb)

/-! ### Barrier instructions (R206 to R213) -/

/-- The barrier index lies outside the group's objects (spec/01 R32). -/
def noBarrier (a : BitVec 7) (s : State) : Bool := decide (s.curLaunch.bars ≤ a.toNat)

/-- Set condition D. -/
def State.setCond (s : State) (c : Ctx) (d : BitVec 7) (v : Bool) : State :=
  s.modWave c.cur.g c.cur.w (fun wv => wv.cset d.toNat v)

/-- Write a uniform register. -/
def State.setUni (s : State) (c : Ctx) (d : BitVec 7) (x : Word) : State :=
  s.modWave c.cur.g c.cur.w (fun wv => wv.sset d.toNat x false)

/-- The tree context of the issuing launch (R215). -/
def Ctx.tree (c : Ctx) (s : State) : Option Tree := (c.lau.tree).bind (fun i => s.trees[i]?)

def execBinit (d a b : BitVec 7) (s : State) : Out' :=
  issue { uni := true, bad := firstBroken [below 8 d, multipleOf 2 b], uses := [rdS b 2], illegal := noBarrier a s } s fun c s =>
    let w := c.wave.sget b.toNat
    let o := c.grp.bar a.toNat
    let lnk := w.getLsbD 19
    let scope := (w.extractLsb' 16 3).toNat
    match lnk, c.tree s with
    | true, none => raise c s cBarrier
    | _, tr =>
      let idle := o.st != .counting || (o.arr == 0 && o.bytes == 0 && o.wait == 0#16 && o.obs == 0#16)
      let word := w.extractLsb' 20 12 == 0#12 && w.extractLsb' 12 4 == 0#4 && decide (1 ≤ scope) && decide (scope ≤ 4)
      let shape := if lnk then !(c.grp.bars.zipIdx.any (fun p => p.1.lnk && p.2 != a.toNat)) else w.extractLsb' 0 12 != 0#12
      if idle && word && shape then
        let base := (c.wave.sget (b.toNat + 1)).toNat
        let s := s.modBar c.cur.g a.toNat (fun o => { o with
          expa := (w.extractLsb' 0 12).toNat, scope := scope, lnk := lnk, baseb := base, expb := base, arr := 0, bytes := 0,
          prel := 0, bnd := false, st := .counting,
          phase := if lnk then ((tr.map Tree.tph).getD o.phase) else o.phase })
        (s.setCond c d true, .next)
      else (s.setCond c d false, .next)

/-- Space of the accesses of a pending instruction: group 8 is local. -/
def Pend.localSpace (p : Pend) : Bool := p.insn.extractLsb' 27 4 == 8#4

/-- What a `BARR` on an object releases: the open accesses of the split's lanes, for a bound object its writes to the
region (R198). -/
def releases (c : Ctx) (o : Barrier) : List Nat :=
  (c.wave.pend.filter (fun p => p.open && (p.mask &&& c.act) != 0#64 &&
    (!o.bnd || (!p.isLoad && p.localSpace == o.rsp && p.accs.any (fun x => x.live &&
      decide (x.va.toNat < o.rb.toNat + o.rl.toNat) && decide (o.rb.toNat < x.va.toNat + p.accSize x)))))).map (fun p => p.id)

def execBarr (d a b : BitVec 7) (s : State) : Out' :=
  issue { uni := true, bad := firstBroken [below 8 b], uses := [wrS d], illegal := noBarrier a s } s fun c s =>
    let o := c.grp.bar a.toNat
    if o.st != .counting || o.lnk then raise c s cBarrier
    else if o.obs != 0#16 || o.arr == o.expa then (s.setCond c b false, .next)
    else
      let rel := releases c o
      let s := s.modGroup c.cur.g (fun G =>
        let G := G.modBar a.toNat (fun o => { o with arr := o.arr + 1, prel := o.prel + (if rel.isEmpty then 0 else 1) })
        if rel.isEmpty then G else { G with barRel := G.barRel ++ [{ nb := a.toNat, wave := c.cur.w, pends := rel }] })
      let s := (s.setUni c d (o.phase.setWidth 32)).setCond c b true
      (s.barCheck c.cur.g a.toNat, .next)

/-- BARR_RELEASE_PERFORMED (R208): every access that the release names has been performed. A release that outlives a Fault and
a new `BINIT` of its object still takes PREL down, which stops at 0 (DESIGN CHOICE, assumption 58). -/
def execBarrReleasePerformed (g _nb idx : Nat) (s : State) : Out' :=
  match s.groups[g]? with
  | none => idle s
  | some G =>
    match G.barRel[idx]? with
    | none => idle s
    | some r =>
      let busy := match G.waves[r.wave]? with
        | some wv => r.pends.any (fun id => ((wv.pend? id).map (fun p => p.open)).getD false)
        | none => false
      if busy || (G.state != .resident && G.state != .saved) then idle s
      else
        let s := s.modGroup g (fun G =>
          { (G.modBar r.nb (fun b => { b with prel := b.prel - 1 })) with barRel := G.barRel.eraseIdx idx })
        .next (s.barCheck g r.nb)

def execBwait (a b : BitVec 7) (s : State) : Out' :=
  issue { uni := true, uses := [rdS b], illegal := noBarrier a s } s fun c s =>
    let o := c.grp.bar a.toNat
    let v := (c.wave.sget b.toNat).extractLsb' 0 16
    if o.st != .counting then raise c s cBarrier
    else if passed o.phase v then (s.acquiredBy c.grp.core c.reader, .next)
    else
      let s := s.modEntry c (fun e => { e with st := .barrier, bobj := a.toNat, bval := v, origin := some c.origin })
      (s.modGroup c.cur.g (fun G => G.modBar a.toNat (fun o => { o with wait := G.waiters a.toNat })), .next)

def execBexpb (a b : BitVec 7) (s : State) : Out' :=
  issue { uni := true, uses := [rdS b], illegal := noBarrier a s } s fun c s =>
    let o := c.grp.bar a.toNat
    if o.st != .counting || o.lnk then raise c s cBarrier
    else
      let s := s.modBar c.cur.g a.toNat (fun o => { o with expb := o.expb + (c.wave.sget b.toNat).toNat })
      (s.barCheck c.cur.g a.toNat, .next)

def BarState.code : BarState → Nat
  | .uninit => 0
  | .counting => 1
  | .fault => 2

/-- The snapshot of R212. -/
def Barrier.snapshot (o : Barrier) : Word :=
  BitVec.ofNat 32 (o.phase.toNat + 2 ^ 16 * (o.arr % 4096) + 2 ^ 28 * o.st.code + 2 ^ 30 * o.lnk.toNat + 2 ^ 31 * o.bnd.toNat)

def execBphase (d a : BitVec 7) (s : State) : Out' :=
  issue { uni := true, bad := firstBroken [positive d], uses := [wrS d], illegal := noBarrier a s } s fun c s =>
    (s.setUni c d (c.grp.bar a.toNat).snapshot, .next)

/-- An object whose binding may change. -/
def Barrier.bindable (o : Barrier) : Bool :=
  o.st == .counting && !o.lnk && o.arr == 0 && o.bytes == 0 && o.obs == 0#16

def execBbind (d a b : BitVec 7) (s : State) : Out' :=
  issue { uni := true, bad := firstBroken [below 8 d, multipleOf 4 b], uses := [rdS b 4], illegal := noBarrier a s } s
    fun c s =>
      let rl := c.wave.sget (b.toNat + 2)
      let w := c.wave.sget (b.toNat + 3)
      if (c.grp.bar a.toNat).bindable && rl != 0#32 && w.extractLsb' 1 31 == 0#31 then
        let s := s.modBar c.cur.g a.toNat (fun o =>
          { o with bnd := true, rb := c.wave.spair b.toNat, rl := rl, rsp := w.getLsbD 0 })
        (s.setCond c d true, .next)
      else (s.setCond c d false, .next)

def execBdrop (d a : BitVec 7) (s : State) : Out' :=
  issue { uni := true, bad := firstBroken [below 8 d], illegal := noBarrier a s } s fun c s =>
    if (c.grp.bar a.toNat).bindable then
      let s := s.modBar c.cur.g a.toNat (fun o => { o with bnd := false, rb := 0#64, rl := 0#32, rsp := false })
      (s.setCond c d true, .next)
    else (s.setCond c d false, .next)

/-! ### Fences (R202) -/

/-- Open accesses of the split's lanes and of the wave's uniform accesses that the split issued. -/
def Ctx.openAccesses (c : Ctx) : List Nat :=
  (c.wave.pend.filter (fun p => p.open && (p.mask &&& c.act) != 0#64)).map (fun p => p.id)

/-- A fence of any scope: the model performs an access for every party at once, so that the scopes differ in cost only. It
acquires here, and again once the accesses it waits for are performed. -/
def fence (s : State) : Out' :=
  issue { uni := true } s fun c s =>
    ((s.modEntry c (fun e => { e with fence := c.openAccesses })).acquiredBy c.grp.core c.reader, .next)

def execFenceG (s : State) : Out' := fence s
def execFenceD (s : State) : Out' := fence s
def execFenceV (s : State) : Out' := fence s
def execFenceS (s : State) : Out' := fence s

/-! ### The phase tree (R215 to R218) -/

/-- Earlier accesses of the split are still to be performed. -/
def unreleased (s : State) : Bool := ((s.ctx?).map (fun c => !c.openAccesses.isEmpty)).getD false

def halfAt (b : List Byte) (i : Nat) : Nat := leNat ((b.drop (2 * i)).take 2)

/-- No arrival of the context is outstanding. -/
def Tree.quiet (t : Tree) : Bool := t.cnt0 == t.rld && t.cnt1 == t.rld

/-- An engine command of the wave still writes bytes of the header that a `PHINIT` reads (R199). -/
def headerEngineHold (a : BitVec 7) (s : State) : Bool :=
  match s.ctx? with
  | none => false
  | some c =>
    let va := (c.wave.spair a.toNat).toNat
    let h : List Iv := [{ acm := false, lo := va, hi := va + 256, wr := false }]
    (s.core c.grp.core).queues.any (fun q => q.any (fun x => x.group == c.cur.g && x.wave == c.cur.w &&
      s.ivsClash c.grp.core x x (s.cmdIvs c.grp.core x) h))

def execPhinit (d a : BitVec 7) (s : State) : Out' :=
  issue { uni := true, bad := firstBroken [below 8 d, multipleOf 2 a], uses := [rdS a 2],
          hold := unreleased s || headerEngineHold a s } s fun c s =>
    match c.lau.tree, c.tree s with
    | some ti, some t =>
      let va := c.wave.spair a.toNat
      match s.laccess c.cur.g c.grp c.lau va 256 64 with
      | .fault f => outcome c s true false [(0, va, .fault f)] (fun _ s => s)
      | .loc l =>
        if s.locPoison c.grp l 256 then raise c s cPoison
        else
          let h := s.locRead c.grp l 256
          let rld := (List.range 112).map (halfAt h)
          let ok := (t.quiet || !t.armed) && (h.drop 224).all (fun x => x == 0#8) && rld.any (fun n => n != 0) &&
            (rld.zipIdx.all (fun p => p.1 == 0 || s.corePresent p.2))
          let s := s.locTouch l 256
          if ok then
            let s : State := { s with trees := s.trees.modify ti (fun t =>
              { t with armed := true, rld := rld, cnt0 := rld, cnt1 := rld }) }
            (s.setCond c d true, .next)
          else (s.setCond c d false, .next)
    | _, _ => raise c s cBarrier

/-- The counters of parity q. -/
def Tree.cnt (t : Tree) (q : Bool) : List Nat := if q then t.cnt1 else t.cnt0
def Tree.setCnt (t : Tree) (q : Bool) (l : List Nat) : Tree := if q then { t with cnt1 := l } else { t with cnt0 := l }

/-- Add to a saturating debug counter. -/
def satAdd (w : Word) (n : Nat) : Word := BitVec.ofNat 32 (min (w.toNat + n) maxCount)

def execPharr (a b : BitVec 7) (s : State) : Out' :=
  issue { uni := true, uses := [rdS a, rdS b], hold := unreleased s } s fun c s =>
    let dst := (c.wave.sget a.toNat).toNat
    let n := ((c.wave.sget b.toNat).extractLsb' 0 16).toNat
    match c.lau.tree, c.tree s, c.grp.bars.find? (fun o => o.lnk) with
    | some ti, some t, some o =>
      if !t.armed || decide (112 ≤ dst) || !s.corePresent dst then raise c s cBarrier
      else
        let q := o.phase.getLsbD 0
        let have_ := (t.cnt q).getD dst 0
        let s : State := { s with trees := s.trees.modify ti (fun t => t.setCnt q ((t.cnt q).set dst (have_ - n))) }
        (s.modCore dst (fun k => { k with dbg := { k.dbg with ovarr := satAdd k.dbg.ovarr (n - have_) } }), .next)
    | _, _, _ => raise c s cBarrier

/-- A linked object takes the tree's phase and wakes its waiters; a suspended group takes it at its resume. -/
def State.deliverPhase (s : State) (g : Nat) (tph : BitVec 16) : State :=
  let s := s.modGroup g (fun G =>
    match G.bars.findIdx? (fun o => o.lnk) with
    | none => G
    | some nb =>
      if G.suspended || (G.bar nb).phase == tph then G
      else (G.modBar nb (fun b => { b with phase := tph })).wakeBarrier nb (s.core G.core).ccycle)
  ((s.groups[g]?).map (fun G => s.acquired G.core)).getD s

/-- The present phase has every arrival of every participating core. -/
def Tree.complete (t : Tree) : Bool :=
  t.armed && t.rld.zipIdx.all (fun p => p.1 == 0 || (t.cnt (t.tph.getLsbD 0)).getD p.2 0 == 0)

/-- PHASE_TREE_COMPLETE (R217). -/
def execPhaseTreeComplete (ti : Nat) (s : State) : Out' :=
  match s.trees[ti]? with
  | none => idle s
  | some t =>
    if !t.complete then idle s
    else
      let ph := t.tph + 1#16
      let s : State := { s with trees := s.trees.set ti { (t.setCnt (t.tph.getLsbD 0) t.rld) with tph := ph } }
      .next (s.groups.zipIdx.foldl (fun s p =>
        if some p.1.launch == t.owner && (p.1.state == .resident || p.1.state == .saved) then s.deliverPhase p.2 ph else s) s)

end Sys2Proof.Machine
end

