-- ==== Sys2Proof/Machine/Fetch.lean ====
section
/-! DEFINITION. Fetching a bundle: the instruction caches, translation for fetch, the check of the control word, and fetch
faults (spec/01 R14, spec/13 R356, spec/15 R375). -/

namespace Sys2Proof.Machine

/-- What a fetch gives: the bundle, a wait for memory, or a fault that the machine has taken. -/
inductive Fetched where
  | held (ws : List Word)
  | wait
  | taken

/-- The bundle that the instruction caches of a core hold at an address. -/
def State.bundle? (s : State) (core tag : Nat) (pc : DWord) : Option (List Word) :=
  ((s.core core).icache.find? (fun l => l.tag == tag && l.va == pc)).map Line.words

/-- The record of a fetch fault (R356): the slot to be fetched, no instruction word. -/
def fetchRec (e : Split) (sp : Nat) (f : Flt) : Rec :=
  { cause := f.cause, lane := 0, split := sp % 64, slot := e.slot, uni := true, wr := false, svc := serviceable f.cause,
    rpti := e.rpti, fpf := 0#4, pst := f.pst, lvl := f.lvl, code := 0, va := e.pc, pc := e.pc, insn := 0#32 }

/-- A fetch fault: a serviceable one parks the split and asks for service at once; another sends the wave to Trap. -/
def State.fetchFault (s : State) (g w sp : Nat) (f : Flt) : State :=
  match s.wave? g w with
  | none => s
  | some wv =>
    let e := wv.entry sp
    let r := fetchRec e sp f
    if serviceable f.cause && sp != trapIdx then
      s.modWave g w (fun wv => { (wv.setEntry sp { e with
        st := .parked, recs := [r], request := none, refused := false, fetchFault := true }) with svcDue := true })
    else s.takeTrap g w (sp == trapIdx) [r]

/-- The memory that a fetch of a bundle reads (R375), and the note of a page that has been served since (DEDUCED,
assumption 13). -/
def State.codeView (s : State) (core tag : Nat) (pc : DWord) : CodeView × State :=
  let c := s.core core
  let here := fun (x : Nat × Nat × Option CodeView) => x.1 == tag && x.2.1 == pc.toNat / 16384
  match c.code, c.late.find? here with
  | none, _ => ({ mem := s.mem, memP := s.memP }, s)
  | some v, none => (v, s)
  | some _, some (_, _, some v) => (v, s)
  | some _, some (_, _, none) =>
    let v := s.codeNow
    (v, s.modCore core (fun c => { c with late := c.late.map (fun x => if here x then (x.1, x.2.1, some v) else x) }))

/-- A fetch waits for the service of a page: what it reads after that is what the service has put there. -/
def State.fetchLate (s : State) (core tag : Nat) (pc : DWord) : State :=
  let n := pc.toNat / 16384
  s.modCore core (fun c => if c.code.isNone || c.late.any (fun x => x.1 == tag && x.2.1 == n) then c
    else { c with late := c.late ++ [(tag, n, none)] })

/-- Fetch the present bundle of a split. A bundle that the caches do not hold is translated by the present tables and read
from the memory of R375; the control word is checked before any slot executes. -/
def State.fetch (s : State) (g w sp : Nat) : Fetched × State :=
  match s.groups[g]?, s.wave? g w with
  | some G, some wv =>
    let e := wv.entry sp
    let tag := (s.job G.job).tag
    let check := fun (ws : List Word) (s : State) =>
      if badBundle ws then
        (Fetched.taken, s.takeTrap g w (sp == trapIdx)
          [{ fetchRec e sp (Flt.plain cIllegalBundle 0#64) with va := 0#64, insn := ws.getD e.slot 0#32 }])
      else (.held ws, s)
    match s.bundle? G.core tag e.pc with
    | some ws => check ws s
    | none =>
      match s.xaccess (coreReq G.core G.job false true) e.pc 16 16 with
      | (.fault f, s) =>
        (.taken, (if f.cause = cPageFault then s.fetchLate G.core tag e.pc else s).fetchFault g w sp f)
      | (.loc (.phys pa), s) =>
        if !s.serves pa then (.wait, s)
        else
        let (v, s) := (s.drain pa 16).codeView G.core tag e.pc
        if marked v.memP pa 16 then (.taken, s.fetchFault g w sp (Flt.plain cPoison e.pc))
        else
          let ws := leWords 4 (cellBytes v.mem pa 16)
          check ws (s.modCore G.core (fun c => { c with icache := { tag := tag, va := e.pc, words := ws } :: c.icache }))
      | (.loc _, s) => (.taken, s.fetchFault g w sp (Flt.plain cPermission e.pc))
  | _, _ => (.wait, s)

/-- A split may be examined for issue: Ready, and the handler split alone while the wave is in Trap. -/
def Wave.issuable (wv : Wave) (sp : Nat) : Bool :=
  !wv.frozen && (wv.entry sp).st == .ready &&
    (if sp = trapIdx then wv.state == .trap else wv.state == .resident)

/-- BUNDLE_FETCH: the fetch of a split's bundle takes place before the split issues from it, while the core's clock runs (spec/14
R369). -/
def execBundleFetch (g w sp : Nat) (s : State) : Out' :=
  match s.groups[g]?, s.wave? g w with
  | some G, some wv =>
    if G.state == .resident && !(s.core G.core).held && wv.issuable sp then .next (s.fetch g w sp).2 else idle s
  | _, _ => idle s

end Sys2Proof.Machine
end

