-- ==== Sys2Proof/Machine/Debug.lean ====
section
/-! DEFINITION. The debug block of a core: stops, resumes, sampling, dumps, the debug window (spec/15 R374 to R382), and
what comes before the issue of a slot: fetch, literal slots, stops. -/

namespace Sys2Proof.Machine

def State.modDebug (s : State) (core : Nat) (f : Debug → Debug) : State :=
  s.modCore core (fun c => { c with dbg := f c.dbg })

/-- Waves that a partition of a core holds: group, wave index, wave; ascending position. -/
def State.wavesOf (s : State) (core part : Nat) : List (Nat × Nat × Wave) :=
  let all := s.groups.zipIdx.flatMap (fun p =>
    if p.1.state == .resident && p.1.core == core then
      (p.1.waves.zipIdx.filter (fun q => q.1.part == part && q.1.state != .retired)).map (fun q => (p.2, q.2, q.1))
    else [])
  (List.range 16).flatMap (fun i => all.filter (fun x => x.2.2.wpos == i))

/-- It takes part in issue (spec/03 R79). -/
def Wave.runs (wv : Wave) : Bool := wv.state == .resident || wv.state == .trap

/-! ### The status word of a queue (spec/08 R233) -/

def Core.qstat? (c : Core) (g sel : Nat) : QStat := statusIn c.qstat g sel

/-- The `QSTAT` word as a group sees it. -/
def Core.qstatWord (c : Core) (g sel : Nat) : Word :=
  let q := c.qstat? g sel
  let mine := (c.queues.getD sel []).filter (fun x => x.group == g)
  BitVec.ofNat 32 (q.code % 256 + 2 ^ 8 * q.halt.toNat + 2 ^ 9 * (mine.any (fun x => x.stop.isSome)).toNat +
    2 ^ 10 * (mine.length % 64) + 2 ^ 16 * (q.ticket % 2 ^ 16))

/-! ### Dumps (R382) -/

def SplitState.code : SplitState → Nat
  | .free => 0
  | .ready => 1
  | .join => 2
  | .counter => 3
  | .barrier => 4
  | .sleep => 5
  | .parked => 6
  | .debugParked => 7

/-- A split-table entry in memory (spec/03 Table 03.3). -/
def Split.image (e : Split) : List Byte :=
  leBytes 32 (e.mask.toNat + 2 ^ 64 * e.exp.toNat + 2 ^ 128 * (e.pc.toNat / 16 % 2 ^ 48) + 2 ^ 176 * (e.rja.toNat / 16 % 2 ^ 48) +
    2 ^ 224 * e.st.code + 2 ^ 227 * (e.slot % 4) + 2 ^ 229 * (e.rptn % 4096) + 2 ^ 241 * (e.rpti % 4096) + 2 ^ 253 * e.rpta.toNat)

/-- Bytes padded with zeros to `n`. -/
def padTo (n : Nat) (b : List Byte) : List Byte := b ++ List.replicate (n - b.length) 0#8

/-- A wave of the dump: its header, whose fields are 4 bytes each in the order named, the counters and the trap byte
(DESIGN CHOICE, assumption 14: the manual gives no offsets), then its entries. -/
def dumpWave (s : State) (x : Nat × Nat × Wave) : List Byte :=
  let wv := x.2.2
  let launch := ((s.groups[x.1]?).map (fun G => (s.launch G.launch).id)).getD 0#32
  padTo 64 (leBytes 4 wv.wpos ++ leBytes 4 wv.width ++ leBytes 4 launch.toNat ++ leBytes 4 wv.sr.sticky.toNat ++
      wv.counters.map (BitVec.ofNat 8) ++ [if wv.state == .trap then 1#8 else 0#8]) ++
    wv.splits.flatMap Split.image ++ (if wv.state == .trap then wv.trap.entry.image else [])

/-- The pending entries of a wave: one for each register with pending elements, with the lanes of them all and the class
of the oldest (DESIGN CHOICE, assumption 14: the manual gives no class for a register that two instructions write). -/
def dumpPending (wv : Wave) : List (List Byte) :=
  let open_ := wv.pend.filter (fun p => p.lanes != 0#64)
  ((open_.flatMap (fun p => p.regs.map (fun r => (p.uni, r)))).eraseDups).map (fun k =>
    let ps := open_.filter (fun p => p.uni == k.1 && p.regs.contains k.2)
    let cls := ((ps.head?).map (fun p => p.cls)).getD 8
    leBytes 4 (k.2 % 128 + 2 ^ 7 * k.1.toNat + 2 ^ 8 * (cls % 16) + 2 ^ 12 * (wv.wpos % 16)) ++ leBytes 4 0 ++
      leBytes 8 (ps.foldl (fun m p => m ||| p.lanes) 0#64).toNat)

/-- Descriptor words of a command: what its registers gave, without the bond block of a chain command (spec/10 R282). -/
def CmdOp.words : CmdOp → Nat
  | .ttrun => 4
  | _ => 8

/-- The head of a queue: the oldest entry of the partition's waves. -/
def dumpHead (s : State) (core sel : Nat) (ws : List (Nat × Nat × Wave)) : List Byte :=
  let c := s.core core
  match (c.queues.getD sel []).find? (fun q => ws.any (fun x => x.1 == q.group && x.2.1 == q.wave)) with
  | none => List.replicate 64 0#8
  | some q => padTo 64 (padTo 32 ((q.desc.take q.op.words).flatMap (fun w => leBytes 4 w.toNat)) ++
      leBytes 4 (q.seq % 2 ^ 16 + 2 ^ 16 * sel) ++ leBytes 4 (c.qstatWord q.group sel).toNat)

/-- The dump of a partition as it stands: what R382 lists, and so no record of a barrier object, which the caption of Table
07.4 speaks of (DEDUCED, assumption 14). -/
def State.dumpImage (s : State) (core part : Nat) : List Byte :=
  let ws := (s.wavesOf core part).filter (fun x => x.2.2.runs)
  let pend := ws.flatMap (fun x => dumpPending x.2.2)
  padTo 64 (leBytes 8 (s.core core).ccycle.toNat ++ leBytes 4 ws.length ++ leBytes 4 pend.length) ++
    ws.flatMap (dumpWave s) ++ pend.flatten ++ (List.range 5).flatMap (fun sel => dumpHead s core sel ws)

/-! ### Stops (R378 to R381) -/

/-- The stop record of Table 15.4. -/
def stopRecord (mode : Bool) (wv : Wave) (sp why wpn : Nat) (lanes : Mask) (launch : Word) : List Word :=
  let e := wv.entry sp
  [BitVec.ofNat 32 (why + 2 ^ 4 * (e.slot % 4) + 2 ^ 6 * (wv.part % 4) + 2 ^ 8 * (wv.wpos % 16) +
     2 ^ 12 * (if why = 4 ∨ sp = trapIdx then 0 else sp % 64) + 2 ^ 18 * wpn + 2 ^ 21 * mode.toNat +
     2 ^ 22 * (sp == trapIdx).toNat),
   BitVec.ofNat 32 (e.rpti % 4096), lo32 e.pc, hi32 e.pc, lo32 lanes, hi32 lanes, launch, 0#32]

/-- Append a record; with 16 held it is lost and counted. -/
def Debug.pushStop (d : Debug) (r : List Word) : Debug :=
  if 16 ≤ d.stops.length then { d with slost := satAdd d.slost 1 } else { d with stops := d.stops ++ [r] }

/-- A stop moves an entry to Debug parked (spec/03 R84); a Parked one stays so, and still asks for service. -/
def Split.debugPark (e : Split) : Split :=
  match e.st with
  | .ready | .join | .counter | .barrier | .sleep => { e with st := .debugParked, prior := e.st }
  | .free | .parked | .debugParked => e
def Split.debugResume (e : Split) : Split := if e.st == .debugParked then { e with st := e.prior } else e

/-- Non-stop: the whole wave is Debug parked and its group suspended. -/
def State.parkWave (s : State) (g w : Nat) : State :=
  let s := s.modWave g w (fun wv =>
    if wv.runs then { (wv.mapEntries Split.debugPark) with state := .stopped, priorState := wv.state } else wv)
  s.modGroup g (fun G => { G with suspended := true })

/-- All-stop: every resident wave of the partition freezes in the same cycle. -/
def State.freeze (s : State) (core part : Nat) : State :=
  let img := s.dumpImage core part
  let s := (s.wavesOf core part).foldl (fun s x =>
    s.modWave x.1 x.2.1 (fun wv => if wv.runs then { wv with frozen := true } else wv)) s
  s.modDebug core (fun d => { d with frozen := d.frozen.set part (some img) })

/-- A stop lands before the slot at which split `sp` stands. -/
def State.stopAt (s : State) (g w sp why wpn : Nat) (lanes : Mask) : State :=
  match s.groups[g]?, s.wave? g w with
  | some G, some wv =>
    let mode := (s.core G.core).dbg.mode
    let s := s.modDebug G.core (fun d => d.pushStop (stopRecord mode wv sp why wpn lanes (s.launch G.launch).id))
    let s := s.modWave g w (fun wv => wv.modEntry sp (fun e =>
      { e with stopNext := none, brkSkip := e.brkSkip || why == 1 }))
    if mode then s.freeze G.core wv.part else s.parkWave g w
  | _, _ => s

/-- HALT of a partition: one record, for its lowest resident wave and entry 0 (DEDUCED, assumption 14). -/
def State.haltPart (s : State) (core part : Nat) : State :=
  let ws := (s.wavesOf core part).filter (fun x => x.2.2.runs && !x.2.2.frozen)
  match ws with
  | [] => s
  | (g, _, wv) :: _ =>
    let mode := (s.core core).dbg.mode
    let launch := ((s.groups[g]?).map (fun G => (s.launch G.launch).id)).getD 0#32
    let s := s.modDebug core (fun d => d.pushStop (stopRecord mode wv 0 4 0 (wv.entry 0).mask launch))
    if mode then s.freeze core part else ws.foldl (fun s x => s.parkWave x.1 x.2.1) s

/-- A group with no stopped wave left runs on: its objects are evaluated, and a phase of the tree reaches it (R380). -/
def State.unsuspend (s : State) (g : Nat) : State :=
  match s.groups[g]? with
  | none => s
  | some G =>
    if !G.suspended || G.waves.any (fun wv => wv.state == .stopped) then s
    else
      let s := s.modGroup g (fun G => { G with suspended := false })
      let s := match (s.launch G.launch).tree.bind (fun i => s.trees[i]?) with
        | some t => s.deliverPhase g t.tph
        | none => s
      (List.range G.bars.length).foldl (fun s nb => s.barCheck g nb) s

/-- A stopped or frozen wave runs on: each split is in the state it held. -/
def Wave.resume (wv : Wave) : Wave :=
  let wv := { (wv.mapEntries Split.debugResume) with frozen := false }
  (if wv.state == .stopped then { wv with state := wv.priorState } else wv).counterWake

/-- Resume every stopped wave of a partition. -/
def State.resumePart (s : State) (core part : Nat) : State :=
  let ws := s.wavesOf core part
  let s := ws.foldl (fun s x => s.modWave x.1 x.2.1 Wave.resume) s
  let s := s.modDebug core (fun d => { d with frozen := d.frozen.set part none })
  ws.foldl (fun s x => (s.unsuspend x.1).settle x.1 x.2.1) s

/-! ### What comes before a slot -/

/-- What an issue opportunity finds for a split: an instruction to issue, a wait, or a change that took its place. -/
inductive Before where
  | cur (c : Cur)
  | wait (why : Nat)
  | done

/-- A stop is due before the slot: reason, watchpoint, lanes (R378). -/
def dueStop (own : Bool) (e : Split) (cw : Word) : Option (Nat × Nat × Mask) :=
  if !own then none
  else
    match e.stopNext with
    | some x => some x
    | none => if brkOf cw e.slot && !e.brkSkip then some (1, 0, e.mask) else none

/-- Fetch, pass over a literal slot, stop, or give the instruction of a split that may be examined. -/
def State.before (s : State) (g w sp : Nat) : Before × State :=
  if s.cstoreHolds g w sp then (.wait 31, s)
  else
  match s.fetch g w sp with
  | (.wait, s) => (.wait 25, s)
  | (.taken, s) => (.done, s)
  | (.held ws, s) =>
    match s.groups[g]?, s.wave? g w with
    | some G, some wv =>
      let e := wv.entry sp
      let cw := ws.getD 0 0#32
      if litSlot cw e.slot then
        (.done, s.modWave g w (fun wv => wv.modEntry sp (fun e => e.advance cw)))
      else
        match dueStop (s.core G.core).dbg.own e cw with
        | some (why, n, lanes) => (.done, s.stopAt g w sp why n lanes)
        | none =>
          let next := e.slot + 1
          (.cur { g := g, w := w, sp := sp, pc := e.pc, slot := e.slot, words := ws,
                  lit := if litSlot cw next then some (ws.getD next 0#32) else none, insn := ws.getD e.slot 0#32 }, s)
    | _, _ => (.done, s)

/-- A word that is no instruction (spec/01 R40 R42): `PRIV` for the functions of trap level outside it, else
`ILLEGAL_INSN`. -/
def State.noInstruction (s : State) : State :=
  match s.ctx? with
  | none => s
  | some c =>
    let trapWord := c.cur.insn.extractLsb' 27 5 == 0x1E#5 && decide ((c.cur.insn.extractLsb' 21 6).toNat ≤ 5)
    let cause := if trapWord && !c.wave.trapLevel c.cur.sp then cPriv else cIllegalInsn
    let s := s.modWave c.cur.g c.cur.w (fun wv => wv.reached c.cur.sp)
    s.takeTrap c.cur.g c.cur.w (c.cur.sp == trapIdx) [c.splitRec cause]

/-- BREAK_BIT_STOP: a split stands at a slot with its break bit set, or after a `BREAK`, on a core that a debugger
owns. -/
def execBreakBitStop (g w sp : Nat) (s : State) : Out' :=
  match s.groups[g]?, s.wave? g w with
  | some G, some wv =>
    let e := wv.entry sp
    if !wv.issuable sp || G.state != .resident || s.cstoreHolds g w sp then idle s
    else
      match s.bundle? G.core (s.job G.job).tag e.pc with
      | none => idle s
      | some ws =>
        if badBundle ws || litSlot (ws.getD 0 0#32) e.slot then idle s
        else
          match dueStop (s.core G.core).dbg.own e (ws.getD 0 0#32) with
          | some (1, _, _) => .next (s.stopAt g w sp 1 0 e.mask)
          | some (2, _, _) => .next (s.stopAt g w sp 2 0 e.mask)
          | _ => idle s
  | _, _ => idle s

/-- WATCHPOINT_STOP: the stop of a matched watchpoint lands before the next slot. -/
def execWatchpointStop (g w sp : Nat) (s : State) : Out' :=
  match s.groups[g]?, s.wave? g w with
  | some G, some wv =>
    if !wv.issuable sp || G.state != .resident || !(s.core G.core).dbg.own then idle s
    else
      match (wv.entry sp).stopNext with
      | some (3, i, m) => .next (s.stopAt g w sp 3 i m)
      | _ => idle s
  | _, _ => idle s

/-! ### PC sampling (R376 R377) -/

def lowestOf (a b : Nat) : Nat := if a < b then a else b

/-- The stall code of a split that is not Ready. -/
def Split.stateCode (e : Split) : Nat :=
  match e.st with
  | .counter => 12
  | .barrier => 13
  | .join => 14
  | .sleep => 15
  | .parked => if e.fetchFault then 26 else 16
  | .debugParked => 29
  | .ready | .free => 31

/-- The Ready split that R94 examines first, whether or not the wave is frozen; in Trap the handler split, and where that is not
Ready one of the others, which issue nothing. -/
def Wave.firstReady (wv : Wave) : Option Nat :=
  if wv.state == .trap && wv.trap.entry.st == .ready then some trapIdx
  else
    let n := wv.splits.length
    ((List.range n).map (fun i => (wv.lastSplit + 1 + i) % n)).find? (fun i => (wv.entry i).st == .ready)

/-- The examined split, whether it issued, and its stall code (R377). `seen` tells what the opportunities of the sample cycle
found; a Ready split that none of them has tried is OTHER. -/
def examine (wv : Wave) (cycle : Nat) : Nat × Bool × Nat :=
  let noted := wv.seen.filter (fun x => x.2.2 == cycle)
  match noted, wv.firstReady with
  | some (sp, 0, _), _ => (sp, true, 0)
  | _, some sp =>
    let code := match noted with
      | some (sp', n, _) => if sp' = sp then n else 31
      | none => 31
    let idle := fun (n code : Nat) => lowestOf (if code = 1 then n else code) n
    let code := if wv.state == .trap && sp != trapIdx then idle 28 code else code
    (sp, false, if wv.frozen then idle 29 code else code)
  | _, none =>
    match wv.valid with
    | [] => (0, false, if wv.state == .retiring then 30 else 31)
    | (i, e) :: _ => (i, false, lowestOf e.stateCode (if wv.state == .trap then 28 else 31))

/-- The record of Table 15.2; of a split that issued, the place at which it did. -/
def sampleRecord (wv : Wave) (cycle : Nat) (launch : Word) : List Byte :=
  let (sp, iss, code) := examine wv cycle
  let e := wv.entry sp
  let at_ := if iss then wv.issuedAt else (e.pc, e.slot)
  leBytes 16 (at_.1.toNat / 16 % 2 ^ 48 + 2 ^ 48 * (at_.2 % 4) + 2 ^ 50 * iss.toNat + 2 ^ 51 * (code % 32) +
    2 ^ 56 * (wv.part % 4) + 2 ^ 58 * (wv.wpos % 16) + 2 ^ 62 * (sp == trapIdx).toNat + 2 ^ 64 * (cycle % 2 ^ 32) +
    2 ^ 96 * launch.toNat)

/-- A record enters the ring, or is dropped and counted. -/
def State.putSample (s : State) (core : Nat) (b : List Byte) : State :=
  let d := (s.core core).dbg
  let n := 2 ^ d.slog.toNat
  if (d.shead - d.stail).toNat = n then s.modDebug core (fun d => { d with sdrop := satAdd d.sdrop 1 })
  else
    (s.poke (d.sbase.toNat + 16 * (d.shead.toNat % n)) b).modDebug core (fun d => { d with shead := d.shead + 1#32 })

/-- Sample one partition in a cycle: the next position above the last sampled one that holds a resident wave, wrapping
round. -/
def State.samplePart (s : State) (core cycle part : Nat) : State :=
  let ws := s.wavesOf core part
  let last := ((s.core core).dbg.rot.getD part none).getD 15
  match (ws.filter (fun x => decide (last < x.2.2.wpos)) ++ ws) with
  | [] => s
  | (g, _, wv) :: _ =>
    let launch := ((s.groups[g]?).map (fun G => (s.launch G.launch).id)).getD 0#32
    (s.putSample core (sampleRecord wv cycle launch)).modDebug core (fun d => { d with rot := d.rot.set part (some wv.wpos) })

/-- The sampling interval of a core; 0 while it does not sample. -/
def Debug.interval (d : Debug) : Nat :=
  let n := (d.scfg.extractLsb' 1 5).toNat
  if d.scfg.getLsbD 0 && decide (8 ≤ n) && decide (n ≤ 20) then 2 ^ n else 0

/-- The sample of a core in a cycle, once. -/
def State.sample (s : State) (core cycle : Nat) : State :=
  let d := (s.core core).dbg
  if d.interval = 0 ∨ cycle % d.interval ≠ 0 ∨ d.lastSample = some cycle ∨ !s.corePresent core then s
  else ((List.range 4).foldl (fun s p => s.samplePart core cycle p) s).modDebug core (fun d => { d with lastSample := some cycle })

/-- PC_SAMPLE: the sample of the present cycle, when it is a sample cycle; time takes those that no event has taken
(Machine/Run.lean). -/
def execPcSample (core : Nat) (s : State) : Out' :=
  let d := (s.core core).dbg
  let cycle := (s.core core).ccycle.toNat
  if d.interval != 0 && cycle % d.interval == 0 && d.lastSample != some cycle && s.corePresent core then
    .next (s.sample core cycle)
  else idle s

/-! ### The debug window (R374) -/

/-- The partitions of a mask. -/
def partsOf (m : BitVec 4) : List Nat := (List.range 4).filter (fun p => m.getLsbD p)

/-- No stop is due any more on a core. -/
def State.forgetStops (s : State) (core : Nat) : State :=
  { s with groups := s.groups.map (fun G => if G.core = core ∧ G.state = .resident then
      { G with waves := G.waves.map (fun (wv : Wave) => wv.mapEntries (fun e => { e with stopNext := none })) } else G) }

/-- OWN and MODE; an OWN of 0 resumes every stopped wave of the core. -/
def State.dctlOwn (s : State) (core : Nat) (own mode : Bool) : State :=
  let s := s.modDebug core (fun d => { d with own := own, mode := mode })
  if own then s else (List.range 4).foldl (fun s p => s.resumePart core p) (s.forgetStops core)

def State.dctlHalt (s : State) (core : Nat) (m : BitVec 4) : State :=
  if (s.core core).dbg.own then (partsOf m).foldl (fun s p => s.haltPart core p) s else s

def State.dctlResume (s : State) (core : Nat) (m : BitVec 4) : State :=
  (partsOf m).foldl (fun s p => s.resumePart core p) s

def State.dctlIcinv (s : State) (core : Nat) : State := s.refetch core

/-- Each dump overwrites the previous one; a partition that is not frozen writes none. -/
def State.dctlDump (s : State) (core : Nat) (m : BitVec 4) : State :=
  (partsOf m).foldl (fun s p =>
    match (s.core core).dbg.frozen.getD p none with
    | none => s
    | some img => s.poke (s.core core).dbg.dumpb.toNat img) s

def State.spop (s : State) (core : Nat) (v : Word) : State :=
  if v.getLsbD 0 then s.modDebug core (fun d => { d with stops := d.stops.drop 1 }) else s

def setLo (x : DWord) (w : Word) : DWord := pairOf w (hi32 x)
def setHi (x : DWord) (w : Word) : DWord := pairOf (lo32 x) w

/-- The word at a 4-byte offset of the window. -/
def Debug.read (d : Debug) (off : Nat) : Word :=
  if off = 0x000 then BitVec.ofNat 32 (d.own.toNat + 2 * d.mode.toNat)
  else if off = 0x008 then d.scfg
  else if off = 0x010 then lo32 d.sbase
  else if off = 0x014 then hi32 d.sbase
  else if off = 0x018 then d.slog
  else if off = 0x01C then d.shead
  else if off = 0x020 then d.stail
  else if off = 0x028 then lo32 d.dumpb
  else if off = 0x02C then hi32 d.dumpb
  else if off = 0x030 then d.sdrop
  else if off = 0x034 then d.jrel
  else if off = 0x038 then d.ovarr
  else if off = 0x03C then d.slost
  else if off = 0x040 then BitVec.ofNat 32 d.stops.length
  else if 0x100 ≤ off ∧ off < 0x120 then (d.stops.headD []).getD ((off - 0x100) / 4) 0#32
  else if 0x400 ≤ off ∧ off < 0x500 then
    match d.watch[(off - 0x400) / 32]? with
    | none => 0#32
    | some w =>
      match (off - 0x400) % 32 / 4 with
      | 0 => lo32 w.lo
      | 1 => hi32 w.lo
      | 2 => lo32 w.hi
      | 3 => hi32 w.hi
      | 4 => w.ctl
      | _ => 0#32
  else 0#32

/-- A write of watchpoint registers: word k of watchpoint i. -/
def Watch.write (w : Watch) (k : Nat) (v : Word) : Watch :=
  match k with
  | 0 => { w with lo := setLo w.lo v }
  | 1 => { w with lo := setHi w.lo v }
  | 2 => { w with hi := setLo w.hi v }
  | 3 => { w with hi := setHi w.hi v }
  | 4 => { w with ctl := v &&& 0xFFFFF#32 }
  | _ => w

/-- The fields that only hold what is written. -/
def Debug.write (d : Debug) (off : Nat) (v : Word) : Debug :=
  if off = 0x008 then { d with scfg := v &&& 0x3F#32 }
  else if off = 0x010 then { d with sbase := setLo d.sbase v }
  else if off = 0x014 then { d with sbase := setHi d.sbase v }
  else if off = 0x018 then { d with slog := v &&& 0x1F#32 }
  else if off = 0x020 then { d with stail := v }
  else if off = 0x028 then { d with dumpb := setLo d.dumpb v }
  else if off = 0x02C then { d with dumpb := setHi d.dumpb v }
  else if off = 0x030 then { d with sdrop := v }
  else if off = 0x034 then { d with jrel := v }
  else if off = 0x038 then { d with ovarr := v }
  else if off = 0x03C then { d with slost := v }
  else if 0x400 ≤ off ∧ off < 0x500 then
    { d with watch := d.watch.modify ((off - 0x400) / 32) (fun w => w.write ((off - 0x400) % 32 / 4) v) }
  else d

/-- A write of a word of the window. A write of DCTL that asks for several things does them in this order (DESIGN CHOICE, assumption
14). -/
def State.debugWrite (s : State) (core off : Nat) (v : Word) : State :=
  if off = 0x000 then
    let s := s.dctlOwn core (v.getLsbD 0) (v.getLsbD 1)
    let s := s.dctlHalt core (v.extractLsb' 2 4)
    let s := s.dctlResume core (v.extractLsb' 6 4)
    let s := if v.getLsbD 10 then s.dctlIcinv core else s
    s.dctlDump core (v.extractLsb' 11 4)
  else if off = 0x044 then s.spop core v
  else s.modDebug core (fun d => d.write off v)

def execDctlOwn (core : Nat) (own allStop : Bool) (s : State) : Out' := .next (s.dctlOwn core own allStop)
def execDctlHalt (core : Nat) (m : BitVec 4) (s : State) : Out' := .next (s.dctlHalt core m)
def execDctlResume (core : Nat) (m : BitVec 4) (s : State) : Out' := .next (s.dctlResume core m)
def execDctlIcinv (core : Nat) (s : State) : Out' := .next (s.dctlIcinv core)
def execDctlDump (core : Nat) (m : BitVec 4) (s : State) : Out' := .next (s.dctlDump core m)
def execSpop (core : Nat) (v : Word) (s : State) : Out' := .next (s.spop core v)
def execDebugRegWrite (core off : Nat) (v : Word) (s : State) : Out' := .next (s.debugWrite core off v)

end Sys2Proof.Machine
end

