-- ==== Sys2Proof/Machine/Queue.lean ====
section
/-! DEFINITION. Queue contexts, doorbells, ring entries and completions, and the host-assisted requests (spec/13 R331 to
R335, R362, R363). -/

namespace Sys2Proof.Machine

/-- The base die, for which firmware translates (spec/00 R2). -/
def baseDie : Nat := 31

def State.up (s : State) : Bool := s.boot == .running

/-! ### Queue contexts (Table 13.1)

They lie in memory from QTAB, which is taken as a physical address (DEDUCED, assumption 15). -/

def State.qaddr (s : State) (x : Queue) (n : Nat) : Nat := (s.job x.job).qtab + 64 * x.idx + 4 * n
def State.qw (s : State) (x : Queue) (n : Nat) : Word := s.peek32 (s.qaddr x n)
def State.qset (s : State) (x : Queue) (n : Nat) (v : Word) : State := s.poke32 (s.qaddr x n) v

def State.qEnabled (s : State) (x : Queue) : Bool := (s.qw x 2).getLsbD 7
def State.qRlog (s : State) (x : Queue) : Nat := ((s.qw x 2).extractLsb' 0 5).toNat
def State.qDevq (s : State) (x : Queue) : Bool := (s.qw x 2).getLsbD 5
def State.qSvc (s : State) (x : Queue) : Bool := (s.qw x 2).getLsbD 6
def State.qDisable (s : State) (x : Queue) : State := s.qset x 2 (s.qw x 2 &&& ~~~0x80#32)
def State.qClog (s : State) (x : Queue) : Nat := ((s.qw x 9).extractLsb' 0 5).toNat

/-- The completion ring has no room (R335). -/
def State.qFull (s : State) (x : Queue) : Bool := (s.qw x 11 - s.qw x 10).toNat == 2 ^ s.qClog x

/-! ### Doorbells (R332) -/

/-- DOORBELL_TAIL: a tail beyond the ring disables the queue. -/
def execDoorbellTail (q : Nat) (tail : Word) (s : State) : Out' :=
  match s.queue? q with
  | none => idle s
  | some x =>
    if !s.up || !s.qEnabled x || s.qDevq x then idle s
    else if 2 ^ s.qRlog x < (tail - s.qw x 3).toNat then
      .next ((s.qDisable x).addComp q 0 13 0#32 (s.qw x 3) 0#32 0#32 0#32)
    else .next (s.qset x 4 tail)

def execDoorbellChead (q : Nat) (chead : Word) (s : State) : Out' :=
  match s.queue? q with
  | none => idle s
  | some x => if s.up then .next (s.qset x 10 chead) else idle s

/-! ### Ring entries (R333 R334) -/

/-- Words that firmware reads at a virtual address of a job: GDDR7, resident, placed, not poisoned; nothing is placed. -/
def State.fwRead (s : State) (job : Nat) (va : DWord) (n : Nat) : Option (List Word × State) :=
  match s.xaccess { die := baseDie, job := job, wr := false, fetch := false, core := none } va (4 * n) 4 with
  | (.loc (.phys pa), s') =>
    if marked s'.memP pa (4 * n) then none else some (s'.peekWords pa n, s'.drain pa (4 * n))
  | _ => none

/-- The page at an address is of kind GDDR7. -/
def State.gddrPage (s : State) (job : Nat) (va : DWord) : Bool :=
  match s.walk va.toNat 3 (s.job job).root with
  | .leaf e _ _ => eKind e == 0
  | .fault _ _ _ => false

/-- The entry at HEAD: its index, and its sixty-four words where it can be read. -/
def State.headEntry (s : State) (x : Queue) : Option (List Word) × State :=
  let base := pairOf (s.qw x 0) (s.qw x 1)
  let va := base + BitVec.ofNat 64 (256 * ((s.qw x 3).toNat % 2 ^ s.qRlog x))
  if !s.gddrPage x.job va then (none, s)
  else
    match s.fwRead x.job va 64 with
    | none => (none, s)
    | some (ws, s) => (some ws, s)

/-- Every word that Table 13.2 does not name is 0. -/
def entryClean (kind : Nat) (ws : List Word) : Bool :=
  let zero := fun (k : Nat) => (ws.drop k).all (fun w => w == 0#32)
  let w := fun (n : Nat) => ws.getD n 0#32
  let w0 := (w 0).extractLsb' 9 23 == 0#23
  match kind with
  | 1 => true
  | 2 | 5 => w0 && w 1 == 0#32 && zero 4
  | 3 => w0 && w 1 == 0#32 && (w 2).extractLsb' 0 2 == 0#2 && (w 5).extractLsb' 1 31 == 0#31 && zero 7
  | 4 => w0 && (w 1).extractLsb' 2 30 == 0#30 && (w 1).extractLsb' 0 2 != 0#2 && zero 3
  | 6 => w0 && w 1 == 0#32 && zero 6
  | 7 => w0 && (w 2).extractLsb' 3 29 == 0#29 && zero 3
  | _ => false

/-- The entry that the queue may take now: enabled, not empty, no WAIT in progress, room for its completion; AFTER
waits for every earlier entry. -/
def State.mayTake (s : State) (x : Queue) : Bool :=
  s.up && s.qEnabled x && s.qw x 3 != s.qw x 4 && !s.qFull x && !(x.taken.any (fun t => t.kind == 3))

/-- Take the entry at HEAD. -/
def State.advanceHead (s : State) (x : Queue) : State := s.qset x 3 (s.qw x 3 + 1#32)

/-- w1 of the completion of an entry: its LAUNCH, graph or request id (R335). -/
def entryId (kind : Nat) (ws : List Word) : Word :=
  match kind with
  | 1 | 7 => ws.getD 1 0#32
  | 4 => ws.getD 2 0#32
  | _ => 0#32

/-- Start an entry of one kind: it is taken and its effect `start` runs on the queue, the index and the words; an entry
that cannot be read or is malformed completes at once with BAD_RECORD, whichever of these steps meets it. -/
def State.takeEntry (s : State) (q kind : Nat) (start : Queue → Nat → List Word → State → State) : Out' :=
  match s.queue? q with
  | none => idle s
  | some x =>
    if !s.mayTake x then idle s
    else
      let index := (s.qw x 3).toNat
      match s.headEntry x with
      | (none, s) =>
        .next (((s.advanceHead x).modQueue q (fun x => { x with taken := x.taken ++
          [{ index := index, kind := 0, after := false, words := [], st := .started, ref := 0, deadline := 0 }] })).completeEntry
            q index 5 0#32 0#32 0#32 0#32)
      | (some ws, s') =>
        let w0 := ws.getD 0 0#32
        let k := (w0.extractLsb' 0 8).toNat
        let bad := !entryClean k ws
        if !bad && k != kind then idle s
        else if w0.getLsbD 8 && !x.taken.isEmpty then idle s
        else
          let s := (s'.advanceHead x).modQueue q (fun x => { x with taken := x.taken ++
            [{ index := index, kind := k, after := w0.getLsbD 8, words := ws, st := .started, ref := 0, deadline := 0 }] })
          if bad then .next (s.completeEntry q index 5 (entryId k ws) 0#32 0#32 0#32)
          else .next (start x index ws s)

/-- Change an entry that has been taken. -/
def State.modTaken (s : State) (q index : Nat) (f : Taken → Taken) : State :=
  s.modQueue q (fun x => { x with taken := x.taken.map (fun t => if t.index == index then f t else t) })

/-! ### Completions (R335) -/

/-- COMPLETION_WRITE: the oldest completion of a queue goes to the host's ring, as a release at system scope. -/
def execCompletionWrite (q pick : Nat) (s : State) : Out' :=
  match s.queue? q with
  | none => idle s
  | some x =>
    match x.comps with
    | [] => idle s
    | c :: rest =>
      if pick != 0 || !s.up || s.qFull x then idle s
      else
        let n := 2 ^ s.qClog x
        let tail := (s.qw x 11).toNat
        let ph := (tail / n + 1) % 2
        let words := match c.words with
          | [] => []
          | w0 :: t => (w0 ||| BitVec.ofNat 32 (ph * 2 ^ 16)) :: t
        let bytes := words.flatMap (fun w => leBytes 4 w.toNat)
        let qpn := ((s.qw x 8).extractLsb' 0 12).toNat
        let port := ((s.qw x 8).extractLsb' 12 1).toNat
        let addr := (pairOf (s.qw x 5) (s.qw x 6)).toNat + 32 * (tail % n)
        let rkey := s.qw x 7
        let next := s.qw x 11 + 1#32
        let s := s.modQueue q (fun x => { x with comps := rest })
        let s := (s.qset x 11 next).hostPut (peerOf qpn port) addr bytes
        .next (s.emit (.write qpn port rkey addr bytes))

/-! ### Host-assisted requests (R362 R363) -/

/-- The job's service queue. -/
def State.svcQueue (s : State) (job : Nat) : Option Queue :=
  s.queues.find? (fun x => x.job == job && s.qSvc x && s.qEnabled x)

/-- The device service queue, when DSVCV names one. -/
def State.devSvcQueue (s : State) : Option Queue :=
  let w := s.cfgWord 2
  if w.getLsbD 11 then s.queue? (w.extractLsb' 0 11).toNat else none

/-- A mode bit whose requests go to the device service queue; with DSVCV = 0 the device serves them itself. -/
def State.deviceMode (s : State) (b : Nat) : Bool := s.mode b && (s.cfgWord 2).getLsbD 11

/-- Rows of a partition's register file that a wave of the launch takes (spec/03 R75). -/
def Launch.rows (L : Launch) : Nat := L.lregs * L.width / 16 + (L.sregs + 2 + 15) / 16

/-- State bytes of a group (DEDUCED, assumption 27): registers, CLM, ACM rows, scratch. -/
def Group.stateBytes (G : Group) (L : Launch) (ways : Nat) : Nat :=
  64 * L.rows * G.waves.length + L.localBytes + 512 * L.acm + 2 * 2 ^ 20 * ways

/-- Blocks of a job's save pool in use: bodies of outstanding requests, save areas. -/
def State.poolBlocks (s : State) (job : Nat) : List (Nat × Nat) :=
  (s.requests.filter (fun r => r.job == job && (r.typ == 0 || r.typ == 3) && decide (0 < r.len))).map (fun r => (r.off, r.len)) ++
    (s.groups.filter (fun G => G.job == job && G.state == .saved && G.save != 0)).map (fun G =>
      (G.save - (s.job job).saveb, G.stateBytes (s.launch G.launch) G.savedWays))

/-- The lowest free multiple of 64 bytes for `n` bytes of the pool (DESIGN CHOICE, assumption 16). -/
def State.poolTake (s : State) (job n : Nat) : Option Nat :=
  let used := s.poolBlocks job
  let cands := 0 :: used.map (fun b => (b.1 + b.2 + 63) / 64 * 64)
  lowest (cands.filter (fun o => decide (o + n ≤ (s.job job).savel) &&
    used.all (fun b => decide (o + n ≤ b.1) || decide (b.1 + b.2 ≤ o))))

/-- Raise a request: an id, its body in memory, its completion of status FAULT_MSG. -/
def State.postRequest (s : State) (q typ job : Nat) (body : ReqBody) (base off nrec : Nat) (bytes : List Byte)
    (w6 w7 : Word) : State :=
  let id := s.nextReq
  let s := if bytes.isEmpty then s else s.poke (base + off) bytes
  let s : State := { s with
    nextReq := id + 1
    requests := s.requests ++ [{ id := id, typ := typ, job := job, body := body, off := off, len := bytes.length, hw := false, recs := [] }] }
  s.addComp q 0 14 (BitVec.ofNat 32 id) (BitVec.ofNat 32 (typ + 2 ^ 16 * (nrec % 2 ^ 16))) (BitVec.ofNat 32 (off / 64)) w6 w7

/-- A request of type 0 or 3 to the job's service queue; none where there is no queue or no room. -/
def State.jobRequest (s : State) (typ job : Nat) (body : ReqBody) (nrec : Nat) (bytes : List Byte) (w6 w7 : Word) :
    Option State :=
  match s.svcQueue job with
  | none => none
  | some q =>
    match s.poolTake job bytes.length with
    | none => none
    | some off => some (s.postRequest q.num typ job body (s.job job).saveb off nrec bytes w6 w7)

/-- A request of type 1 or 2 in the device service area: bodies at successive offsets, wrapping. -/
def State.deviceRequest (s : State) (typ : Nat) (job : Nat) (body : ReqBody) (bytes : List Byte) : State :=
  match s.devSvcQueue with
  | none => s
  | some q =>
    let len := (s.cfgWord 22).toNat
    let off := if s.svcOff + bytes.length ≤ len then s.svcOff else 0
    let s := s.postRequest q.num typ job body (pairOf (s.cfgWord 6) (s.cfgWord 7)).toNat off 0 bytes 0#32 0#32
    { s with svcOff := off + (bytes.length + 63) / 64 * 64 }

def State.request? (s : State) (id : Nat) : Option Request := s.requests.find? (fun r => r.id == id)
def State.dropRequest (s : State) (id : Nat) : State := { s with requests := s.requests.filter (fun r => r.id != id) }

end Sys2Proof.Machine
end

