-- ==== Sys2Proof/Machine/Place.lean ====
section
/-! DEFINITION. Slots, resources, placement of groups, their creation, and the retirement of waves (spec/03 R75 to R80,
spec/05 R144 R145 R155, spec/13 R342 to R346, spec/14 R370 R371). -/

namespace Sys2Proof.Machine

/-! ### Resources of a core -/

/-- Groups that a core holds. -/
def State.groupsOn (s : State) (core : Nat) : List Group :=
  s.groups.filter (fun G => G.state == .resident && G.core == core)

/-- Rows and waves in use in a partition. -/
def State.partUse (s : State) (core part : Nat) : Nat × Nat :=
  (s.groupsOn core).foldl (fun u G =>
    let n := (G.waves.filter (fun wv => wv.part == part && wv.state != .retired)).length
    (u.1 + n * (s.launch G.launch).rows, u.2 + n)) (0, 0)

/-- Waves of a group of `n` waves that go to partition `p` when wave 0 goes to `P` (R76). -/
def wavesAt (n P p : Nat) : Nat := ((List.range n).filter (fun i => (P + i) % 4 == p)).length

/-- Partitions with the rows and waves in use can hold the waves of a group. -/
def partsHold (L : Launch) (P : Nat) (used : List (Nat × Nat)) : Bool :=
  (List.range 4).all (fun p =>
    let n := wavesAt L.waves P p
    let u := used.getD p (0, 0)
    n == 0 || (decide (u.1 + n * L.rows ≤ 2048) && decide (u.2 + n ≤ 16)))

/-- [a, a + n) meets no range in use and ends by `top`. -/
def rangeFree (used : List (Nat × Nat)) (a n top : Nat) : Bool :=
  decide (a + n ≤ top) && (n == 0 || used.all (fun r => r.2 == 0 || decide (a + n ≤ r.1) || decide (r.1 + r.2 ≤ a)))

/-- Where firmware puts a group. -/
structure Place where
  core : Nat
  slot : Nat
  part : Nat
  clmb : Nat
  acmb : Nat
  nbb : Nat
deriving DecidableEq, Repr

/-- What dispatch checks of a bind record (R342): everything it names is free on the core. -/
def State.freeAt (s : State) (L : Launch) (p : Place) : Bool :=
  let gs := s.groupsOn p.core
  s.corePresent p.core && decide (p.slot < 16) && decide (p.part < 4) && !(gs.any (fun G => G.slot == p.slot)) &&
    partsHold L p.part ((List.range 4).map (s.partUse p.core)) &&
    rangeFree (gs.map (fun G => (G.clmb, (s.launch G.launch).localBytes / 1024))) p.clmb (L.localBytes / 1024) 512 &&
    rangeFree (gs.map (fun G => (G.acmb, (s.launch G.launch).acm))) p.acmb L.acm 512 &&
    rangeFree (gs.map (fun G => (G.nbb, (s.launch G.launch).bars))) p.nbb L.bars 64 &&
    (L.acm == 0 || !(gs.any (fun G => decide (0 < (s.launch G.launch).acm))))

/-! ### The refresh-bandwidth check (spec/14 R371) -/

/-- Rise thresholds in thousandths of a degree: the class whose threshold a temperature exceeds. Temperatures are in
units of 1/256 thousandth. -/
def classAbove (t : Int) : Nat :=
  if 105000 * 256 < t then 3 else if 95000 * 256 < t then 2 else if 85000 * 256 < t then 1 else 0

/-- Vault time of a class, µs per ms. -/
def vaultTime (k : Nat) : Nat := 30 * 2 ^ k

/-- Commitments on a core in 1/256 µs per ms, saved groups bound to it included. -/
def State.committed (s : State) (core : Nat) : Nat :=
  ((s.groups.filter (fun G => G.core == core && (G.state == .resident ||
    (G.state == .saved && decide (0 < (s.launch G.launch).colw))))).map (fun G => (s.launch G.launch).refb)).foldl (· + ·) 0

/-- The check; geometry cores have no vaults above them (DEDUCED, assumption 17). -/
def State.refreshOk (s : State) (core bc : Nat) : Bool :=
  !shading core ||
    (let c := s.core core
     let k := max c.rclass (classAbove (c.temp * 256 + 50 * (bc : Int)))
     decide (vaultTime k * 256 + s.committed core + bc ≤ 1000 * 256))

/-- The core is one on which the launch may run: its kind, its column set, not about to be retired (R337 R343, spec/16
R391). -/
def State.coreFor (s : State) (L : Launch) (core : Nat) : Bool :=
  s.corePresent core && (L.geom == !shading core) && !(s.core core).retiring &&
    (L.colw == 0 || L.csetNums.getD core 0xFFFFFFFF != 0xFFFFFFFF)

/-- All conditions of R343. -/
def State.admits (s : State) (L : Launch) (p : Place) : Bool :=
  s.coreFor L p.core && s.freeAt L p && s.refreshOk p.core L.refb

/-- The lowest base at which `n` units are free; a free range can always start at 0 or at the end of a used one. -/
def lowestBase (used : List (Nat × Nat)) (n top : Nat) : Option Nat :=
  lowest ((0 :: used.map (fun r => r.1 + r.2)).filter (fun a => rangeFree used a n top))

/-- The rows of the fullest partition once a group starts at partition P. -/
def fullest (L : Launch) (P : Nat) (used : List (Nat × Nat)) : Nat :=
  (List.range 4).foldl (fun m p => max m ((used.getD p (0, 0)).1 + wavesAt L.waves P p * L.rows)) 0

/-- The partition for wave 0 that leaves the fullest one least full (DESIGN CHOICE, assumption 16). -/
def bestPart (L : Launch) (used : List (Nat × Nat)) : Option Nat :=
  let ok := (List.range 4).filter (fun P => partsHold L P used)
  ok.find? (fun P => ok.all (fun Q => decide (fullest L P used ≤ fullest L Q used)))

/-- Rows and waves in use once a group starts at partition P. -/
def usedFrom (L : Launch) (P : Nat) (used : List (Nat × Nat)) : List (Nat × Nat) :=
  (List.range 4).map (fun p =>
    let u := used.getD p (0, 0)
    (u.1 + wavesAt L.waves P p * L.rows, u.2 + wavesAt L.waves P p))

/-- Partitions, from `lo` on and ascending, for the wave 0 of up to `n` groups of a launch: as many groups as fit together. -/
def fillParts (L : Launch) : Nat → Nat → List (Nat × Nat) → List Nat
  | 0, _, _ => []
  | n + 1, lo, used =>
    ((List.range 4).filter (fun P => decide (lo ≤ P) && partsHold L P used)).foldl (fun best P =>
      if best.length = n + 1 then best
      else
        let l := P :: fillParts L n P (usedFrom L P used)
        if best.length < l.length then l else best) []

/-- The partition for the wave 0 of the next of `n` groups that are placed together. -/
def nextPart (L : Launch) (n : Nat) (used : List (Nat × Nat)) : Option Nat :=
  if n ≤ 1 then bestPart L used else (fillParts L (min n 16) 0 used).head?

/-- A placement on a core of the next of `n` groups that are placed together, if there is one. -/
def State.placeOn (s : State) (L : Launch) (core n : Nat) : Option Place :=
  let gs := s.groupsOn core
  match (List.range 16).find? (fun i => !(gs.any (fun G => G.slot == i))),
    nextPart L n ((List.range 4).map (s.partUse core)),
    lowestBase (gs.map (fun G => (G.clmb, (s.launch G.launch).localBytes / 1024))) (L.localBytes / 1024) 512,
    lowestBase (gs.map (fun G => (G.acmb, (s.launch G.launch).acm))) L.acm 512,
    lowestBase (gs.map (fun G => (G.nbb, (s.launch G.launch).bars))) L.bars 64 with
  | some slot, some P, some clmb, some acmb, some nbb =>
    let p := { core := core, slot := slot, part := P, clmb := clmb, acmb := acmb, nbb := nbb : Place }
    if s.admits L p then some p else none
  | _, _, _, _, _ => none

/-- A placement on the device of the next of `n` groups that are placed together. -/
def State.findPlace (s : State) (L : Launch) (n : Nat) : Option Place :=
  (List.range 112).findSome? (fun c => if s.coreFor L c then s.placeOn L c n else none)

/-- `n` groups of a launch fit an empty core (R337, checks 5 and 7). The waves that four do not divide can be turned so
that no partition holds more than its share, rounded up. The refresh-bandwidth check is taken at class 0, which an empty core
falls to (DEDUCED, assumption 17). -/
def Launch.fits (L : Launch) (n : Nat) : Bool :=
  decide (n ≤ 16) && decide (n * L.localBytes ≤ 512 * 1024) && (L.acm == 0 || decide (n ≤ 1)) && decide (n * L.bars ≤ 64) &&
    decide (n * (L.waves / 4) + (n * (L.waves % 4) + 3) / 4 ≤ min 16 (2048 / L.rows)) &&
    (L.geom || decide (vaultTime 0 * 256 + n * L.refb ≤ 1000 * 256))

/-- Groups of a launch that an empty core holds. -/
def Launch.capacity (L : Launch) : Nat := ((List.range 17).filter L.fits).length - 1

/-! ### Persistent items (R344 R346) -/

/-- The group that holds iteration i. -/
def itemGroup (I G i : Nat) : Nat := ((i + 1) * G + I - 1) / I - 1

/-- Groups of [a, b] whose range is not empty. -/
def holders (I G a b : Nat) : Nat :=
  ((List.range (b + 1 - a)).filter (fun k => (a + k) * I / G != (a + k + 1) * I / G)).length

/-- The items of a group: tile, k_begin, k_end, flags word. -/
def itemsOf (L : Launch) (g : Nat) : List (Nat × Nat × Nat × Word) :=
  let I := L.ptiles * L.pkiter
  if I = 0 then []
  else
    let lo := g * I / L.grid
    let hi := (g + 1) * I / L.grid
    if lo = hi then []
    else (List.range ((hi - 1) / L.pkiter - lo / L.pkiter + 1)).map (fun j =>
      let t := lo / L.pkiter + j
      let first := t * L.pkiter
      let kb := max lo first - first
      let ke := min hi (first + L.pkiter) - first
      let n := holders I L.grid (itemGroup I L.grid first) (itemGroup I L.grid (first + L.pkiter - 1))
      let flags := if n ≤ 1 then 1 else 3 + (if kb = 0 then 4 else 0) + 2 ^ 8 * ((n - 1) % 2 ^ 16)
      (t, kb, ke, BitVec.ofNat 32 flags))

/-! ### Creating a group (R77, R145, R204, R254) -/

/-- A wave at creation. -/
def newWave (L : Launch) (i part wpos age : Nat) : Wave :=
  { id := i, width := L.width, part := part, wpos := wpos, state := .resident, priorState := .resident
    v := List.replicate L.lregs (List.replicate L.width 0#32), vp := List.replicate L.lregs 0#64
    s := ((List.replicate 128 0#32).set 2 (lo32 L.args)).set 3 (hi32 L.args), sp := List.replicate 128 false
    k := List.replicate 8 0#64, c := List.replicate 8 false
    sr := { sticky := 0#32, fpmode := 0#32, last := 0#64, seed := 0x9E3779B9#32, strict := false,
            bd := List.replicate 8 0#16, hold := [] }
    rng := rngInit 0x9E3779B9#32, live := Mask.full L.width
    splits := { (Split.at Split.empty L.code) with mask := Mask.full L.width, st := .ready } ::
      List.replicate (L.width - 1) Split.empty
    trap := { entry := Split.empty, tpc := 0#64, tslot := 0, tsplit := 0, tscr0 := 0#32, tscr1 := 0#32, recs := [],
              held := [], wrote := false }
    counters := List.replicate 8 0, pend := [], nextPend := 0, prio := 0, age := age, passed := 0, lastSplit := L.width - 1
    rays := 0#64, frozen := false, seen := none, svcDue := false }

/-- The lowest free positions of partitions for the waves of a group (DESIGN CHOICE, assumption 16). -/
def State.positions (s : State) (core n P : Nat) : List (Nat × Nat) :=
  (List.range n).foldl (fun acc i =>
    let part := (P + i) % 4
    let used := ((s.wavesOf core part).map (fun x => x.2.2.wpos)) ++ (acc.filter (fun a => a.1 == part)).map Prod.snd
    acc ++ [(part, ((List.range 16).find? (fun w => !used.contains w)).getD 0)]) []

/-- Network header of a launch (spec/10 R265): NCOUNT, INW and OUTW, as dispatch reads it at creation; none where it
cannot be read or breaks a rule of its table. -/
def State.netHeader (s : State) (job : Nat) (ntab : DWord) : Option (Nat × Nat × Nat) × State :=
  if ntab = 0#64 ∨ ntab.toNat % 128 ≠ 0 then (none, s)
  else
    match s.fwRead job ntab 32 with
    | none => (none, s)
    | some (ws, s) =>
      let w1 := ws.getD 1 0#32
      let inw := (w1.extractLsb' 0 6).toNat
      let outw := (w1.extractLsb' 8 6).toNat
      let ok := w1 &&& 0xFFFFC0C0#32 == 0#32 && (ws.drop 2).all (fun w => w == 0#32) && decide (1 ≤ inw) && decide (inw ≤ 32) &&
        decide (1 ≤ outw) && decide (outw ≤ 32)
      (if ok then some ((ws.getD 0 0#32).toNat, inw, outw) else none, s)

/-- The bind record of a placement. -/
def bindWords (p : Place) (tag lrec gidx : Nat) (res : Bool) (save : Nat) : List Word :=
  [BitVec.ofNat 32 (1 + 2 * p.part + 8 * res.toNat + 2 ^ 8 * tag), BitVec.ofNat 32 lrec, BitVec.ofNat 32 (lrec / 2 ^ 32),
   BitVec.ofNat 32 gidx, BitVec.ofNat 32 (gidx / 2 ^ 32), BitVec.ofNat 32 (p.clmb + 2 ^ 9 * p.acmb + 2 ^ 18 * p.nbb),
   BitVec.ofNat 32 save, BitVec.ofNat 32 (save / 2 ^ 32)]

/-- Dispatch takes the core's instruction caches for a launch: at its first group there they are invalidated, and fetch reads
memory as it then stands (spec/15 R375). -/
def Core.forLaunch (c : Core) (l : Nat) (now : CodeView) : Core :=
  if c.lastLaunch = some l then c else { c with icache := [], lastLaunch := some l, code := some now, late := [] }

/-- The group leaves the list of groups that wait. -/
def Launch.taken (L : Launch) (gidx : Nat) : Launch :=
  if gidx < L.next then { L with again := L.again.erase gidx }
  else { L with again := L.again ++ (List.range (gidx - L.next)).map (fun i => L.next + i), next := gidx + 1 }

/-- Create a group: its CLM and its ACM rows read zero, its objects are Uninit, its waves stand at CODE, and they read no older
copy of a line (assumption 9). -/
def State.createGroup (s : State) (l gidx : Nat) (p : Place) : State :=
  let L := s.launch l
  let J := s.job L.job
  let pos := s.positions p.core L.waves p.part
  let (net, s) := s.netHeader L.job L.ntab
  let G : Group :=
    { job := L.job, launch := l, gidx := gidx, core := p.core, slot := p.slot, part := p.part, clmb := p.clmb, acmb := p.acmb,
      nbb := p.nbb, state := .resident,
      waves := pos.zipIdx.map (fun x => newWave L x.2 x.1.1 x.1.2 s.tick),
      bars := List.replicate L.bars Barrier.empty, barRel := [], retired := 0, progress := 0, stopping := none, ending := none,
      placed := s.now, first := none, window := 256, net := net,
      items := if L.pers then itemsOf L gidx else [], shared := [], faultRec := none, suspended := false,
      savedClm := [], savedClmP := [], savedScr := [], savedScrP := [], savedWays := 0, savedCmds := [], savedQstat := [], savedPlanes := (Plane.empty, Plane.empty),
      savedAcm := [], savedReqs := [], savedRays := [], save := 0 }
  let now := s.codeNow
  let s := (s.acquired p.core).modCore p.core (fun c => { (c.forLaunch l now) with
    binds := c.binds.set p.slot (bindWords p J.tag L.lrec gidx false 0)
    clm := cellClear c.clm (p.clmb * 1024) (p.clmb * 1024 + L.localBytes)
    clmP := c.clmP.filter (fun w => !(decide (p.clmb * 1024 ≤ w * 8) && decide (w * 8 < p.clmb * 1024 + L.localBytes)))
    acm := c.acm.filter (fun r => !(decide (p.acmb ≤ r.row) && decide (r.row < p.acmb + L.acm))) })
  { (s.modLaunch l (fun L => L.taken gidx)) with groups := s.groups ++ [G] }

/-! ### Restoring a group (R354 R355) -/

/-- A command takes its place in a queue again, in issue order; one that has started keeps its place. -/
def insertCmd (x : Cmd) : List Cmd → List Cmd
  | [] => [x]
  | y :: t => if x.ord < y.ord && !y.started then x :: y :: t else y :: insertCmd x t

/-- The saved commands of a group, by queue. Those that return to their core keep their issue order among its commands (spec/08
R236); on another core they follow those that it has. -/
def Group.returning (G : Group) (core next : Nat) : List (Nat × Cmd) :=
  if G.core = core then G.savedCmds
  else G.savedCmds.map (fun x =>
    (x.1, { x.2 with ord := next + (G.savedCmds.filter (fun y => decide (y.2.ord < x.2.ord))).length }))

/-- Requests of which the gather unit of a core still holds the place: those in its pool, and those of a tile that it fetches,
which a failed read puts back (spec/10 R271 R275; DEDUCED, assumption 42). -/
def Core.pooled (c : Core) : Nat :=
  c.pool.length + ((c.tile.map (fun t => if t.stage == .fetching then t.rows.length else 0)).getD 0)

/-- A request that enters the pool again: with age 0, and with the window of its group (spec/10 R275 to R277). -/
def NReq.again (r : NReq) (now window : Nat) : NReq :=
  { r with parked := false, eligible := false, request := none, entry := now, window := window }

/-- The bytes that copies of a group have landed while it was saved are counted, in the phase present now (spec/07 R214). -/
def State.countOwed (g : Nat) (l : List (Nat × Nat × Nat × Nat)) (s : State) : State :=
  l.foldl (fun s x =>
    match s.countBytes g x.2.2.1 x.2.2.2, s.groups[g]? with
    | some s, _ => s
    | none, some G => s.modCore G.core (fun c => { c with qstat := reportIn c.qstat g x.1 1 x.2.1 })
    | none, none => s) s

/-- A saved group returns to a core: what it saved comes back, its wave ages start again, SLEEP has its remaining time. -/
def State.restoreGroup (s : State) (g : Nat) (p : Place) : State :=
  match s.groups[g]? with
  | none => s
  | some G =>
    let L := s.launch G.launch
    let pos := s.positions p.core G.waves.length p.part
    let waves := G.waves.zipIdx.map (fun x =>
      let wv := x.1
      let at_ := pos.getD x.2 (0, 0)
      let wake := fun (e : Split) => { e with wake := e.wake + s.now }
      if wv.state == .retired then wv
      else { (wv.mapEntries wake) with state := wv.priorState, part := at_.1, wpos := at_.2, age := s.tick, passed := 0, seen := none })
    let next := (s.core p.core).nextOrd
    let cmds := G.returning p.core next
    let now := s.codeNow
    let s := (s.acquired p.core).modCore p.core (fun c => { (c.forLaunch G.launch now) with
      binds := c.binds.set p.slot (bindWords p (s.job G.job).tag L.lrec G.gidx true G.save)
      clm := cellRestore (cellClear c.clm (p.clmb * 1024) (p.clmb * 1024 + L.localBytes)) G.savedClm (p.clmb * 1024)
      clmP := c.clmP.filter (fun w => !(decide (p.clmb * 128 ≤ w) && decide (w < p.clmb * 128 + L.localBytes / 8))) ++
        G.savedClmP.map (fun w => w + p.clmb * 128)
      scr := if G.savedWays = 0 then c.scr else G.savedScr
      scrP := if G.savedWays = 0 then c.scrP else G.savedScrP
      ways := if G.savedWays = 0 then c.ways else G.savedWays
      holder := if G.savedWays = 0 then c.holder else some g
      queues := c.queues.zipIdx.map (fun q => (cmds.filter (fun x => x.1 == q.2)).foldl (fun l x => insertCmd x.2 l) q.1)
      nextOrd := next + cmds.length
      qstat := c.qstat ++ G.savedQstat
      active := if L.acm = 0 then c.active else G.savedPlanes.1
      shadow := if L.acm = 0 then c.shadow else G.savedPlanes.2
      acm := c.acm.filter (fun r => !(decide (p.acmb ≤ r.row) && decide (r.row < p.acmb + L.acm))) ++
        G.savedAcm.map (fun r => { r with row := r.row + p.acmb })
      pool := c.pool ++ G.savedReqs.map (fun r => if r.parked then { r with entry := c.ccycle.toNat } else r.again c.ccycle.toNat G.window)
      rays := c.rays ++ G.savedRays.map (fun r => { r with spilled := true }) })
    State.countOwed g G.owed <| s.modGroup g (fun G => { G with
      state := .resident, core := p.core, slot := p.slot, part := p.part, clmb := p.clmb, acmb := p.acmb, nbb := p.nbb,
      waves := waves, stopping := none, placed := s.now, first := G.first.map (fun e => s.now - e), savedClm := [], savedClmP := [], savedScr := [],
      savedScrP := [], savedWays := 0, savedCmds := [], savedQstat := [], savedPlanes := (Plane.empty, Plane.empty), savedAcm := [],
      savedReqs := [], savedRays := [], owed := [] })

/-! ### Waves retire -/

/-- WAVE_RETIRE (R79 R80): the counters of classes 0 to 2 and 4 to 7 are 0. -/
def execWaveRetire (g w : Nat) (s : State) : Out' :=
  match s.groups[g]?, s.wave? g w with
  | some G, some wv =>
    let drained := [0, 1, 2, 4, 5, 6, 7].all (fun c => wv.counters.getD c 0 == 0)
    if G.state == .resident && !(s.core G.core).held && wv.state == .retiring && drained then
      let s := s.modGroup g (fun G => { G with retired := G.retired + 1 })
      .next ((s.modWave g w (fun wv => { wv with state := .retired })).groupCheck g)
    else idle s
  | _, _ => idle s

end Sys2Proof.Machine
end

