-- ==== Sys2Proof/Machine/Load.lean ====
section
/-! DEFINITION. A machine with one bundle loaded to run next: what a host's load and launch of a program of one word come
to (assumption 4). -/

namespace Sys2Proof.Machine

/-- The address of the bundle, virtual; its page lies at `loadFrame`. -/
def loadVa : Nat := 0x100
def loadFrame : Nat := 0x14000

/-- The launch record of the loaded program: width 16, 128 lane and 128 uniform registers, one wave, 64 objects, 512 KiB
of CLM, 512 ACM rows, one group. -/
def loadRecord : List Word :=
  [1#32, 0#32, BitVec.ofNat 32 loadVa, 0#32, 0#32, 0#32, 0#32, 0#32,
   BitVec.ofNat 32 (128 + 2 ^ 8 * 128 + 2 ^ 16 + 2 ^ 21 * 64), BitVec.ofNat 32 (512 + 2 ^ 10 * 512), 1#32, 0#32] ++
    List.replicate 52 0#32

def loadJob : Job := { Job.empty with live := true, root := 0x4000 }
def loadLaunch : Launch := { Launch.empty with words := loadRecord }

/-- The page tables of the job, one entry a level, and the bundle: no literal, lookahead 15 in every slot. -/
def State.loadCode (s : State) (w : Word) : State :=
  let s := s.poke64 0x4000 0x8001#64
  let s := s.poke64 0x8000 0xC001#64
  let s := s.poke64 0xC000 0x10001#64
  let s := s.poke64 0x10000 (BitVec.ofNat 64 (loadFrame + 0x180F))
  s.pokeWords (loadFrame + loadVa) [0xFFF00000#32, w, nopWord, nopWord]

/-- The machine with the word in slot 1 of the bundle that issues next, nothing else asked of it. -/
def State.loadWord (s : State) (w : Word) : State :=
  let s : State := { s with
    boot := .running, dies := s.dies.modify 0 (fun d => { d with pres := true }), jobs := [loadJob], launches := [loadLaunch],
    groups := [], agenda := [], tick := 0, cur := none, stalled := none }
  (s.loadCode w).createGroup 0 0 { core := 0, slot := 0, part := 0, clmb := 0, acmb := 0, nbb := 0 }

end Sys2Proof.Machine
end

