-- ==== Sys2Proof/Decode.lean ====
section
/-! DEFINITION. The decoder and the encoder of instruction words (spec/01 R21 to R31, R38 to R42; spec/04 R107).

`decode` reads every word of the opcode table; a word that is no instruction is rejected by name. A word whose fields
break a rule that a reader of the word alone can check (an odd register of a pair, an index out of range) still decodes:
`Instr.illFormed` names the rule and the machine traps.

Lean's compiler has no representation for a type of more than 244 constructors with arguments, so what builds an
instruction is marked noncomputable: it is plain structural code that the kernel evaluates. -/

namespace Sys2Proof

/-- Why a word is no instruction (spec/01 R42, Table 01.10). -/
inductive DecodeError where
  /-- Lane groups 14 and 15, uniform groups 1 and 15. -/
  | reservedGroup
  /-- A function that Tables 01.8 and 01.9 do not list. -/
  | reservedFunction
  /-- Branch kinds 6 and 7. -/
  | reservedKind
  /-- A field that must be 0 is not. -/
  | mustBeZero
deriving DecidableEq, Repr

/-- An instruction word from its parts (spec/01 R21). -/
def word (s : Bool) (g : BitVec 4) (f : BitVec 6) (d a b : BitVec 7) : Word :=
  BitVec.ofBool s ++ g ++ f ++ d ++ a ++ b

/-- The instruction when a field that must be 0 is 0. -/
def zeroed (ok : Bool) (i : Instr) : Except DecodeError Instr := if ok then .ok i else .error .mustBeZero

/-- Lane group 0 (spec/01 R38). -/
noncomputable def laneG0 (f : BitVec 6) (d a b : BitVec 7) : Except DecodeError Instr :=
  match f.toNat with
  | 0 => .ok (.iadd false d a b)
  | 1 => .ok (.isub false d a b)
  | 2 => .ok (.imul false d a b)
  | 3 => .ok (.imulhI false d a b)
  | 4 => .ok (.imulhN false d a b)
  | 5 => .ok (.imad false d a b)
  | 6 => .ok (.iand false d a b)
  | 7 => .ok (.ior false d a b)
  | 8 => .ok (.ixor false d a b)
  | 9 => .ok (.iandn false d a b)
  | 10 => .ok (.shl false d a b)
  | 11 => .ok (.shr false d a b)
  | 12 => .ok (.sar false d a b)
  | 13 => .ok (.iminI false d a b)
  | 14 => .ok (.iminN false d a b)
  | 15 => .ok (.imaxI false d a b)
  | 16 => .ok (.imaxN false d a b)
  | 17 => zeroed (b == 0#7) (.iabs false d a)
  | 18 => zeroed (b == 0#7) (.clz false d a)
  | 19 => zeroed (b == 0#7) (.popc false d a)
  | 20 => zeroed (b == 0#7) (.brev false d a)
  | 21 => .ok (.bfxI false d a b)
  | 22 => .ok (.bfxN false d a b)
  | 23 => .ok (.bfi false d a b)
  | 24 => .ok (.sel false (f.extractLsb' 0 3) d a b)
  | 25 => .ok (.sel false (f.extractLsb' 0 3) d a b)
  | 26 => .ok (.sel false (f.extractLsb' 0 3) d a b)
  | 27 => .ok (.sel false (f.extractLsb' 0 3) d a b)
  | 28 => .ok (.sel false (f.extractLsb' 0 3) d a b)
  | 29 => .ok (.sel false (f.extractLsb' 0 3) d a b)
  | 30 => .ok (.sel false (f.extractLsb' 0 3) d a b)
  | 31 => .ok (.sel false (f.extractLsb' 0 3) d a b)
  | 32 => .ok (.iaddI false d a b)
  | 33 => .ok (.isubI false d a b)
  | 34 => .ok (.imulI false d a b)
  | 35 => .ok (.imulhII false d a b)
  | 36 => .ok (.imulhNI false d a b)
  | 37 => .ok (.imadI false d a b)
  | 38 => .ok (.iandI false d a b)
  | 39 => .ok (.iorI false d a b)
  | 40 => .ok (.ixorI false d a b)
  | 41 => .ok (.iandnI false d a b)
  | 42 => .ok (.shlI false d a b)
  | 43 => .ok (.shrI false d a b)
  | 44 => .ok (.sarI false d a b)
  | 45 => .ok (.iminII false d a b)
  | 46 => .ok (.iminNI false d a b)
  | 47 => .ok (.imaxII false d a b)
  | 48 => .ok (.imaxNI false d a b)
  | 53 => .ok (.bfxII false d a b)
  | 54 => .ok (.bfxNI false d a b)
  | 55 => .ok (.bfiI false d a b)
  | 56 => zeroed (a == 0#7) (.mov false d b)
  | 57 => .ok (.movi false d (a ++ b))
  | 58 => .ok (.iadd64 false d a b)
  | 59 => .ok (.isub64 false d a b)
  | 60 => .ok (.imulwI false d a b)
  | 61 => .ok (.imulwN false d a b)
  | 62 => zeroed (b == 0#7) (.movls d a)
  | _ => .error .reservedFunction

/-- Lane group 1 (spec/01 R38). -/
noncomputable def laneG1 (f : BitVec 6) (d a b : BitVec 7) : Except DecodeError Instr :=
  match f.toNat with
  | 0 => .ok (.paddH2 d a b)
  | 1 => .ok (.paddsH2 d a b)
  | 2 => .ok (.psubH2 d a b)
  | 3 => .ok (.psubsH2 d a b)
  | 4 => .ok (.paddB4 d a b)
  | 5 => .ok (.paddsB4 d a b)
  | 6 => .ok (.psubsB4 d a b)
  | 7 => .ok (.pmaddH2 d a b)
  | 8 => .ok (.pmaddB4 d a b)
  | 9 => .ok (.iadds d a b)
  | 10 => .ok (.isubs d a b)
  | 11 => .ok (.shrr d a b)
  | 12 => .ok (.shrrsH2 d a b)
  | 13 => .ok (.packH2 d a b)
  | 14 => .ok (.packsH2 d a b)
  | 15 => .ok (.pminH2 d a b)
  | 16 => .ok (.pmaxH2 d a b)
  | 32 => .ok (.paddH2I d a b)
  | 33 => .ok (.paddsH2I d a b)
  | 34 => .ok (.psubH2I d a b)
  | 35 => .ok (.psubsH2I d a b)
  | 36 => .ok (.paddB4I d a b)
  | 37 => .ok (.paddsB4I d a b)
  | 38 => .ok (.psubsB4I d a b)
  | 39 => .ok (.pmaddH2I d a b)
  | 40 => .ok (.pmaddB4I d a b)
  | 41 => .ok (.iaddsI d a b)
  | 42 => .ok (.isubsI d a b)
  | 43 => .ok (.shrrI d a b)
  | 44 => .ok (.shrrsH2I d a b)
  | 45 => .ok (.packH2I d a b)
  | 46 => .ok (.packsH2I d a b)
  | 47 => .ok (.pminH2I d a b)
  | 48 => .ok (.pmaxH2I d a b)
  | _ => .error .reservedFunction

/-- Lane group 2 (spec/01 R38). -/
noncomputable def laneG2 (f : BitVec 6) (d a b : BitVec 7) : Except DecodeError Instr :=
  match f.toNat with
  | 0 => .ok (.fadd false d a b)
  | 1 => .ok (.fsub false d a b)
  | 2 => .ok (.fmul false d a b)
  | 3 => .ok (.ffma false d a b)
  | 4 => .ok (.fmin false d a b)
  | 5 => .ok (.fmax false d a b)
  | 6 => zeroed (b == 0#7) (.fabs false d a)
  | 7 => zeroed (b == 0#7) (.fneg false d a)
  | 8 => .ok (.hadd2 d a b)
  | 9 => .ok (.hmul2 d a b)
  | 10 => .ok (.hfma2 d a b)
  | 11 => .ok (.bfma2 d a b)
  | 12 => .ok (.frnd d a b)
  | 13 => zeroed (b == 0#7) (.fclass d a)
  | _ => .error .reservedFunction

/-- Lane group 3 (spec/01 R38). -/
noncomputable def laneG3 (f : BitVec 6) (d a b : BitVec 7) : Except DecodeError Instr :=
  match f.toNat with
  | 0 => .ok (.dadd false d a b)
  | 1 => .ok (.dsub false d a b)
  | 2 => .ok (.dmul false d a b)
  | 3 => .ok (.dfma false d a b)
  | 4 => .ok (.dmin false d a b)
  | 5 => .ok (.dmax false d a b)
  | 6 => zeroed (b == 0#7) (.dabs false d a)
  | 7 => zeroed (b == 0#7) (.dneg false d a)
  | 8 => .ok (.drnd d a b)
  | 9 => zeroed (b == 0#7) (.dclass d a)
  | _ => .error .reservedFunction

/-- Lane group 4 (spec/01 R38). -/
noncomputable def laneG4 (f : BitVec 6) (d a b : BitVec 7) : Except DecodeError Instr :=
  match f.toNat with
  | 0 => .ok (.icmpIEq false d a b)
  | 1 => .ok (.icmpINe false d a b)
  | 2 => .ok (.icmpILt false d a b)
  | 3 => .ok (.icmpILe false d a b)
  | 4 => .ok (.icmpIGt false d a b)
  | 5 => .ok (.icmpIGe false d a b)
  | 6 => .ok (.icmpNLt false d a b)
  | 7 => .ok (.icmpNLe false d a b)
  | 8 => .ok (.icmpNGt false d a b)
  | 9 => .ok (.icmpNGe false d a b)
  | 10 => .ok (.fcmpEq false d a b)
  | 11 => .ok (.fcmpNe false d a b)
  | 12 => .ok (.fcmpLt false d a b)
  | 13 => .ok (.fcmpLe false d a b)
  | 14 => .ok (.fcmpGt false d a b)
  | 15 => .ok (.fcmpGe false d a b)
  | 16 => .ok (.fcmpUn false d a b)
  | 17 => .ok (.fcmpOrd false d a b)
  | 18 => .ok (.dcmpEq false d a b)
  | 19 => .ok (.dcmpNe false d a b)
  | 20 => .ok (.dcmpLt false d a b)
  | 21 => .ok (.dcmpLe false d a b)
  | 22 => .ok (.dcmpGt false d a b)
  | 23 => .ok (.dcmpGe false d a b)
  | 24 => .ok (.dcmpUn false d a b)
  | 25 => .ok (.dcmpOrd false d a b)
  | 26 => .ok (.kand d a b)
  | 27 => .ok (.kor d a b)
  | 28 => .ok (.kxor d a b)
  | 29 => .ok (.kandn d a b)
  | 30 => zeroed (b == 0#7) (.knot d a)
  | 31 => zeroed (b == 0#7) (.kmov d a)
  | 32 => zeroed (b == 0#7) (.ktov d a)
  | 33 => zeroed (b == 0#7) (.vtok d a)
  | _ => .error .reservedFunction

/-- Lane group 5 (spec/01 R38). -/
noncomputable def laneG5 (f : BitVec 6) (d a b : BitVec 7) : Except DecodeError Instr :=
  match f.toNat with
  | 0 => .ok (.f2iI d a b)
  | 1 => .ok (.f2iN d a b)
  | 2 => zeroed (b == 0#7) (.i2fI d a)
  | 3 => zeroed (b == 0#7) (.i2fN d a)
  | 4 => zeroed (b == 0#7) (.f2d d a)
  | 5 => zeroed (b == 0#7) (.d2f d a)
  | 6 => .ok (.d2iI d a b)
  | 7 => zeroed (b == 0#7) (.i2dI d a)
  | 8 => .ok (.f2h2 d a b)
  | 9 => zeroed (b == 0#7) (.h2fLo d a)
  | 10 => zeroed (b == 0#7) (.h2fHi d a)
  | 11 => .ok (.f2bf2 d a b)
  | 12 => zeroed (b == 0#7) (.bf2fLo d a)
  | 13 => zeroed (b == 0#7) (.bf2fHi d a)
  | 16 => zeroed (b == 0#7) (.cvtn (f.extractLsb' 0 3) d a)
  | 17 => zeroed (b == 0#7) (.cvtn (f.extractLsb' 0 3) d a)
  | 18 => zeroed (b == 0#7) (.cvtn (f.extractLsb' 0 3) d a)
  | 19 => zeroed (b == 0#7) (.cvtn (f.extractLsb' 0 3) d a)
  | 20 => zeroed (b == 0#7) (.cvtn (f.extractLsb' 0 3) d a)
  | 21 => zeroed (b == 0#7) (.cvtn (f.extractLsb' 0 3) d a)
  | 22 => zeroed (b == 0#7) (.cvtn (f.extractLsb' 0 3) d a)
  | 23 => zeroed (b == 0#7) (.cvtn (f.extractLsb' 0 3) d a)
  | 24 => zeroed (b == 0#7) (.cvtw (f.extractLsb' 0 3) d a)
  | 25 => zeroed (b == 0#7) (.cvtw (f.extractLsb' 0 3) d a)
  | 26 => zeroed (b == 0#7) (.cvtw (f.extractLsb' 0 3) d a)
  | 27 => zeroed (b == 0#7) (.cvtw (f.extractLsb' 0 3) d a)
  | 28 => zeroed (b == 0#7) (.cvtw (f.extractLsb' 0 3) d a)
  | 29 => zeroed (b == 0#7) (.cvtw (f.extractLsb' 0 3) d a)
  | 30 => zeroed (b == 0#7) (.cvtw (f.extractLsb' 0 3) d a)
  | 31 => zeroed (b == 0#7) (.cvtw (f.extractLsb' 0 3) d a)
  | _ => .error .reservedFunction

/-- Lane group 6 (spec/01 R38). -/
noncomputable def laneG6 (f : BitVec 6) (d a b : BitVec 7) : Except DecodeError Instr :=
  match f.toNat with
  | 0 => .ok (.shfl d a b)
  | 1 => .ok (.shflx d a b)
  | 2 => .ok (.slideup d a b)
  | 3 => .ok (.slidedn d a b)
  | 4 => .ok (.slideuph d a b)
  | 5 => .ok (.slidednh d a b)
  | 6 => .ok (.bcast d a b)
  | 7 => .ok (.vcompress d a b)
  | 8 => .ok (.vcompressZ d a b)
  | 9 => .ok (.vexpand d a b)
  | 10 => zeroed (b == 0#7) (.voteany d a)
  | 11 => zeroed (b == 0#7) (.voteall d a)
  | 12 => zeroed (b == 0#7) (.ballot d a)
  | _ => .error .reservedFunction

/-- Lane group 7 (spec/01 R38). -/
noncomputable def laneG7 (f : BitVec 6) (d a b : BitVec 7) : Except DecodeError Instr :=
  match f.toNat with
  | 0 => zeroed (b == 0#7) (.rcp d a)
  | 1 => zeroed (b == 0#7) (.rsq d a)
  | 2 => zeroed (b == 0#7) (.sqrt d a)
  | 3 => zeroed (b == 0#7) (.log2 d a)
  | 4 => zeroed (b == 0#7) (.exp2 d a)
  | 5 => zeroed (b == 0#7) (.sin d a)
  | 6 => zeroed (b == 0#7) (.cos d a)
  | 7 => zeroed (b == 0#7) (.tanh d a)
  | 8 => zeroed (b == 0#7) (.drcp d a)
  | 9 => zeroed (b == 0#7) (.dsqrt d a)
  | _ => .error .reservedFunction

/-- Lane group 8 (spec/01 R38). -/
noncomputable def laneG8 (f : BitVec 6) (d a b : BitVec 7) : Except DecodeError Instr :=
  match f.toNat with
  | 0 => .ok (.ldlN8 false d a (b.extractLsb' 4 3) (b.extractLsb' 0 4))
  | 1 => .ok (.ldlI8 false d a (b.extractLsb' 4 3) (b.extractLsb' 0 4))
  | 2 => .ok (.ldlN16 false d a (b.extractLsb' 4 3) (b.extractLsb' 0 4))
  | 3 => .ok (.ldlI16 false d a (b.extractLsb' 4 3) (b.extractLsb' 0 4))
  | 4 => .ok (.ldl32 false d a (b.extractLsb' 4 3) (b.extractLsb' 0 4))
  | 5 => .ok (.ldl64 false d a (b.extractLsb' 4 3) (b.extractLsb' 0 4))
  | 6 => .ok (.ldl128 false d a (b.extractLsb' 4 3) (b.extractLsb' 0 4))
  | 7 => .ok (.stl8 false d a (b.extractLsb' 4 3) (b.extractLsb' 0 4))
  | 8 => .ok (.stl16 false d a (b.extractLsb' 4 3) (b.extractLsb' 0 4))
  | 9 => .ok (.stl32 false d a (b.extractLsb' 4 3) (b.extractLsb' 0 4))
  | 10 => .ok (.stl64 false d a (b.extractLsb' 4 3) (b.extractLsb' 0 4))
  | 11 => .ok (.stl128 false d a (b.extractLsb' 4 3) (b.extractLsb' 0 4))
  | 12 => .ok (.atlAdd false d a (b.extractLsb' 4 3) (b.extractLsb' 0 4))
  | 13 => .ok (.atlMinI false d a (b.extractLsb' 4 3) (b.extractLsb' 0 4))
  | 14 => .ok (.atlMaxI false d a (b.extractLsb' 4 3) (b.extractLsb' 0 4))
  | 15 => .ok (.atlAnd false d a (b.extractLsb' 4 3) (b.extractLsb' 0 4))
  | 16 => .ok (.atlOr false d a (b.extractLsb' 4 3) (b.extractLsb' 0 4))
  | 17 => .ok (.atlXor false d a (b.extractLsb' 4 3) (b.extractLsb' 0 4))
  | 18 => .ok (.atlXchg false d a (b.extractLsb' 4 3) (b.extractLsb' 0 4))
  | 19 => .ok (.atlCas false d a (b.extractLsb' 4 3) (b.extractLsb' 0 4))
  | 20 => .ok (.stlE4 d a (b.extractLsb' 4 3) (b.extractLsb' 0 4))
  | 21 => .ok (.stlE6 d a (b.extractLsb' 4 3) (b.extractLsb' 0 4))
  | _ => .error .reservedFunction

/-- Lane group 9 (spec/01 R38). -/
noncomputable def laneG9 (f : BitVec 6) (d a b : BitVec 7) : Except DecodeError Instr :=
  match f.toNat with
  | 0 => .ok (.ldgN8 false d a (b.extractLsb' 4 3) (b.extractLsb' 0 4))
  | 1 => .ok (.ldgI8 false d a (b.extractLsb' 4 3) (b.extractLsb' 0 4))
  | 2 => .ok (.ldgN16 false d a (b.extractLsb' 4 3) (b.extractLsb' 0 4))
  | 3 => .ok (.ldgI16 false d a (b.extractLsb' 4 3) (b.extractLsb' 0 4))
  | 4 => .ok (.ldg32 false d a (b.extractLsb' 4 3) (b.extractLsb' 0 4))
  | 5 => .ok (.ldg64 false d a (b.extractLsb' 4 3) (b.extractLsb' 0 4))
  | 6 => .ok (.ldg128 false d a (b.extractLsb' 4 3) (b.extractLsb' 0 4))
  | 7 => .ok (.stg8 false d a (b.extractLsb' 4 3) (b.extractLsb' 0 4))
  | 8 => .ok (.stg16 false d a (b.extractLsb' 4 3) (b.extractLsb' 0 4))
  | 9 => .ok (.stg32 false d a (b.extractLsb' 4 3) (b.extractLsb' 0 4))
  | 10 => .ok (.stg64 false d a (b.extractLsb' 4 3) (b.extractLsb' 0 4))
  | 11 => .ok (.stg128 false d a (b.extractLsb' 4 3) (b.extractLsb' 0 4))
  | 12 => .ok (.atgAdd false d a (b.extractLsb' 4 3) (b.extractLsb' 0 4))
  | 13 => .ok (.atgMinI false d a (b.extractLsb' 4 3) (b.extractLsb' 0 4))
  | 14 => .ok (.atgMaxI false d a (b.extractLsb' 4 3) (b.extractLsb' 0 4))
  | 15 => .ok (.atgAnd false d a (b.extractLsb' 4 3) (b.extractLsb' 0 4))
  | 16 => .ok (.atgOr false d a (b.extractLsb' 4 3) (b.extractLsb' 0 4))
  | 17 => .ok (.atgXor false d a (b.extractLsb' 4 3) (b.extractLsb' 0 4))
  | 18 => .ok (.atgXchg false d a (b.extractLsb' 4 3) (b.extractLsb' 0 4))
  | 19 => .ok (.atgCas false d a (b.extractLsb' 4 3) (b.extractLsb' 0 4))
  | 20 => .ok (.stgE4 false d a (b.extractLsb' 4 3) (b.extractLsb' 0 4))
  | 21 => .ok (.stgE6 false d a (b.extractLsb' 4 3) (b.extractLsb' 0 4))
  | 22 => .ok (.atgCas64 false d a (b.extractLsb' 4 3) (b.extractLsb' 0 4))
  | 23 => .ok (.atgFadd false d a (b.extractLsb' 4 3) (b.extractLsb' 0 4))
  | 24 => .ok (.redAdd false d a (b.extractLsb' 4 3) (b.extractLsb' 0 4))
  | 25 => .ok (.redFadd false d a (b.extractLsb' 4 3) (b.extractLsb' 0 4))
  | 26 => .ok (.redMinI false d a (b.extractLsb' 4 3) (b.extractLsb' 0 4))
  | 27 => .ok (.redMaxI false d a (b.extractLsb' 4 3) (b.extractLsb' 0 4))
  | 28 => .ok (.ldrq32 d a (b.extractLsb' 4 3) (b.extractLsb' 0 4))
  | 29 => .ok (.ldrq128 d a (b.extractLsb' 4 3) (b.extractLsb' 0 4))
  | 30 => .ok (.cstore d a (b.extractLsb' 4 3) (b.extractLsb' 0 4))
  | 31 => .ok (.pref d a (b.extractLsb' 4 3) (b.extractLsb' 0 4))
  | _ => .error .reservedFunction

/-- Lane group 10 (spec/01 R38). -/
noncomputable def laneG10 (f : BitVec 6) (d a b : BitVec 7) : Except DecodeError Instr :=
  match f.toNat with
  | 0 => .ok (.tex2d d a b)
  | 1 => .ok (.texfetch d a b)
  | 2 => .ok (.texrq d a b)
  | 3 => .ok (.texlod d a b)
  | _ => .error .reservedFunction

/-- Lane group 11 (spec/01 R38). -/
noncomputable def laneG11 (f : BitVec 6) (d a b : BitVec 7) : Except DecodeError Instr :=
  match f.toNat with
  | 0 => .ok (.rayq d a b)
  | 1 => .ok (.rayq64 d a b)
  | 2 => zeroed (a == 0#7) (.raycont d b)
  | 3 => zeroed (a == 0#7 && b == 0#7) (.rayhit d)
  | 4 => .ok (.raycommit d a b)
  | 5 => zeroed (d == 0#7 && a == 0#7 && b == 0#7) (.rayabort)
  | _ => .error .reservedFunction

/-- Lane group 12 (spec/01 R38). -/
noncomputable def laneG12 (f : BitVec 6) (d a b : BitVec 7) : Except DecodeError Instr :=
  match f.toNat with
  | 0 => .ok (.neval d a b)
  | 1 => .ok (.nevalH d a b)
  | _ => .error .reservedFunction

/-- Lane group 13 (spec/01 R38). -/
noncomputable def laneG13 (f : BitVec 6) (d a b : BitVec 7) : Except DecodeError Instr :=
  match f.toNat with
  | 0 => .ok (.xsortI d a b)
  | 1 => .ok (.xsortN d a b)
  | 2 => .ok (.xsortF d a b)
  | 3 => zeroed (b == 0#7) (.xscanAddI d a)
  | 4 => zeroed (b == 0#7) (.xscanAddF d a)
  | 5 => zeroed (b == 0#7) (.xscanMaxI d a)
  | 6 => zeroed (b == 0#7) (.xredAddI d a)
  | 7 => zeroed (b == 0#7) (.xredAddF d a)
  | 8 => zeroed (b == 0#7) (.xredMinI d a)
  | 9 => zeroed (b == 0#7) (.xredMaxI d a)
  | 10 => zeroed (b == 0#7) (.xhist d a)
  | 11 => zeroed (b == 0#7) (.xrank d a)
  | 12 => .ok (.xsearch d a b)
  | 13 => zeroed (b == 0#7) (.xmatch d a)
  | _ => .error .reservedFunction

/-- Uniform group 0 (spec/01 R39). -/
noncomputable def uniG0 (f : BitVec 6) (d a b : BitVec 7) : Except DecodeError Instr :=
  match f.toNat with
  | 0 => .ok (.iadd true d a b)
  | 1 => .ok (.isub true d a b)
  | 2 => .ok (.imul true d a b)
  | 3 => .ok (.imulhI true d a b)
  | 4 => .ok (.imulhN true d a b)
  | 5 => .ok (.imad true d a b)
  | 6 => .ok (.iand true d a b)
  | 7 => .ok (.ior true d a b)
  | 8 => .ok (.ixor true d a b)
  | 9 => .ok (.iandn true d a b)
  | 10 => .ok (.shl true d a b)
  | 11 => .ok (.shr true d a b)
  | 12 => .ok (.sar true d a b)
  | 13 => .ok (.iminI true d a b)
  | 14 => .ok (.iminN true d a b)
  | 15 => .ok (.imaxI true d a b)
  | 16 => .ok (.imaxN true d a b)
  | 17 => zeroed (b == 0#7) (.iabs true d a)
  | 18 => zeroed (b == 0#7) (.clz true d a)
  | 19 => zeroed (b == 0#7) (.popc true d a)
  | 20 => zeroed (b == 0#7) (.brev true d a)
  | 21 => .ok (.bfxI true d a b)
  | 22 => .ok (.bfxN true d a b)
  | 23 => .ok (.bfi true d a b)
  | 24 => .ok (.sel true (f.extractLsb' 0 3) d a b)
  | 25 => .ok (.sel true (f.extractLsb' 0 3) d a b)
  | 26 => .ok (.sel true (f.extractLsb' 0 3) d a b)
  | 27 => .ok (.sel true (f.extractLsb' 0 3) d a b)
  | 28 => .ok (.sel true (f.extractLsb' 0 3) d a b)
  | 29 => .ok (.sel true (f.extractLsb' 0 3) d a b)
  | 30 => .ok (.sel true (f.extractLsb' 0 3) d a b)
  | 31 => .ok (.sel true (f.extractLsb' 0 3) d a b)
  | 32 => .ok (.iaddI true d a b)
  | 33 => .ok (.isubI true d a b)
  | 34 => .ok (.imulI true d a b)
  | 35 => .ok (.imulhII true d a b)
  | 36 => .ok (.imulhNI true d a b)
  | 37 => .ok (.imadI true d a b)
  | 38 => .ok (.iandI true d a b)
  | 39 => .ok (.iorI true d a b)
  | 40 => .ok (.ixorI true d a b)
  | 41 => .ok (.iandnI true d a b)
  | 42 => .ok (.shlI true d a b)
  | 43 => .ok (.shrI true d a b)
  | 44 => .ok (.sarI true d a b)
  | 45 => .ok (.iminII true d a b)
  | 46 => .ok (.iminNI true d a b)
  | 47 => .ok (.imaxII true d a b)
  | 48 => .ok (.imaxNI true d a b)
  | 53 => .ok (.bfxII true d a b)
  | 54 => .ok (.bfxNI true d a b)
  | 55 => .ok (.bfiI true d a b)
  | 56 => zeroed (a == 0#7) (.mov true d b)
  | 57 => .ok (.movi true d (a ++ b))
  | 58 => .ok (.iadd64 true d a b)
  | 59 => .ok (.isub64 true d a b)
  | 60 => .ok (.imulwI true d a b)
  | 61 => .ok (.imulwN true d a b)
  | _ => .error .reservedFunction

/-- Uniform group 2 (spec/01 R39). -/
noncomputable def uniG2 (f : BitVec 6) (d a b : BitVec 7) : Except DecodeError Instr :=
  match f.toNat with
  | 0 => .ok (.fadd true d a b)
  | 1 => .ok (.fsub true d a b)
  | 2 => .ok (.fmul true d a b)
  | 3 => .ok (.ffma true d a b)
  | 4 => .ok (.fmin true d a b)
  | 5 => .ok (.fmax true d a b)
  | 6 => zeroed (b == 0#7) (.fabs true d a)
  | 7 => zeroed (b == 0#7) (.fneg true d a)
  | _ => .error .reservedFunction

/-- Uniform group 3 (spec/01 R39). -/
noncomputable def uniG3 (f : BitVec 6) (d a b : BitVec 7) : Except DecodeError Instr :=
  match f.toNat with
  | 0 => .ok (.dadd true d a b)
  | 1 => .ok (.dsub true d a b)
  | 2 => .ok (.dmul true d a b)
  | 3 => .ok (.dfma true d a b)
  | 4 => .ok (.dmin true d a b)
  | 5 => .ok (.dmax true d a b)
  | 6 => zeroed (b == 0#7) (.dabs true d a)
  | 7 => zeroed (b == 0#7) (.dneg true d a)
  | _ => .error .reservedFunction

/-- Uniform group 4 (spec/01 R39). -/
noncomputable def uniG4 (f : BitVec 6) (d a b : BitVec 7) : Except DecodeError Instr :=
  match f.toNat with
  | 0 => .ok (.icmpIEq true d a b)
  | 1 => .ok (.icmpINe true d a b)
  | 2 => .ok (.icmpILt true d a b)
  | 3 => .ok (.icmpILe true d a b)
  | 4 => .ok (.icmpIGt true d a b)
  | 5 => .ok (.icmpIGe true d a b)
  | 6 => .ok (.icmpNLt true d a b)
  | 7 => .ok (.icmpNLe true d a b)
  | 8 => .ok (.icmpNGt true d a b)
  | 9 => .ok (.icmpNGe true d a b)
  | 10 => .ok (.fcmpEq true d a b)
  | 11 => .ok (.fcmpNe true d a b)
  | 12 => .ok (.fcmpLt true d a b)
  | 13 => .ok (.fcmpLe true d a b)
  | 14 => .ok (.fcmpGt true d a b)
  | 15 => .ok (.fcmpGe true d a b)
  | 16 => .ok (.fcmpUn true d a b)
  | 17 => .ok (.fcmpOrd true d a b)
  | 18 => .ok (.dcmpEq true d a b)
  | 19 => .ok (.dcmpNe true d a b)
  | 20 => .ok (.dcmpLt true d a b)
  | 21 => .ok (.dcmpLe true d a b)
  | 22 => .ok (.dcmpGt true d a b)
  | 23 => .ok (.dcmpGe true d a b)
  | 24 => .ok (.dcmpUn true d a b)
  | 25 => .ok (.dcmpOrd true d a b)
  | 26 => .ok (.cand d a b)
  | 27 => .ok (.cor d a b)
  | 28 => .ok (.cxor d a b)
  | 29 => .ok (.candn d a b)
  | 30 => zeroed (b == 0#7) (.cnot d a)
  | 31 => zeroed (b == 0#7) (.cmov d a)
  | _ => .error .reservedFunction

/-- Uniform group 5 (spec/01 R39). -/
noncomputable def uniG5 (f : BitVec 6) (d a b : BitVec 7) : Except DecodeError Instr :=
  match f.toNat with
  | 0 => zeroed (b == 0#7) (.movs d a)
  | 1 => zeroed (d == 0#7) (.movsw a b)
  | 2 => .ok (.rdlane d a b)
  | 3 => .ok (.wrlane d a b)
  | 4 => .ok (.ktos d a b)
  | 5 => .ok (.stok d a b)
  | _ => .error .reservedFunction

/-- Uniform group 6 (spec/01 R39). -/
noncomputable def uniG6 (f : BitVec 6) (d a b : BitVec 7) : Except DecodeError Instr :=
  match f.toNat with
  | 0 => .ok (.cpy d a b)
  | 1 => zeroed (d == 0#7) (.qfence a b)
  | 2 => .ok (.qstat d a b)
  | _ => .error .reservedFunction

/-- Uniform group 7 (spec/01 R39). -/
noncomputable def uniG7 (f : BitVec 6) (d a b : BitVec 7) : Except DecodeError Instr :=
  match f.toNat with
  | 0 => zeroed (d == 0#7 && b == 0#7) (.mloadw a)
  | 1 => zeroed (d == 0#7 && a == 0#7 && b == 0#7) (.mswap)
  | 2 => zeroed (d == 0#7 && b == 0#7) (.mstream a)
  | 3 => zeroed (d == 0#7 && b == 0#7) (.mdrain a)
  | 4 => zeroed (d == 0#7 && b == 0#7) (.mzero a)
  | 5 => zeroed (a == 0#7 && b == 0#7) (.mstat d)
  | 6 => zeroed (d == 0#7 && b == 0#7) (.ttstep a)
  | 7 => zeroed (b == 0#7) (.ttrun d a)
  | 8 => zeroed (d == 0#7 && a == 0#7 && b == 0#7) (.nflush)
  | 9 => zeroed (d == 0#7 && b == 0#7) (.ncfg a)
  | _ => .error .reservedFunction

/-- Uniform group 8 (spec/01 R39). -/
noncomputable def uniG8 (f : BitVec 6) (d a b : BitVec 7) : Except DecodeError Instr :=
  match f.toNat with
  | 0 => .ok (.ldlN8 true d a (b.extractLsb' 4 3) (b.extractLsb' 0 4))
  | 1 => .ok (.ldlI8 true d a (b.extractLsb' 4 3) (b.extractLsb' 0 4))
  | 2 => .ok (.ldlN16 true d a (b.extractLsb' 4 3) (b.extractLsb' 0 4))
  | 3 => .ok (.ldlI16 true d a (b.extractLsb' 4 3) (b.extractLsb' 0 4))
  | 4 => .ok (.ldl32 true d a (b.extractLsb' 4 3) (b.extractLsb' 0 4))
  | 5 => .ok (.ldl64 true d a (b.extractLsb' 4 3) (b.extractLsb' 0 4))
  | 6 => .ok (.ldl128 true d a (b.extractLsb' 4 3) (b.extractLsb' 0 4))
  | 7 => .ok (.stl8 true d a (b.extractLsb' 4 3) (b.extractLsb' 0 4))
  | 8 => .ok (.stl16 true d a (b.extractLsb' 4 3) (b.extractLsb' 0 4))
  | 9 => .ok (.stl32 true d a (b.extractLsb' 4 3) (b.extractLsb' 0 4))
  | 10 => .ok (.stl64 true d a (b.extractLsb' 4 3) (b.extractLsb' 0 4))
  | 11 => .ok (.stl128 true d a (b.extractLsb' 4 3) (b.extractLsb' 0 4))
  | 12 => .ok (.atlAdd true d a (b.extractLsb' 4 3) (b.extractLsb' 0 4))
  | 13 => .ok (.atlMinI true d a (b.extractLsb' 4 3) (b.extractLsb' 0 4))
  | 14 => .ok (.atlMaxI true d a (b.extractLsb' 4 3) (b.extractLsb' 0 4))
  | 15 => .ok (.atlAnd true d a (b.extractLsb' 4 3) (b.extractLsb' 0 4))
  | 16 => .ok (.atlOr true d a (b.extractLsb' 4 3) (b.extractLsb' 0 4))
  | 17 => .ok (.atlXor true d a (b.extractLsb' 4 3) (b.extractLsb' 0 4))
  | 18 => .ok (.atlXchg true d a (b.extractLsb' 4 3) (b.extractLsb' 0 4))
  | 19 => .ok (.atlCas true d a (b.extractLsb' 4 3) (b.extractLsb' 0 4))
  | _ => .error .reservedFunction

/-- Uniform group 9 (spec/01 R39). -/
noncomputable def uniG9 (f : BitVec 6) (d a b : BitVec 7) : Except DecodeError Instr :=
  match f.toNat with
  | 0 => .ok (.ldgN8 true d a (b.extractLsb' 4 3) (b.extractLsb' 0 4))
  | 1 => .ok (.ldgI8 true d a (b.extractLsb' 4 3) (b.extractLsb' 0 4))
  | 2 => .ok (.ldgN16 true d a (b.extractLsb' 4 3) (b.extractLsb' 0 4))
  | 3 => .ok (.ldgI16 true d a (b.extractLsb' 4 3) (b.extractLsb' 0 4))
  | 4 => .ok (.ldg32 true d a (b.extractLsb' 4 3) (b.extractLsb' 0 4))
  | 5 => .ok (.ldg64 true d a (b.extractLsb' 4 3) (b.extractLsb' 0 4))
  | 6 => .ok (.ldg128 true d a (b.extractLsb' 4 3) (b.extractLsb' 0 4))
  | 7 => .ok (.stg8 true d a (b.extractLsb' 4 3) (b.extractLsb' 0 4))
  | 8 => .ok (.stg16 true d a (b.extractLsb' 4 3) (b.extractLsb' 0 4))
  | 9 => .ok (.stg32 true d a (b.extractLsb' 4 3) (b.extractLsb' 0 4))
  | 10 => .ok (.stg64 true d a (b.extractLsb' 4 3) (b.extractLsb' 0 4))
  | 11 => .ok (.stg128 true d a (b.extractLsb' 4 3) (b.extractLsb' 0 4))
  | 12 => .ok (.atgAdd true d a (b.extractLsb' 4 3) (b.extractLsb' 0 4))
  | 13 => .ok (.atgMinI true d a (b.extractLsb' 4 3) (b.extractLsb' 0 4))
  | 14 => .ok (.atgMaxI true d a (b.extractLsb' 4 3) (b.extractLsb' 0 4))
  | 15 => .ok (.atgAnd true d a (b.extractLsb' 4 3) (b.extractLsb' 0 4))
  | 16 => .ok (.atgOr true d a (b.extractLsb' 4 3) (b.extractLsb' 0 4))
  | 17 => .ok (.atgXor true d a (b.extractLsb' 4 3) (b.extractLsb' 0 4))
  | 18 => .ok (.atgXchg true d a (b.extractLsb' 4 3) (b.extractLsb' 0 4))
  | 19 => .ok (.atgCas true d a (b.extractLsb' 4 3) (b.extractLsb' 0 4))
  | 20 => .ok (.stgE4 true d a (b.extractLsb' 4 3) (b.extractLsb' 0 4))
  | 21 => .ok (.stgE6 true d a (b.extractLsb' 4 3) (b.extractLsb' 0 4))
  | 22 => .ok (.atgCas64 true d a (b.extractLsb' 4 3) (b.extractLsb' 0 4))
  | 23 => .ok (.atgFadd true d a (b.extractLsb' 4 3) (b.extractLsb' 0 4))
  | 24 => .ok (.redAdd true d a (b.extractLsb' 4 3) (b.extractLsb' 0 4))
  | 25 => .ok (.redFadd true d a (b.extractLsb' 4 3) (b.extractLsb' 0 4))
  | 26 => .ok (.redMinI true d a (b.extractLsb' 4 3) (b.extractLsb' 0 4))
  | 27 => .ok (.redMaxI true d a (b.extractLsb' 4 3) (b.extractLsb' 0 4))
  | _ => .error .reservedFunction

/-- Uniform group 10 (spec/01 R39). -/
noncomputable def uniG10 (f : BitVec 6) (d a b : BitVec 7) : Except DecodeError Instr :=
  match f.toNat with
  | 0 => .ok (.binit d a b)
  | 1 => .ok (.barr d a b)
  | 2 => zeroed (d == 0#7) (.bwait a b)
  | 3 => zeroed (d == 0#7) (.bexpb a b)
  | 4 => zeroed (b == 0#7) (.bphase d a)
  | 5 => .ok (.bbind d a b)
  | 6 => zeroed (b == 0#7) (.bdrop d a)
  | 7 => zeroed (d == 0#7 && a == 0#7 && b == 0#7) (.fenceG)
  | 8 => zeroed (d == 0#7 && a == 0#7 && b == 0#7) (.fenceD)
  | 9 => zeroed (d == 0#7 && a == 0#7 && b == 0#7) (.fenceV)
  | 10 => zeroed (d == 0#7 && a == 0#7 && b == 0#7) (.fenceS)
  | 11 => zeroed (b == 0#7) (.phinit d a)
  | 12 => zeroed (d == 0#7) (.pharr a b)
  | _ => .error .reservedFunction

/-- Uniform group 11 (spec/01 R39). -/
noncomputable def uniG11 (f : BitVec 6) (d a b : BitVec 7) : Except DecodeError Instr :=
  match f.toNat with
  | 0 => zeroed (a == 0#7 && b == 0#7) (.getwork d)
  | 1 => zeroed (d == 0#7 && b == 0#7) (.workdone a)
  | 2 => zeroed (b == 0#7) (.cancel d a)
  | 3 => zeroed (b == 0#7) (.ccount d a)
  | 4 => .ok (.enq d a b)
  | 5 => zeroed (b == 0#7) (.emitvp d a)
  | 6 => zeroed (b == 0#7) (.vclose d a)
  | 7 => zeroed (b == 0#7) (.refit d a)
  | 8 => zeroed (b == 0#7) (.hpart d a)
  | 9 => zeroed (d == 0#7 && b == 0#7) (.cinv a)
  | 10 => zeroed (d == 0#7 && b == 0#7) (.cflush a)
  | _ => .error .reservedFunction

/-- Uniform group 12 (spec/01 R39). -/
noncomputable def uniG12 (f : BitVec 6) (d a b : BitVec 7) : Except DecodeError Instr :=
  match (f.extractLsb' 3 3).toNat with
  | 0 => zeroed (f.extractLsb' 0 3 == 0#3) (.bra (d ++ a ++ b))
  | 1 => .ok (.brt (f.extractLsb' 0 3) (d ++ a ++ b))
  | 2 => .ok (.brf (f.extractLsb' 0 3) (d ++ a ++ b))
  | 3 => zeroed (f.extractLsb' 0 3 == 0#3) (.call (d ++ a ++ b))
  | 4 => .ok (.brd (f.extractLsb' 0 3) (d ++ a ++ b))
  | 5 => .ok (.brdn (f.extractLsb' 0 3) (d ++ a ++ b))
  | _ => .error .reservedKind

/-- Uniform group 13 (spec/01 R39). -/
noncomputable def uniG13 (f : BitVec 6) (d a b : BitVec 7) : Except DecodeError Instr :=
  match f.toNat with
  | 0 => zeroed (d == 0#7 && b == 0#7) (.jmpr a)
  | 1 => zeroed (d == 0#7 && a == 0#7 && b == 0#7) (.ret)
  | 2 => zeroed (d == 0#7 && b == 0#7) (.join a)
  | 3 => zeroed (a == 0#7) (.waitc d b)
  | 4 => zeroed (d == 0#7 && a == 0#7 && b == 0#7) (.yieldSplit)
  | 5 => zeroed (d == 0#7 && a == 0#7 && b == 0#7) (.exitSplit)
  | 6 => zeroed (d == 0#7 && a.extractLsb' 5 2 == 0#2) (.repeatN (a.extractLsb' 0 5 ++ b))
  | 7 => zeroed (d == 0#7 && a == 0#7) (.trapSw b)
  | 8 => zeroed (d == 0#7 && b == 0#7) (.sleep a)
  | 9 => zeroed (d == 0#7 && a == 0#7) (.setpri b)
  | 10 => zeroed (d == 0#7 && a == 0#7 && b == 0#7) (.brk)
  | _ => .error .reservedFunction

/-- Uniform group 14 (spec/01 R39). -/
noncomputable def uniG14 (f : BitVec 6) (d a b : BitVec 7) : Except DecodeError Instr :=
  match f.toNat with
  | 0 => zeroed (d == 0#7 && a == 0#7 && b == 0#7) (.rett)
  | 1 => zeroed (d == 0#7 && b == 0#7) (.tlbinv a)
  | 2 => zeroed (a == 0#7) (.sysrd d b)
  | 3 => zeroed (d == 0#7) (.syswr a b)
  | 4 => zeroed (d == 0#7 && b == 0#7) (.parkres a)
  | 5 => zeroed (b == 0#7) (.fltrec d a)
  | 63 => zeroed (d == 0#7 && a == 0#7 && b == 0#7) (.nop)
  | _ => .error .reservedFunction

/-- The instruction of the parts of a word. -/
noncomputable def decodeParts (s : Bool) (g : BitVec 4) (f : BitVec 6) (d a b : BitVec 7) : Except DecodeError Instr :=
  match s, g.toNat with
  | false, 0 => laneG0 f d a b
  | false, 1 => laneG1 f d a b
  | false, 2 => laneG2 f d a b
  | false, 3 => laneG3 f d a b
  | false, 4 => laneG4 f d a b
  | false, 5 => laneG5 f d a b
  | false, 6 => laneG6 f d a b
  | false, 7 => laneG7 f d a b
  | false, 8 => laneG8 f d a b
  | false, 9 => laneG9 f d a b
  | false, 10 => laneG10 f d a b
  | false, 11 => laneG11 f d a b
  | false, 12 => laneG12 f d a b
  | false, 13 => laneG13 f d a b
  | true, 0 => uniG0 f d a b
  | true, 2 => uniG2 f d a b
  | true, 3 => uniG3 f d a b
  | true, 4 => uniG4 f d a b
  | true, 5 => uniG5 f d a b
  | true, 6 => uniG6 f d a b
  | true, 7 => uniG7 f d a b
  | true, 8 => uniG8 f d a b
  | true, 9 => uniG9 f d a b
  | true, 10 => uniG10 f d a b
  | true, 11 => uniG11 f d a b
  | true, 12 => uniG12 f d a b
  | true, 13 => uniG13 f d a b
  | true, 14 => uniG14 f d a b
  | _, _ => .error .reservedGroup

/-- The instruction that a word encodes. -/
noncomputable def decode (w : Word) : Except DecodeError Instr :=
  decodeParts (w.getLsbD 31) (w.extractLsb' 27 4) (w.extractLsb' 21 6) (w.extractLsb' 14 7) (w.extractLsb' 7 7)
    (w.extractLsb' 0 7)

/-- The word of an encoded instruction; an event has none. -/
def encode : Instr → Option Word
  | .powerOn => none
  | .bootReq => none
  | .bootOffer _ _ _ => none
  | .bootData _ _ _ => none
  | .bootTransferTimeout => none
  | .watchdogExpiry => none
  | .columnReady _ => none
  | .backgroundTest _ _ _ => none
  | .linkFlitError _ _ _ _ => none
  | .ptpMessage _ _ _ _ _ => none
  | .clockTargetUpdate _ _ => none
  | .powerMeasure _ => none
  | .tempSample _ _ => none
  | .refreshClassFall _ => none
  | .refreshBurst _ _ => none
  | .refreshCharge _ => none
  | .doorbellTail _ _ => none
  | .doorbellChead _ _ => none
  | .launchEntry _ => none
  | .graphEntry _ => none
  | .graphNodeStart _ _ => none
  | .waitEntry _ => none
  | .waitReread _ => none
  | .waitTimeout _ => none
  | .cancelEntry _ => none
  | .frameEntry _ => none
  | .invalEntry _ => none
  | .resumeEntry _ => none
  | .completionWrite _ _ => none
  | .groupPlacement _ _ _ _ _ _ _ _ => none
  | .bindRecordWrite _ _ _ => none
  | .waveRetire _ _ => none
  | .groupSave _ => none
  | .groupRestore _ _ _ _ _ _ _ => none
  | .bundleFetch _ _ _ => none
  | .starvationPromote _ _ => none
  | .loadDataReturn _ _ _ _ => none
  | .storeComplete _ _ _ _ _ => none
  | .reductionApply _ => none
  | .faultServiceRequest _ _ => none
  | .faultServiceDone _ _ _ => none
  | .sleepWake _ _ _ => none
  | .specialFunctionComplete _ _ _ => none
  | .barrReleasePerformed _ _ _ => none
  | .phaseTreeComplete _ => none
  | .copyCommandRun _ _ _ => none
  | .copyFaultResume _ _ => none
  | .copyCommandComplete _ _ => none
  | .qfenceComplete _ _ => none
  | .hpartComplete _ => none
  | .cacheMaintComplete _ => none
  | .mangleReply _ _ _ => none
  | .mloadwStart _ => none
  | .mloadwComplete _ => none
  | .mswapPerform _ => none
  | .mstreamStart _ => none
  | .mstreamComplete _ => none
  | .mdrainRun _ => none
  | .mzeroRun _ => none
  | .chainStep _ => none
  | .gatherWindowExpiry _ _ => none
  | .gatherTileForm _ => none
  | .gatherFetchComplete _ => none
  | .gatherScatter _ _ => none
  | .rayTraversalStop _ _ => none
  | .textureFetchComplete _ _ _ _ => none
  | .refitNodeProcess _ _ => none
  | .refitComplete _ => none
  | .emitvpComplete _ => none
  | .vcloseComplete _ => none
  | .packetArrival _ _ => none
  | .tokenArrival _ _ => none
  | .rasterise _ _ => none
  | .reprojectionComplete _ _ => none
  | .frameEnd _ => none
  | .pcSample _ => none
  | .breakBitStop _ _ _ => none
  | .watchpointStop _ _ _ => none
  | .dctlOwn _ _ _ => none
  | .dctlHalt _ _ => none
  | .dctlResume _ _ => none
  | .dctlIcinv _ => none
  | .dctlDump _ _ => none
  | .spop _ _ => none
  | .debugRegWrite _ _ _ => none
  | .hostRdmaAccess _ _ _ _ _ => none
  | .jobCreate _ _ _ _ => none
  | .jobDestroy _ _ _ _ => none
  | .cfgRd _ _ _ _ => none
  | .cfgWr _ _ _ _ => none
  | .dbgRd _ _ _ _ => none
  | .dbgWr _ _ _ _ => none
  | .powerLimit _ _ _ _ => none
  | .errlog _ _ _ _ => none
  | .attest _ _ _ _ => none
  | .darnRd _ _ _ _ => none
  | .darnApply _ _ _ _ => none
  | .colAlloc _ _ _ _ => none
  | .colFree _ _ _ _ => none
  | .resetService _ _ _ _ => none
  | .nop => some (word true 0xE#4 0x3F#6 0x0#7 0x0#7 0x0#7)
  | .iadd u d a b => some (word u 0x0#4 0x0#6 d a b)
  | .isub u d a b => some (word u 0x0#4 0x1#6 d a b)
  | .imul u d a b => some (word u 0x0#4 0x2#6 d a b)
  | .imulhI u d a b => some (word u 0x0#4 0x3#6 d a b)
  | .imulhN u d a b => some (word u 0x0#4 0x4#6 d a b)
  | .imad u d a b => some (word u 0x0#4 0x5#6 d a b)
  | .iand u d a b => some (word u 0x0#4 0x6#6 d a b)
  | .ior u d a b => some (word u 0x0#4 0x7#6 d a b)
  | .ixor u d a b => some (word u 0x0#4 0x8#6 d a b)
  | .iandn u d a b => some (word u 0x0#4 0x9#6 d a b)
  | .shl u d a b => some (word u 0x0#4 0xA#6 d a b)
  | .shr u d a b => some (word u 0x0#4 0xB#6 d a b)
  | .sar u d a b => some (word u 0x0#4 0xC#6 d a b)
  | .iminI u d a b => some (word u 0x0#4 0xD#6 d a b)
  | .iminN u d a b => some (word u 0x0#4 0xE#6 d a b)
  | .imaxI u d a b => some (word u 0x0#4 0xF#6 d a b)
  | .imaxN u d a b => some (word u 0x0#4 0x10#6 d a b)
  | .iabs u d a => some (word u 0x0#4 0x11#6 d a 0x0#7)
  | .clz u d a => some (word u 0x0#4 0x12#6 d a 0x0#7)
  | .popc u d a => some (word u 0x0#4 0x13#6 d a 0x0#7)
  | .brev u d a => some (word u 0x0#4 0x14#6 d a 0x0#7)
  | .bfxI u d a b => some (word u 0x0#4 0x15#6 d a b)
  | .bfxN u d a b => some (word u 0x0#4 0x16#6 d a b)
  | .bfi u d a b => some (word u 0x0#4 0x17#6 d a b)
  | .sel u n d a b => some (word u 0x0#4 (0x3#3 ++ n) d a b)
  | .iaddI u d a i => some (word u 0x0#4 0x20#6 d a i)
  | .isubI u d a i => some (word u 0x0#4 0x21#6 d a i)
  | .imulI u d a i => some (word u 0x0#4 0x22#6 d a i)
  | .imulhII u d a i => some (word u 0x0#4 0x23#6 d a i)
  | .imulhNI u d a i => some (word u 0x0#4 0x24#6 d a i)
  | .imadI u d a i => some (word u 0x0#4 0x25#6 d a i)
  | .iandI u d a i => some (word u 0x0#4 0x26#6 d a i)
  | .iorI u d a i => some (word u 0x0#4 0x27#6 d a i)
  | .ixorI u d a i => some (word u 0x0#4 0x28#6 d a i)
  | .iandnI u d a i => some (word u 0x0#4 0x29#6 d a i)
  | .shlI u d a i => some (word u 0x0#4 0x2A#6 d a i)
  | .shrI u d a i => some (word u 0x0#4 0x2B#6 d a i)
  | .sarI u d a i => some (word u 0x0#4 0x2C#6 d a i)
  | .iminII u d a i => some (word u 0x0#4 0x2D#6 d a i)
  | .iminNI u d a i => some (word u 0x0#4 0x2E#6 d a i)
  | .imaxII u d a i => some (word u 0x0#4 0x2F#6 d a i)
  | .imaxNI u d a i => some (word u 0x0#4 0x30#6 d a i)
  | .bfxII u d a i => some (word u 0x0#4 0x35#6 d a i)
  | .bfxNI u d a i => some (word u 0x0#4 0x36#6 d a i)
  | .bfiI u d a i => some (word u 0x0#4 0x37#6 d a i)
  | .mov u d b => some (word u 0x0#4 0x38#6 d 0x0#7 b)
  | .movi u d i => some (word u 0x0#4 0x39#6 d (i.extractLsb' 7 7) (i.extractLsb' 0 7))
  | .iadd64 u d a b => some (word u 0x0#4 0x3A#6 d a b)
  | .isub64 u d a b => some (word u 0x0#4 0x3B#6 d a b)
  | .imulwI u d a b => some (word u 0x0#4 0x3C#6 d a b)
  | .imulwN u d a b => some (word u 0x0#4 0x3D#6 d a b)
  | .movls d a => some (word false 0x0#4 0x3E#6 d a 0x0#7)
  | .paddH2 d a b => some (word false 0x1#4 0x0#6 d a b)
  | .paddsH2 d a b => some (word false 0x1#4 0x1#6 d a b)
  | .psubH2 d a b => some (word false 0x1#4 0x2#6 d a b)
  | .psubsH2 d a b => some (word false 0x1#4 0x3#6 d a b)
  | .paddB4 d a b => some (word false 0x1#4 0x4#6 d a b)
  | .paddsB4 d a b => some (word false 0x1#4 0x5#6 d a b)
  | .psubsB4 d a b => some (word false 0x1#4 0x6#6 d a b)
  | .pmaddH2 d a b => some (word false 0x1#4 0x7#6 d a b)
  | .pmaddB4 d a b => some (word false 0x1#4 0x8#6 d a b)
  | .iadds d a b => some (word false 0x1#4 0x9#6 d a b)
  | .isubs d a b => some (word false 0x1#4 0xA#6 d a b)
  | .shrr d a b => some (word false 0x1#4 0xB#6 d a b)
  | .shrrsH2 d a b => some (word false 0x1#4 0xC#6 d a b)
  | .packH2 d a b => some (word false 0x1#4 0xD#6 d a b)
  | .packsH2 d a b => some (word false 0x1#4 0xE#6 d a b)
  | .pminH2 d a b => some (word false 0x1#4 0xF#6 d a b)
  | .pmaxH2 d a b => some (word false 0x1#4 0x10#6 d a b)
  | .paddH2I d a i => some (word false 0x1#4 0x20#6 d a i)
  | .paddsH2I d a i => some (word false 0x1#4 0x21#6 d a i)
  | .psubH2I d a i => some (word false 0x1#4 0x22#6 d a i)
  | .psubsH2I d a i => some (word false 0x1#4 0x23#6 d a i)
  | .paddB4I d a i => some (word false 0x1#4 0x24#6 d a i)
  | .paddsB4I d a i => some (word false 0x1#4 0x25#6 d a i)
  | .psubsB4I d a i => some (word false 0x1#4 0x26#6 d a i)
  | .pmaddH2I d a i => some (word false 0x1#4 0x27#6 d a i)
  | .pmaddB4I d a i => some (word false 0x1#4 0x28#6 d a i)
  | .iaddsI d a i => some (word false 0x1#4 0x29#6 d a i)
  | .isubsI d a i => some (word false 0x1#4 0x2A#6 d a i)
  | .shrrI d a i => some (word false 0x1#4 0x2B#6 d a i)
  | .shrrsH2I d a i => some (word false 0x1#4 0x2C#6 d a i)
  | .packH2I d a i => some (word false 0x1#4 0x2D#6 d a i)
  | .packsH2I d a i => some (word false 0x1#4 0x2E#6 d a i)
  | .pminH2I d a i => some (word false 0x1#4 0x2F#6 d a i)
  | .pmaxH2I d a i => some (word false 0x1#4 0x30#6 d a i)
  | .fadd u d a b => some (word u 0x2#4 0x0#6 d a b)
  | .fsub u d a b => some (word u 0x2#4 0x1#6 d a b)
  | .fmul u d a b => some (word u 0x2#4 0x2#6 d a b)
  | .ffma u d a b => some (word u 0x2#4 0x3#6 d a b)
  | .fmin u d a b => some (word u 0x2#4 0x4#6 d a b)
  | .fmax u d a b => some (word u 0x2#4 0x5#6 d a b)
  | .fabs u d a => some (word u 0x2#4 0x6#6 d a 0x0#7)
  | .fneg u d a => some (word u 0x2#4 0x7#6 d a 0x0#7)
  | .hadd2 d a b => some (word false 0x2#4 0x8#6 d a b)
  | .hmul2 d a b => some (word false 0x2#4 0x9#6 d a b)
  | .hfma2 d a b => some (word false 0x2#4 0xA#6 d a b)
  | .bfma2 d a b => some (word false 0x2#4 0xB#6 d a b)
  | .frnd d a r => some (word false 0x2#4 0xC#6 d a r)
  | .fclass d a => some (word false 0x2#4 0xD#6 d a 0x0#7)
  | .dadd u d a b => some (word u 0x3#4 0x0#6 d a b)
  | .dsub u d a b => some (word u 0x3#4 0x1#6 d a b)
  | .dmul u d a b => some (word u 0x3#4 0x2#6 d a b)
  | .dfma u d a b => some (word u 0x3#4 0x3#6 d a b)
  | .dmin u d a b => some (word u 0x3#4 0x4#6 d a b)
  | .dmax u d a b => some (word u 0x3#4 0x5#6 d a b)
  | .dabs u d a => some (word u 0x3#4 0x6#6 d a 0x0#7)
  | .dneg u d a => some (word u 0x3#4 0x7#6 d a 0x0#7)
  | .drnd d a r => some (word false 0x3#4 0x8#6 d a r)
  | .dclass d a => some (word false 0x3#4 0x9#6 d a 0x0#7)
  | .icmpIEq u d a b => some (word u 0x4#4 0x0#6 d a b)
  | .icmpINe u d a b => some (word u 0x4#4 0x1#6 d a b)
  | .icmpILt u d a b => some (word u 0x4#4 0x2#6 d a b)
  | .icmpILe u d a b => some (word u 0x4#4 0x3#6 d a b)
  | .icmpIGt u d a b => some (word u 0x4#4 0x4#6 d a b)
  | .icmpIGe u d a b => some (word u 0x4#4 0x5#6 d a b)
  | .icmpNLt u d a b => some (word u 0x4#4 0x6#6 d a b)
  | .icmpNLe u d a b => some (word u 0x4#4 0x7#6 d a b)
  | .icmpNGt u d a b => some (word u 0x4#4 0x8#6 d a b)
  | .icmpNGe u d a b => some (word u 0x4#4 0x9#6 d a b)
  | .fcmpEq u d a b => some (word u 0x4#4 0xA#6 d a b)
  | .fcmpNe u d a b => some (word u 0x4#4 0xB#6 d a b)
  | .fcmpLt u d a b => some (word u 0x4#4 0xC#6 d a b)
  | .fcmpLe u d a b => some (word u 0x4#4 0xD#6 d a b)
  | .fcmpGt u d a b => some (word u 0x4#4 0xE#6 d a b)
  | .fcmpGe u d a b => some (word u 0x4#4 0xF#6 d a b)
  | .fcmpUn u d a b => some (word u 0x4#4 0x10#6 d a b)
  | .fcmpOrd u d a b => some (word u 0x4#4 0x11#6 d a b)
  | .dcmpEq u d a b => some (word u 0x4#4 0x12#6 d a b)
  | .dcmpNe u d a b => some (word u 0x4#4 0x13#6 d a b)
  | .dcmpLt u d a b => some (word u 0x4#4 0x14#6 d a b)
  | .dcmpLe u d a b => some (word u 0x4#4 0x15#6 d a b)
  | .dcmpGt u d a b => some (word u 0x4#4 0x16#6 d a b)
  | .dcmpGe u d a b => some (word u 0x4#4 0x17#6 d a b)
  | .dcmpUn u d a b => some (word u 0x4#4 0x18#6 d a b)
  | .dcmpOrd u d a b => some (word u 0x4#4 0x19#6 d a b)
  | .kand d a b => some (word false 0x4#4 0x1A#6 d a b)
  | .kor d a b => some (word false 0x4#4 0x1B#6 d a b)
  | .kxor d a b => some (word false 0x4#4 0x1C#6 d a b)
  | .kandn d a b => some (word false 0x4#4 0x1D#6 d a b)
  | .knot d a => some (word false 0x4#4 0x1E#6 d a 0x0#7)
  | .kmov d a => some (word false 0x4#4 0x1F#6 d a 0x0#7)
  | .ktov d a => some (word false 0x4#4 0x20#6 d a 0x0#7)
  | .vtok d a => some (word false 0x4#4 0x21#6 d a 0x0#7)
  | .cand d a b => some (word true 0x4#4 0x1A#6 d a b)
  | .cor d a b => some (word true 0x4#4 0x1B#6 d a b)
  | .cxor d a b => some (word true 0x4#4 0x1C#6 d a b)
  | .candn d a b => some (word true 0x4#4 0x1D#6 d a b)
  | .cnot d a => some (word true 0x4#4 0x1E#6 d a 0x0#7)
  | .cmov d a => some (word true 0x4#4 0x1F#6 d a 0x0#7)
  | .f2iI d a r => some (word false 0x5#4 0x0#6 d a r)
  | .f2iN d a r => some (word false 0x5#4 0x1#6 d a r)
  | .i2fI d a => some (word false 0x5#4 0x2#6 d a 0x0#7)
  | .i2fN d a => some (word false 0x5#4 0x3#6 d a 0x0#7)
  | .f2d d a => some (word false 0x5#4 0x4#6 d a 0x0#7)
  | .d2f d a => some (word false 0x5#4 0x5#6 d a 0x0#7)
  | .d2iI d a r => some (word false 0x5#4 0x6#6 d a r)
  | .i2dI d a => some (word false 0x5#4 0x7#6 d a 0x0#7)
  | .f2h2 d a b => some (word false 0x5#4 0x8#6 d a b)
  | .h2fLo d a => some (word false 0x5#4 0x9#6 d a 0x0#7)
  | .h2fHi d a => some (word false 0x5#4 0xA#6 d a 0x0#7)
  | .f2bf2 d a b => some (word false 0x5#4 0xB#6 d a b)
  | .bf2fLo d a => some (word false 0x5#4 0xC#6 d a 0x0#7)
  | .bf2fHi d a => some (word false 0x5#4 0xD#6 d a 0x0#7)
  | .cvtn n d a => some (word false 0x5#4 (0x2#3 ++ n) d a 0x0#7)
  | .cvtw n d a => some (word false 0x5#4 (0x3#3 ++ n) d a 0x0#7)
  | .movs d a => some (word true 0x5#4 0x0#6 d a 0x0#7)
  | .movsw a b => some (word true 0x5#4 0x1#6 0x0#7 a b)
  | .rdlane d a b => some (word true 0x5#4 0x2#6 d a b)
  | .wrlane d a b => some (word true 0x5#4 0x3#6 d a b)
  | .ktos d a h => some (word true 0x5#4 0x4#6 d a h)
  | .stok d a h => some (word true 0x5#4 0x5#6 d a h)
  | .shfl d a b => some (word false 0x6#4 0x0#6 d a b)
  | .shflx d a b => some (word false 0x6#4 0x1#6 d a b)
  | .slideup d a b => some (word false 0x6#4 0x2#6 d a b)
  | .slidedn d a b => some (word false 0x6#4 0x3#6 d a b)
  | .slideuph d a b => some (word false 0x6#4 0x4#6 d a b)
  | .slidednh d a b => some (word false 0x6#4 0x5#6 d a b)
  | .bcast d a b => some (word false 0x6#4 0x6#6 d a b)
  | .vcompress d a b => some (word false 0x6#4 0x7#6 d a b)
  | .vcompressZ d a b => some (word false 0x6#4 0x8#6 d a b)
  | .vexpand d a b => some (word false 0x6#4 0x9#6 d a b)
  | .voteany d a => some (word false 0x6#4 0xA#6 d a 0x0#7)
  | .voteall d a => some (word false 0x6#4 0xB#6 d a 0x0#7)
  | .ballot d a => some (word false 0x6#4 0xC#6 d a 0x0#7)
  | .rcp d a => some (word false 0x7#4 0x0#6 d a 0x0#7)
  | .rsq d a => some (word false 0x7#4 0x1#6 d a 0x0#7)
  | .sqrt d a => some (word false 0x7#4 0x2#6 d a 0x0#7)
  | .log2 d a => some (word false 0x7#4 0x3#6 d a 0x0#7)
  | .exp2 d a => some (word false 0x7#4 0x4#6 d a 0x0#7)
  | .sin d a => some (word false 0x7#4 0x5#6 d a 0x0#7)
  | .cos d a => some (word false 0x7#4 0x6#6 d a 0x0#7)
  | .tanh d a => some (word false 0x7#4 0x7#6 d a 0x0#7)
  | .drcp d a => some (word false 0x7#4 0x8#6 d a 0x0#7)
  | .dsqrt d a => some (word false 0x7#4 0x9#6 d a 0x0#7)
  | .ldlN8 u d a o n => some (word u 0x8#4 0x0#6 d a (o ++ n))
  | .ldlI8 u d a o n => some (word u 0x8#4 0x1#6 d a (o ++ n))
  | .ldlN16 u d a o n => some (word u 0x8#4 0x2#6 d a (o ++ n))
  | .ldlI16 u d a o n => some (word u 0x8#4 0x3#6 d a (o ++ n))
  | .ldl32 u d a o n => some (word u 0x8#4 0x4#6 d a (o ++ n))
  | .ldl64 u d a o n => some (word u 0x8#4 0x5#6 d a (o ++ n))
  | .ldl128 u d a o n => some (word u 0x8#4 0x6#6 d a (o ++ n))
  | .stl8 u d a o n => some (word u 0x8#4 0x7#6 d a (o ++ n))
  | .stl16 u d a o n => some (word u 0x8#4 0x8#6 d a (o ++ n))
  | .stl32 u d a o n => some (word u 0x8#4 0x9#6 d a (o ++ n))
  | .stl64 u d a o n => some (word u 0x8#4 0xA#6 d a (o ++ n))
  | .stl128 u d a o n => some (word u 0x8#4 0xB#6 d a (o ++ n))
  | .atlAdd u d a o n => some (word u 0x8#4 0xC#6 d a (o ++ n))
  | .atlMinI u d a o n => some (word u 0x8#4 0xD#6 d a (o ++ n))
  | .atlMaxI u d a o n => some (word u 0x8#4 0xE#6 d a (o ++ n))
  | .atlAnd u d a o n => some (word u 0x8#4 0xF#6 d a (o ++ n))
  | .atlOr u d a o n => some (word u 0x8#4 0x10#6 d a (o ++ n))
  | .atlXor u d a o n => some (word u 0x8#4 0x11#6 d a (o ++ n))
  | .atlXchg u d a o n => some (word u 0x8#4 0x12#6 d a (o ++ n))
  | .atlCas u d a o n => some (word u 0x8#4 0x13#6 d a (o ++ n))
  | .stlE4 d a o n => some (word false 0x8#4 0x14#6 d a (o ++ n))
  | .stlE6 d a o n => some (word false 0x8#4 0x15#6 d a (o ++ n))
  | .ldgN8 u d a o n => some (word u 0x9#4 0x0#6 d a (o ++ n))
  | .ldgI8 u d a o n => some (word u 0x9#4 0x1#6 d a (o ++ n))
  | .ldgN16 u d a o n => some (word u 0x9#4 0x2#6 d a (o ++ n))
  | .ldgI16 u d a o n => some (word u 0x9#4 0x3#6 d a (o ++ n))
  | .ldg32 u d a o n => some (word u 0x9#4 0x4#6 d a (o ++ n))
  | .ldg64 u d a o n => some (word u 0x9#4 0x5#6 d a (o ++ n))
  | .ldg128 u d a o n => some (word u 0x9#4 0x6#6 d a (o ++ n))
  | .stg8 u d a o n => some (word u 0x9#4 0x7#6 d a (o ++ n))
  | .stg16 u d a o n => some (word u 0x9#4 0x8#6 d a (o ++ n))
  | .stg32 u d a o n => some (word u 0x9#4 0x9#6 d a (o ++ n))
  | .stg64 u d a o n => some (word u 0x9#4 0xA#6 d a (o ++ n))
  | .stg128 u d a o n => some (word u 0x9#4 0xB#6 d a (o ++ n))
  | .atgAdd u d a o n => some (word u 0x9#4 0xC#6 d a (o ++ n))
  | .atgMinI u d a o n => some (word u 0x9#4 0xD#6 d a (o ++ n))
  | .atgMaxI u d a o n => some (word u 0x9#4 0xE#6 d a (o ++ n))
  | .atgAnd u d a o n => some (word u 0x9#4 0xF#6 d a (o ++ n))
  | .atgOr u d a o n => some (word u 0x9#4 0x10#6 d a (o ++ n))
  | .atgXor u d a o n => some (word u 0x9#4 0x11#6 d a (o ++ n))
  | .atgXchg u d a o n => some (word u 0x9#4 0x12#6 d a (o ++ n))
  | .atgCas u d a o n => some (word u 0x9#4 0x13#6 d a (o ++ n))
  | .stgE4 u d a o n => some (word u 0x9#4 0x14#6 d a (o ++ n))
  | .stgE6 u d a o n => some (word u 0x9#4 0x15#6 d a (o ++ n))
  | .atgCas64 u d a o n => some (word u 0x9#4 0x16#6 d a (o ++ n))
  | .atgFadd u d a o n => some (word u 0x9#4 0x17#6 d a (o ++ n))
  | .redAdd u d a o n => some (word u 0x9#4 0x18#6 d a (o ++ n))
  | .redFadd u d a o n => some (word u 0x9#4 0x19#6 d a (o ++ n))
  | .redMinI u d a o n => some (word u 0x9#4 0x1A#6 d a (o ++ n))
  | .redMaxI u d a o n => some (word u 0x9#4 0x1B#6 d a (o ++ n))
  | .ldrq32 d a o n => some (word false 0x9#4 0x1C#6 d a (o ++ n))
  | .ldrq128 d a o n => some (word false 0x9#4 0x1D#6 d a (o ++ n))
  | .cstore d a o n => some (word false 0x9#4 0x1E#6 d a (o ++ n))
  | .pref d a o n => some (word false 0x9#4 0x1F#6 d a (o ++ n))
  | .tex2d d a b => some (word false 0xA#4 0x0#6 d a b)
  | .texfetch d a b => some (word false 0xA#4 0x1#6 d a b)
  | .texrq d a b => some (word false 0xA#4 0x2#6 d a b)
  | .texlod d a b => some (word false 0xA#4 0x3#6 d a b)
  | .rayq d a b => some (word false 0xB#4 0x0#6 d a b)
  | .rayq64 d a b => some (word false 0xB#4 0x1#6 d a b)
  | .raycont d b => some (word false 0xB#4 0x2#6 d 0x0#7 b)
  | .rayhit d => some (word false 0xB#4 0x3#6 d 0x0#7 0x0#7)
  | .raycommit d a b => some (word false 0xB#4 0x4#6 d a b)
  | .rayabort => some (word false 0xB#4 0x5#6 0x0#7 0x0#7 0x0#7)
  | .neval d a b => some (word false 0xC#4 0x0#6 d a b)
  | .nevalH d a b => some (word false 0xC#4 0x1#6 d a b)
  | .xsortI d a b => some (word false 0xD#4 0x0#6 d a b)
  | .xsortN d a b => some (word false 0xD#4 0x1#6 d a b)
  | .xsortF d a b => some (word false 0xD#4 0x2#6 d a b)
  | .xscanAddI d a => some (word false 0xD#4 0x3#6 d a 0x0#7)
  | .xscanAddF d a => some (word false 0xD#4 0x4#6 d a 0x0#7)
  | .xscanMaxI d a => some (word false 0xD#4 0x5#6 d a 0x0#7)
  | .xredAddI d a => some (word false 0xD#4 0x6#6 d a 0x0#7)
  | .xredAddF d a => some (word false 0xD#4 0x7#6 d a 0x0#7)
  | .xredMinI d a => some (word false 0xD#4 0x8#6 d a 0x0#7)
  | .xredMaxI d a => some (word false 0xD#4 0x9#6 d a 0x0#7)
  | .xhist d a => some (word false 0xD#4 0xA#6 d a 0x0#7)
  | .xrank d a => some (word false 0xD#4 0xB#6 d a 0x0#7)
  | .xsearch d a b => some (word false 0xD#4 0xC#6 d a b)
  | .xmatch d a => some (word false 0xD#4 0xD#6 d a 0x0#7)
  | .cpy d a q => some (word true 0x6#4 0x0#6 d a q)
  | .qfence q m => some (word true 0x6#4 0x1#6 0x0#7 q m)
  | .qstat d q c => some (word true 0x6#4 0x2#6 d q c)
  | .mloadw a => some (word true 0x7#4 0x0#6 0x0#7 a 0x0#7)
  | .mswap => some (word true 0x7#4 0x1#6 0x0#7 0x0#7 0x0#7)
  | .mstream a => some (word true 0x7#4 0x2#6 0x0#7 a 0x0#7)
  | .mdrain a => some (word true 0x7#4 0x3#6 0x0#7 a 0x0#7)
  | .mzero a => some (word true 0x7#4 0x4#6 0x0#7 a 0x0#7)
  | .mstat d => some (word true 0x7#4 0x5#6 d 0x0#7 0x0#7)
  | .ttstep a => some (word true 0x7#4 0x6#6 0x0#7 a 0x0#7)
  | .ttrun d a => some (word true 0x7#4 0x7#6 d a 0x0#7)
  | .nflush => some (word true 0x7#4 0x8#6 0x0#7 0x0#7 0x0#7)
  | .ncfg a => some (word true 0x7#4 0x9#6 0x0#7 a 0x0#7)
  | .binit d a b => some (word true 0xA#4 0x0#6 d a b)
  | .barr d a b => some (word true 0xA#4 0x1#6 d a b)
  | .bwait a b => some (word true 0xA#4 0x2#6 0x0#7 a b)
  | .bexpb a b => some (word true 0xA#4 0x3#6 0x0#7 a b)
  | .bphase d a => some (word true 0xA#4 0x4#6 d a 0x0#7)
  | .bbind d a b => some (word true 0xA#4 0x5#6 d a b)
  | .bdrop d a => some (word true 0xA#4 0x6#6 d a 0x0#7)
  | .fenceG => some (word true 0xA#4 0x7#6 0x0#7 0x0#7 0x0#7)
  | .fenceD => some (word true 0xA#4 0x8#6 0x0#7 0x0#7 0x0#7)
  | .fenceV => some (word true 0xA#4 0x9#6 0x0#7 0x0#7 0x0#7)
  | .fenceS => some (word true 0xA#4 0xA#6 0x0#7 0x0#7 0x0#7)
  | .phinit d a => some (word true 0xA#4 0xB#6 d a 0x0#7)
  | .pharr a b => some (word true 0xA#4 0xC#6 0x0#7 a b)
  | .getwork d => some (word true 0xB#4 0x0#6 d 0x0#7 0x0#7)
  | .workdone a => some (word true 0xB#4 0x1#6 0x0#7 a 0x0#7)
  | .cancel d a => some (word true 0xB#4 0x2#6 d a 0x0#7)
  | .ccount d a => some (word true 0xB#4 0x3#6 d a 0x0#7)
  | .enq d a b => some (word true 0xB#4 0x4#6 d a b)
  | .emitvp d a => some (word true 0xB#4 0x5#6 d a 0x0#7)
  | .vclose d a => some (word true 0xB#4 0x6#6 d a 0x0#7)
  | .refit d a => some (word true 0xB#4 0x7#6 d a 0x0#7)
  | .hpart d a => some (word true 0xB#4 0x8#6 d a 0x0#7)
  | .cinv a => some (word true 0xB#4 0x9#6 0x0#7 a 0x0#7)
  | .cflush a => some (word true 0xB#4 0xA#6 0x0#7 a 0x0#7)
  | .bra o => some (word true 0xC#4 0x0#6 (o.extractLsb' 14 7) (o.extractLsb' 7 7) (o.extractLsb' 0 7))
  | .brt c o => some (word true 0xC#4 (0x1#3 ++ c) (o.extractLsb' 14 7) (o.extractLsb' 7 7) (o.extractLsb' 0 7))
  | .brf c o => some (word true 0xC#4 (0x2#3 ++ c) (o.extractLsb' 14 7) (o.extractLsb' 7 7) (o.extractLsb' 0 7))
  | .call o => some (word true 0xC#4 0x18#6 (o.extractLsb' 14 7) (o.extractLsb' 7 7) (o.extractLsb' 0 7))
  | .brd c o => some (word true 0xC#4 (0x4#3 ++ c) (o.extractLsb' 14 7) (o.extractLsb' 7 7) (o.extractLsb' 0 7))
  | .brdn c o => some (word true 0xC#4 (0x5#3 ++ c) (o.extractLsb' 14 7) (o.extractLsb' 7 7) (o.extractLsb' 0 7))
  | .jmpr a => some (word true 0xD#4 0x0#6 0x0#7 a 0x0#7)
  | .ret => some (word true 0xD#4 0x1#6 0x0#7 0x0#7 0x0#7)
  | .join a => some (word true 0xD#4 0x2#6 0x0#7 a 0x0#7)
  | .waitc d n => some (word true 0xD#4 0x3#6 d 0x0#7 n)
  | .yieldSplit => some (word true 0xD#4 0x4#6 0x0#7 0x0#7 0x0#7)
  | .exitSplit => some (word true 0xD#4 0x5#6 0x0#7 0x0#7 0x0#7)
  | .repeatN n => some (word true 0xD#4 0x6#6 0x0#7 (0x0#2 ++ (n.extractLsb' 7 5)) (n.extractLsb' 0 7))
  | .trapSw c => some (word true 0xD#4 0x7#6 0x0#7 0x0#7 c)
  | .sleep a => some (word true 0xD#4 0x8#6 0x0#7 a 0x0#7)
  | .setpri p => some (word true 0xD#4 0x9#6 0x0#7 0x0#7 p)
  | .brk => some (word true 0xD#4 0xA#6 0x0#7 0x0#7 0x0#7)
  | .rett => some (word true 0xE#4 0x0#6 0x0#7 0x0#7 0x0#7)
  | .tlbinv a => some (word true 0xE#4 0x1#6 0x0#7 a 0x0#7)
  | .sysrd d n => some (word true 0xE#4 0x2#6 d 0x0#7 n)
  | .syswr n b => some (word true 0xE#4 0x3#6 0x0#7 n b)
  | .parkres a => some (word true 0xE#4 0x4#6 0x0#7 a 0x0#7)
  | .fltrec d a => some (word true 0xE#4 0x5#6 d a 0x0#7)
  | .powerOff => none
  | .firmwareUncorrectableError => none
  | .ptpHoldover => none
  | .eviction _ => none
  | .frameRingFill _ _ _ => none
  | .coreRetirement _ => none
  | .congestionNotification _ _ => none
  | .mkaKeyAgreement _ _ => none

/-- The instruction the decoder reads from a row of spec/opcode_table.json: one 32-bit word. -/
noncomputable def decodeTableWord (nbits w : Nat) : Option Instr :=
  if nbits = 32 ∧ w < 2 ^ 32 then
    match decode (BitVec.ofNat 32 w) with
    | .ok i => some i
    | .error _ => none
  else none

end Sys2Proof
end

