-- ==== Sys2Proof/Machine/Engine.lean ====
section
/-! DEFINITION. What the engines of a core share: their queues and status words, the range-overlap scoreboard, the
addresses their commands reach, and fault service (spec/08 R219 R231 to R236, spec/09 R247 R261, spec/13 R362 R363). -/

namespace Sys2Proof.Machine

/-! ### Queues and status words (spec/08 R232 R233) -/

/-- Selectors of the matrix queue and of the hamper control. -/
def selMatrix : Nat := 4
def selHamper : Nat := 5

def State.cmds (s : State) (core sel : Nat) : List Cmd := (s.core core).queues.getD sel []
/-- The command that the head of a queue performs; none while the core's clock is held (spec/14 R369). -/
def State.cmdHead (s : State) (core sel : Nat) : Option Cmd := if (s.core core).held then none else (s.cmds core sel).head?

/-- Change a queued command, named by its issue order. -/
def State.modCmd (s : State) (core sel ord : Nat) (f : Cmd → Cmd) : State :=
  s.modCore core (fun c => { c with queues := c.queues.modify sel (fun q => q.map (fun x => if x.ord == ord then f x else x)) })

/-- The status words among which a group's stand: those of its core, also when the queue is another core's, or those saved
with it. -/
def State.statuses (s : State) (core g : Nat) : List QStat :=
  match s.groups[g]? with
  | some G => if G.state == .saved then G.savedQstat else (s.core G.core).qstat
  | none => (s.core core).qstat

/-- A queue reports a status for a group: CODE keeps the first, a fatal one sets HALT. -/
def State.setStatus (s : State) (core sel g code ticket : Nat) : State :=
  let report := fun (l : List QStat) => reportIn l g sel code ticket
  match s.groups[g]? with
  | some G =>
    if G.state == .saved then s.modGroup g (fun G => { G with savedQstat := report G.savedQstat })
    else s.modCore G.core (fun c => { c with qstat := report c.qstat })
  | none => s.modCore core (fun c => { c with qstat := report c.qstat })

/-- The group's entries in the queue are discarded. -/
def State.halted (s : State) (core sel g : Nat) : Bool := (statusIn (s.statuses core g) g sel).halt

/-- Enter a command in a queue in issue order; it counts in class 3 of its wave. `dreg` is a destination that it writes
when it completes. -/
def State.pushCmd (s : State) (c : Ctx) (sel : Nat) (op : CmdOp) (desc : List Word) (ivs : List Iv) (dreg : Option Nat)
    (rows : Nat) (gen : Word) : State :=
  let k := s.core c.grp.core
  let cmd : Cmd :=
    { ord := k.nextOrd, group := c.cur.g, wave := c.cur.w, pend := c.wave.nextPend, seq := k.seqs.getD sel 0, op := op, desc := desc,
      ivs := ivs, started := false, done := 0, rows := rows, dreg := dreg.getD 0, status := 0, stop := none, run := 0, gen := gen }
  let s := s.modCore c.grp.core (fun k => { k with
    queues := k.queues.modify sel (fun q => q ++ [cmd]), seqs := k.seqs.modify sel (fun n => n + 1), nextOrd := k.nextOrd + 1 })
  s.addPend c 3 true (dreg.toList) (if dreg.isSome then 1#64 else 0#64) c.act .engine false false [] []

/-- A command leaves its queue with a status: it writes its uniform results, leaves class 3, and may be the last thing
that its group waits for. What a cancel has left running completes as CANCELLED (R234). -/
def State.finishCmd (s : State) (core sel : Nat) (x : Cmd) (code : Nat) (out : List Word) : State :=
  let code := if ((s.groups[x.group]?).map (fun G => G.ending.isSome)).getD false then 12 else code
  let s := s.modCore core (fun c => { c with queues := c.queues.modify sel (fun q => q.filter (fun y => y.ord != x.ord)) })
  let s := s.setStatus core sel x.group code x.seq
  let s := s.modWave x.group x.wave (fun wv =>
    let regs := ((wv.pend? x.pend).map Pend.regs).getD []
    ((regs.zip out).foldl (fun wv p => wv.sset p.1 p.2 false) wv).retirePend x.pend)
  s.groupCheck x.group

/-! ### The range-overlap scoreboard (spec/08 R235 R236) -/

/-- Nothing earlier overlaps the command: neither a command of the core nor an access of its wave. -/
def State.mayRun (s : State) (core : Nat) (x : Cmd) : Bool :=
  !((s.unfinished core).any (fun y => decide (y.ord < x.ord) && s.cmdsClash core y x)) && !s.lanesHold x (s.cmdIvs core x)

/-- The scoreboard has no entry for another command. -/
def State.scoreFull (s : State) (core : Nat) : Bool :=
  decide (64 ≤ ((s.core core).queues.map (fun q => (q.filter (fun x => !x.ivs.isEmpty)).length)).foldl (· + ·) 0)

def State.queueFull (s : State) (core sel : Nat) : Bool := decide (32 ≤ (s.cmds core sel).length)

/-- The core on which the present instruction issues. -/
def State.curCore (s : State) : Nat := ((s.ctx?).map (fun c => c.grp.core)).getD 0

/-- A descriptor block of the issuing wave. -/
def State.curBlock (s : State) (a : BitVec 7) (n : Nat) : List Word := ((s.ctx?).map (fun c => c.wave.sblock a.toNat n)).getD []

/-- The state in which a command that issues during an `HPART` of its group is tested for naming scratch: every way is
scratch of the group. -/
def State.anyScratch (s : State) : State :=
  match s.ctx? with
  | none => s
  | some c =>
    if s.hpartBusy c.cur.g c.grp.core then s.modCore c.grp.core (fun k => { k with ways := 12, holder := some c.cur.g }) else s

/-- The interval names scratch while an `HPART` of the group is in progress (spec/05 R152). -/
def scratchBusy (s : State) (ivs : List Iv) : Bool :=
  match s.ctx? with
  | none => false
  | some c => s.hpartBusy c.cur.g c.grp.core && ivs.any (fun v => !v.acm && decide (v.lo < scratchBase + 12 * waySize) &&
      decide (scratchBase < v.hi))

/-- A local interval [a, a + n) of an instruction that issues: the cause when it does not lie in one window. -/
def Ctx.localIv (c : Ctx) (s : State) (a n : Nat) (wr : Bool) : Option Iv :=
  if n = 0 then none
  else (s.localLoc c.cur.g c.grp c.lau a n).map (fun _ => { acm := false, lo := a, hi := a + n, wr := wr })

/-! ### Fault service of engines (spec/08 R231, spec/13 R362 R363) -/

/-- Ask for the service of a translation fault: firmware in hardware mode, the job's host in host-assisted mode. None
where the request counts as refused: no service queue, or no room for its body (DEDUCED, assumption 18). -/
def State.askService (s : State) (job : Nat) (body : ReqBody) (recs : List Rec) : Option (Nat × State) :=
  let id := s.nextReq
  if s.mode 0 then
    let r := recs.head?
    (s.jobRequest 0 job body recs.length (recs.flatMap (fun r => wordsBytes r.words))
      ((r.map (fun r => BitVec.ofNat 32 r.cause)).getD 0#32) ((r.map (fun r => lo32 r.va)).getD 0#32)).map (fun s =>
        (id, { s with requests := s.requests.map (fun x => if x.id == id then { x with recs := recs } else x) }))
  else
    some (id, { s with
      nextReq := id + 1
      requests := s.requests ++ [{ id := id, typ := 0, job := job, body := body, off := 0, len := 0, hw := true, recs := recs }] })

/-- A command stops for fault service; refused, it ends with PAGE_REFUSED. -/
def State.stopCmd (s : State) (core sel : Nat) (x : Cmd) (wr : Bool) (f : Flt) : State :=
  match s.groups[x.group]?, (s.wave? x.group x.wave).bind (fun wv => wv.pend? x.pend) with
  | some G, some p =>
    match s.askService G.job (.command x.group x.wave x.pend) [p.record 0 true wr f] with
    | some (_, s) => s.modCmd core sel x.ord (fun y => { y with stop := some (f.cause, f.va) })
    | none => (s.setStatus core sel x.group 3 x.seq).modCmd core sel x.ord (fun y => { y with status := 3 })
  | _, _ => s

/-- The request of a stopped command has no answer yet. -/
def State.unanswered (s : State) (x : Cmd) : Bool := s.requests.any (fun r => r.body == .command x.group x.wave x.pend)

/-- A command ends with an error. -/
def State.failCmd (s : State) (core sel : Nat) (x : Cmd) (code : Nat) : State :=
  (s.setStatus core sel x.group code x.seq).modCmd core sel x.ord (fun y => { y with status := code })

/-! ### Addresses that a command reaches -/

/-- The status of a translation fault that is not serviceable (Table 08.5). -/
def faultCode (cause : Nat) : Nat :=
  if cause = cPermission then 4 else if cause = cGlobalRange then 6 else if cause = cPoison then 7 else 5

/-- What an engine finds at an address: a location and its page, a fault to service, an error, or a column that is not
ready yet. -/
inductive Reach where
  | at_ (p : Page) (l : Loc)
  | stop (f : Flt)
  | fail (code : Nat)
  | wait

/-- A location found at once, or a column that is not ready. -/
def State.columnGate (s : State) (va : DWord) (pst : Nat) (pa : Nat) (ok : Reach) : Reach :=
  if s.serves pa then ok
  else if s.mode 0 then .stop { cause := cColumn, va := va, pst := pst, lvl := 0 } else .wait

/-- Translate `n` bytes at a global address for a command, which accepts some leaf kinds. -/
def State.reach (s : State) (G : Group) (wr : Bool) (kinds : List Nat) (va : DWord) (n : Nat) : Reach × State :=
  if va.extractLsb' 52 12 != 0#12 then (.fail 6, s)
  else
    match s.xpage (coreReq G.core G.job wr false) va with
    | (.fault f, s) => (if serviceable f.cause then .stop f else .fail (faultCode f.cause), s)
    | (.page p, s) =>
      let off := va.toNat % 2 ^ pageShift p.lvl
      if !kinds.contains p.kind then (.fail 8, s)
      else if p.kind = 2 ∨ p.kind = 3 then
        (if p.pages * 16384 < off + n then .fail 5 else .at_ p (.host p.peer (p.base + off)), s)
      else if !s.inKind p.kind (p.base + off) n then (.fail 5, s)
      else (s.columnGate va 0 (p.base + off) (.at_ p (.phys (p.base + off))), s)

/-- The location of local bytes of a command's group. -/
def State.reachLocal (s : State) (g : Nat) (G : Group) (a n : Nat) : Reach :=
  let here := { kind := 0, lvl := 0, entry := 0#64, base := 0, peer := 0, qpn := 0, port := 0, key := 0#32, pages := 0 : Page }
  match s.localLoc g G (s.launch G.launch) a n with
  | none => .fail 5
  | some (.phys pa) => s.columnGate (BitVec.ofNat 64 a) 6 pa (.at_ here (.phys pa))
  | some l => .at_ here l

/-- The group is saved. -/
def State.savedNow (s : State) (g : Nat) : Bool := (s.groups[g]?).any (fun G => G.state == .saved)

/-- Bytes land: those that a command counts go to the barrier object that it names (spec/07 R211); while its group is saved they
are noted, and counted at restore (R214). -/
def State.countOn (s : State) (core sel : Nat) (x : Cmd) (cnt : Bool) (bar n : Nat) : State :=
  if !cnt then s
  else if s.savedNow x.group then s.modGroup x.group (fun G => { G with owed := G.owed ++ [(sel, x.seq, bar, n)] })
  else
    match s.countBytes x.group bar n with
    | some s => s
    | none => s.setStatus core sel x.group 1 x.seq

/-- The word that ends at a location has been written whole: its mark goes. -/
def State.locClean (s : State) (G : Group) (l : Loc) : State :=
  let drop := fun (p : List Nat) (a : Nat) => unmark p ((a - 1) / 8 * 8) 8
  match l with
  | .clm o => s.modCore G.core (fun c => { c with clmP := drop c.clmP (G.clmBase + o) })
  | .scratch o => s.modCore G.core (fun c => { c with scrP := drop c.scrP o })
  | .phys pa => { s with memP := drop s.memP pa }
  | .host p a => s.modHostLine p ((a - 1) / 128) (fun l => { l with marks := drop l.marks a })

def Loc.aligned (l : Loc) : Bool :=
  match l with
  | .clm o | .scratch o | .phys o | .host _ o => o % 8 == 0

/-- Whole bytes that element f completes in a stream of elements of `w` bits. -/
def bytesDone (w f : Nat) : Nat := (f + 1) * w / 8 - f * w / 8

/-- An element of `w` bits extends a run of bits, unless it starts one; a marked element ends it. -/
def runAfter (bad start : Bool) (run w : Nat) : Nat := if bad then 0 else if start then w else run + w

/-- A run of bits that ends at bit `b` past a location: when it covers the whole word that ends there, the word's mark goes. -/
def State.cleanBehind (s : State) (G : Group) (l : Loc) (b run : Nat) : State :=
  if decide (64 ≤ run) && b % 8 == 0 && (l.add (b / 8)).aligned then s.locClean G (l.add (b / 8)) else s

/-- Mark the words of a store as poisoned. -/
def State.locMark (s : State) (G : Group) (l : Loc) : State :=
  match l with
  | .clm o => s.modCore G.core (fun c => { c with clmP := mark c.clmP (G.clmBase + o) })
  | .scratch o => s.modCore G.core (fun c => { c with scrP := mark c.scrP o })
  | .phys pa => { s with memP := mark s.memP pa }
  | .host p a => s.hostMark p a

/-- Store bytes with or without the poison mark, which goes to every word that they touch. -/
def State.store (s : State) (G : Group) (l : Loc) (b : List Byte) (poison : Bool) : State :=
  let s := s.laneWrite true G (G.reader 0 0#64) l b
  if poison then (s.locMark G l).locMark G (l.add (b.length - 1)) else s

/-- Store the bits [sh, sh + w) of the bytes at a location. -/
def State.storeBits (s : State) (G : Group) (l : Loc) (sh w x : Nat) (poison : Bool) : State :=
  if sh = 0 ∧ w % 8 = 0 then s.store G l (leBytes (w / 8) x) poison
  else
    let n := (sh + w + 7) / 8
    let old := leNat (s.locRead G l n)
    let new := old % 2 ^ sh + 2 ^ sh * (x % 2 ^ w) + 2 ^ (sh + w) * (old / 2 ^ (sh + w))
    (s.locTouch l n).store G l (leBytes n new) poison

end Sys2Proof.Machine
end

