-- ==== Sys2Proof/Machine/Copy.lean ====
section
/-! DEFINITION. Uniform group 6 and the copy engine: `CPY`, `QFENCE`, `QSTAT`, the elements of a command, compressed
pages, remote writes (spec/08 R219 to R236). -/

namespace Sys2Proof.Machine

/-! ### The descriptor (R223 R224) -/

structure CopyDesc where
  g : DWord
  l : Nat
  mode : Nat
  slot : Nat
  esz : Nat
  e0 : Nat
  e1 : Nat
  e2 : Nat
  e3 : Nat
  bar : Nat
  cnt : Bool
  slot2 : Nat
  dir : Nat
  top : Bool
  s1 : Nat
  s2 : Nat
  s3 : Nat

def CopyDesc.ofWords (ws : List Word) : CopyDesc :=
  let w := fun (n : Nat) => ws.getD n 0#32
  let f := fun (n lo k : Nat) => ((w n).extractLsb' lo k).toNat
  { g := pairOf (w 0) ((w 1) &&& 0xFFFFF#32), l := (w 2).toNat + 2 ^ 32 * f 1 20 4, mode := f 1 24 3, slot := f 1 27 3,
    esz := f 1 30 2, e0 := f 3 0 16, e1 := f 3 16 16, e2 := f 4 0 12, e3 := f 4 12 8, bar := f 4 20 6, cnt := (w 4).getLsbD 26,
    slot2 := f 4 27 3, dir := f 4 30 1, top := (w 4).getLsbD 31, s1 := (w 5).toNat, s2 := (w 6).toNat, s3 := (w 7).toNat }

/-- CONVERT or EF. -/
def CopyDesc.converts (d : CopyDesc) : Bool := d.mode == 1 || d.mode == 2
def CopyDesc.compressed (d : CopyDesc) : Bool := d.mode == 3 || d.mode == 4
def CopyDesc.count (d : CopyDesc) : Nat := d.e0 * d.e1 * d.e2 * d.e3

/-- Element widths in bits: global side, local side, residue. -/
def CopyDesc.gw (d : CopyDesc) (L : Launch) : Nat :=
  if !d.converts then 8 * 2 ^ d.esz else if d.mode = 1 ∧ d.dir = 0 then (L.slot d.slot2).bits else (L.slot d.slot).bits
def CopyDesc.lw (d : CopyDesc) (L : Launch) : Nat :=
  if !d.converts then 8 * 2 ^ d.esz
  else if d.mode = 2 then 32 else if d.dir = 0 then (L.slot d.slot).bits else (L.slot d.slot2).bits
def CopyDesc.rw (d : CopyDesc) (L : Launch) : Nat := if d.mode = 2 then (L.slot d.slot2).bits else 0

/-- Bytes that alignment asks for. -/
def alignOf (w : Nat) : Nat := max 1 (w / 8)
def subByte (w : Nat) : Bool := w == 4 || w == 6

/-- The row of Table 08.3 and the extents. -/
def CopyDesc.wellFormed (d : CopyDesc) (L : Launch) : Bool :=
  let gb := alignOf (d.gw L)
  let widths := [d.gw L, d.lw L]
  let stride := fun (e s : Nat) => e == 1 || s % gb == 0
  !d.top && decide (d.mode ≤ 5) &&
    decide (0 < d.e0) && decide (0 < d.e1) && decide (0 < d.e2) && decide (0 < d.e3) &&
    (match d.mode with
     | 0 => d.slot == 0 && d.slot2 == 0
     | 1 => d.esz == 0
     | 2 => d.esz == 0 && d.dir == 1 && d.e3 == 1
     | 3 => d.dir == 0
     | 4 => d.dir == 1
     | _ => d.dir == 1 && d.slot == 0 && d.slot2 == 0) &&
    (!d.compressed || (d.e1 == 1 && d.e2 == 1 && d.e3 == 1 && d.g.toNat % 256 == 0 && (d.e0 * 2 ^ d.esz) % 256 == 0)) &&
    (!d.converts || (decide ((L.slot d.slot).code ≤ 12) && decide ((L.slot d.slot2).code ≤ 12))) &&
    d.g.toNat % gb == 0 && stride d.e1 d.s1 && stride d.e2 d.s2 && (d.mode == 2 || stride d.e3 d.s3) &&
    widths.all (fun w => !subByte w || d.e0 * w % 8 == 0) && (!d.cnt || decide (d.bar < L.bars))

/-- Local bytes of the box and of the residues (R225). -/
def CopyDesc.lbytes (d : CopyDesc) (L : Launch) : Nat := (d.count * d.lw L + 7) / 8
def CopyDesc.rbytes (d : CopyDesc) (L : Launch) : Nat := (d.count * d.rw L + 7) / 8

/-- The intervals of a command; none where they do not lie in one window each. -/
def CopyDesc.ivs (d : CopyDesc) (c : Ctx) (s : State) : Option (List Iv) :=
  match c.localIv s d.l (d.lbytes c.lau) (d.dir == 0) with
  | none => none
  | some v =>
    if d.mode = 2 then (c.localIv s d.s3 (d.rbytes c.lau) true).map (fun r => [v, r]) else some [v]

/-- What the checks at issue find: a cause, or the intervals. -/
def CopyDesc.check (d : CopyDesc) (c : Ctx) (s : State) : Nat ⊕ List Iv :=
  if !d.wellFormed c.lau then .inl cBadDescriptor
  else if d.l % alignOf (d.lw c.lau) != 0 || (d.mode == 2 && d.s3 % alignOf (d.rw c.lau) != 0) then .inl cMisaligned
  else
    match d.ivs c s with
    | none => .inl cLocalRange
    | some ivs => .inr ivs

/-! ### Issue (R219 to R222, R233) -/

/-- The intervals of the `CPY` that issues, for the tests that hold it back. -/
def copyIvs (a : BitVec 7) (s : State) : List Iv :=
  match s.ctx? with
  | none => []
  | some c => ((CopyDesc.ofWords (c.wave.sblock a.toNat 8)).ivs c s.anyScratch).getD []

def execCpy (d a q : BitVec 7) (s : State) : Out' :=
  let full := s.queueFull s.curCore q.toNat
  let score := s.scoreFull s.curCore
  issue { uni := true, long := true, ctr := 3, bad := firstBroken [blockOf 8 a, below 4 q], mem := true,
          uses := [rdS a 8, wrS d], hold := full || score || scratchBusy s (copyIvs a s),
          why := if full then 19 else if score then 20 else 24 } s fun c s =>
    let ws := c.wave.sblock a.toNat 8
    match (CopyDesc.ofWords ws).check c s with
    | .inl cause => raise c s cause
    | .inr ivs =>
      let seq := (s.core c.grp.core).seqs.getD q.toNat 0
      let s := s.pushCmd c q.toNat .copy ws ivs none 0 (srInit c.wave.sr.seed (64 + q.toNat))
      (s.setUni c d (BitVec.ofNat 32 (seq % 2 ^ 16 + 2 ^ 16 * q.toNat)), .next)

/-- A command among all those of the device: its group, wave and pending instruction. -/
def Cmd.name (x : Cmd) : Nat × Nat × Nat := (x.group, x.wave, x.pend)

/-- The entries issued to a queue of a core that have not completed: those in it, and those that were saved with their groups
from the core. -/
def State.entriesOf (s : State) (core sel : Nat) : List Cmd :=
  s.cmds core sel ++ (s.groups.filter (fun G => G.state == .saved && G.core == core)).flatMap (fun G =>
    (G.savedCmds.filter (fun y => y.1 == sel)).map Prod.snd)

/-- `QFENCE` (R222): it waits for the entries issued before it; a mask that names its own queue alone adds nothing to the order of
the queue. -/
def execQfence (q m : BitVec 7) (s : State) : Out' :=
  issue { uni := true, long := true, ctr := 3, bad := firstBroken [below 4 q, below 16 m], mem := true,
          hold := s.queueFull s.curCore q.toNat, why := 19 } s fun c s =>
    let waits := if m.toNat = 2 ^ q.toNat then [] else
      (List.range 4).flatMap (fun i => if m.getLsbD i then (s.entriesOf c.grp.core i).map Cmd.name else [])
    (s.pushCmd c q.toNat (.qfence waits) [] [] none 0 0#32, .next)

def execQstat (d q k : BitVec 7) (s : State) : Out' :=
  issue { uni := true, long := true, bad := firstBroken [below 6 q, below 2 k, positive d], uses := [wrS d],
          instant := [d.toNat] } s fun c s =>
    let core := c.grp.core
    let w := (s.core core).qstatWord c.cur.g q.toNat
    let s := if k = 1#7 then
        s.modCore core (fun n => { n with qstat := n.qstat.filter (fun x => !(x.group == c.cur.g && x.sel == q.toNat)) })
      else s
    (s.setUni c d w, .next)

/-! ### Moving one element (R225 R226 R231) -/

/-- An element of `w` bits at a bit address: byte, first bit, bits of each part. Elements of whole bytes are one part;
a narrower one is cut where it crosses into the next byte. -/
def bitParts (bit w : Nat) : List (Nat × Nat × Nat) :=
  if 8 ≤ w then [(bit / 8, 0, w)]
  else
    let a := min w (8 - bit % 8)
    (bit / 8, bit % 8, a) :: (if a < w then [(bit / 8 + 1, 0, w - a)] else [])

/-- A part that has been reached: its page, location, first bit and bits. -/
structure Part where
  page : Page
  loc : Loc
  va : DWord
  sh : Nat
  w : Nat

inductive Parts where
  | ok (l : List Part)
  | stop (f : Flt)
  | fail (code : Nat)
  | wait

/-- Reach every part of an element. -/
def reachParts (f : State → DWord → Nat → Reach × State) (base : DWord) : State → List (Nat × Nat × Nat) → Parts × State
  | s, [] => (.ok [], s)
  | s, (b, sh, w) :: t =>
    let va := base + BitVec.ofNat 64 b
    match f s va ((sh + w + 7) / 8) with
    | (.stop x, s) => (.stop x, s)
    | (.fail n, s) => (.fail n, s)
    | (.wait, s) => (.wait, s)
    | (.at_ p l, s) =>
      match reachParts f base s t with
      | (.ok r, s) => (.ok ({ page := p, loc := l, va := va, sh := sh, w := w } :: r), s)
      | r => r

/-- The element read at its parts, lowest first, and whether it carries the poison mark. Of the copies in its hamper the engine
reads those of an Open frame's lines alone (assumption 9). -/
def readParts (G : Group) (glob : Bool) : State → List Part → Nat × Bool × State
  | s, [] => (0, false, s)
  | s, p :: t =>
    let r := s.laneRead G (G.reader 0 0#64) glob true p.va p.loc ((p.sh + p.w + 7) / 8)
    let (x, bad, s) := readParts G glob r.s t
    (leNat r.bytes / 2 ^ p.sh % 2 ^ p.w + 2 ^ p.w * x, r.bad.any id || bad, s)

/-- Send bytes to a peer (R230). -/
def State.sendRemote (s : State) (p : Page) (a : Nat) (b : List Byte) : State :=
  let s := s.hostPut p.peer a b
  s.emit (.write p.qpn p.port p.key a b)

/-- Write an element at its parts. What goes to a peer is bytes: no message carries the poison mark (DEDUCED, assumption 62). -/
def writeParts (G : Group) (poison : Bool) : State → List Part → Nat → State
  | s, [], _ => s
  | s, p :: t, x =>
    let s := match p.page.kind, p.loc with
      | 3, .host _ a => s.sendRemote p.page a (leBytes (p.w / 8) x)
      | _, l => s.storeBits G l p.sh p.w x poison
    writeParts G poison s t (x / 2 ^ p.w)

/-- The word that ends with the last of some parts, after a run of bits, loses its mark where the run covers it. -/
def State.cleanEnd (s : State) (G : Group) (l : List Part) (run : Nat) : State :=
  match l.getLast? with
  | some p => s.cleanBehind G p.loc (p.sh + p.w) run
  | none => s

/-- Draw from a copy's generator when the slot rounds stochastically (R59 R60). -/
def drawFor (t : Slot) (st : Word) : Word := if t.stochastic then srStep st else st

/-- The difference of R226: exact, +0 where one side is not finite. A difference of -0 and +0 is +0 (DESIGN CHOICE, assumption
62). -/
def residue (x y : Fp) : Fp :=
  match x, y with
  | .fin a, .fin b => .fin (a.add b.negate)
  | _, _ => .fin (Dy.zero false)

/-- What an element becomes: destination bits, residue bits, generator. A source element of f64 is taken as it is and rounded once
to the destination (DEDUCED, assumption 62). -/
def CopyDesc.element (d : CopyDesc) (L : Launch) (st : Word) (x : Nat) : Nat × Nat × Word :=
  let t := L.slot d.slot
  let t2 := L.slot d.slot2
  match d.mode with
  | 1 =>
    let st := drawFor t st
    ((narrow (widenV t2 x) t (srU st)).1, 0, st)
  | 2 =>
    let st := drawFor t st
    let v := f32.read x
    let y := (narrow v t (srU st)).1
    let st := drawFor t2 st
    (y, (narrow (residue v (widenV t y)) t2 (srU st)).1, st)
  | _ => (x, 0, st)

/-- Leaf kinds of Table 08.3. -/
def CopyDesc.kinds (d : CopyDesc) : List Nat :=
  match d.mode with
  | 3 | 4 => [4]
  | 5 => [3]
  | _ => [0, 1, 2]

/-- The command has performed `n` more elements; one that was read ahead has landed. -/
def State.advanceCmd (s : State) (core q : Nat) (x : Cmd) (n : Nat) (gen : Word) : State :=
  s.modCmd core q x.ord (fun y => { y with started := true, done := y.done + n, gen := gen, ahead := y.ahead.drop 1 })

/-- The outcome of reaching a side of an element: go on with its parts, or stop there. -/
def State.orStop (s : State) (core q : Nat) (x : Cmd) (wr : Bool) (r : Parts) (go : List Part → State → Option State) :
    Option State :=
  match r with
  | .ok l => go l s
  | .stop f => some ((s.stopCmd core q x wr f).modCmd core q x.ord (fun y => { y with started := true }))
  | .fail n => some ((s.failCmd core q x n).modCmd core q x.ord (fun y => { y with started := true }))
  | .wait => none

/-- The parts of element `f` of a command on its local side. -/
def CopyDesc.localParts (d : CopyDesc) (L : Launch) (f : Nat) : List (Nat × Nat × Nat) := bitParts (8 * d.l + f * d.lw L) (d.lw L)

/-- Reach local bytes of a group for a command. -/
def reachOwn (g : Nat) (G : Group) (s : State) (va : DWord) (n : Nat) : Reach × State := (s.reachLocal g G va.toNat n, s)

/-- One element of a PLAIN, CONVERT, EF or REMOTE command; none while a column is not ready. An element of an export that was read
ahead needs its local side no more. -/
def State.copyElement (s : State) (core q : Nat) (x : Cmd) (G : Group) (d : CopyDesc) : Option State :=
  let L := s.launch G.launch
  let f := x.done
  let i0 := f % d.e0
  let r := f / d.e0
  let row := d.g + BitVec.ofNat 64 (r % d.e1 * d.s1 + r / d.e1 % d.e2 * d.s2 + (if d.mode = 2 then 0 else r / (d.e1 * d.e2) * d.s3))
  let wr := d.dir == 1
  let loc := reachOwn x.group G
  let (gp, s) := reachParts (fun s va n => s.reach G wr d.kinds va n) row s (bitParts (i0 * d.gw L) (d.gw L))
  s.orStop core q x wr gp fun gl s =>
    let (lp, s) := reachParts loc 0#64 s (if x.ahead.isEmpty then d.localParts L f else [])
    s.orStop core q x wr lp fun ll s =>
      let (rp, s) := reachParts loc 0#64 s (if d.mode = 2 then bitParts (8 * d.s3 + f * d.rw L) (d.rw L) else [])
      s.orStop core q x wr rp fun rl s =>
        let (src, dst) := if d.dir = 0 then (gl, ll) else (ll, gl)
        let (v, bad, s) := match x.ahead with
          | [] => readParts G (!wr) s src
          | (v, b) :: _ => (v, b, s)
        let (y, res, gen) := d.element L x.gen v
        let s := writeParts G bad s dst y
        let w := if d.dir = 0 then d.lw L else d.gw L
        let run := runAfter bad (f == 0 || (d.dir == 1 && i0 == 0)) x.run w
        let s := writeParts G bad (s.cleanEnd G dst run) rl res
        let s := s.cleanEnd G rl (run / w * d.rw L)
        let n := bytesDone w f + bytesDone (d.rw L) f
        let s := s.modCmd core q x.ord (fun y => { y with run := run })
        some ((s.advanceCmd core q x 1 gen).countOn core q x d.cnt d.bar n)

/-- The values that an export has still to land, read at once from element `f` on; none where some of its local bytes cannot be
reached. -/
def State.readRest (s : State) (g : Nat) (G : Group) (d : CopyDesc) : Nat → Nat → Option (List (Nat × Bool))
  | 0, _ => some []
  | n + 1, f =>
    match reachParts (reachOwn g G) 0#64 s (d.localParts (s.launch G.launch) f) with
    | (.ok l, _) =>
      let r := readParts G false s l
      (s.readRest g G d n (f + 1)).map (fun t => (r.1, r.2.1) :: t)
    | _ => none

/-! ### Compressed pages (R227 to R229) -/

/-- Address of the metadata of a frame (spec/06 R174). -/
def State.metaAddr (s : State) (pa : Nat) : Nat := (pairOf (s.cfgWord 4) (s.cfgWord 5)).toNat + pa / 2 ^ 14 * 64

def zigzag (w d : Nat) : Nat :=
  if 2 ^ (w - 1) ≤ d then (2 * d % 2 ^ w) ^^^ (2 ^ w - 1) else 2 * d
def unzigzag (w z : Nat) : Nat := if z % 2 = 1 then (z / 2) ^^^ (2 ^ w - 1) else z / 2

/-- Differences of neighbours modulo 2^w. -/
def deltas (w : Nat) : List Nat → List Nat
  | a :: b :: t => (b + 2 ^ w - a) % 2 ^ w :: deltas w (b :: t)
  | _ => []

/-- Bit `b` of each of a list of numbers, lowest first. -/
def plane (b : Nat) : List Nat → Nat
  | [] => 0
  | z :: t => z / 2 ^ b % 2 + 2 * plane b t

/-- Planes 0 to P - 1, of n bits each. -/
def planes (z : List Nat) (n : Nat) : Nat → Nat
  | 0 => 0
  | P + 1 => planes z n P + 2 ^ (n * P) * plane P z

/-- DB: the metadata byte and the bytes stored at the start of the slot (R228). -/
def dbEncode (w : Nat) (b : List Byte) : Nat × List Byte :=
  if b.all (fun x => x == 0#8) then (0, [])
  else
    let N := 2048 / w
    let e := (List.range N).map (fun j => leNat ((b.drop (w / 8 * j)).take (w / 8)))
    let z := (deltas w e).map (zigzag w)
    let m := z.foldl max 0
    let P := if m = 0 then 0 else m.log2 + 1
    let k := (8 + w + P * (N - 1) + 255) / 256
    if 8 ≤ k then (8, b) else (k, leBytes (32 * k) (P + 2 ^ 8 * e.headD 0 + 2 ^ (8 + w) * planes z (N - 1) P))

/-- DB: the elements of a block encoded in a slot; none where the plane count fits no element (assumption 19). -/
def dbDecode (w : Nat) (slot : List Byte) : Option (List Byte) :=
  let x := leNat slot
  let N := 2048 / w
  let P := x % 256
  if w < P then none
  else
    let z := fun (j : Nat) => (List.range P).foldl (fun a b => a + 2 ^ b * (x / 2 ^ (8 + w + b * (N - 1) + j) % 2)) 0
    let e := (List.range (N - 1)).foldl (fun (l : List Nat) j => ((l.headD 0 + unzigzag w (z j)) % 2 ^ w) :: l) [x / 2 ^ 8 % 2 ^ w]
    some (e.reverse.flatMap (leBytes (w / 8)))

/-- Mark the words of 256 bytes at `dst` whose elements of `n` bytes come from marked words at `src`. -/
def State.carryMarks (s : State) (G : Group) (src dst : Loc) (n : Nat) : State :=
  (List.range (256 / n)).foldl (fun s j =>
    if s.locPoison G (src.add (n * j)) n then s.locMark G (dst.add (n * j)) else s) s

/-- The elements of `n` bytes of a decompressed block, with their poison marks (R201 R228 R229): `zero` says which 32-byte sectors are
stored nowhere, `spoiled` that the whole block is poisoned. -/
def blockElements (p : List Nat) (pa n : Nat) (b : List Byte) (inPlace spoiled : Bool) (zero : Nat → Bool) : List (Nat × Bool) :=
  (List.range (256 / n)).map (fun j =>
    (leNat ((b.drop (n * j)).take n), spoiled || (inPlace && !zero (n * j / 32) && marked p (pa + n * j) n)))

/-- What a DECOMP reads of a block in one transaction: its elements; none where it cannot be decoded. -/
def State.readBlock (s : State) (db : Bool) (pa n k : Nat) : Option (List (Nat × Bool)) × State :=
  let elems := blockElements s.memP pa n
  if !db then
    let b := (List.range 8).flatMap (fun i => if k.testBit i then List.replicate 32 0#8 else s.peek (pa + 32 * i) 32)
    (some (elems b true false k.testBit), s)
  else if k = 0 then (some (elems (List.replicate 256 0#8) false false (fun _ => true)), s)
  else if 8 < k then (none, s)
  else if k = 8 then (some (elems (s.peek pa 256) true false (fun _ => false)), s)
  else
    let spoiled := marked s.memP pa (32 * k)
    match dbDecode (8 * n) (s.peek pa 256) with
    | some b => (some (elems b false spoiled (fun _ => true)), s)
    | none => (some (elems (leBytes 256 s.draw.1) false spoiled (fun _ => true)), s.draw.2)

/-- The next element of a block that a DECOMP has read lands in local memory: each alone, so that a reader may see any mix of old and
new elements (spec/07 R200). -/
def State.landElement (s : State) (core q : Nat) (x : Cmd) (G : Group) (d : CopyDesc) (y : Nat × Bool) : Option State :=
  let n := 2 ^ d.esz
  match s.reachLocal x.group G (d.l + x.done * n) n with
  | .at_ _ l =>
    let run := runAfter y.2 (x.done == 0) x.run (8 * n)
    let s := ((s.store G l (leBytes n y.1) y.2).cleanBehind G l (8 * n) run).modCmd core q x.ord (fun y => { y with run := run })
    some ((s.advanceCmd core q x 1 x.gen).countOn core q x d.cnt d.bar n)
  | .stop f => some (s.stopCmd core q x false f)
  | .fail n => some (s.failCmd core q x n)
  | .wait => none

/-- One 256-byte block of COMP, the reading of one of DECOMP, or an element of one that was read; none while a column is not
ready. -/
def State.copyBlock (s : State) (core q : Nat) (x : Cmd) (G : Group) (d : CopyDesc) : Option State :=
  let size := 2 ^ d.esz
  let wr := d.dir == 1
  match x.ahead with
  | y :: _ => s.landElement core q x G d y
  | [] =>
  let (gr, s) := s.reach G wr [4] (d.g + BitVec.ofNat 64 (x.done * size)) 256
  let one := fun (r : Reach) => match r with
    | .at_ p l => Parts.ok [{ page := p, loc := l, va := 0#64, sh := 0, w := 0 }]
    | .stop f => .stop f
    | .fail n => .fail n
    | .wait => .wait
  s.orStop core q x wr (one gr) fun gl s =>
    s.orStop core q x wr (one (s.reachLocal x.group G (d.l + x.done * size) 256)) fun ll s =>
      match gl, ll with
      | [gp], [lp] =>
        match gp.loc with
        | .phys pa =>
          let db := eCsch gp.page.entry
          let blk := pa % 2 ^ 14 / 256
          let meta_ := s.metaAddr pa + blk
          let fin := fun (s : State) => (s.advanceCmd core q x (256 / size) x.gen).countOn core q x d.cnt d.bar 256
          if db && d.esz == 3 then some (s.failCmd core q x 8)
          else if wr then
            let b := s.locRead G lp.loc 256
            let bad := s.locPoison G lp.loc 256
            let s := s.locTouch lp.loc 256
            if db then
              let (k, out) := if bad then (8, b) else dbEncode (8 * size) b
              let s := if out.isEmpty then s else s.poke pa out
              let s := s.poke meta_ [BitVec.ofNat 8 k]
              some (fin (if bad then s.carryMarks G lp.loc (.phys pa) size else s))
            else
              let zero := fun (i : Nat) => ((b.drop (32 * i)).take 32).all (fun y => y == 0#8) && !s.locPoison G (lp.loc.add (32 * i)) 32
              let s' := (List.range 8).foldl (fun s i => if zero i then s else s.poke (pa + 32 * i) ((b.drop (32 * i)).take 32)) s
              let bits := (List.range 8).foldl (fun n i => n + (if zero i then 2 ^ i else 0)) 0
              let s' := s'.poke meta_ [BitVec.ofNat 8 bits]
              some (fin (if bad then s'.carryMarks G lp.loc (.phys pa) size else s'))
          else
            match s.readBlock db pa size (s.peekNat meta_ 1) with
            | (none, s) => some (s.failCmd core q x 9)
            | (some l, s) => some (s.modCmd core q x.ord (fun y => { y with started := true, ahead := l }))
        | _ => none
      | _, _ => none

/-! ### Events -/

/-- The head command of a copy queue, with its group, where it may move its next element. -/
def State.copyHead (s : State) (core q : Nat) : Option (Cmd × Group) :=
  match s.cmdHead core q with
  | none => none
  | some x =>
    if x.op == .copy && x.stop.isNone && x.status == 0 && (x.started || !s.halted core q x.group) && s.mayRun core x then
      (s.groups[x.group]?).map (fun G => (x, G))
    else none

/-- The next element or block of the head command. -/
def State.copyStep (s : State) (core q : Nat) : Option State :=
  match s.copyHead core q with
  | none => none
  | some (x, G) =>
    let d := CopyDesc.ofWords x.desc
    if d.count ≤ x.done then none
    else if d.compressed then s.copyBlock core q x G d else s.copyElement core q x G d

/-- Up to `n` elements. -/
def State.copySteps (s : State) (core q : Nat) : Nat → State
  | 0 => s
  | n + 1 =>
    match s.copyStep core q with
    | none => s
    | some s' => s'.copySteps core q n

/-- COPY_COMMAND_RUN (R226): the head command of a queue moves elements in flat order. -/
def execCopyCommandRun (core q count : Nat) (s : State) : Out' :=
  if 4 ≤ q ∨ count = 0 then idle s
  else happens s ((s.copyStep core q).map (fun s => s.copySteps core q (count - 1)))

/-- The write of the next element of the REMOTE command at the head of a queue meets a NAK of the peer, or its transport fails:
the command ends with REMOTE_NAK, and what was acknowledged stays counted (R230). -/
def State.remoteNak (s : State) (core q : Nat) : State :=
  match s.copyHead core q with
  | some (x, _) =>
    let d := CopyDesc.ofWords x.desc
    if d.mode == 5 && decide (x.done < d.count) then
      (s.failCmd core q x 10).modCmd core q x.ord (fun y => { y with started := true })
    else s
  | none => s

/-- COPY_FAULT_RESUME (R231): the service of a stopped command has been answered; it goes on at its failed element. -/
def execCopyFaultResume (core q : Nat) (s : State) : Out' :=
  match s.cmdHead core q with
  | none => idle s
  | some x =>
    if x.op == .copy && x.stop.isSome && !s.unanswered x then
      .next (s.modCmd core q x.ord (fun y => { y with stop := none }))
    else idle s

/-- COPY_COMMAND_COMPLETE (R232): the head command has moved its box, has ended on an error, or is discarded. -/
def execCopyCommandComplete (core q : Nat) (s : State) : Out' :=
  match s.cmdHead core q with
  | none => idle s
  | some x =>
    if x.op != .copy || x.stop.isSome then idle s
    else if !x.started && s.halted core q x.group && x.status == 0 then .next (s.finishCmd core q x 11 [])
    else if x.status != 0 || decide ((CopyDesc.ofWords x.desc).count ≤ x.done) then .next (s.finishCmd core q x 0 [])
    else idle s

/-- An entry that a fence waits for has not completed: it stands in a queue of some core, or is saved with its group. -/
def State.fenceWaits (s : State) (p : Nat × Nat × Nat) : Bool :=
  s.cores.any (fun c => c.queues.any (fun q => q.any (fun y => y.name == p))) ||
    s.groups.any (fun G => G.savedCmds.any (fun y => y.2.name == p))

/-- QFENCE_COMPLETE (R222). -/
def execQfenceComplete (core q : Nat) (s : State) : Out' :=
  match s.cmdHead core q with
  | none => idle s
  | some x =>
    match x.op with
    | .qfence waits =>
      if s.halted core q x.group then .next (s.finishCmd core q x 11 [])
      else if waits.any s.fenceWaits then idle s
      else .next (s.finishCmd core q x 0 [])
    | _ => idle s

end Sys2Proof.Machine
end

