-- ==== Sys2Proof/Machine/Mangle.lean ====
section
/-! DEFINITION. Lane group 13: the mangle, and its reply (spec/08 R237 to R241). -/

namespace Sys2Proof.Machine

/-! ### Functions on the inputs in position order (R238 to R241) -/

/-- Insert a key with its payload behind every key that is not above it. -/
def insertKey (k : Nat × Word × Word) : List (Nat × Word × Word) → List (Nat × Word × Word)
  | [] => [k]
  | x :: t => if k.1 < x.1 then k :: x :: t else x :: insertKey k t

/-- Stable ascending sort by the mapped key; key and payload keep their own bits. -/
def sortKeys (l : List (Nat × Word × Word)) : List (Nat × Word × Word) := l.foldl (fun a k => insertKey k a) []

def keySigned (x : Word) : Nat := (x ^^^ 0x80000000#32).toNat
/-- totalOrder of IEEE 754 (R240). -/
def keyFloat (x : Word) : Nat := (if x.getLsbD 31 then ~~~x else x ^^^ 0x80000000#32).toNat

/-- Every prefix combined left to right; the first is itself. -/
def scanWith (f : Word → Word → Word) : Word → List Word → List Word
  | a, [] => [a]
  | a, x :: t => a :: scanWith f (f a x) t

def scanList (f : Word → Word → Word) : List Word → List Word
  | [] => []
  | x :: t => scanWith f x t

def redList (f : Word → Word → Word) : List Word → Word
  | [] => 0#32
  | x :: t => t.foldl f x

def addF (a b : Word) : Word := BitVec.ofNat 32 (fadd32 a.toNat b.toNat)

/-- One level of the tree of R241. -/
def pairUp : List Word → List Word
  | a :: b :: t => addF a b :: pairUp t
  | l => l

/-- The pairwise tree. -/
def treeSum : Nat → List Word → Word
  | 0, l => l.headD 0#32
  | n + 1, l =>
    match l with
    | [x] => x
    | l => treeSum n (pairUp l)

/-! ### Issue -/

/-- One operation of the mangle: `f` gives the words of each position from the lanes and the operands. The results are
those of the operands read at issue; the reply writes them. The pointer follows the acceptances (R237); which partition is
accepted first when several ask is `State.mangleElse`'s. -/
def mangle (k : Nat) (twoSrc : Bool) (rules : List Rule) (d a b : BitVec 7) (s : State)
    (f : List Nat → List Word → List Word → List (List Word)) : Out' :=
  issue { uni := false, long := true, ctr := 4, bad := firstBroken rules, litB := b, carries := true,
          uses := [rdV a, wrV d k] ++ (if twoSrc then [rdB false b] else []) } s fun c s =>
    let xs := c.lanes.map (fun i => c.A false a i)
    let ys := if twoSrc then c.lanes.map (fun i => c.B false b i) else []
    let bad := c.lanes.any (fun i => c.wave.vpoison a.toNat i || (twoSrc && c.cur.lit.isNone && c.wave.vpoison b.toNat i))
    let wrs := (c.lanes.zip (f c.lanes xs ys)).flatMap (fun p =>
      p.2.zipIdx.map (fun x => { lane := p.1, reg := d.toNat + x.2, val := x.1, poison := bad : Wr }))
    let s := s.modCore c.grp.core (fun n => { n with mangle := (c.wave.part + 1) % 4 })
    (s.addPend c 4 false ((List.range k).map (fun j => d.toNat + j)) c.act c.act .mangle false false [] wrs, .next)

/-- A sort by a key mapping. -/
def mangleSort (key : Word → Nat) (d a b : BitVec 7) (s : State) : Out' :=
  mangle 2 true [multipleOf 2 d] d a b s (fun _ xs ys =>
    (sortKeys ((xs.zip ys).map (fun p => (key p.1, p.1, p.2)))).map (fun x => [x.2.1, x.2.2]))

/-- A result for every position. -/
def mangleEach (d a : BitVec 7) (s : State) (f : List Nat → List Word → List Word) : Out' :=
  mangle 1 false [] d a 0#7 s (fun ls xs _ => (f ls xs).map (fun x => [x]))

/-- One result for every lane. -/
def mangleAll (d a : BitVec 7) (s : State) (f : List Word → Word) : Out' :=
  mangleEach d a s (fun _ xs => xs.map (fun _ => f xs))

def execXsortI (d a b : BitVec 7) (s : State) : Out' := mangleSort keySigned d a b s
def execXsortN (d a b : BitVec 7) (s : State) : Out' := mangleSort BitVec.toNat d a b s
def execXsortF (d a b : BitVec 7) (s : State) : Out' := mangleSort keyFloat d a b s
def execXscanAddI (d a : BitVec 7) (s : State) : Out' := mangleEach d a s (fun _ xs => scanList (· + ·) xs)
def execXscanAddF (d a : BitVec 7) (s : State) : Out' := mangleEach d a s (fun _ xs => scanList addF xs)
def execXscanMaxI (d a : BitVec 7) (s : State) : Out' := mangleEach d a s (fun _ xs => scanList maxS xs)
def execXredAddI (d a : BitVec 7) (s : State) : Out' := mangleAll d a s (redList (· + ·))
def execXredAddF (d a : BitVec 7) (s : State) : Out' := mangleAll d a s (fun xs => treeSum 6 xs)
def execXredMinI (d a : BitVec 7) (s : State) : Out' := mangleAll d a s (redList minS)
def execXredMaxI (d a : BitVec 7) (s : State) : Out' := mangleAll d a s (redList maxS)

def execXhist (d a : BitVec 7) (s : State) : Out' :=
  mangleEach d a s (fun ls xs => ls.map (fun j => BitVec.ofNat 32 (xs.filter (fun x => x.toNat == j)).length))

def execXrank (d a : BitVec 7) (s : State) : Out' :=
  mangleEach d a s (fun _ xs => xs.zipIdx.map (fun q => BitVec.ofNat 32
    ((xs.filter (fun x => decide (x.toNat < q.1.toNat))).length + ((xs.take q.2).filter (fun x => x == q.1)).length)))

def execXsearch (d a b : BitVec 7) (s : State) : Out' :=
  mangle 1 true [] d a b s (fun _ xs ys =>
    xs.map (fun x => [BitVec.ofNat 32 (ys.filter (fun y => decide (y.toNat ≤ x.toNat))).length]))

def execXmatch (d a : BitVec 7) (s : State) : Out' :=
  mangle 2 false [multipleOf 2 d] d a 0#7 s (fun ls xs _ => xs.map (fun x =>
    let m := Mask.ofLanes (((ls.zip xs).filter (fun p => p.2 == x)).map Prod.fst)
    [lo32 m, hi32 m]))

/-- MANGLE_REPLY (R237): every destination element at once; the operation leaves class 4. -/
def execMangleReply (g w p : Nat) (s : State) : Out' :=
  match (s.wave? g w).bind (fun wv => wv.pend? p) with
  | some q =>
    if q.kind == .mangle && !s.coreHeld g then .next (s.modWave g w (fun wv => (wv.writeAll false q.wrs).retirePend p)) else idle s
  | none => idle s

end Sys2Proof.Machine
end

