-- ==== Sys2Proof/Machine/Hamper.lean ====
section
/-! DEFINITION. Uniform group 11, functions 8 to 10: scratch ways and cache maintenance (spec/05 R148 to R153, spec/06
R176). -/

namespace Sys2Proof.Machine

/-! ### HPART (R150 to R152) -/

def execHpart (d a : BitVec 7) (s : State) : Out' :=
  issue { uni := true, long := true, ctr := 3, bad := firstBroken [positive d], mem := true, on := .shading,
          uses := [rdS a, wrS d] } s fun c s =>
    (s.pushCmd c selHamper .hpart [c.wave.sget a.toNat] [] (some d.toNat) 0 0#32, .next)

/-- An access or an engine command of the group that names its scratch is in flight. -/
def State.scratchInFlight (s : State) (g : Nat) (G : Group) : Bool :=
  G.waves.any (fun wv => wv.pend.any (fun p => p.accs.any (fun a => a.live &&
    (match a.loc with
     | .scratch _ => true
     | _ => false)))) ||
  (s.core G.core).queues.any (fun q => q.any (fun x => x.group == g &&
    x.ivs.any (fun v => !v.acm && decide (scratchBase ≤ v.lo) && decide (v.lo < windowBase))))

/-- HPART_COMPLETE (R151): the oldest entry of the hamper control, when it is an `HPART`. Older copies of lines stay readable over
a grow: none of them need lie in the ways that it takes (DESIGN CHOICE, assumption 64). -/
def execHpartComplete (core : Nat) (s : State) : Out' :=
  match s.cmdHead core selHamper with
  | none => idle s
  | some x =>
    match s.groups[x.group]? with
    | none => idle s
    | some G =>
      if x.op != .hpart then idle s
      else
        let k := s.core core
        let n := (x.desc.headD 0#32).toNat % 16
        let w := s.waysOf x.group core
        let done := fun (s : State) (status w : Nat) => Host.Outcome.next (s.finishCmd core selHamper x 0 [BitVec.ofNat 32 (status + 2 ^ 8 * w)])
        if 12 < n then done s 2 w
        else if decide (0 < n) && k.holder.isSome && k.holder != some x.group then done s 1 w
        else if s.scratchInFlight x.group G then idle s
        else
          let lo := waySize * min n w
          let hi := waySize * max n w
          let s := if n = w then s else s.modCore core (fun k => { k with
            scr := cellClear k.scr lo hi
            scrP := k.scrP.filter (fun y => !(decide (lo ≤ y * 8) && decide (y * 8 < hi)))
            ways := n
            holder := if n = 0 then none else some x.group })
          done s 0 n

/-! ### CINV and CFLUSH (R153) -/

/-- Enter a maintenance command. -/
def maintain (op : CmdOp) (a : BitVec 7) (s : State) : Out' :=
  issue { uni := true, long := true, ctr := 3, bad := firstBroken [blockOf 4 a], mem := true, uses := [rdS a 4] } s fun c s =>
    (s.pushCmd c selHamper op (c.wave.sblock a.toNat 4) [] none 0 0#32, .next)

def execCinv (a : BitVec 7) (s : State) : Out' := maintain .cinv a s
def execCflush (a : BitVec 7) (s : State) : Out' := maintain .cflush a s

/-- Where a 16 KiB page of a job lies now: a physical address or a host window; none where it is unmapped, absent,
compressed or remote. -/
def State.pageNow (s : State) (job va : Nat) : Option Loc :=
  match s.walk va 3 (s.job job).root with
  | .fault _ _ _ => none
  | .leaf e lvl _ =>
    let off := va % 2 ^ pageShift lvl
    if decide (2 ^ 52 ≤ va) || eState e != 0 || (eKind e == 1 && !ePlaced e) then none
    else if eKind e ≤ 1 then some (.phys (eAddr e + off))
    else if eKind e = 2 then
      (s.window (s.job job).wtab (eWindow e) true).map (fun w =>
        .host (peerOf w.qpn w.port w.key) ((w.base + BitVec.ofNat 64 (16384 * ePage e)).toNat + off))
    else none

/-- Maintenance of the lines of one page: `keep` for `CFLUSH`, which leaves them valid. -/
def State.maintPage (s : State) (core job : Nat) (keep h l : Bool) (lo hi page : Nat) : State :=
  match s.pageNow job (16384 * page) with
  | none => s
  | some loc =>
    let a := max lo (16384 * page) - 16384 * page
    let b := min hi (16384 * page + 16384) - 16384 * page
    match loc with
    | .phys pa =>
      if h && !keep && shading core then
        { s with hcopies := s.hcopies.filter (fun y =>
            !(y.core == core && decide (pa + a ≤ 128 * y.line) && decide (128 * y.line < pa + b))) }
      else s
    | .host p x =>
      if l then
        (s.llcHost.filter (fun y => y.peer == peerQp p && decide (x + a < 128 * y.line + 128) && decide (128 * y.line < x + b))).foldl
          (fun s y => if keep then s.hostFlush y else s.hostEvict y) s
      else s
    | _ => s

/-- What a maintenance command does. -/
def State.maintRun (s : State) (core job : Nat) (keep : Bool) (ws : List Word) : State :=
  let base := (pairOf (ws.getD 0 0#32) (ws.getD 1 0#32)).toNat
  let len := (ws.getD 2 0#32).toNat
  let w3 := ws.getD 3 0#32
  if w3.getLsbD 2 then
    if keep || !shading core then s else { s with hcopies := s.hcopies.filter (fun y => y.core != core) }
  else if len = 0 then s
  else
    let lo := base / 128 * 128
    let hi := (base + len + 127) / 128 * 128
    (List.range ((hi - 1) / 16384 - lo / 16384 + 1)).foldl (fun s i =>
      s.maintPage core job keep (w3.getLsbD 0) (w3.getLsbD 1) lo hi (lo / 16384 + i)) s

/-- CACHE_MAINT_COMPLETE (R153): the oldest entry of the hamper control, when it is a `CFLUSH` or `CINV`. -/
def execCacheMaintComplete (core : Nat) (s : State) : Out' :=
  match s.cmdHead core selHamper with
  | none => idle s
  | some x =>
    match s.groups[x.group]? with
    | none => idle s
    | some G =>
      if x.op != .cinv && x.op != .cflush then idle s
      else
        let w3 := x.desc.getD 3 0#32
        if w3.extractLsb' 3 29 != 0#29 || (w3.getLsbD 2 && w3.getLsbD 1) then .next (s.finishCmd core selHamper x 2 [])
        else .next ((s.maintRun core G.job (x.op == .cflush) x.desc).finishCmd core selHamper x 0 [])

end Sys2Proof.Machine
end

