-- ==== Sys2Proof/Machine/Array.lean ====
section
/-! DEFINITION. The arithmetic of the matrix array: classes of formats, weight images, the order of sums, shifts (spec/02
R66 R67 R72 R73, spec/09 R244 to R246 R258). -/

namespace Sys2Proof.Machine

/-! ### Classes and planes (R244 R245) -/

/-- 0 narrow, 1 16-bit, 2 f32, 3 f64, by format code. -/
def fmtClass (code : Nat) : Nat := if code = 0 then 2 else if code = 1 then 3 else if code ≤ 3 then 1 else 0

/-- K depth of a plane (Table 09.1). -/
def planeDepth (t : Slot) : Nat :=
  match t.bits with
  | 4 => 512
  | 6 | 8 => 256
  | 16 => 128
  | 32 => 64
  | _ => 32

/-- The pair of slots is accepted (R245). -/
def pairAccepted (a w : Slot) : Bool :=
  fmtClass a.code == fmtClass w.code && (a.smode == w.smode || a.smode == 0 || w.smode == 0)

/-- Elements of a K block: under scaling, of the scale mode; else of the order of sums (R67 R72 R73). -/
def blockSize (a w : Slot) : Nat :=
  match fmtClass w.code with
  | 0 => if a.smode = 1 ∨ w.smode = 1 then 32 else 128
  | 1 => 32
  | 2 => 8
  | _ => 1

/-! ### Bytes to elements (spec/02 R57, R246) -/

/-- The elements of `w` bits in a list of bytes. -/
def elements (w : Nat) : Nat → List Byte → List Nat
  | 0, _ => []
  | n + 1, b =>
    if w = 4 then
      let x := leNat (b.take 1)
      x % 16 :: x / 16 :: elements w n (b.drop 1)
    else if w = 6 then
      let x := leNat (b.take 3)
      x % 64 :: x / 64 % 64 :: x / 4096 % 64 :: x / 262144 :: elements w n (b.drop 3)
    else leNat (b.take (w / 8)) :: elements w n (b.drop (w / 8))

/-- The first `n` elements of a byte string. -/
def elemList (w n : Nat) (b : List Byte) : List Nat := (elements w n b).take n

/-- Cut into lists of `n`. -/
def chunks {α : Type} (n : Nat) : Nat → List α → List (List α)
  | 0, _ => []
  | k + 1, l => if l.isEmpty then [] else l.take n :: chunks n k (l.drop n)

/-- Columns of rows of the same length. -/
def columnsOf {α : Type} (n : Nat) (rows : List (List α)) : List (List α) :=
  rows.foldr (fun r acc => (r.zip acc).map (fun p => p.1 :: p.2)) (List.replicate n [])

/-- Bytes of the element area of `kl` rows of 128. -/
def elemArea (t : Slot) (kl : Nat) : Nat := 16 * kl * t.bits

/-- Bytes of a weight image with its scales. -/
def imageBytes (t : Slot) (kblk : Nat) : Nat :=
  elemArea t (32 * kblk) +
    (if t.smode = 1 then 128 * kblk else if t.smode = 2 then 4 * ((32 * kblk + 127) / 128) else 0)

/-! ### Values -/

def oneF32 : Nat := 0x3F800000

/-- A value that the special-value detector flags. -/
def Fp.special (x : Fp) : Bool := x.isNan || x.isInf

/-- An element as the array reads it: subnormals are taken exactly. -/
def Slot.value (t : Slot) (bits : Nat) : Fp := t.elem.read false bits

/-- The value of an e8m0 scale (spec/02 R56). -/
def e8m0 (x : Nat) : Fp := if x = 255 then .nan false else .fin { neg := false, man := 1, exp := (x : Int) - 127 }

/-- The product of two scales, rounded; none where one is not finite. -/
def scaleProduct (a w : Fp) : Option Dy :=
  match a, w with
  | .fin x, .fin y => some (round32 (x.mul y))
  | _, _ => none

/-! ### Sums (R72 R73) -/

/-- The exact sum of the products of a block; none where an operand is not finite. -/
def blockSum : List Fp → List Fp → Option Dy
  | .fin x :: a, .fin y :: w => (blockSum a w).map (fun s => (x.mul y).add s)
  | [], _ | _, [] => some (Dy.zero false)
  | _, _ => none

/-- Add a scaled block to the accumulator: only this sum overflows. -/
def addBlock (acc : Nat) (s sc : Option Dy) : Nat :=
  match s, sc with
  | some d, some x => (f32.addV .rne (f32.read acc) (.fin (round32 ((round32 d).mul x)))).1
  | _, _ => f32.nanEnc

/-- A zero result is +0. -/
def plusZero32 (x : Nat) : Nat := if x = 2 ^ 31 then 0 else x
def plusZero64 (x : Nat) : Nat := if x = 2 ^ 63 then 0 else x

/-- One output of R72 or R73 in binary32: operands in ascending K, cut into blocks, a scale for each block. -/
def arraySum (init blk : Nat) (sc : Nat → Option Dy) (a w : List Fp) : Nat :=
  let n := a.length
  let bl := (chunks blk n a).zip (chunks blk n w)
  plusZero32 ((bl.zipIdx.foldl (fun acc p => addBlock acc (blockSum p.1.1 p.1.2) (sc p.2)) init))

/-- One output of R73 in binary64, on encodings. -/
def arraySum64 (init : Nat) (a w : List Nat) : Nat :=
  plusZero64 ((a.zip w).foldl (fun acc p => (f64.fma .rne p.1 p.2 acc).1) init)

/-! ### Shifts (R258) -/

/-- The largest finite value of a slot's format. -/
def Slot.largest (t : Slot) : Dy :=
  match t.elem with
  | .int n sg => { neg := false, man := if sg then 2 ^ (n - 1) - 1 else 2 ^ n - 1, exp := 0 }
  | .fp F => (F.read F.maxEnc).num

/-- The smallest e with v × 2^(-e) at most the largest value; 0 for no v or 0. -/
def shiftOf (t : Slot) (v : Option Dy) : Int :=
  match v with
  | none => 0
  | some d =>
    if d.man = 0 then 0
    else
      let e := d.log2 - t.largest.log2
      if (d.abs.scale (-e)).le t.largest then e else e + 1

/-- The largest magnitude of the finite values. -/
def maxAbs (l : List Fp) : Option Dy :=
  l.foldl (fun o x => match x with
    | .fin d => (match o with
      | none => some d.abs
      | some m => some (if m.lt d.abs then d.abs else m))
    | _ => o) none

def clampInt (lo hi x : Int) : Int := max lo (min hi x)

/-- Multiply by 2^(-e), exactly. -/
def Fp.shifted (x : Fp) (e : Int) : Fp :=
  match x with
  | .fin d => .fin (d.scale (-e))
  | y => y

/-- 2^e as binary32. -/
def pow2f32 (e : Int) : Nat := rne32 { neg := false, man := 1, exp := e }

end Sys2Proof.Machine
end

