-- ==== Sys2Proof/Machine/Matrix.lean ====
section
/-! DEFINITION. Uniform group 7, functions 0 to 5: the matrix commands, their queue, the planes and accumulator memory
(spec/09 R242 to R263). -/

namespace Sys2Proof.Machine

/-! ### Accumulator memory (R254 R255) -/

def AcmRow.zero (row : Nat) : AcmRow := { row := row, vals := List.replicate 128 0#32, s := 0#128, p := 0#128 }

/-- A row of ACM; rows not listed are all zero. -/
def Core.acmGet (c : Core) (row : Nat) : AcmRow := (c.acm.find? (fun r => r.row == row)).getD (AcmRow.zero row)

/-- Keep rows in ascending order, none of them all zero. -/
def insertRow (r : AcmRow) : List AcmRow → List AcmRow
  | [] => [r]
  | x :: t => if r.row < x.row then r :: x :: t else x :: insertRow r t

def Core.acmSet (c : Core) (r : AcmRow) : Core :=
  let rest := c.acm.filter (fun x => x.row != r.row)
  { c with acm := if r = AcmRow.zero r.row then rest else insertRow r rest }

def setFlag (m : BitVec 128) (n : Nat) (b : Bool) : BitVec 128 :=
  if b then m ||| BitVec.shiftLeft 1#128 n else m &&& ~~~(BitVec.shiftLeft 1#128 n)

/-! ### Descriptors and their checks at issue -/

/-- A local interval of an instruction: none of it, or in one window. -/
def Ctx.window (c : Ctx) (s : State) (a n : Nat) (wr : Bool) (ivs : List Iv) : Option (List Iv) :=
  (c.localIv s a n wr).map (fun v => v :: ivs)

/-- Rows of ACM that an output of `m` rows takes in a format. -/
def acmRows (t : Slot) (m : Nat) : Nat := if fmtClass t.code = 3 then 2 * m else m

/-- The rows lie in the allocation (R252 R257). -/
def acmFits (L : Launch) (t : Slot) (base m : Nat) : Bool :=
  (fmtClass t.code != 3 || base % 2 == 0) && decide (base + acmRows t m ≤ L.acm)

structure LoadDesc where
  l : Nat
  slot : Nat
  kblk : Nat

def LoadDesc.ofWords (ws : List Word) : LoadDesc :=
  let w1 := ws.getD 1 0#32
  { l := (ws.getD 0 0#32).toNat + 2 ^ 32 * (w1.extractLsb' 0 4).toNat, slot := (w1.extractLsb' 4 3).toNat,
    kblk := (w1.extractLsb' 8 8).toNat }

/-- `MLOADW` (R250). -/
def checkLoad (c : Ctx) (s : State) (ws : List Word) : Nat ⊕ List Iv :=
  let d := LoadDesc.ofWords ws
  let w1 := ws.getD 1 0#32
  let t := c.lau.slot d.slot
  if c.lau.acm == 0 || w1.getLsbD 7 || w1.extractLsb' 16 16 != 0#16 || d.kblk == 0 || decide (planeDepth t < 32 * d.kblk) then
    .inl cBadDescriptor
  else if d.l % (if windowBase ≤ d.l then 256 else 16) != 0 then .inl cMisaligned
  else
    match c.window s d.l (imageBytes t d.kblk) false [] with
    | none => .inl cLocalRange
    | some ivs => .inr ivs

structure StreamDesc where
  a : Nat
  slot : Nat
  init : Bool
  m : Nat
  base : Nat
  astr : Nat
  s : Nat
  kblk : Nat
  sstr : Nat

def StreamDesc.ofWords (ws : List Word) : StreamDesc :=
  let w := fun (n : Nat) => ws.getD n 0#32
  let f := fun (n lo k : Nat) => ((w n).extractLsb' lo k).toNat
  { a := (w 0).toNat + 2 ^ 32 * f 1 0 4, slot := f 1 4 3, init := (w 1).getLsbD 7, m := f 1 8 10, base := f 1 18 9,
    astr := (w 2).toNat, s := (w 3).toNat + 2 ^ 32 * f 4 0 4, kblk := f 4 4 5, sstr := (w 5).toNat }

/-- Bytes of an activation row, and of its scales. -/
def StreamDesc.rowBytes (d : StreamDesc) (t : Slot) : Nat := 4 * d.kblk * t.bits
def StreamDesc.scaleBytes (d : StreamDesc) (t : Slot) : Nat :=
  if t.smode = 1 then d.kblk else if t.smode = 2 then 4 * ((d.kblk + 3) / 4) else 0

/-- `MSTREAM` (R252). -/
def checkStream (c : Ctx) (s : State) (ws : List Word) : Nat ⊕ List Iv :=
  let d := StreamDesc.ofWords ws
  let t := c.lau.slot d.slot
  let reserved := (ws.getD 1 0#32).extractLsb' 27 5 != 0#5 || (ws.getD 4 0#32).extractLsb' 9 23 != 0#23 ||
    ws.getD 6 0#32 != 0#32 || ws.getD 7 0#32 != 0#32
  if c.lau.acm == 0 || reserved || d.m == 0 || decide (512 < d.m) || d.kblk == 0 || decide (16 < d.kblk) ||
      !acmFits c.lau t d.base d.m then .inl cBadDescriptor
  else if d.a % 16 != 0 || (t.smode == 2 && (d.s % 4 != 0 || d.sstr % 4 != 0)) then .inl cMisaligned
  else
    let rows := { acm := true, lo := d.base, hi := d.base + acmRows t d.m, wr := true : Iv }
    match c.window s d.a ((d.m - 1) * d.astr + d.rowBytes t) false [rows] with
    | none => .inl cLocalRange
    | some ivs =>
      if t.smode = 0 then .inr ivs
      else
        match c.window s d.s ((d.m - 1) * d.sstr + d.scaleBytes t) false ivs with
        | none => .inl cLocalRange
        | some ivs => .inr ivs

structure DrainDesc where
  d : Nat
  slot : Nat
  base : Nat
  m : Nat
  clr : Bool
  cnt : Bool
  dstr : Nat
  bar : Nat
  c : Nat

def DrainDesc.ofWords (ws : List Word) : DrainDesc :=
  let w := fun (n : Nat) => ws.getD n 0#32
  let f := fun (n lo k : Nat) => ((w n).extractLsb' lo k).toNat
  { d := (w 0).toNat + 2 ^ 32 * f 1 0 4, slot := f 1 4 3, base := f 1 7 9, m := f 1 16 10, clr := (w 1).getLsbD 26,
    cnt := (w 1).getLsbD 27, dstr := f 2 0 24, bar := f 2 24 6, c := (w 3).toNat }

/-- `MDRAIN` (R257). -/
def checkDrain (c : Ctx) (s : State) (ws : List Word) : Nat ⊕ List Iv :=
  let d := DrainDesc.ofWords ws
  let t := c.lau.slot d.slot
  let reserved := (ws.getD 1 0#32).extractLsb' 28 4 != 0#4 || (ws.getD 2 0#32).extractLsb' 30 2 != 0#2
  if c.lau.acm == 0 || reserved || d.m == 0 || decide (512 < d.m) || (d.cnt && decide (c.lau.bars ≤ d.bar)) ||
      !acmFits c.lau t d.base d.m then .inl cBadDescriptor
  else if d.d % 16 != 0 || d.dstr % 16 != 0 || (t.smode != 0 && d.c % 4 != 0) then .inl cMisaligned
  else
    let rows := { acm := true, lo := d.base, hi := d.base + acmRows t d.m, wr := d.clr : Iv }
    match c.window s d.d ((d.m - 1) * d.dstr + 16 * t.bits) true [rows] with
    | none => .inl cLocalRange
    | some ivs =>
      if t.smode = 0 then .inr ivs
      else
        match c.window s d.c (4 * d.m) true ivs with
        | none => .inl cLocalRange
        | some ivs => .inr ivs

/-- `MZERO` (R259): the first row and the count. -/
def zeroRows (w : Word) : Nat × Nat := ((w.extractLsb' 0 9).toNat, (w.extractLsb' 9 10).toNat)

def checkZero (c : Ctx) (_ : State) (ws : List Word) : Nat ⊕ List Iv :=
  let w := ws.getD 0 0#32
  let (lo, n) := zeroRows w
  if c.lau.acm == 0 || n == 0 || decide (512 < n) || w.extractLsb' 19 13 != 0#13 || decide (c.lau.acm < lo + n) then
    .inl cBadDescriptor
  else .inr [{ acm := true, lo := lo, hi := lo + n, wr := true }]

def checkSwap (c : Ctx) (_ : State) (_ : List Word) : Nat ⊕ List Iv :=
  if c.lau.acm = 0 then .inl cBadDescriptor else .inr []

/-! ### Issue (R247 R249) -/

/-- Enter a command in the matrix queue. `dreg` is a first destination of `nd` registers; `bd` adds the bond registers
to what the command keeps (spec/10 R282). -/
def matrixIssue (op : CmdOp) (rules : List Rule) (a : BitVec 7) (n : Nat) (dreg : Option (BitVec 7)) (nd : Nat) (bd : Bool)
    (check : Ctx → State → List Word → Nat ⊕ List Iv) (rows : List Word → Nat × Nat) (s : State) : Out' :=
  let ws := s.curBlock a n ++ (if bd then ((s.ctx?).map (fun c => c.wave.sr.bd.map (fun x => x.setWidth 32))).getD [] else [])
  let ivs := match s.ctx? with
    | none => []
    | some c => match check c s.anyScratch ws with
      | .inl _ => []
      | .inr l => l
  let full := s.queueFull s.curCore selMatrix
  let score := !ivs.isEmpty && s.scoreFull s.curCore
  let dst := match dreg with
    | some d => [wrS d nd]
    | none => []
  issue { uni := true, long := true, ctr := 3, bad := firstBroken rules, mem := true, on := .shading,
          uses := (if n = 0 then [] else [rdS a n]) ++ dst, hold := full || score || scratchBusy s ivs,
          why := if full then 19 else if score then 20 else 24 } s fun c s =>
    match check c s ws with
    | .inl cause => raise c s cause
    | .inr ivs =>
      let (done, p) := rows ws
      let s := s.pushCmd c selMatrix op ws (ivs.filter (fun v => decide (v.lo < v.hi))) (dreg.map (fun d => d.toNat)) p c.wave.sr.seed
      let core := s.core c.grp.core
      let s := s.modCmd c.grp.core selMatrix (core.nextOrd - 1) (fun x => { x with done := done })
      let s := if nd = 2 then s.modWave c.cur.g c.cur.w (fun wv =>
          wv.modPend c.wave.nextPend (fun p => { p with regs := p.regs ++ p.regs.map (fun r => r + 1) })) else s
      (s, .next)

def execMloadw (a : BitVec 7) (s : State) : Out' :=
  matrixIssue .mloadw [blockOf 2 a] a 2 none 0 false checkLoad (fun _ => (0, 0)) s
def execMswap (s : State) : Out' := matrixIssue .mswap [] 0#7 0 none 0 false checkSwap (fun _ => (0, 0)) s
def execMstream (a : BitVec 7) (s : State) : Out' :=
  matrixIssue .mstream [blockOf 8 a] a 8 none 0 false checkStream (fun _ => (0, 0)) s
def execMdrain (a : BitVec 7) (s : State) : Out' :=
  matrixIssue .mdrain [blockOf 4 a] a 4 none 0 false checkDrain (fun _ => (0, 0)) s
def execMzero (a : BitVec 7) (s : State) : Out' := matrixIssue .mzero [] a 1 none 0 false checkZero (fun _ => (0, 0)) s

/-! ### `MSTAT` (R260) -/

def PlaneState.code : PlaneState → Nat
  | .empty => 0
  | .filling => 1
  | .full => 2

/-- Unit of the matrix queue that performs an entry: 0 load port, 1 array, 2 ACM port. -/
def CmdOp.unit : CmdOp → Nat
  | .mloadw => 0
  | .mdrain | .mzero => 2
  | _ => 1

/-- A unit is performing an entry. -/
def State.unitBusy (s : State) (core u : Nat) : Bool := (s.cmds core selMatrix).any (fun x => x.started && x.op.unit == u)

/-- The group is the core's matrix group. -/
def mstatWord (s : State) (c : Ctx) : Word :=
  let k := s.core c.grp.core
  let b := fun (x : Bool) (n : Nat) => 2 ^ n * x.toNat
  BitVec.ofNat 32 (k.active.st.code + 2 ^ 2 * k.shadow.st.code + 2 ^ 4 * (k.active.fs.toNat % 16) + 2 ^ 8 * (k.shadow.fs.toNat % 16) +
    2 ^ 12 * (k.active.kblk % 32) + b (k.active.col != 0#128) 17 + 2 ^ 18 * (min (s.cmds c.grp.core selMatrix).length 32) +
    b (s.unitBusy c.grp.core 0) 24 + b (s.unitBusy c.grp.core 1) 25 + b (s.unitBusy c.grp.core 2) 26 + b (decide (0 < c.lau.acm)) 27)

def execMstat (d : BitVec 7) (s : State) : Out' :=
  issue { uni := true, long := true, bad := firstBroken [positive d], on := .shading, uses := [wrS d], instant := [d.toNat] } s
    fun c s => (s.setUni c d (mstatWord s c), .next)

/-! ### When an entry starts (R247, spec/10 R284) -/

def CmdOp.chain (o : CmdOp) : Bool := o == .ttstep || o == .ttrun

/-- Entries that hold an entry back until they have completed. -/
def CmdOp.awaits (o p : CmdOp) : Bool :=
  match o with
  | .mswap => p == .mloadw || p == .mstream || p.chain
  | .mloadw | .mstream => p == .mswap || p.chain
  | .ttstep | .ttrun => p == .mloadw || p == .mswap || p == .mstream
  | _ => false

/-- The entry of the matrix queue that may start now: the first that has not started; none while the core's clock is held
(spec/14 R369). -/
def State.mqStart (s : State) (core : Nat) : Option (Cmd × Group) :=
  let q := s.cmds core selMatrix
  match (if (s.core core).held then none else q.find? (fun x => !x.started)) with
  | none => none
  | some x =>
    let before := q.takeWhile (fun y => y.ord != x.ord)
    if before.any (fun y => x.op.awaits y.op) || s.unitBusy core x.op.unit || !s.mayRun core x then none
    else (s.groups[x.group]?).map (fun G => (x, G))

/-- A started entry of a kind, which does not wait for fault service; none while the core's clock is held. -/
def State.mqRunning (s : State) (core : Nat) (op : CmdOp) : Option (Cmd × Group) :=
  match (s.cmds core selMatrix).find? (fun x => !(s.core core).held && x.started && x.op == op && x.stop.isNone) with
  | none => none
  | some x => (s.groups[x.group]?).map (fun G => (x, G))

def State.startCmd (s : State) (core : Nat) (x : Cmd) : State :=
  s.modCmd core selMatrix x.ord (fun y => { y with started := true })

/-- An entry of a kind that may start: it is discarded under HALT, or `go` runs. -/
def State.mqBegin (s : State) (core : Nat) (op : CmdOp) (go : Cmd → Group → Out') : Out' :=
  match s.mqStart core with
  | none => idle s
  | some (x, G) =>
    if x.op != op then idle s
    else if s.halted core selMatrix x.group then .next (s.finishCmd core selMatrix x 11 [])
    else go x G

/-! ### Loading and swapping (R248 R250 R251) -/

def State.setShadow (s : State) (core : Nat) (p : Plane) : State := s.modCore core (fun c => { c with shadow := p })

/-- MLOADW_START (R248). The format that the load names stands in the plane from its start on, and SFMT shows it while the plane is
Filling (DEDUCED, assumption 63). -/
def execMloadwStart (core : Nat) (s : State) : Out' :=
  s.mqBegin core .mloadw fun x G =>
    let d := LoadDesc.ofWords x.desc
    .next ((s.startCmd core x).setShadow core
      { Plane.empty with st := .filling, fs := (s.launch G.launch).slotRecord d.slot, kblk := d.kblk })

/-- Columns with a special element or scale. -/
def imageFlags (t : Slot) (kblk : Nat) (image : List Byte) : BitVec 128 :=
  let kl := 32 * kblk
  let rows := chunks 128 kl (elemList t.bits (128 * kl) image)
  let sc := image.drop (elemArea t kl)
  let bad := fun (n : Nat) => rows.any (fun r => (t.value (r.getD n 0)).special) ||
    (t.smode == 1 && (List.range kblk).any (fun g => sc.getD (128 * g + n) 0#8 == 0xFF#8)) ||
    (t.smode == 2 && (chunks 4 kl sc).any (fun b => (f32.read (leNat b)).special))
  (List.range 128).foldl (fun m n => setFlag m n (bad n)) 0#128

/-- Columns of which some byte in the image lies in a poisoned word. -/
def imagePoison (t : Slot) (kblk : Nat) (bad : Nat → Bool) : BitVec 128 :=
  let kl := 32 * kblk
  let elem := fun (n : Nat) => (List.range kl).any (fun k =>
    let bit := (128 * k + n) * t.bits
    bad (bit / 8) || bad ((bit + t.bits - 1) / 8))
  let scale := fun (n : Nat) =>
    (t.smode == 1 && (List.range kblk).any (fun g => bad (elemArea t kl + 128 * g + n))) ||
    (t.smode == 2 && (List.range (4 * ((kl + 127) / 128))).any (fun i => bad (elemArea t kl + i)))
  (List.range 128).foldl (fun m n => setFlag m n (elem n || scale n)) 0#128

/-- The weight image at a location as a plane. -/
def State.loadPlane (s : State) (G : Group) (t : Slot) (fs : DWord) (kblk : Nat) (l : Loc) : Plane :=
  let n := imageBytes t kblk
  let b := s.locRead G l n
  let bad := s.locPoison G l n
  { st := .full, fs := fs, kblk := kblk, image := b, col := imageFlags t kblk b,
    colP := if bad then imagePoison t kblk (fun i => s.locPoison G (l.add i) 1) else 0#128 }

def execMloadwComplete (core : Nat) (s : State) : Out' :=
  match s.mqRunning core .mloadw with
  | none => idle s
  | some (x, G) =>
    if x.status != 0 then .next ((s.setShadow core Plane.empty).finishCmd core selMatrix x 0 [])
    else
      let d := LoadDesc.ofWords x.desc
      let fs := (s.launch G.launch).slotRecord d.slot
      let t := Slot.ofRecord fs
      match s.reachLocal x.group G d.l (imageBytes t d.kblk) with
      | .wait => idle s
      | .stop f => .next (s.stopCmd core selMatrix x false f)
      | .fail n => .next (s.failCmd core selMatrix x n)
      | .at_ _ l =>
        let p := s.loadPlane G t fs d.kblk l
        .next (((s.locTouch l (imageBytes t d.kblk)).setShadow core p).finishCmd core selMatrix x 0 [])

/-- MSWAP_PERFORM (R251): the planes change places. -/
def execMswapPerform (core : Nat) (s : State) : Out' :=
  s.mqBegin core .mswap fun x _ =>
    .next ((s.modCore core (fun c => { c with active := c.shadow, shadow := c.active })).finishCmd core selMatrix x 0 [])

/-! ### Streaming (R252 R253) -/

/-- MSTREAM_START: the checks against the active plane; a stream that fails one ends with its status. -/
def execMstreamStart (core : Nat) (s : State) : Out' :=
  s.mqBegin core .mstream fun x G =>
    let d := StreamDesc.ofWords x.desc
    let p := (s.core core).active
    let code :=
      if p.st == .empty then 14
      else if p.kblk != d.kblk then 15
      else if !pairAccepted ((s.launch G.launch).slot d.slot) (Slot.ofRecord p.fs) then 13
      else 0
    if code = 0 then .next (s.startCmd core x) else .next (s.finishCmd core selMatrix x code [])

/-- The scale of block kb of a list of scale bytes under a mode. -/
def scaleAt (t : Slot) (b : List Byte) (kb : Nat) : Fp :=
  match t.smode with
  | 1 => e8m0 (b.getD kb 0#8).toNat
  | 2 => f32.read (leNat ((b.drop (4 * kb)).take 4))
  | _ => f32.read oneF32

/-- The scale of block kb of column n of a plane. -/
def weightScale (t : Slot) (kblk : Nat) (image : List Byte) (kb n : Nat) : Fp :=
  let sc := image.drop (elemArea t (32 * kblk))
  match t.smode with
  | 1 => e8m0 (sc.getD (128 * kb + n) 0#8).toNat
  | 2 => f32.read (leNat ((sc.drop (4 * kb)).take 4))
  | _ => f32.read oneF32

/-- Row m of a stream from its bytes and scale bytes: the values of the columns, for the accumulators given. -/
def streamRow (ta : Slot) (p : Plane) (row scales : List Byte) (init : Nat → Nat) : List Nat :=
  let tw := Slot.ofRecord p.fs
  let kl := 32 * p.kblk
  let cols := columnsOf 128 (chunks 128 kl (elemList tw.bits (128 * kl) p.image))
  let a := elemList ta.bits kl row
  if fmtClass ta.code = 3 then cols.zipIdx.map (fun c => arraySum64 (init c.2) a c.1)
  else
    let av := a.map ta.value
    let blk := blockSize ta tw
    cols.zipIdx.map (fun c => arraySum (init c.2) blk
      (fun kb => scaleProduct (scaleAt ta scales kb) (weightScale tw p.kblk p.image kb c.2)) av (c.1.map tw.value))

/-- Some element or scale of a row is special. -/
def rowSpecial (t : Slot) (kblk : Nat) (row scales : List Byte) : Bool :=
  (elemList t.bits (32 * kblk) row).any (fun x => (t.value x).special) ||
    (match t.smode with
     | 1 => scales.any (fun b => b == 0xFF#8)
     | 2 => (chunks 4 kblk scales).any (fun b => (f32.read (leNat b)).special)
     | _ => false)

/-- Write a row of outputs to ACM with its flags; `old` keeps the flags that stand. -/
def Core.putRow (c : Core) (row : Nat) (vals : List Word) (keep : Bool) (sp ps : BitVec 128) : Core :=
  let o := c.acmGet row
  c.acmSet { row := row, vals := vals, s := (if keep then o.s else 0#128) ||| sp, p := (if keep then o.p else 0#128) ||| ps }

/-- Flags of 64 columns, doubled for the two positions of a binary64 value (R255). -/
def doubled (m : BitVec 128) (h : Nat) : BitVec 128 :=
  (List.range 128).foldl (fun a i => setFlag a i (m.getLsbD (64 * h + i / 2))) 0#128

def allOnes128 (b : Bool) : BitVec 128 := if b then ~~~0#128 else 0#128

/-- The binary64 value of a column in two rows of ACM. -/
def Core.acmDouble (c : Core) (row n : Nat) : Nat :=
  let r := c.acmGet (row + n / 64)
  (r.vals.getD (2 * (n % 64)) 0#32).toNat + 2 ^ 32 * (r.vals.getD (2 * (n % 64) + 1) 0#32).toNat

/-- One row of a stream. -/
def State.streamStep (s : State) (core : Nat) (G : Group) (d : StreamDesc) (t : Slot) (al sl : Loc) (m : Nat) : State :=
  let p := (s.core core).active
  let la := al.add (m * d.astr)
  let ls := sl.add (m * d.sstr)
  let row := s.locRead G la (d.rowBytes t)
  let sc := s.locRead G ls (d.scaleBytes t)
  let bad := s.locPoison G la (d.rowBytes t) || (t.smode != 0 && s.locPoison G ls (d.scaleBytes t))
  let sp := allOnes128 (rowSpecial t d.kblk row sc) ||| p.col
  let ps := allOnes128 bad ||| p.colP
  let c := s.core core
  if fmtClass t.code = 3 then
    let r := G.acmb + d.base + 2 * m
    let out := streamRow t p row sc (fun n => if d.init then 0 else c.acmDouble r n)
    let half := fun (h : Nat) => ((out.drop (64 * h)).take 64).flatMap (fun x => [BitVec.ofNat 32 x, BitVec.ofNat 32 (x / 2 ^ 32)])
    s.modCore core (fun c => (c.putRow r (half 0) (!d.init) (doubled sp 0) (doubled ps 0)).putRow (r + 1) (half 1) (!d.init)
      (doubled sp 1) (doubled ps 1))
  else
    let r := G.acmb + d.base + m
    let o := c.acmGet r
    let out := streamRow t p row sc (fun n => if d.init then 0 else (o.vals.getD n 0#32).toNat)
    s.modCore core (fun c => c.putRow r (out.map (BitVec.ofNat 32)) (!d.init) sp ps)

/-- MSTREAM_COMPLETE: every row of the stream, and its end. The rows are read where they stand at this event, one of the
orders that R262 allows. -/
def execMstreamComplete (core : Nat) (s : State) : Out' :=
  match s.mqRunning core .mstream with
  | none => idle s
  | some (x, G) =>
    if x.status != 0 then .next (s.finishCmd core selMatrix x 0 [])
    else
      let d := StreamDesc.ofWords x.desc
      let t := (s.launch G.launch).slot d.slot
      let na := (d.m - 1) * d.astr + d.rowBytes t
      let ns := (d.m - 1) * d.sstr + d.scaleBytes t
      match s.reachLocal x.group G d.a na, (if t.smode = 0 then s.reachLocal x.group G d.a na else s.reachLocal x.group G d.s ns) with
      | .wait, _ | _, .wait => idle s
      | .stop f, _ | _, .stop f => .next (s.stopCmd core selMatrix x false f)
      | .fail n, _ | _, .fail n => .next (s.failCmd core selMatrix x n)
      | .at_ _ la, .at_ _ ls =>
        let s := (s.locTouch la na).locTouch ls ns
        .next (((List.range d.m).foldl (fun s m => s.streamStep core G d t la ls m) s).finishCmd core selMatrix x 0 [])

/-! ### Draining and clearing (R257 to R259) -/

/-- A drained column: value, S and P. -/
structure DrainCol where
  x : Nat
  sp : Bool
  ps : Bool

/-- The columns of output row r in the layout that the slot names. -/
def Core.drainCols (c : Core) (t : Slot) (row : Nat) : List DrainCol :=
  (List.range 128).map (fun n =>
    if fmtClass t.code = 3 then
      let a := c.acmGet (row + n / 64)
      { x := c.acmDouble row n, sp := a.s.getLsbD (2 * (n % 64)) || a.s.getLsbD (2 * (n % 64) + 1), ps := a.p.getLsbD (2 * (n % 64)) || a.p.getLsbD (2 * (n % 64) + 1) }
    else
      let a := c.acmGet row
      { x := (a.vals.getD n 0#32).toNat, sp := a.s.getLsbD n, ps := a.p.getLsbD n })

/-- The shift of a group of columns, over those that are not flagged. -/
def groupShift (t : Slot) (l : List DrainCol) : Int :=
  shiftOf t (maxAbs ((l.filter (fun c => !c.sp)).map (fun c => f32.read c.x)))

/-- The shifts of a row: one under VT, four under MX, none else. -/
def rowShifts (t : Slot) (l : List DrainCol) : List Int :=
  match t.smode with
  | 2 => [clampInt (-126) 127 (groupShift t l)]
  | 1 => (List.range 4).map (fun g => clampInt (-127) 127 (groupShift t ((l.drop (32 * g)).take 32)))
  | _ => []

/-- The scale bytes of a row. -/
def scaleOut (t : Slot) (es : List Int) : List Byte :=
  match t.smode with
  | 2 => leBytes 4 (pow2f32 (es.headD 0))
  | 1 => es.map (fun e => BitVec.ofNat 8 (e + 127).toNat)
  | _ => []

/-- The elements of a row, with draws from the row's generator (R258). -/
def drainRowAux (t : Slot) (es : List Int) : Word → Nat → List DrainCol → List Nat
  | _, _, [] => []
  | st, n, c :: rest =>
    let e := if t.smode = 1 then es.getD (n / 32) 0 else es.headD 0
    let st' := drawFor t st
    let y :=
      if t.code = 1 then (if c.sp then f64.nanEnc else c.x)
      else if t.code = 0 then (if c.sp then f32.nanEnc else c.x)
      else (narrow (if c.sp then .nan false else (f32.read c.x).shifted e) t (srU st')).1
    y :: drainRowAux t es st' (n + 1) rest

/-- One element of a drain: at the first of a row its scales, at the last the clearing of the row; the bytes counted. None
while a column is not ready. -/
def State.drainStep (s : State) (core : Nat) (x : Cmd) (G : Group) : Option State :=
  let d := DrainDesc.ofWords x.desc
  let t := (s.launch G.launch).slot d.slot
  let r := x.done / 128
  let n := x.done % 128
  let row := G.acmb + d.base + acmRows t r
  let scaled := n == 0 && t.smode != 0
  let data := s.reachLocal x.group G (d.d + r * d.dstr) (16 * t.bits)
  match data, (if scaled then s.reachLocal x.group G (d.c + 4 * r) 4 else data) with
  | .wait, _ | _, .wait => none
  | .stop f, _ | _, .stop f => some (s.stopCmd core selMatrix x true f)
  | .fail e, _ | _, .fail e => some (s.failCmd core selMatrix x e)
  | .at_ _ ld, .at_ _ lc =>
    let cols := (s.core core).drainCols t row
    let es := rowShifts t cols
    let y := (drainRowAux t es (srInit x.gen (128 + d.base + r)) 0 cols).getD n 0
    let bad := (cols.map DrainCol.ps).getD n false
    let run := runAfter bad (n == 0) x.run t.bits
    let s := if scaled then s.store G lc (scaleOut t es) false else s
    let s := s.storeBits G (ld.add (n * t.bits / 8)) (n * t.bits % 8) t.bits y bad
    let s := s.cleanBehind G ld ((n + 1) * t.bits) run
    let s := if d.clr && n == 127 then
        (List.range (acmRows t 1)).foldl (fun s i => s.modCore core (fun c => c.acmSet (AcmRow.zero (row + i)))) s
      else s
    some ((s.modCmd core selMatrix x.ord (fun y => { y with done := y.done + 1, run := run })).countOn core selMatrix x d.cnt d.bar
      (bytesDone t.bits n + (if scaled then 4 else 0)))

/-- Elements of a drain. -/
def Cmd.drainCount (x : Cmd) : Nat := 128 * (DrainDesc.ofWords x.desc).m

/-- Elements of a drain until it ends, stops or must wait, or the fuel is spent. -/
def State.drainRun (s : State) (core ord : Nat) : Nat → State
  | 0 => s
  | fuel + 1 =>
    match (s.cmds core selMatrix).find? (fun y => y.ord == ord) with
    | none => s
    | some x =>
      match s.groups[x.group]? with
      | none => s
      | some G =>
        if x.stop.isSome then s
        else if x.status != 0 || decide (x.drainCount ≤ x.done) then s.finishCmd core selMatrix x 0 []
        else
          match s.drainStep core x G with
          | none => s
          | some s' => s'.drainRun core ord fuel

/-- A drain writes elements one after another; how many before another party may look is free (spec/07 R200). -/
def State.drainSome (s : State) (core : Nat) (x : Cmd) : State :=
  let r := s.draw
  r.2.drainRun core x.ord (2 + r.1 % (x.drainCount + 1))

/-- MDRAIN_RUN (R258): a drain starts, or goes on. -/
def execMdrainRun (core : Nat) (s : State) : Out' :=
  match s.mqRunning core .mdrain with
  | some (x, G) =>
    if x.status != 0 || decide (x.drainCount ≤ x.done) || (s.drainStep core x G).isSome then .next (s.drainSome core x) else idle s
  | none =>
    s.mqBegin core .mdrain fun x G =>
      if (s.drainStep core x G).isNone then idle s else .next ((s.startCmd core x).drainSome core x)

/-- MZERO_RUN (R259). -/
def execMzeroRun (core : Nat) (s : State) : Out' :=
  s.mqBegin core .mzero fun x G =>
    let (lo, n) := zeroRows (x.desc.getD 0 0#32)
    let s := (List.range n).foldl (fun s i => s.modCore core (fun c => c.acmSet (AcmRow.zero (G.acmb + lo + i)))) s
    .next (s.finishCmd core selMatrix x 0 [])

end Sys2Proof.Machine
end

