-- ==== Sys2Proof/Machine/Chain.lean ====
section
/-! DEFINITION. Uniform group 7, functions 6 and 7: tensor-train chains (spec/10 R279 to R284). -/

namespace Sys2Proof.Machine

/-! ### A step and its checks (R280 R281) -/

/-- A step: entry fields, bond values, boundary rows. -/
structure Step where
  core : Nat
  slot : Nat
  absorb : Bool
  bin : Nat
  bout : Nat
  nk : Nat
  ina : Nat
  outa : Nat
  oext : Nat
  xa : Nat
  p : Nat
  /-- Every must-be-0 field is 0. -/
  clean : Bool

/-- A step from the eight words of an entry, the rows and the bond registers bd0 to bd7. -/
def Step.ofWords (ws : List Word) (p : Nat) (last : Word) (bd : List Word) : Step :=
  let w := fun (n : Nat) => ws.getD n 0#32
  let f := fun (n lo k : Nat) => ((w n).extractLsb' lo k).toNat
  { core := (w 0).toNat + 2 ^ 32 * f 1 0 4, slot := f 1 4 3, absorb := (w 1).getLsbD 7,
    bin := (bd.getD (f 1 8 3) 0#32).toNat % 2 ^ 16, bout := (bd.getD (f 1 11 3) 0#32).toNat % 2 ^ 16, nk := f 2 0 13,
    ina := (w 3).toNat, outa := (w 4).toNat, oext := (w 5).toNat, xa := (w 6).toNat, p := p,
    clean := (w 1).extractLsb' 14 18 == 0#18 && (w 2).extractLsb' 13 19 == 0#19 && last == 0#32 }

/-- Bytes of the core, rows of the result, bytes of the boundaries and of the vectors. -/
def Step.coreBytes (e : Step) (t : Slot) : Nat := (e.bin * e.nk * e.bout * t.bits + 7) / 8
def Step.outRows (e : Step) : Nat := if e.absorb then e.p else e.p * e.nk
def Step.inBytes (e : Step) : Nat := 4 * e.p * e.bin
def Step.outBytes (e : Step) : Nat := 4 * e.outRows * e.bout
def Step.xBytes (e : Step) : Nat := if e.absorb then 4 * e.p * e.nk else 0

/-- What a step reads and writes. The result interval is what it writes; its buffer reaches to OEXT. -/
def Step.ivs (e : Step) (t : Slot) : List Iv :=
  [{ acm := false, lo := e.core, hi := e.core + e.coreBytes t, wr := false },
   { acm := false, lo := e.ina, hi := e.ina + e.inBytes, wr := false },
   { acm := false, lo := e.xa, hi := e.xa + e.xBytes, wr := false },
   { acm := false, lo := e.outa, hi := e.outa + e.outBytes, wr := true }].filter (fun v => decide (v.lo < v.hi))

/-- The first check that fails, in the order of R281. The output interval of check 1 is the output buffer (DEDUCED,
assumption 20). -/
def Step.check (e : Step) (L : Launch) (inWindow : Nat → Nat → Bool) : Option Nat :=
  let t := L.slot e.slot
  let slotOk := decide (2 ≤ t.code) && decide (t.code ≤ 12) && t.smode == 0 && !t.stochastic
  let bond := fun (r : Nat) => decide (1 ≤ r) && decide (r ≤ 128)
  if !e.clean || !slotOk || e.nk == 0 || decide (4096 < e.nk) || e.p == 0 || decide (2 ^ 24 < e.p) ||
      e.ina % 4 != 0 || e.outa % 4 != 0 || (e.absorb && e.xa % 4 != 0) || !bond e.bin || !bond e.bout ||
      (decide (e.ina < e.outa + e.oext) && decide (e.outa < e.ina + e.inBytes)) then some cBadDescriptor
  else if e.core % (if windowBase ≤ e.core then 256 else 16) != 0 then some cMisaligned
  else if !inWindow e.core (e.coreBytes t) || !inWindow e.ina e.inBytes || (e.absorb && !inWindow e.xa e.xBytes) ||
      !inWindow e.outa e.oext then some cLocalRange
  else if e.oext < e.outBytes then some cBond
  else none

/-! ### Issue (R282 R283) -/

def checkTtstep (c : Ctx) (s : State) (ws : List Word) : Nat ⊕ List Iv :=
  let e := Step.ofWords ws (ws.getD 7 0#32).toNat 0#32 (ws.drop 8)
  if c.lau.acm = 0 then .inl cBadDescriptor
  else
    match e.check c.lau (fun a n => n == 0 || (s.localLoc c.cur.g c.grp c.lau a n).isSome) with
    | some cause => .inl cause
    | none => .inr (e.ivs (c.lau.slot e.slot))

/-- The whole CLM slice and scratch window of the group, which a `TTRUN` holds until it completes (R284). -/
def wholeLocal (c : Ctx) (s : State) : List Iv :=
  [{ acm := false, lo := 0, hi := c.lau.localBytes, wr := true },
   { acm := false, lo := scratchBase, hi := scratchBase + waySize * s.waysOf c.cur.g c.grp.core, wr := true }]

def checkTtrun (c : Ctx) (s : State) (ws : List Word) : Nat ⊕ List Iv :=
  let w1 := ws.getD 1 0#32
  let cnt := (w1.extractLsb' 0 16).toNat
  let start := (w1.extractLsb' 16 16).toNat
  let p0 := (ws.getD 2 0#32).toNat
  let pa := (ws.getD 0 0#32).toNat
  if c.lau.acm == 0 || pa % 32 != 0 || (s.localLoc c.cur.g c.grp c.lau pa 1).isNone || cnt == 0 || decide (cnt ≤ start) || p0 == 0 || decide (2 ^ 24 < p0) ||
      ws.getD 3 0#32 != 0#32 then .inl cBadDescriptor
  else .inr (wholeLocal c s)

def execTtstep (a : BitVec 7) (s : State) : Out' :=
  matrixIssue .ttstep [blockOf 8 a] a 8 none 0 true checkTtstep (fun _ => (0, 0)) s

def execTtrun (d a : BitVec 7) (s : State) : Out' :=
  matrixIssue .ttrun [multipleOf 2 d, blockOf 4 a] a 4 (some d) 2 true checkTtrun
    (fun ws => (((ws.getD 1 0#32).extractLsb' 16 16).toNat, (ws.getD 2 0#32).toNat)) s

/-! ### Performing a step (R279) -/

/-- Words of an operand with their poison marks. -/
def State.operand (s : State) (G : Group) (l : Loc) (n : Nat) : List (Nat × Bool) :=
  (List.range n).map (fun i => (leNat (s.locRead G (l.add (4 * i)) 4), s.locPoison G (l.add (4 * i)) 4))

/-- An f32 operand narrowed by the slot and widened again. -/
def Slot.through (t : Slot) (x : Fp) : Fp := widenV t (narrow x t 0).1

/-- One output: operands with marks from the row (or none), the core's elements with marks. -/
def chainOut (t : Slot) (rowBad rowPoison : Bool) (row : List Fp) (col : List (Nat × Bool)) : Nat × Bool :=
  let w := col.map (fun e => t.value e.1)
  let bad := rowBad || w.any Fp.special
  let blk := if fmtClass t.code = 1 then 32 else 128
  (if bad then f32.nanEnc else arraySum 0 blk (fun _ => some Dy.one) (row.map t.through) w, rowPoison || col.any Prod.snd)

/-- `round(B × x, f32.rne)` (R58); NaN where an operand is not finite, which its row is flagged for. -/
def Fp.times (x y : Fp) : Fp :=
  match x, y with
  | .fin a, .fin b => .fin (round32 (a.mul b))
  | _, _ => .nan false

/-- The results of a step, row after row: the output words and marks. -/
def stepOut (e : Step) (t : Slot) (g : Nat → Nat × Bool) (b x : List (Nat × Bool)) : List (Nat × Bool) :=
  let r := e.bin
  let elem := fun (a j n : Nat) => g ((a + r * j) * e.bout + n)
  (List.range e.p).flatMap (fun p =>
    let bp := (b.drop (r * p)).take r
    let bv := bp.map (fun y => f32.read y.1)
    let bBad := bv.any Fp.special
    let bPo := bp.any Prod.snd
    if e.absorb then
      let xp := (x.drop (e.nk * p)).take e.nk
      let xBad := xp.any (fun y => (f32.read y.1).special)
      let u := xp.flatMap (fun y => bv.map (fun z => z.times (f32.read y.1)))
      (List.range e.bout).map (fun n =>
        chainOut t (bBad || xBad) (bPo || xp.any Prod.snd) u
          ((List.range e.nk).flatMap (fun j => (List.range r).map (fun a => elem a j n))))
    else
      (List.range e.nk).flatMap (fun j => (List.range e.bout).map (fun n =>
        chainOut t bBad bPo bv ((List.range r).map (fun a => elem a j n)))))

/-- What a step comes to: its outputs, the address of the first, and the state, or a reason why there are none. -/
inductive Stepped where
  | done (out : List (Nat × Bool)) (s : State)
  | wait
  | stop (f : Flt)
  | fail (code : Nat)

/-- A location, or the reason why there is none. -/
def Reach.then_ (r : Reach) (k : Loc → Stepped) : Stepped :=
  match r with
  | .at_ _ l => k l
  | .wait => .wait
  | .stop f => .stop f
  | .fail n => .fail n

/-- Compute a step that has passed its checks: its outputs, none of which has landed. -/
def State.chainDo (s : State) (g : Nat) (G : Group) (e : Step) : Stepped :=
  let t := (s.launch G.launch).slot e.slot
  let n := e.coreBytes t
  (s.reachLocal g G e.core n).then_ fun lc =>
    (s.reachLocal g G e.ina e.inBytes).then_ fun li =>
      (if e.absorb then s.reachLocal g G e.xa e.xBytes else s.reachLocal g G e.ina e.inBytes).then_ fun lx =>
        (s.reachLocal g G e.outa e.outBytes).then_ fun _ =>
          let img := s.locRead G lc n
          let cnt := e.bin * e.nk * e.bout
          let elems := elemList t.bits cnt img
          let at_ := fun (i : Nat) =>
            (elems.getD i 0, s.locPoison G (lc.add (i * t.bits / 8)) ((i * t.bits % 8 + t.bits + 7) / 8))
          let out := stepOut e t at_ (s.operand G li (e.p * e.bin)) (if e.absorb then s.operand G lx (e.p * e.nk) else [])
          .done out (s.locTouch lc n)

/-- The cause of a failed check ends a `TTRUN` and traps its wave, which has gone on meanwhile (R275 R283). -/
def State.chainFail (s : State) (core : Nat) (x : Cmd) (cause : Nat) : State :=
  let p := (s.wave? x.group x.wave).bind (fun wv => wv.pend? x.pend)
  let s := s.finishCmd core selMatrix x 16 [BitVec.ofNat 32 x.done, BitVec.ofNat 32 x.rows]
  match p with
  | none => s
  | some p => s.trapFor x.group x.wave p [p.record 0 true false (Flt.plain cause 0#64)]

/-- The step has begun: its outputs wait to land, and the rows that it gives are noted. -/
def State.chainBegin (s : State) (core : Nat) (x : Cmd) (e : Step) (out : List (Nat × Bool)) : State :=
  s.modCmd core selMatrix x.ord (fun y => { y with ahead := out, dest := e.outa, rows := e.outRows, run := 0 })

/-- The next output of a step lands, each alone (spec/07 R200); with the last one the step is done, and the shadow plane is Empty
after it. None while a column is not ready. -/
def State.chainLand (s : State) (core : Nat) (x : Cmd) (G : Group) (y : Nat × Bool) (done : State → State) : Option State :=
  match s.reachLocal x.group G x.dest 4 with
  | .at_ _ l =>
    let run := runAfter y.2 false x.run 32
    let s := ((s.store G l (leBytes 4 y.1) y.2).cleanBehind G l 32 run).modCmd core selMatrix x.ord (fun z =>
      { z with ahead := z.ahead.drop 1, dest := z.dest + 4, run := run })
    some (if (x.ahead.drop 1).isEmpty then done (s.setShadow core Plane.empty) else s)
  | .stop f => some (s.stopCmd core selMatrix x true f)
  | .fail n => some (s.failCmd core selMatrix x n)
  | .wait => none

/-- A step of a `TTRUN` is done: the next one may begin, or the command ends. -/
def State.ttrunDone (core : Nat) (x : Cmd) (s : State) : State :=
  let i := x.done + 1
  if ((x.desc.getD 1 0#32).extractLsb' 0 16).toNat ≤ i then
    s.finishCmd core selMatrix { x with done := i } 0 [BitVec.ofNat 32 i, BitVec.ofNat 32 x.rows]
  else s.modCmd core selMatrix x.ord (fun y => { y with done := i, run := 0 })

/-- The next step of a `TTRUN`, whose entry is read as the step starts; none while a column is not ready. -/
def State.ttrunStep (s : State) (core : Nat) (x : Cmd) (G : Group) : Option State :=
  let L := s.launch G.launch
  let at_ := (x.desc.getD 0 0#32).toNat + 32 * x.done
  match s.localLoc x.group G L at_ 32 with
  | none => some (s.chainFail core x cLocalRange)
  | some l =>
    let ws := leWords 8 (s.locRead G l 32)
    let e := Step.ofWords ws x.rows (ws.getD 7 0#32) (x.desc.drop 4)
    match e.check L (fun a n => n == 0 || (s.localLoc x.group G L a n).isSome) with
    | some cause => some (s.chainFail core x cause)
    | none =>
      match s.chainDo x.group G e with
      | .wait => none
      | .stop f => some ((s.stopCmd core selMatrix x true f).modCmd core selMatrix x.ord (fun y => { y with run := 1 }))
      | .fail n => some (s.failCmd core selMatrix x n)
      | .done [] s => some (State.ttrunDone core { x with rows := e.outRows } ((s.chainBegin core x e []).setShadow core Plane.empty))
      | .done out s => some (s.chainBegin core x e out)

/-- A `TTSTEP` is done. -/
def State.ttstepDone (core : Nat) (x : Cmd) (s : State) : State := s.finishCmd core selMatrix x 0 []

/-- The step of a `TTSTEP`. -/
def State.ttstepStep (s : State) (core : Nat) (x : Cmd) (G : Group) : Option State :=
  let e := Step.ofWords x.desc (x.desc.getD 7 0#32).toNat 0#32 (x.desc.drop 8)
  match s.chainDo x.group G e with
  | .wait => none
  | .stop f => some (s.stopCmd core selMatrix x true f)
  | .fail n => some (s.failCmd core selMatrix x n)
  | .done [] s => some (State.ttstepDone core x (s.setShadow core Plane.empty))
  | .done out s => some (s.chainBegin core x e out)

/-- A chain command that has started, or may start. -/
def State.chainNext (s : State) (core : Nat) : Option (Cmd × Group × Bool) :=
  match (s.mqRunning core .ttstep).orElse (fun _ => s.mqRunning core .ttrun) with
  | some (x, G) => some (x, G, true)
  | none =>
    match s.mqStart core with
    | some (x, G) => if x.op.chain then some (x, G, false) else none
    | none => none

/-- CHAIN_STEP (R283): a step of a chain command is computed, or an output of it lands; refused fault service ends it. -/
def execChainStep (core : Nat) (s : State) : Out' :=
  match s.chainNext core with
  | none => idle s
  | some (x, G, running) =>
    if x.status != 0 then .next (s.finishCmd core selMatrix x 0 [BitVec.ofNat 32 x.done, BitVec.ofNat 32 x.rows])
    else if !running && s.halted core selMatrix x.group then .next (s.finishCmd core selMatrix x 11 [])
    else
      let s' := s.startCmd core x
      happens s (match x.ahead with
        | y :: _ => s'.chainLand core x G y (if x.op == .ttstep then State.ttstepDone core x else State.ttrunDone core x)
        | [] => if x.op == .ttstep then s'.ttstepStep core x G else s'.ttrunStep core x G)

end Sys2Proof.Machine
end

