-- ==== Sys2Proof/Machine/Gather.lean ====
section
/-! DEFINITION. Lane group 12 and uniform group 7, functions 8 and 9: neural gather (spec/10 R265 to R278). -/

namespace Sys2Proof.Machine

/-! ### Plain loads of the unit (R268 R275) -/

/-- What the unit reads: bytes and whether one is poisoned, a fault, or a column that is not ready. -/
inductive GRead where
  | ok (b : List Byte) (poison : Bool)
  | fault (f : Flt)
  | wait

/-- Bytes of one 16 KiB page. -/
def State.gatherPage (s : State) (q : XReq) (va n : Nat) : GRead × State :=
  let v := BitVec.ofNat 64 va
  if v.extractLsb' 52 12 != 0#12 then (.fault (Flt.plain cGlobalRange v), s)
  else
    match s.xpage q v with
    | (.fault f, s) => (.fault f, s)
    | (.page p, s) =>
      let pa := p.base + va % 2 ^ pageShift p.lvl
      if 1 < p.kind then (.fault { cause := cBadEntry, va := v, pst := 6, lvl := p.lvl }, s)
      else if !s.inKind p.kind pa n then (.fault { cause := cBadEntry, va := v, pst := 6, lvl := p.lvl }, s)
      else if !s.serves pa then
        (if s.mode 0 then .fault { cause := cColumn, va := v, pst := 0, lvl := p.lvl } else .wait, s)
      else (.ok (s.peek pa n) (marked s.memP pa n), s.drain pa n)

/-- Bytes of a range, page by page; `fuel` bounds the pages. -/
def State.gatherRead (s : State) (q : XReq) : Nat → Nat → Nat → GRead × State
  | 0, _, _ => (.ok [] false, s)
  | fuel + 1, va, n =>
    if n = 0 then (.ok [] false, s)
    else
      let k := min n (16384 - va % 16384)
      match s.gatherPage q va k with
      | (.ok b p, s) =>
        match s.gatherRead q fuel (va + k) (n - k) with
        | (.ok b' p', s) => (.ok (b ++ b') (p || p'), s)
        | r => r
      | r => r

/-- Several ranges, joined. -/
def State.gatherAll (s : State) (q : XReq) : List (Nat × Nat) → GRead × State
  | [] => (.ok [] false, s)
  | (va, n) :: t =>
    match s.gatherRead q 4 va n with
    | (.ok b p, s) =>
      match s.gatherAll q t with
      | (.ok b' p', s) => (.ok (b ++ b') (p || p'), s)
      | r => r
    | r => r

/-! ### The network (R266 R267) -/

structure NLayer where
  ioff : Nat
  boff : Nat
  win : Nat
  wout : Nat
  act : Nat

structure Net where
  slot : Nat
  waddr : Nat
  layers : List NLayer

/-- The network of a descriptor; none when it is not valid for the launch's slots. -/
def Net.ofDesc (L : Launch) (ws : List Word) : Option Net :=
  let w := fun (n : Nat) => ws.getD n 0#32
  let n := ((w 0).extractLsb' 0 2).toNat + 1
  let slot := ((w 0).extractLsb' 2 3).toNat
  let layers := (List.range n).map (fun l =>
    { ioff := (w (4 + 4 * l)).toNat, boff := (w (5 + 4 * l)).toNat, win := ((w (6 + 4 * l)).extractLsb' 0 8).toNat,
      wout := ((w (6 + 4 * l)).extractLsb' 8 8).toNat, act := ((w (6 + 4 * l)).extractLsb' 16 2).toNat : NLayer })
  let waddr := (pairOf (w 2) (w 3)).toNat
  let zero := (w 0).extractLsb' 5 27 == 0#27 && w 1 == 0#32 &&
    (List.range n).all (fun l => (w (6 + 4 * l)).extractLsb' 18 14 == 0#14 && w (7 + 4 * l) == 0#32) &&
    (ws.drop (4 + 4 * n)).all (fun x => x == 0#32)
  let ranges := waddr % 256 == 0 && layers.all (fun y => y.ioff % 256 == 0 && y.boff % 16 == 0 && decide (1 ≤ y.win) &&
    decide (y.win ≤ 128) && decide (1 ≤ y.wout) && decide (y.wout ≤ 128))
  let chained := (layers.zip (layers.drop 1)).all (fun p => p.2.win == p.1.wout)
  let t := L.slot slot
  let slotOk := decide (2 ≤ t.code) && decide (t.code ≤ 12) && (t.smode == 0 || t.smode == 2) && !t.stochastic
  if zero && ranges && chained && slotOk then some { slot := slot, waddr := waddr, layers := layers } else none

def Net.ins (n : Net) : Nat := ((n.layers.head?).map (fun y => y.win)).getD 0
def Net.outs (n : Net) : Nat := ((n.layers.getLast?).map (fun y => y.wout)).getD 0

/-- K rows of a layer's image. -/
def NLayer.kl (y : NLayer) : Nat := 32 * ((y.win + 31) / 32)

/-- The ranges of a layer that are read: its columns below WOUT row by row, its tile scale, its bias. -/
def NLayer.ranges (y : NLayer) (t : Slot) (waddr : Nat) : List (Nat × Nat) :=
  (List.range y.kl).map (fun k => (waddr + y.ioff + 16 * t.bits * k, (y.wout * t.bits + 7) / 8)) ++
    (if t.smode = 2 then [(waddr + y.ioff + elemArea t y.kl, 4)] else []) ++ [(waddr + y.boff, 4 * y.wout)]

/-- A layer as it is evaluated: its rows of weights, tile scale, biases. -/
structure Layer where
  y : NLayer
  rows : List (List Nat)
  scale : Nat
  bias : List Nat

def Layer.ofBytes (y : NLayer) (t : Slot) (b : List Byte) : Layer :=
  let rb := (y.wout * t.bits + 7) / 8
  let rest := b.drop (y.kl * rb)
  let vt := t.smode == 2
  { y := y, rows := (chunks rb y.kl b).map (fun r => elemList t.bits y.wout r),
    scale := if vt then leNat (rest.take 4) else oneF32,
    bias := elemList 32 y.wout (if vt then rest.drop 4 else rest) }

/-- Read every layer of a network; the bytes' poison. -/
def State.fetchLayers (s : State) (core job : Nat) (t : Slot) (waddr : Nat) :
    List NLayer → (Flt ⊕ Option (List Layer × Bool)) × State
  | [] => (.inr (some ([], false)), s)
  | y :: rest =>
    match s.gatherAll (coreReq core job false false) (y.ranges t waddr) with
    | (.wait, s) => (.inr none, s)
    | (.fault f, s) => (.inl f, s)
    | (.ok b p, s) =>
      match s.fetchLayers core job t waddr rest with
      | (.inr (some (l, p')), s) => (.inr (some (Layer.ofBytes y t b :: l, p || p')), s)
      | r => r

/-! ### Evaluating a row (R272 R273) -/

def geluC1 : Nat := 0x3D372713
def geluC2 : Nat := 0x3F4C422A
def sineC3 : Nat := 0x3E22F983

def actFn (act y : Nat) : Nat :=
  match act with
  | 0 => y
  | 1 =>
    match f32.read y with
    | .nan _ => f32.nanEnc
    | .inf n => if n then 0 else y
    | .fin d => if d.neg || d.man == 0 then 0 else y
  | 2 =>
    let t := fmul32 (fmul32 y y) y
    let u := fmul32 (fma32 geluC1 t y) geluC2
    let g := fadd32 (specialFn 7 u).1 oneF32
    fmul32 (fmul32 g y) 0x3F000000
  | _ => (specialFn 5 (fmul32 y sineC3)).1

/-- One layer on a row. -/
def Layer.eval (l : Layer) (t : Slot) (x : List Nat) : List Nat :=
  let xv := (x.take l.y.win).map f32.read
  let rowSp := xv.any Fp.special
  let vt := t.smode == 2
  let e := if vt then clampInt (-126) 127 (shiftOf t (maxAbs xv)) else 0
  let a := xv.map (fun v => t.through (v.shifted e)) ++ List.replicate (l.y.kl - l.y.win) (.fin (Dy.zero false))
  let sc := if vt then scaleProduct (f32.read (pow2f32 e)) (f32.read l.scale) else some Dy.one
  let scSp := vt && (f32.read l.scale).special
  let blk := if fmtClass t.code = 1 then 32 else 128
  (List.range l.y.wout).map (fun n =>
    let w := l.rows.map (fun r => t.value (r.getD n 0))
    let y := actFn l.y.act (fadd32 (arraySum 0 blk (fun _ => sc) a w) (l.bias.getD n 0))
    if rowSp || scSp || w.any Fp.special then f32.nanEnc else y)

/-- The inputs of a request as binary32. -/
def NReq.values (r : NReq) (n : Nat) : List Nat :=
  (List.range n).map (fun i =>
    if r.half then (f16.read (Sys2Proof.Machine.half (r.inputs.getD (i / 2) 0#32) (i % 2))).toF32 else (r.inputs.getD i 0#32).toNat)

/-- The destination words of a row of results. -/
def NReq.out (r : NReq) (outw : Nat) (x : List Nat) : List Word :=
  let h := fun (i : Nat) => match x[i]? with
    | some v => (f32.convert f16 .rne v).1
    | none => 0
  (List.range outw).map (fun i =>
    BitVec.ofNat 32 (if r.half then h (2 * i) + 2 ^ 16 * h (2 * i + 1) else x.getD i 0))

/-! ### Issue (R269 R277) -/

/-- The lanes of the instruction that issues. -/
def State.curLanes (s : State) : List Nat := ((s.ctx?).map Ctx.lanes).getD []
def State.curNet (s : State) : Option (Nat × Nat × Nat) := (s.ctx?).bind (fun c => c.grp.net)

/-- `NEVAL` in either format. Inputs that are poisoned make poisoned results (R272); a poisoned handle traps. -/
def neval (h : Bool) (d a b : BitVec 7) (s : State) : Out' :=
  let net := s.curNet
  let inw := (net.map (fun n => n.2.1)).getD 0
  let outw := (net.map (fun n => n.2.2)).getD 0
  let pool := (s.core s.curCore).pooled
  issue { uni := false, long := true, ctr := 5, litB := b, on := .shading, carries := true,
          uses := [rdB false b] ++ (if net.isSome then [rdV a inw, wrV d outw] else []),
          hold := decide (512 < pool + s.curLanes.length), why := 21 } s fun c s =>
    let rec_ := fun (cause i : Nat) => c.laneRec i false (Flt.plain cause 0#64)
    let badB := if c.cur.lit.isSome then [] else c.lanes.filter (fun i => c.wave.vpoison b.toNat i)
    match c.grp.net, badB with
    | none, _ => (s, .trap true (c.lanes.map (rec_ cNeval)))
    | some _, i :: t => (s, .trap false ((i :: t).map (rec_ cPoison)))
    | some (ncount, _, _), [] =>
      let good := c.lanes.filter (fun i => decide ((c.B false b i).toNat < ncount))
      let bad := c.lanes.filter (fun i => !decide ((c.B false b i).toNat < ncount))
      let core := s.core c.grp.core
      let reqs := good.map (fun i =>
        { key := { tag := (s.job c.grp.job).tag, tbase := c.lau.ntab, handle := (c.B false b i).toNat }, group := c.cur.g, wave := c.cur.w,
          pend := c.wave.nextPend, lane := i, half := h, inputs := (List.range inw).map (fun j => c.wave.vget (a.toNat + j) i),
          poison := (List.range inw).any (fun j => c.wave.vpoison (a.toNat + j) i), dreg := d.toNat, entry := core.ccycle.toNat,
          window := c.grp.window, eligible := false, parked := false, request := none : NReq })
      let s := if good.isEmpty then s else
        (s.modCore c.grp.core (fun k => { k with pool := k.pool ++ reqs })).addPend c 5 false
          ((List.range outw).map (fun j => d.toNat + j)) (Mask.ofLanes good) (Mask.ofLanes good) .neval false false [] []
      (s, if bad.isEmpty then .next else .trap true (bad.map (rec_ cNeval)))

def execNeval (d a b : BitVec 7) (s : State) : Out' := neval false d a b s
def execNevalH (d a b : BitVec 7) (s : State) : Out' := neval true d a b s

/-- Mark the requests of some keys eligible. -/
def Core.makeEligible (c : Core) (keys : List NKey) : Core :=
  { c with pool := c.pool.map (fun r => if keys.contains r.key && !r.parked then { r with eligible := true } else r) }

def execNflush (s : State) : Out' :=
  issue { uni := true, long := true, on := .shading } s fun c s =>
    (s.modCore c.grp.core (fun k =>
      k.makeEligible ((k.pool.filter (fun r => r.group == c.cur.g && !r.parked)).map NReq.key)), .next)

def execNcfg (a : BitVec 7) (s : State) : Out' :=
  issue { uni := true, long := true, on := .shading, uses := [rdS a] } s fun c s =>
    let w := c.wave.sget a.toNat
    let n := (w.extractLsb' 0 13).toNat
    if w.extractLsb' 13 19 != 0#19 || decide (n < 16) || decide (4096 < n) then raise c s cBadDescriptor
    else (s.modGroup c.cur.g (fun G => { G with window := n }), .next)

/-! ### Tiles (R271) -/

/-- Requests by age, the oldest first; those of one age in pool order. -/
def insertAge (r : NReq) : List NReq → List NReq
  | [] => [r]
  | x :: t => if r.entry < x.entry then r :: x :: t else x :: insertAge r t
def byAge (l : List NReq) : List NReq := l.foldl (fun a r => insertAge r a) []

/-- Requests under a key that wait in the pool, the oldest first. -/
def Core.underKey (c : Core) (k : NKey) : List NReq := byAge (c.pool.filter (fun r => r.key == k && !r.parked))

/-- GATHER_WINDOW_EXPIRY: the oldest request of a key has reached its window. -/
def execGatherWindowExpiry (core idx : Nat) (s : State) : Out' :=
  let c := s.core core
  match c.pool[idx]? with
  | none => idle s
  | some r =>
    if r.parked || r.eligible || decide (c.ccycle.toNat < r.entry + r.window) || (c.underKey r.key).head? != some r then idle s
    else .next (s.modCore core (fun c => c.makeEligible [r.key]))

/-- The eligible key whose oldest request is oldest; none while the core's clock is held (spec/14 R369). -/
def Core.nextKey (c : Core) : Option NKey :=
  if c.held then none
  else
    ((byAge c.pool).find? (fun r => !r.parked &&
      ((c.underKey r.key).any (fun x => x.eligible) || decide (128 ≤ (c.underKey r.key).length)))).map NReq.key

/-- End requests with a cause: their lanes' shares leave class 5, and their waves trap. -/
def State.endReqs (s : State) (f : Flt) (rs : List NReq) : State :=
  let waves := (rs.map (fun r => (r.group, r.wave))).eraseDups
  waves.foldl (fun s gw =>
    let mine := rs.filter (fun r => r.group == gw.1 && r.wave == gw.2)
    let found := mine.filterMap (fun r =>
      ((s.wave? gw.1 gw.2).bind (fun wv => wv.pend? r.pend)).map (fun p => (p, p.record r.lane false false f, r)))
    let alive := found.filter (fun x => ((s.wave? gw.1 gw.2).map (fun wv => wv.live.getLsbD x.2.2.lane)).getD false)
    let s := s.modWave gw.1 gw.2 (fun wv => mine.foldl (fun wv r => wv.shedLanes r.pend (Mask.bit r.lane)) wv)
    match s.wave? gw.1 gw.2 with
    | none => s
    | some wv =>
      let recs := alive.flatMap (fun x => x.1.held wv [x.2.1])
      if recs.isEmpty then s else s.takeTrap gw.1 gw.2 (found.any (fun x => x.1.sp == trapIdx)) recs) s

/-- A failed read of a tile (R275): serviceable causes park its requests, others end them. -/
def State.tileFault (s : State) (core : Nat) (f : Flt) (rs : List NReq) : State :=
  let s := s.modCore core (fun c => { c with tile := none })
  if !serviceable f.cause then s.endReqs f rs
  else
    let recs := rs.flatMap (fun r => match s.wave? r.group r.wave with
      | none => []
      | some wv => match wv.pend? r.pend with
        | none => []
        | some p => p.held wv [p.record r.lane false false f])
    let job := ((rs.head?).bind (fun r => (s.groups[r.group]?).map (fun G => G.job))).getD 0
    match s.askService job (.gather core) (sortRecs recs) with
    | none => s.endReqs f rs
    | some (id, s) =>
      s.modCore core (fun c => { c with pool := c.pool ++ rs.map (fun r => { r with parked := true, eligible := false, request := some id }) })

/-- The descriptor of a key: a cached one where the free choice takes it, else as memory stands. -/
def State.netDesc (s : State) (core job : Nat) (k : NKey) : GRead × State :=
  let cached := ((s.core core).dcache.find? (fun d => d.1 == k)).map Prod.snd
  let (use, s) := if cached.isSome then s.drawBit else (false, s)
  match use, cached with
  | true, some ws => (.ok (wordsBytes ws) false, s)
  | _, _ => s.gatherRead (coreReq core job false false) 4 (k.tbase.toNat + 128 + 128 * k.handle) 128

/-- Remember a descriptor; 64 are kept. -/
def Core.cacheDesc (c : Core) (k : NKey) (ws : List Word) : Core :=
  { c with dcache := ((k, ws) :: c.dcache.filter (fun d => d.1 != k)).take 64 }

/-- The launch and header of a request's group. -/
def State.reqLaunch (s : State) (r : NReq) : Launch :=
  ((s.groups[r.group]?).map (fun G => s.launch G.launch)).getD Launch.empty
def State.reqNet (s : State) (r : NReq) : Nat × Nat × Nat := ((s.groups[r.group]?).bind (fun G => G.net)).getD (0, 0, 0)

/-- The network of a request, where its descriptor is valid and its widths fit (R267 R270). -/
def State.netFor (s : State) (r : NReq) (ws : List Word) : Option Net :=
  let cap := fun (n : Nat) => if r.half then 2 * n else n
  match Net.ofDesc (s.reqLaunch r) ws with
  | none => none
  | some n => if n.ins ≤ cap (s.reqNet r).2.1 ∧ n.outs ≤ cap (s.reqNet r).2.2 then some n else none

/-- GATHER_TILE_FORM: the oldest eligible key forms a tile and its descriptor is read. -/
def execGatherTileForm (core : Nat) (s : State) : Out' :=
  let c := s.core core
  if c.tile.isSome then idle s
  else
    match c.nextKey with
    | none => idle s
    | some k =>
      let rows := (c.underKey k).take 128
      let job := ((rows.head?).bind (fun r => (s.groups[r.group]?).map (fun G => G.job))).getD 0
      match s.netDesc core job k with
      | (.wait, _) => idle s
      | (r, s) =>
        let s := s.modCore core (fun c => { c with
          pool := (c.pool.filter (fun x => !rows.contains x)).map (fun x => if x.key == k then { x with eligible := false } else x) })
        match r with
        | .ok b p =>
          let ws := leWords 32 b
          if p then .next (s.tileFault core (Flt.plain cPoison (k.tbase + BitVec.ofNat 64 (128 + 128 * k.handle))) rows)
          else
            let s := s.modCore core (fun c => c.cacheDesc k ws)
            let good := rows.filter (fun x => (s.netFor x ws).isSome)
            let bad := rows.filter (fun x => (s.netFor x ws).isNone)
            let s := if good.isEmpty then s else
              s.modCore core (fun c => { c with tile := some { key := k, stage := .fetching, rows := good, desc := ws, results := [] } })
            .next (s.endReqs (Flt.plain cNeval 0#64) bad)
        | .fault f => .next (s.tileFault core f rows)
        | .wait => .next s

/-- Evaluate the rows of a tile, fetching for each what its launch's slot lays out. -/
def State.evalRows (s : State) (core job : Nat) (ws : List Word) :
    List NReq → (Flt ⊕ Option (List (NReq × List Word × Bool))) × State
  | [] => (.inr (some []), s)
  | r :: rest =>
    match s.netFor r ws with
    | none => s.evalRows core job ws rest
    | some n =>
      let t := (s.reqLaunch r).slot n.slot
      match s.fetchLayers core job t n.waddr n.layers with
      | (.inl f, s) => (.inl f, s)
      | (.inr none, s) => (.inr none, s)
      | (.inr (some (ls, p)), s) =>
        match s.evalRows core job ws rest with
        | (.inr (some out), s) =>
          let x := ls.foldl (fun x l => l.eval t x) (r.values n.ins)
          (.inr (some ((r, r.out (s.reqNet r).2.2 x, r.poison || p) :: out)), s)
        | o => o

/-- GATHER_FETCH_COMPLETE: every layer's bytes are there, the rows are evaluated. -/
def execGatherFetchComplete (core : Nat) (s : State) : Out' :=
  match (s.core core).tile with
  | none => idle s
  | some t =>
    if t.stage != .fetching || (s.core core).held then idle s
    else
      let job := ((t.rows.head?).bind (fun r => (s.groups[r.group]?).map (fun G => G.job))).getD 0
      match s.evalRows core job t.desc t.rows with
      | (.inl f, s) => .next (s.tileFault core f t.rows)
      | (.inr none, _) => idle s
      | (.inr (some out), s) =>
        .next (s.modCore core (fun c => { c with tile := if out.isEmpty then none else some { t with stage := .scattering, results := out } }))

/-- GATHER_SCATTER (R274): one row's result goes to its lane; the tile is free when all have gone. -/
def execGatherScatter (core row : Nat) (s : State) : Out' :=
  match (s.core core).tile with
  | none => idle s
  | some t =>
    match t.results[row]? with
    | none => idle s
    | some (r, out, p) =>
      if t.stage != .scattering || (s.core core).held then idle s
      else
        let rest := t.results.eraseIdx row
        let wrs := out.zipIdx.map (fun x => { lane := r.lane, reg := r.dreg + x.2, val := x.1, poison := p : Wr })
        let s := s.modCore core (fun c => { c with tile := if rest.isEmpty then none else some { t with results := rest } })
        .next (s.modWave r.group r.wave (fun wv => (wv.writeAll false wrs).shedLanes r.pend (Mask.bit r.lane)))

end Sys2Proof.Machine
end

