-- ==== Sys2Proof/Machine/RayTest.lean ====
section
/-! DEFINITION. What a ray is tested against: quantised boxes, procedural boxes and triangles, and the frames they lie in
(spec/11 R286 to R292). -/

namespace Sys2Proof.Machine

/-! ### Exact fractions -/

/-- A fraction; the denominator 0 stands for the infinity of the numerator's sign. -/
abbrev Frac := Int × Nat

def Frac.lt (a b : Frac) : Bool := if a.2 = 0 ∧ b.2 = 0 then decide (a.1 < b.1) else decide (a.1 * b.2 < b.1 * a.2)

/-- x / d for nonzero d. -/
def Frac.ofDiv (x d : Dy) : Frac :=
  let e := x.exp - d.exp
  let n : Int := x.man * 2 ^ e.toNat
  (if x.neg != d.neg then -n else n, d.man * 2 ^ (-e).toNat)

def Frac.ofFp (x : Fp) : Frac :=
  match x with
  | .nan _ => (0, 1)
  | .inf n => (if n then -1 else 1, 0)
  | .fin d => Frac.ofDiv d { neg := false, man := 1, exp := 0 }

def Frac.max (a b : Frac) : Frac := if Frac.lt a b then b else a
def Frac.min (a b : Frac) : Frac := if Frac.lt b a then b else a

/-- Rounded toward -∞ to binary32. -/
def Frac.down (a : Frac) : Nat :=
  if a.2 = 0 then f32.signed (decide (a.1 < 0)) f32.infEnc else (f32.round .rd (Dy.quot (decide (a.1 < 0)) a.1.natAbs a.2)).1

/-! ### The interval (R292) -/

/-- The words of a ray's flags. -/
def Ray.termFirst (r : Ray) : Bool := r.flags.getLsbD 0
def Ray.opaque_ (r : Ray) : Bool := r.flags.getLsbD 1
def Ray.cullBack (r : Ray) : Bool := r.flags.getLsbD 2
def Ray.cullFront (r : Ray) : Bool := r.flags.getLsbD 3
def Ray.skipTri (r : Ray) : Bool := r.flags.getLsbD 4
def Ray.skipProc (r : Ray) : Bool := r.flags.getLsbD 5
def Ray.mask (r : Ray) : Byte := r.flags.extractLsb' 8 8

def f32v (w : Word) : Fp := f32.read w.toNat

/-- A hit or a commit at `t` is accepted: closed before any commit, below the committed t after it; never a NaN. -/
def accepts (r : Ray) (hit : Option Hit) (t : Fp) : Bool :=
  !t.isNan && !(t.lt (f32v r.tmin)) &&
    match hit with
    | none => !((f32v r.tmax).lt t)
    | some h => t.lt (f32v h.t)

/-- A deferred entry whose value the interval no longer holds is skipped (R292 R294). -/
def stale (hit : Option Hit) (e : Frac) : Bool :=
  match hit with
  | none => false
  | some h => !(Frac.lt e (Frac.ofFp (f32v h.t)))

/-! ### Boxes (R289) -/

/-- What one axis leaves of t: all, nothing, an interval, or a case whose numbers are not finite, for which the manual
states no result. -/
inductive Slab where
  | all | none | open_
  | iv (a b : Frac)

def slab (lo hi o d : Fp) : Slab :=
  match lo, hi, o, d with
  | .fin lo, .fin hi, .fin o, .fin d =>
    if d.man = 0 then (if lo.le o && o.le hi then .all else .none)
    else
      let a := Frac.ofDiv (lo.add o.negate) d
      let b := Frac.ofDiv (hi.add o.negate) d
      .iv (Frac.min a b) (Frac.max a b)
  | _, _, _, _ => .open_

def Slab.isNone : Slab → Bool
  | .none => true
  | _ => false
def Slab.isOpen : Slab → Bool
  | .open_ => true
  | _ => false
def Slab.iv? : Slab → Option (Frac × Frac)
  | .iv a b => some (a, b)
  | _ => Option.none

/-- The free integer of a free number. -/
def freeInt (n : Nat) : Int := if n % 2 = 0 then n / 2 else -((n + 1) / 2 : Nat)

/-- The entry value of a box that is entered; free where the numbers are not finite (assumption 21). -/
def State.enter (s : State) (r : Ray) (hit : Option Hit) (slabs : List Slab) : Option Frac × State :=
  if slabs.any Slab.isNone then (none, s)
  else if slabs.any Slab.isOpen then
    let (b, s) := s.drawBit
    let (n, s) := s.draw
    let (d, s) := s.draw
    (if b then some (freeInt n, d + 1) else none, s)
  else
    let ivs := slabs.filterMap Slab.iv?
    let lower := ivs.foldl (fun a x => Frac.max a x.1) (Frac.ofFp (f32v r.tmin))
    let upper := ivs.foldl (fun a x => Frac.min a x.2) (Frac.ofFp (f32v r.tmax))
    (if Frac.lt upper lower || stale hit lower then none else some lower, s)

/-! ### Triangles (R290) -/

/-- A quotient rounded to a format. -/
def Fmt.quotV (F : Fmt) (a b : Fp) : Nat :=
  match a, b with
  | .nan _, _ | .fin _, .nan _ | .inf _, .nan _ | .inf _, .inf _ => F.nanEnc
  | .inf m, .fin y => F.signed (m != y.neg) F.infEnc
  | .fin x, .inf n => F.signed (x.neg != n) 0
  | .fin x, .fin y =>
    if y.man = 0 then (if x.man = 0 then F.nanEnc else F.signed (x.neg != y.neg) F.infEnc)
    else if x.man = 0 then F.signed (x.neg != y.neg) 0
    else (F.round .rne (x.div y)).1

def fsub32 (a b : Nat) : Nat := (f32.sub .rne a b).1
def fneg32 (a : Nat) : Nat := (a + 2 ^ 31) % 2 ^ 32
def f32to64 (a : Nat) : Nat := (f32.convert f64 .rne a).1

def zeroFp : Fp := .fin (Dy.zero false)

/-- A hit of a triangle. -/
structure TriHit where
  t : Nat
  u : Nat
  v : Nat
  front : Bool
deriving DecidableEq, Repr

/-- The axis of largest |d|, the first of equals. -/
def mainAxis (d : List Nat) : Nat :=
  let ab := fun (i : Nat) => (f32.read (d.getD i 0 % 2 ^ 31))
  let k := if (ab 0).lt (ab 1) then 1 else 0
  if (ab k).lt (ab 2) then 2 else k

/-- A sheared vertex. -/
structure Sheared where
  x : Nat
  y : Nat
  z : Nat

/-- The edge functions in binary32, or in binary64 when one of them is 0, as values; and det. -/
def edgeFns (a b c : Sheared) : List Fp × Fp :=
  let f := fun (px qy qx py : Nat) => fsub32 (fmul32 px qy) (fmul32 qx py)
  let g := fun (px qy qx py : Nat) =>
    (f64.sub .rne (f64.mul .rne (f32to64 px) (f32to64 qy)).1 (f64.mul .rne (f32to64 qx) (f32to64 py)).1).1
  let all := fun (h : Nat → Nat → Nat → Nat → Nat) => [h c.x b.y c.y b.x, h a.x c.y a.y c.x, h b.x a.y b.y a.x]
  let sum := fun (F : Fmt) (l : List Fp) =>
    F.read (F.addV .rne (F.read (F.addV .rne (l.getD 0 zeroFp) (l.getD 1 zeroFp)).1) (l.getD 2 zeroFp)).1
  let e := (all (fun px qy py qx => f px qy qx py)).map f32.read
  if e.any Fp.isZero then
    let e := (all (fun px qy py qx => g px qy qx py)).map f64.read
    (e, sum f64 e)
  else (e, sum f32 e)

/-- The tie rule on an edge from `p` to `q`. -/
def edgeBelongs (front : Bool) (p q : Sheared) : Bool :=
  let diff := fun (a b : Nat) => ((f32.read b).num.add (f32.read a).num.negate)
  let dx := if front then diff p.x q.x else diff q.x p.x
  let dy := if front then diff p.y q.y else diff q.y p.y
  let pos := fun (x : Dy) => x.man != 0 && !x.neg
  pos dx || (dx.man == 0 && pos dy)

/-- The watertight test of a triangle against a frame: the hit, whatever its t. -/
def triTest (o d v0 v1 v2 : List Nat) : Option TriHit :=
  let kz := mainAxis d
  let dz := f32.read (d.getD kz 0)
  let swap := dz.lt zeroFp
  let k1 := (kz + 1) % 3
  let k2 := (k1 + 1) % 3
  let kx := if swap then k2 else k1
  let ky := if swap then k1 else k2
  let sx := f32.quotV (f32.read (d.getD kx 0)) dz
  let sy := f32.quotV (f32.read (d.getD ky 0)) dz
  let sz := f32.quotV (f32.read oneF32) dz
  let shear := fun (v : List Nat) =>
    let p := fun (i : Nat) => fsub32 (v.getD i 0) (o.getD i 0)
    { x := fma32 (fneg32 sx) (p kz) (p kx), y := fma32 (fneg32 sy) (p kz) (p ky), z := fmul32 sz (p kz) : Sheared }
  let a := shear v0
  let b := shear v1
  let c := shear v2
  let (e, det) := edgeFns a b c
  if (e.any (fun x => x.lt zeroFp) && e.any (fun x => zeroFp.lt x)) || det.isZero then none
  else
    let front := zeroFp.lt det
    let flip := det.lt zeroFp
    let or_ := fun (x : Fp) => if flip then x.negate else x
    let e := e.map or_
    let det := or_ det
    let ends := [(b, c), (c, a), (a, b)]
    if (e.zip ends).any (fun x => x.1.isZero && !edgeBelongs front x.2.1 x.2.2) then none
    else
      let prod := fun (i : Nat) (z : Nat) => ((e.getD i zeroFp).mul (f32.read z)).getD (.nan false)
      let t1 := f64.read (f64.addV .rne (prod 0 a.z) (prod 1 b.z)).1
      let t := f64.read (f64.addV .rne t1 (prod 2 c.z)).1
      some { t := f32.quotV t det, u := f32.quotV (e.getD 1 zeroFp) det, v := f32.quotV (e.getD 2 zeroFp) det, front := front }

/-! ### Frames (R288) -/

/-- The top frame: origin minus ORIGIN, rounded once. -/
def topFrame (r : Ray) (origin : List DWord) (two : Bool) : RayFrame :=
  { o := (r.org.zip origin).map (fun p =>
      BitVec.ofNat 32 (f32.addV .rne (f64.read p.1.toNat) (f64.read p.2.toNat).negate).1)
    d := r.dir, two := two, inst := none }

/-- The object frame of an instance with a world-to-object transform. -/
def objectFrame (r : Ray) (m : List Nat) (inst : Word) (iflg : Byte) : RayFrame :=
  let o := r.org.map BitVec.toNat
  let d := r.dir.map (fun w => f32to64 w.toNat)
  let fma := fun (a b c : Nat) => (f64.fma .rne a b c).1
  let row := fun (i j : Nat) => m.getD (4 * i + j) 0
  let to32 := fun (x : Nat) => BitVec.ofNat 32 (f64.convert f32 .rne x).1
  { o := (List.range 3).map (fun i => to32 (fma (row i 2) (o.getD 2 0) (fma (row i 1) (o.getD 1 0) (fma (row i 0) (o.getD 0 0) (row i 3)))))
    d := (List.range 3).map (fun i => to32 (fma (row i 2) (d.getD 2 0) (fma (row i 1) (d.getD 1 0) (f64.mul .rne (row i 0) (d.getD 0 0)).1)))
    two := false, inst := some (inst, iflg) }

/-! ### Nodes (R286 R287) -/

/-- A child reference (Table 11.3). -/
structure Child where
  pos : Nat
  kind : Nat
  cnt : Nat
  addr : Nat

/-- A node as it is read: origin, exponents, valid mask, planes and references. -/
structure Node where
  org : List Nat
  exps : List Nat
  valid : Nat
  q : List Byte
  refs : List DWord

def Node.ofBytes (b : List Byte) : Node :=
  { org := (List.range 3).map (fun a => leNat ((b.drop (4 * a)).take 4)), exps := (List.range 3).map (fun a => (b.getD (12 + a) 0#8).toNat),
    valid := (b.getD 15 0#8).toNat, q := (b.drop 16).take 48,
    refs := (List.range 8).map (fun j => BitVec.ofNat 64 (leNat ((b.drop (64 + 8 * j)).take 8))) }

def Node.lo (n : Node) (a j : Nat) : Nat := (n.q.getD (16 * a + j) 0#8).toNat
def Node.hi (n : Node) (a j : Nat) : Nat := (n.q.getD (16 * a + 8 + j) 0#8).toNat
def Node.present (n : Node) : List Nat := (List.range 8).filter (fun j => n.valid.testBit j)

/-- A plane of a child's box: ORG + q × 2^(EXP - 127), exact. -/
def Node.plane (n : Node) (a q : Nat) : Fp :=
  match f32.read (n.org.getD a 0) with
  | .fin x => .fin (x.add { neg := false, man := q, exp := (n.exps.getD a 0 : Int) - 127 })
  | y => y

def childOf (j : Nat) (r : DWord) : Child :=
  { pos := j, kind := (r.extractLsb' 0 2).toNat, cnt := (r.extractLsb' 2 4).toNat, addr := (r.extractLsb' 6 46).toNat * 64 }

/-- Leaf kinds that a frame's level allows (R287). -/
def RayFrame.allows (fr : RayFrame) (kind : Nat) : Bool := kind == 0 || (if fr.two then kind == 3 else kind == 1 || kind == 2)

/-- A reference of a present child obeys Table 11.3 at its level. -/
def goodRef (allow : Nat → Bool) (r : DWord) : Bool :=
  let c := childOf 0 r
  r != 0#64 && r.extractLsb' 52 12 == 0#12 && allow c.kind &&
    (match c.kind with
     | 0 => c.cnt == 0 && c.addr % 128 == 0
     | 3 => c.cnt == 1
     | _ => decide (1 ≤ c.cnt))

/-- The node has no structure fault. -/
def Node.sound (n : Node) (allow : Nat → Bool) : Bool :=
  n.exps.all (fun e => e != 255) &&
    n.present.all (fun j => goodRef allow (n.refs.getD j 0#64) && (List.range 3).all (fun a => decide (n.lo a j ≤ n.hi a j)))

/-- The slabs of a child's box in a frame. -/
def Node.slabs (n : Node) (fr : RayFrame) (j : Nat) : List Slab :=
  (List.range 3).map (fun a => slab (n.plane a (n.lo a j)) (n.plane a (n.hi a j)) (f32v (fr.o.getD a 0#32)) (f32v (fr.d.getD a 0#32)))

end Sys2Proof.Machine
end

