-- ==== Sys2Proof/Machine/Ray.lean ====
section
/-! DEFINITION. Lane group 11 and the traversal of rays (spec/11 R285, R293 to R304). -/

namespace Sys2Proof.Machine

/-! ### Slots (R296 R297) -/

def raySlots : Nat := 256

/-- Slots that are not spilled. -/
def Core.placed (c : Core) : List RaySlot := c.rays.filter (fun r => !r.spilled)

/-- The lane of a slot is Parked or Debug parked. -/
def State.laneParked (s : State) (r : RaySlot) : Bool :=
  match s.wave? r.group r.wave with
  | none => false
  | some wv => wv.entries.any (fun e => (e.st == .parked || e.st == .debugParked) && e.mask.getLsbD r.lane)

def State.pinned (s : State) (r : RaySlot) : Bool := r.st != .candidate || s.laneParked r

/-- Slots that are free or can be freed by spilling. -/
def State.rayRoom (s : State) (core : Nat) : Nat :=
  raySlots - ((s.core core).placed.filter (fun r => s.pinned r)).length

/-- The ray of a lane. -/
def Core.rayOf (c : Core) (g w lane : Nat) : Option RaySlot :=
  c.rays.find? (fun r => r.group == g && r.wave == w && r.lane == lane)

def Core.modRay (c : Core) (g w lane : Nat) (f : RaySlot → RaySlot) : Core :=
  { c with rays := c.rays.map (fun r => if r.group == g && r.wave == w && r.lane == lane then f r else r) }

/-- The lowest free slot number. -/
def Core.freeSlot (c : Core) : Option Nat := (List.range raySlots).find? (fun i => !(c.placed.any (fun r => r.idx == i)))

/-- A ray of a lane for which an instruction issues. -/
def Ctx.ownRay (c : Ctx) (r : RaySlot) : Bool := r.group == c.cur.g && r.wave == c.cur.w && c.act.getLsbD r.lane

/-- The slot to spill: a Candidate that is neither pinned nor one of those to keep, and was used longest ago. -/
def State.toSpill (s : State) (core : Nat) (keep : RaySlot → Bool) : Option RaySlot :=
  ((s.core core).placed.filter (fun r => !s.pinned r && !keep r)).foldl (fun (o : Option RaySlot) r =>
    match o with
    | none => some r
    | some x => if r.lastUse < x.lastUse then some r else o) none

/-- A free slot number, by spilling where none is free. -/
def State.takeSlot (s : State) (core : Nat) (keep : RaySlot → Bool := fun _ => false) : Option (Nat × State) :=
  match (s.core core).freeSlot with
  | some i => some (i, s)
  | none =>
    (s.toSpill core keep).map (fun r =>
      (r.idx, s.modCore core (fun c => c.modRay r.group r.wave r.lane (fun x => { x with spilled := true }))))

/-- A spilled ray of a lane comes back before the instruction of the lane acts; the rays of its other lanes keep their slots. -/
def State.unspill (s : State) (c : Ctx) (lane : Nat) : State :=
  match (s.core c.grp.core).rayOf c.cur.g c.cur.w lane with
  | none => s
  | some r =>
    if r.spilled then
      match s.takeSlot c.grp.core c.ownRay with
      | none => s
      | some (i, s) => s.modCore c.grp.core (fun k => k.modRay c.cur.g c.cur.w lane (fun x =>
          { x with spilled := false, idx := i, lastUse := s.tick }))
    else s

/-- A group 11 instruction waits until the spilled rays of its lanes find room beside the others. -/
def spillHold (s : State) : Bool :=
  match s.ctx? with
  | none => false
  | some c =>
    let k := s.core c.grp.core
    let back := (k.rays.filter (fun r => c.ownRay r && r.spilled)).length
    let stay := (k.placed.filter (fun r => s.pinned r || c.ownRay r)).length
    back != 0 && decide (raySlots < stay + back)

def State.unspillAll (s : State) (c : Ctx) : State := c.lanes.foldl (fun s i => s.unspill c i) s

/-- The ray of a lane is None again, its slot Free. -/
def State.freeRay (s : State) (core g w lane : Nat) : State :=
  let s := s.modCore core (fun c => { c with rays := c.rays.filter (fun r => !(r.group == g && r.wave == w && r.lane == lane)) })
  s.modWave g w (fun wv => { wv with rays := wv.rays &&& ~~~(Mask.bit lane) })

/-! ### Result blocks (Table 11.6) -/

def rayWord0 (code : Nat) (front term : Bool) (hk : Byte) : Word :=
  BitVec.ofNat 32 (code + 16 * front.toNat + 32 * term.toNat + 2 ^ 16 * hk.toNat)

def hitBlock (code : Nat) (term : Bool) (h : Hit) (ctx : Word) : List Word :=
  [rayWord0 code h.front term h.hk, h.t, h.prim, h.inst, h.geom, h.u, h.v, ctx]

def plainBlock (code : Nat) (term : Bool) (ctx : Word) : List Word :=
  [rayWord0 code false term 0#8, 0#32, 0#32, 0#32, 0#32, 0#32, 0#32, ctx]

/-- HIT with the committed hit, or MISS. -/
def endBlock (r : RaySlot) (term : Bool) : List Word :=
  match r.hit with
  | some h => hitBlock 1 term h r.ray.ctx
  | none => plainBlock 0 term r.ray.ctx

/-- Write a block to a lane's destinations of a pending instruction; the lane leaves class 6. -/
def State.writeBlock (s : State) (r : RaySlot) (ws : List Word) : State :=
  s.modWave r.group r.wave (fun wv =>
    (wv.writeAll false (ws.zipIdx.map (fun x => { lane := r.lane, reg := r.dreg + x.2, val := x.1, poison := false : Wr }))).shedLanes
      r.pend (Mask.bit r.lane))

/-! ### Issue (R299) -/

def cRayRecs (c : Ctx) (bad : List Nat) : List Rec := bad.map (fun i => c.laneRec i false (Flt.plain cRay 0#64))

/-- `RAYQ` with the registers that hold a ray: it waits until as many slots are free or can be freed as lanes are active (R297),
and its reads for a `FENCE` before it (R303). -/
def rayq (wide : Bool) (d a b : BitVec 7) (rules : List Rule) (s : State) : Out' :=
  issue { uni := false, long := true, ctr := 6, bad := firstBroken rules, on := .shading, mem := true,
          uses := [rdV a (if wide then 11 else 8), rdV b 4, wrV d 8], also := [rdV a (if wide then 12 else 8)],
          hold := spillHold s || decide (s.rayRoom s.curCore < s.curLanes.length), why := 22 } s fun c s =>
    let s := s.unspillAll c
    let good := c.lanes.filter (fun i => !c.wave.rays.getLsbD i)
    let bad := c.lanes.filter (fun i => c.wave.rays.getLsbD i)
    let x := fun (r : BitVec 7) (k i : Nat) => c.wave.vget (r.toNat + k) i
    let ray := fun (i : Nat) =>
      { org := if wide then (List.range 3).map (fun k => pairOf (x a (2 * k) i) (x a (2 * k + 1) i))
          else (List.range 3).map (fun k => BitVec.ofNat 64 (f32to64 (x a k i).toNat))
        dir := (List.range 3).map (fun k => x a (k + (if wide then 7 else 4)) i)
        tmin := x a (if wide then 6 else 3) i, tmax := x a (if wide then 10 else 7) i
        hdr := pairOf (x b 0 i) (x b 1 i), flags := x b 2 i, ctx := x b 3 i : Ray }
    let s := good.foldl (fun s i =>
      match s.takeSlot c.grp.core c.ownRay with
      | none => s
      | some (n, s) => s.modCore c.grp.core (fun k => { k with rays := k.rays ++
          [{ idx := n, st := .traversing, group := c.cur.g, wave := c.cur.w, lane := i, pend := c.wave.nextPend, dreg := d.toNat,
             ray := ray i, hit := none, cand := none, stack := [.header], term := false, spilled := false, lastUse := s.tick,
             request := none }] })) s
    let s := s.modWave c.cur.g c.cur.w (fun wv => { wv with rays := wv.rays ||| Mask.ofLanes good })
    let s := if good.isEmpty then s else
      s.addPend c 6 false ((List.range 8).map (fun k => d.toNat + k)) (Mask.ofLanes good) (Mask.ofLanes good) .ray false false [] []
    (s, if bad.isEmpty then .next else .trap true (cRayRecs c bad))

def execRayq (d a b : BitVec 7) (s : State) : Out' := rayq false d a b [multipleOf 4 b] s
def execRayq64 (d a b : BitVec 7) (s : State) : Out' := rayq true d a b [multipleOf 2 a, multipleOf 4 b] s

/-- The candidate of a lane. -/
def Ctx.candidate (c : Ctx) (s : State) (i : Nat) : Option (RaySlot × Hit × Bool) :=
  match (s.core c.grp.core).rayOf c.cur.g c.cur.w i with
  | none => none
  | some r => if r.st == .candidate then r.cand.map (fun h => (r, h.1, h.2)) else none

/-- The ray goes on from its candidate after a decision (R299): ACCEPT and TERMINATE commit a triangle. -/
def RaySlot.resume (r : RaySlot) (h : Hit) (proc : Bool) (dec pend dreg tick : Nat) : RaySlot :=
  let hit := if !proc && dec != 1 then some h else r.hit
  { r with st := .traversing, hit := hit, cand := none, pend := pend, dreg := dreg, lastUse := tick,
           term := dec == 2 || (r.ray.termFirst && hit.isSome) }

def execRaycont (d b : BitVec 7) (s : State) : Out' :=
  issue { uni := false, long := true, ctr := 6, on := .shading, litB := b, uses := [rdB false b, wrV d 8],
          hold := spillHold s, why := 22 } s fun c s =>
    let s := s.unspillAll c
    let ok := fun (i : Nat) => (c.candidate s i).isSome && decide ((c.B false b i).toNat ≤ 2)
    let good := c.lanes.filter ok
    let bad := c.lanes.filter (fun i => !ok i)
    let s := good.foldl (fun s i =>
      match c.candidate s i with
      | none => s
      | some (_, h, proc) => s.modCore c.grp.core (fun k => k.modRay c.cur.g c.cur.w i (fun r =>
          r.resume h proc (c.B false b i).toNat c.wave.nextPend d.toNat s.tick))) s
    let s := if good.isEmpty then s else
      s.addPend c 6 false ((List.range 8).map (fun k => d.toNat + k)) (Mask.ofLanes good) (Mask.ofLanes good) .ray false false [] []
    (s, if bad.isEmpty then .next else .trap true (cRayRecs c bad))

/-- A use of the lane's slot now. -/
def State.useRay (s : State) (c : Ctx) (i : Nat) (f : RaySlot → RaySlot) : State :=
  s.modCore c.grp.core (fun k => k.modRay c.cur.g c.cur.w i (fun r => { f r with lastUse := s.tick }))

def execRayhit (d : BitVec 7) (s : State) : Out' :=
  issue { uni := false, long := true, ctr := 6, on := .shading, uses := [wrV d 8], instant := (List.range 8).map (fun k => d.toNat + k),
          hold := spillHold s, why := 22 } s fun c s =>
    let s := s.unspillAll c
    let good := c.lanes.filterMap (fun i => (c.candidate s i).map (fun x => (i, x.1)))
    let bad := c.lanes.filter (fun i => (c.candidate s i).isNone)
    let s := good.foldl (fun s x =>
      (s.useRay c x.1 id).modWave c.cur.g c.cur.w (fun wv => wv.vsets d.toNat x.1 (endBlock x.2 false))) s
    (s, if bad.isEmpty then .next else .trap true (cRayRecs c bad))

/-- The procedural candidate of a lane. -/
def Ctx.procedural (c : Ctx) (s : State) (i : Nat) : Option (RaySlot × Hit) :=
  match c.candidate s i with
  | some (r, h, true) => some (r, h)
  | _ => none

def execRaycommit (d a b : BitVec 7) (s : State) : Out' :=
  issue { uni := false, long := true, ctr := 6, on := .shading, litB := b, uses := [rdV a, rdB false b, wrV d], instant := [d.toNat],
          hold := spillHold s, why := 22 } s fun c s =>
    let s := s.unspillAll c
    let good := c.lanes.filterMap (fun i => (c.procedural s i).map (fun x => (i, x)))
    let bad := c.lanes.filter (fun i => (c.procedural s i).isNone)
    let s := good.foldl (fun s x =>
      let t := c.A false a x.1
      let yes := accepts x.2.1.ray x.2.1.hit (f32v t)
      let h := { x.2.2 with t := t, u := 0#32, v := 0#32, front := false, hk := (c.B false b x.1).setWidth 8 }
      (s.useRay c x.1 (fun r => if yes then { r with hit := some h } else r)).modWave c.cur.g c.cur.w (fun wv =>
        wv.vset d.toNat x.1 (if yes then 1#32 else 0#32) false)) s
    (s, if bad.isEmpty then .next else .trap true (cRayRecs c bad))

def execRayabort (s : State) : Out' :=
  issue { uni := false, long := true, ctr := 6, on := .shading } s fun c s =>
    (c.lanes.foldl (fun s i =>
      match (s.core c.grp.core).rayOf c.cur.g c.cur.w i with
      | none => s
      | some r =>
        let s := if r.st == .candidate then s else s.writeBlock r (plainBlock 4 false r.ray.ctx)
        s.freeRay c.grp.core c.cur.g c.cur.w i) s, .next)

/-! ### Traversal (R294 R301) -/

/-- What visiting one element of a structure comes to. -/
inductive RayOut where
  | go (r : RaySlot)
  | candidate (r : RaySlot)
  | done (code : Nat)
  | fault (f : Flt)
  | wait

/-- The ray is refused at once (R293). -/
def Ray.bad (r : Ray) : Bool :=
  let fin := fun (x : Fp) => match x with
    | .fin _ => true
    | _ => false
  !(r.org.all (fun x => fin (f64.read x.toNat))) || !(r.dir.all (fun x => fin (f32v x))) || r.dir.all (fun x => (f32v x).isZero) ||
    (f32v r.tmin).isNan || (f32v r.tmax).isNan || r.flags &&& 0xFFFF00C0#32 != 0#32

/-- Read an element of a structure: bytes without a mark go to `k`. -/
def State.rayRead (s : State) (core job va n : Nat) (k : List Byte → State → RayOut × State) : RayOut × State :=
  match s.gatherRead (coreReq core job false false) 2 va n with
  | (.wait, s) => (.wait, s)
  | (.fault f, s) => (.fault f, s)
  | (.ok b p, s) => if p then (.fault (Flt.plain cPoison (BitVec.ofNat 64 va)), s) else k b s

def wordAt (b : List Byte) (i : Nat) : Nat := leNat ((b.drop i).take 4)
def dwordAt (b : List Byte) (i : Nat) : Nat := leNat ((b.drop i).take 8)

/-- Insert a child by entry value, equal values by position. -/
def insertChild (x : Frac × Child) : List (Frac × Child) → List (Frac × Child)
  | [] => [x]
  | y :: t => if Frac.lt x.1 y.1 then x :: y :: t else y :: insertChild x t

/-- The header: reserved fields, then the root. -/
def State.visitHeader (s : State) (core job : Nat) (r : RaySlot) : RayOut × State :=
  if r.ray.bad then (.done 5, s)
  else if (f32v r.ray.tmax).lt (f32v r.ray.tmin) then (.done 0, s)
  else if r.ray.hdr.toNat % 64 != 0 then (.done 6, s)
  else
    s.rayRead core job r.ray.hdr.toNat 64 fun b s =>
      let w := fun (i : Nat) => BitVec.ofNat 32 (wordAt b (4 * i))
      let root := dwordAt b 0
      if w 2 &&& 0xFFFFFFFE#32 != 0#32 || w 3 != 0#32 || ((List.range 6).any (fun i => w (10 + i) != 0#32)) || root % 128 != 0 then
        (.done 6, s)
      else
        let fr := topFrame r.ray ((List.range 3).map (fun i => BitVec.ofNat 64 (dwordAt b (16 + 8 * i)))) ((w 2).getLsbD 0)
        (.go { r with stack := [.node fr root 1 (-1) 0] }, s)

/-- A node: the present children that are entered, nearest first. -/
def State.visitNode (s : State) (core job : Nat) (r : RaySlot) (fr : RayFrame) (va depth : Nat) (rest : List RayTask) : RayOut × State :=
  if 16 < depth || va % 128 != 0 then (.done 6, s)
  else
    s.rayRead core job va 128 fun b s =>
      let n := Node.ofBytes b
      if !n.sound fr.allows then (.done 6, s)
      else
        let (found, s) := n.present.foldl (fun (acc : List (Frac × Child) × State) j =>
          match acc.2.enter r.ray r.hit (n.slabs fr j) with
          | (none, s) => (acc.1, s)
          | (some e, s) => (insertChild (e, childOf j (n.refs.getD j 0#64)) acc.1, s)) ([], s)
        let tasks := found.map (fun x =>
          if x.2.kind = 0 then .node fr x.2.addr (depth + 1) x.1.1 x.1.2 else .leaf fr x.2.kind x.2.addr 0 x.2.cnt x.1.1 x.1.2 : Frac × Child → RayTask)
        (.go { r with stack := tasks ++ rest }, s)

/-- IFLG bit of the frame's instance. -/
def RayFrame.iflg (fr : RayFrame) (i : Nat) : Bool := (fr.inst.map (fun x => x.2.getLsbD i)).getD false
def RayFrame.instId (fr : RayFrame) : Word := (fr.inst.map Prod.fst).getD 0#32

/-- A triangle record. -/
def State.visitTri (s : State) (core job : Nat) (r : RaySlot) (fr : RayFrame) (va : Nat) : RayOut × State :=
  s.rayRead core job va 48 fun b s =>
    let flg := BitVec.ofNat 32 (wordAt b 44)
    if flg &&& 0xFFFFFFFE#32 != 0#32 then (.done 6, s)
    else
      let v := fun (k : Nat) => (List.range 3).map (fun i => wordAt b (12 * k + 4 * i))
      match triTest (fr.o.map BitVec.toNat) (fr.d.map BitVec.toNat) (v 0) (v 1) (v 2) with
      | none => (.go r, s)
      | some h =>
        let cull := !fr.iflg 2 && ((r.ray.cullBack && !h.front) || (r.ray.cullFront && h.front))
        if r.ray.skipTri || cull || !accepts r.ray r.hit (f32.read h.t) then (.go r, s)
        else
          let hit : Hit :=
            { t := BitVec.ofNat 32 h.t, u := BitVec.ofNat 32 h.u, v := BitVec.ofNat 32 h.v, prim := BitVec.ofNat 32 (wordAt b 36),
              inst := fr.instId, geom := BitVec.ofNat 32 (wordAt b 40), front := h.front, hk := if h.front then 0xFE#8 else 0xFF#8 }
          if r.ray.opaque_ || fr.iflg 0 || (flg.getLsbD 0 && !fr.iflg 1) then
            (.go { r with hit := some hit, term := r.ray.termFirst }, s)
          else (.candidate { r with st := .candidate, cand := some (hit, false) }, s)

/-- A procedural box: when it is entered it is a candidate. -/
def State.visitProc (s : State) (core job : Nat) (r : RaySlot) (fr : RayFrame) (va : Nat) : RayOut × State :=
  s.rayRead core job va 32 fun b s =>
    let f := fun (i : Nat) => f32.read (wordAt b (4 * i))
    let slabs := (List.range 3).map (fun a => slab (f a) (f (3 + a)) (f32v (fr.o.getD a 0#32)) (f32v (fr.d.getD a 0#32)))
    if r.ray.skipProc then (.go r, s)
    else
      match s.enter r.ray r.hit slabs with
      | (none, s) => (.go r, s)
      | (some e, s) =>
        let t := Frac.down e
        let t := if (f32.read t).lt (f32v r.ray.tmin) then r.ray.tmin else BitVec.ofNat 32 t
        let hit : Hit :=
          { t := t, u := 0#32, v := 0#32, prim := BitVec.ofNat 32 (wordAt b 24), inst := fr.instId,
            geom := BitVec.ofNat 32 (wordAt b 28), front := false, hk := 0#8 }
        (.candidate { r with st := .candidate, cand := some (hit, true) }, s)

/-- An instance record: its tree is walked in the object frame. -/
def State.visitInst (s : State) (core job : Nat) (r : RaySlot) (va : Nat) (num : Int) (den : Nat) (rest : List RayTask) : RayOut × State :=
  s.rayRead core job va 128 fun b s =>
    let root := dwordAt b 96
    let iflg := b.getD 109 0#8
    if root % 128 != 0 || iflg &&& 0xF8#8 != 0#8 || (b.drop 110).any (fun x => x != 0#8) then (.done 6, s)
    else if r.ray.mask &&& b.getD 108 0#8 = 0#8 then (.go { r with stack := rest }, s)
    else
      let fr := objectFrame r.ray ((List.range 12).map (fun i => dwordAt b (8 * i))) (BitVec.ofNat 32 (wordAt b 104)) iflg
      (.go { r with stack := .node fr root 1 num den :: rest }, s)

/-- Visit the next element. -/
def State.visit (s : State) (core job : Nat) (r : RaySlot) : RayOut × State :=
  match r.stack with
  | [] => (.go r, s)
  | .header :: _ => s.visitHeader core job r
  | .node fr va depth num den :: rest =>
    if stale r.hit (num, den) then (.go { r with stack := rest }, s) else s.visitNode core job r fr va depth rest
  | .leaf fr kind va idx cnt num den :: rest =>
    if idx == 0 && stale r.hit (num, den) then (.go { r with stack := rest }, s)
    else if kind = 3 then s.visitInst core job r va num den rest
    else
      let next := if idx + 1 < cnt then .leaf fr kind va (idx + 1) cnt num den :: rest else rest
      let r' := { r with stack := next }
      if kind = 1 then s.visitTri core job r' fr (va + 48 * idx) else s.visitProc core job r' fr (va + 32 * idx)

/-- The ray ends: the block is written, the slot is free. -/
def State.endRay (s : State) (core : Nat) (r : RaySlot) (ws : List Word) : State :=
  (s.writeBlock r ws).freeRay core r.group r.wave r.lane

/-- The ray ends on a fault: its lane traps (R301). -/
def State.rayTrap (s : State) (core : Nat) (r : RaySlot) (rec_ : Rec) : State :=
  let p := (s.wave? r.group r.wave).bind (fun wv => wv.pend? r.pend)
  let alive := ((s.wave? r.group r.wave).map (fun wv => wv.live.getLsbD r.lane)).getD false
  let s := s.modWave r.group r.wave (fun wv => wv.shedLanes r.pend (Mask.bit r.lane))
  let s := s.freeRay core r.group r.wave r.lane
  match p with
  | none => s
  | some p => if alive then s.trapFor r.group r.wave p [rec_] else s

/-- A read of the traversal has failed: service for a serviceable cause, else the lane traps. -/
def State.rayFault (s : State) (core job : Nat) (r : RaySlot) (f : Flt) : State :=
  match (s.wave? r.group r.wave).bind (fun wv => (wv.pend? r.pend).map (fun p => (wv, p))) with
  | none => s.freeRay core r.group r.wave r.lane
  | some (wv, p) =>
    let rec_ := p.record r.lane false false f
    if !serviceable f.cause then s.rayTrap core r rec_
    else
      match s.askService job (.ray core) (p.held wv [rec_]) with
      | none => s.rayTrap core r rec_
      | some (id, s) => s.modCore core (fun c => c.modRay r.group r.wave r.lane (fun x => { x with st := .faultWait, request := some id }))

/-- An acquire of the lane that issued before the traversal was asked for is still to be performed (R303). -/
def State.rayHeld (s : State) (r : RaySlot) : Bool :=
  ((s.wave? r.group r.wave).map (fun wv => wv.pend.any (fun p => p.acq && decide (p.id < r.pend) &&
    p.accs.any (fun a => a.live && (p.lanesOf a).getLsbD r.lane)))).getD false

/-- RAY_TRAVERSAL_STOP: the traversal of a slot visits its next element; the visit that ends the ray or finds a candidate
writes the lane's block. One element a step lets other parties act between nodes, as R303 and R304 do. -/
def execRayTraversalStop (core slot : Nat) (s : State) : Out' :=
  match (s.core core).placed.find? (fun r => r.idx == slot) with
  | none =>
    -- a traversal that a restore has spilled takes a slot again
    match (s.core core).rays.find? (fun r => r.spilled && r.st == .traversing), s.takeSlot core with
    | some r, some (i, s) => .next (s.modCore core (fun c => c.modRay r.group r.wave r.lane (fun x => { x with spilled := false, idx := i })))
    | _, _ => idle s
  | some r =>
    if r.st != .traversing || s.rayHeld r || (s.core core).held then idle s
    else
      let job := ((s.groups[r.group]?).map (fun G => G.job)).getD 0
      if r.term || r.stack.isEmpty then .next (s.endRay core r (endBlock r r.term))
      else
        match s.visit core job r with
        | (.wait, _) => idle s
        | (.fault f, s) => .next (s.rayFault core job r f)
        | (.done code, s) => .next (s.endRay core r (plainBlock code false r.ray.ctx))
        | (.candidate r', s) =>
          let ws := match r'.cand with
            | some (h, proc) => hitBlock (if proc then 3 else 2) false h r.ray.ctx
            | none => []
          .next ((s.modCore core (fun c => c.modRay r.group r.wave r.lane (fun _ => { r' with lastUse := s.tick }))).writeBlock r ws)
        | (.go r', s) =>
          if r'.term || r'.stack.isEmpty then .next (s.endRay core r (endBlock r' r'.term))
          else .next (s.modCore core (fun c => c.modRay r.group r.wave r.lane (fun _ => r')))

end Sys2Proof.Machine
end

