-- ==== Sys2Proof/Machine/Refit.lean ====
section
/-! DEFINITION. `REFIT` and the refit engines of the memory dies (spec/11 R305 to R307). -/

namespace Sys2Proof.Machine

/-! ### The descriptor (Table 11.10) -/

def Refit.w (x : Refit) (n : Nat) : Word := x.words.getD n 0#32
def Refit.nbase (x : Refit) : Nat := (pairOf (x.w 0) (x.w 1)).toNat
def Refit.rbase (x : Refit) : Nat := (pairOf (x.w 2) (x.w 3)).toNat
def Refit.ncount (x : Refit) : Nat := (x.w 4).toNat
def Refit.thr (x : Refit) : Nat := ((x.w 5).extractLsb' 0 16).toNat
def Refit.list (x : Refit) : Nat := (pairOf (x.w 6) (x.w 7)).toNat

/-- Counts and reserved fields of the descriptor, and the alignment of its arrays (DEDUCED, assumption 22). -/
def Refit.badDesc (x : Refit) : Bool :=
  (x.w 5).extractLsb' 16 16 != 0#16 || x.ncount == 0 || decide (2 ^ 24 < x.ncount) || x.nbase % 128 != 0 || x.rbase % 16 != 0

/-- Memory die that is home to NBASE; the first one where it has no location (DEDUCED, assumption 22). -/
def State.refitDie (s : State) (job va : Nat) : Nat :=
  match s.pageNow job va with
  | some (.phys pa) => s.homeDie pa
  | _ => 12

def execRefit (d a : BitVec 7) (s : State) : Out' :=
  issue { uni := true, long := true, ctr := 3, bad := firstBroken [positive d, blockOf 8 a], mem := true, uses := [rdS a 8, wrS d] } s
    fun c s =>
      let ws := c.wave.sblock a.toNat 8
      let x : Refit :=
        { die := s.refitDie c.grp.job (pairOf (ws.getD 0 0#32) (ws.getD 1 0#32)).toNat, job := c.grp.job, group := c.cur.g, wave := c.cur.w,
          pend := c.wave.nextPend, dreg := d.toNat, words := ws, started := false, next := 0, ready := [], boxes := [], flagged := [],
          rootDone := false, status := 0, request := none }
      (State.addPend { s with refits := s.refits ++ [x] } c 3 true [d.toNat] 1#64 c.act .engine false false [] [], .next)

/-! ### The engine's accesses -/

/-- The command that a die's engine performs. -/
def State.refitHead (s : State) (die : Nat) : Option (Nat × Refit) :=
  (s.refits.zipIdx.find? (fun p => p.1.die == die)).map (fun p => (p.2, p.1))

def State.modRefit (s : State) (i : Nat) (f : Refit → Refit) : State := { s with refits := s.refits.modify i f }

/-- The engine translates for its job, without a ring (spec/06 R171). -/
def Refit.req (x : Refit) (wr : Bool) : XReq := { die := x.die, job := x.job, wr := wr, fetch := false, core := none }

/-- A fault of a translation: service, or status FAULT. -/
def State.refitFault (s : State) (i : Nat) (x : Refit) (wr : Bool) (f : Flt) : State :=
  let fail := s.modRefit i (fun x => { x with status := 2 })
  match (s.wave? x.group x.wave).bind (fun wv => wv.pend? x.pend) with
  | none => fail
  | some p =>
    if !serviceable f.cause then fail
    else
      match s.askService x.job (.refit x.die) [p.record 0 true wr f] with
      | none => fail
      | some (id, s) => s.modRefit i (fun x => { x with request := some id })

/-- What the engine finds: a value, a fault of a read or a write, or a column that is not ready. -/
inductive Got (α : Type) where
  | ok (x : α)
  | fault (wr : Bool) (f : Flt)
  | wait

/-- Read bytes; a mark counts as a fault that no service mends (DEDUCED, assumption 22). -/
def State.refitRead (s : State) (x : Refit) (va n : Nat) : Got (List Byte) × State :=
  match s.gatherRead (x.req false) 4 va n with
  | (.ok b p, s) => (if p then .fault false (Flt.plain cPoison (BitVec.ofNat 64 va)) else .ok b, s)
  | (.fault f, s) => (.fault false f, s)
  | (.wait, s) => (.wait, s)

/-- A location that may be written. -/
def State.refitPlace (s : State) (x : Refit) (va n : Nat) : Got Nat × State :=
  let v := BitVec.ofNat 64 va
  if v.extractLsb' 52 12 != 0#12 then (.fault true (Flt.plain cGlobalRange v), s)
  else
    match s.xpage (x.req true) v with
    | (.fault f, s) => (.fault true f, s)
    | (.page p, s) =>
      let pa := p.base + va % 2 ^ pageShift p.lvl
      if 1 < p.kind ∨ !s.inKind p.kind pa n then (.fault true { cause := cBadEntry, va := v, pst := 6, lvl := p.lvl }, s)
      else if !s.serves pa then
        (if s.mode 0 then .fault true { cause := cColumn, va := v, pst := 0, lvl := p.lvl } else .wait, s)
      else (.ok pa, s)

/-! ### Boxes (R306) -/

/-- An exact box: low and high of each axis; none where a coordinate is not finite or a child has no box, for which the
manual states no result. -/
abbrev Box := Option (List (Dy × Dy))

def Fp.dy? (x : Fp) : Option Dy :=
  match x with
  | .fin d => some d
  | _ => none

/-- The box of points, axis by axis. -/
def boxOf (axes : List (List Fp)) : Box :=
  axes.mapM (fun l =>
    match l.mapM Fp.dy? with
    | some (d :: t) => some (t.foldl (fun a x => if x.lt a then x else a) d, t.foldl (fun a x => if a.lt x then x else a) d)
    | _ => none)

/-- The union of boxes. -/
def boxUnion (bs : List Box) : Box :=
  match bs.mapM id with
  | some (b :: t) =>
    some (t.foldl (fun a b => (a.zip b).map (fun p =>
      (if p.2.1.lt p.1.1 then p.2.1 else p.1.1, if p.1.2.lt p.2.2 then p.2.2 else p.1.2))) b)
  | _ => none

/-- The exact box of a child. -/
def State.childBox (s : State) (x : Refit) (n : Node) (j : Nat) : Got Box × State :=
  let c := childOf j (n.refs.getD j 0#64)
  let f := fun (b : List Byte) (i : Nat) => f32.read (wordAt b i)
  match c.kind with
  | 1 =>
    match s.refitRead x c.addr (48 * c.cnt) with
    | (.ok b, s) =>
      (.ok (boxOf ((List.range 3).map (fun a => (List.range c.cnt).flatMap (fun k => (List.range 3).map (fun v => f b (48 * k + 12 * v + 4 * a)))))), s)
    | (.fault w e, s) => (.fault w e, s)
    | (.wait, s) => (.wait, s)
  | 2 =>
    match s.refitRead x c.addr (32 * c.cnt) with
    | (.ok b, s) =>
      (.ok (boxOf ((List.range 3).map (fun a => (List.range c.cnt).flatMap (fun k => [f b (32 * k + 4 * a), f b (32 * k + 12 + 4 * a)])))), s)
    | (.fault w e, s) => (.fault w e, s)
    | (.wait, s) => (.wait, s)
  | 0 =>
    let own := x.boxes.find? (fun b => x.nbase + 128 * b.1 == c.addr)
    (.ok (own.bind (fun b => boxOf ((List.range 3).map (fun a => [f32v (b.2.getD a 0#32), f32v (b.2.getD (3 + a) 0#32)])))), s)
  | _ => (.ok (boxOf ((List.range 3).map (fun a => [n.plane a (n.lo a j), n.plane a (n.hi a j)]))), s)

/-- The boxes of the present children. -/
def State.childBoxes (s : State) (x : Refit) (n : Node) : List Nat → Got (List Box) × State
  | [] => (.ok [], s)
  | j :: t =>
    match s.childBox x n j with
    | (.ok b, s) =>
      match s.childBoxes x n t with
      | (.ok l, s) => (.ok (b :: l), s)
      | r => r
    | (.fault w e, s) => (.fault w e, s)
    | (.wait, s) => (.wait, s)

def Dy.floor (x : Dy) : Int :=
  if 0 ≤ x.exp then x.int 0 else (if x.neg then -(x.man : Int) else x.man) / 2 ^ (-x.exp).toNat
def Dy.ceil (x : Dy) : Int := -(Dy.floor x.negate)

def clampByte (z : Int) : Byte := BitVec.ofNat 8 (max 0 (min z 255)).toNat

/-- What a node becomes: its first 64 bytes, its box as words, and its cost. -/
structure Refitted where
  bytes : List Byte
  nb : List Word
  cost : Nat

/-- Refit a node to the boxes of its present children; none where no result is stated. -/
def refitNode (old : List Byte) (n : Node) (boxes : List Box) : Option Refitted :=
  match boxUnion boxes with
  | none => none
  | some u =>
    let lo := u.map (fun p => (f32.round .rd p.1).1)
    let hi := u.map (fun p => (f32.round .ru p.2).1)
    match (lo.map f32.read).mapM Fp.dy?, (hi.map f32.read).mapM Fp.dy? with
    | some l, some h =>
      let exps := (List.range 3).map (fun a =>
        ((List.range 255).find? (fun (e : Nat) =>
          (h.getD a (Dy.zero false)).le ((l.getD a (Dy.zero false)).add { neg := false, man := 255, exp := (e : Int) - 127 }))).getD 254)
      let q := fun (a j : Nat) (up : Bool) =>
        match n.present.findIdx? (fun i => i == j) with
        | none => old.getD (16 + 16 * a + (if up then 8 else 0) + j) 0#8
        | some k =>
          let b := ((boxes.getD k none).getD []).getD a (Dy.zero false, Dy.zero false)
          let z := fun (v : Dy) => (v.add (l.getD a (Dy.zero false)).negate).scale (127 - (exps.getD a 0 : Int))
          if up then clampByte (Dy.ceil (z b.2)) else clampByte (Dy.floor (z b.1))
      let planes := (List.range 3).flatMap (fun a => (List.range 8).map (fun j => q a j false) ++ (List.range 8).map (fun j => q a j true))
      let xs := (List.range 3).map (fun a => fsub32 (hi.getD a 0) (lo.getD a 0))
      let m := fun (i j : Nat) => fmul32 (xs.getD i 0) (xs.getD j 0)
      some { bytes := lo.flatMap (leBytes 4) ++ exps.map (BitVec.ofNat 8) ++ [old.getD 15 0#8] ++ planes,
             nb := (lo ++ hi).map (BitVec.ofNat 32),
             cost := fmul32 0x40000000 (fadd32 (fadd32 (m 0 1) (m 1 2)) (m 2 0)) }
    | _, _ => none

/-- Draw `n` free words. -/
def State.drawWords (s : State) : Nat → List Word × State
  | 0 => ([], s)
  | n + 1 =>
    let (x, s) := s.draw
    let (t, s) := s.drawWords n
    (BitVec.ofNat 32 x :: t, s)

/-- The same with free values where no result is stated: every byte but VALID (assumption 21). -/
def State.refitted (s : State) (old : List Byte) (n : Node) (boxes : List Box) : Refitted × State :=
  match refitNode old n boxes with
  | some r => (r, s)
  | none =>
    let (ws, s) := s.drawWords 23
    let b := wordsBytes (ws.take 16)
    ({ bytes := b.set 15 (old.getD 15 0#8), nb := (ws.drop 16).take 6, cost := (ws.getD 22 0#32).toNat }, s)

/-! ### The refit table -/

def entExpect (w1 : Word) : Nat := (w1.extractLsb' 8 4).toNat
def entArr (w1 : Word) : Nat := (w1.extractLsb' 12 4).toNat

/-- An entry's reserved fields and counts. -/
def badEnt (ws : List Word) : Bool :=
  (ws.getD 1 0#32) &&& 0xFFFF00FF#32 != 0#32 || ws.getD 3 0#32 != 0#32 || decide (8 < entExpect (ws.getD 1 0#32))

/-- Append a 32-bit entry to a list with the header of the feedback buffer (spec/06 R186): COUNT, CAP, entries from byte
16. -/
def State.appendWord (s : State) (die job list : Nat) (w : Word) : State :=
  match s.fbWord die job list 4 with
  | none => s
  | some (pa, s) =>
    let count := s.peek32 pa
    let s := s.poke32 pa (count + 1#32)
    match s.fbWord die job (list + 4) 4 with
    | none => s
    | some (pc, s) =>
      if (s.peek32 pc).toNat ≤ count.toNat then s
      else
        match s.fbWord die job (list + 16 + 4 * count.toNat) 4 with
        | none => s
        | some (pe, s) => s.poke32 pe w

/-- The cost has grown past the threshold. -/
def tooCostly (cost : Nat) (build : Word) (thr : Nat) : Bool :=
  let t : Dy := { neg := false, man := thr, exp := -8 }
  let lim := match (f32v build).mul (.fin t) with
    | some (.fin d) => f32.read (f32.round .rne d).1
    | some y => y
    | none => .nan false
  lim.lt (f32.read cost)

/-- The command goes on, after a part of a step that may have met a fault. -/
def State.refitGot {α : Type} (s : State) (i : Nat) (x : Refit) (r : Got α × State) (k : α → State → Out') : Out' :=
  match r with
  | (.ok a, s') => k a s'
  | (.fault w f, s') => .next (s'.refitFault i x w f)
  | (.wait, _) => idle s

/-- A node's parent counts its arrival; the last one makes the parent ready. -/
def State.arrive (s : State) (i parent pa : Nat) (w1 : Word) : State :=
  let n := entArr w1 + 1
  let ex := entExpect w1
  if ex < n then s.modRefit i (fun x => { x with status := 3 })
  else
    let new := (w1 &&& ~~~0xF000#32) ||| BitVec.ofNat 32 (4096 * (if n = ex then 0 else n))
    let s := s.poke32 pa new
    if n = ex then s.modRefit i (fun x => { x with ready := x.ready ++ [parent] }) else s

/-- process(node) of R306, as one step: everything is read first, then everything is written. -/
def State.processNode (s : State) (i : Nat) (x : Refit) (node : Nat) (ent : List Word) (x' : Refit) : Out' :=
  let va := x.nbase + 128 * node
  s.refitGot i x (s.refitRead x va 128) fun old s =>
  s.refitGot i x (s.refitPlace x va 128) fun pa s =>
    let n := Node.ofBytes old
    s.refitGot i x (s.childBoxes x n n.present) fun boxes s =>
      let parent := (ent.getD 0 0#32).toNat
      let go := fun (s : State) =>
        let (r, s) := s.refitted old n boxes
        let s := s.poke pa (r.bytes ++ old.drop 64)
        let flag := x.list != 0 && tooCostly r.cost (ent.getD 2 0#32) x.thr
        let s := s.modRefit i (fun _ => { x' with
          boxes := (node, r.nb) :: x'.boxes.filter (fun b => b.1 != node), flagged := if flag then x'.flagged ++ [node] else x'.flagged })
        if flag then s.appendWord x.die x.job x.list (BitVec.ofNat 32 node) else s
      if parent = 0xFFFFFFFF then .next ((go s).modRefit i (fun x => { x with rootDone := true }))
      else if x.ncount ≤ parent then .next (s.modRefit i (fun x => { x with status := 1 }))
      else
        s.refitGot i x (s.refitRead x (x.rbase + 16 * parent) 16) fun pb s =>
        s.refitGot i x (s.refitPlace x (x.rbase + 16 * parent + 4) 4) fun pp s =>
          if badEnt (leWords 4 pb) then .next (s.modRefit i (fun x => { x with status := 1 }))
          else .next ((go s).arrive i parent pp ((leWords 4 pb).getD 1 0#32))

/-- REFIT_NODE_PROCESS: the engine of a die examines the next node of its scan, which it processes when EXPECT is 0, or
processes a node whose last child has arrived. -/
def execRefitNodeProcess (die node : Nat) (s : State) : Out' :=
  match s.refitHead die with
  | none => idle s
  | some (i, x) =>
    if x.request.isSome || x.status != 0 || x.rootDone then idle s
    else if !x.started && x.badDesc then .next (s.modRefit i (fun x => { x with started := true, status := 1 }))
    else
      let ready := x.ready.contains node
      if !ready && !(node == x.next && decide (node < x.ncount)) then idle s
      else
        s.refitGot i x (s.refitRead x (x.rbase + 16 * node) 16) fun b s =>
          let ent := leWords 4 b
          let x' := if ready then { x with started := true, ready := x.ready.erase node } else { x with started := true, next := node + 1 }
          if badEnt ent then .next (s.modRefit i (fun x => { x with started := true, status := 1 }))
          else if !ready && entExpect (ent.getD 1 0#32) != 0 then .next (s.modRefit i (fun _ => x'))
          else s.processNode i x node ent x'

/-! ### Completion (R307) -/

/-- Nodes of the subtrees of `todo`, as the nodes stand. -/
def State.subtree (s : State) (x : Refit) : Nat → List Nat → List Nat → List Nat
  | 0, _, seen => seen
  | _, [], seen => seen
  | fuel + 1, i :: t, seen =>
    if seen.contains i || decide (x.ncount ≤ i) then s.subtree x fuel t seen
    else
      match s.pageNow x.job (x.nbase + 128 * i) with
      | some (.phys pa) =>
        let n := Node.ofBytes (s.peek pa 128)
        let kids := n.present.filterMap (fun j =>
          let c := childOf j (n.refs.getD j 0#64)
          if c.kind = 0 ∧ x.nbase ≤ c.addr then some ((c.addr - x.nbase) / 128) else none)
        s.subtree x fuel (kids ++ t) (i :: seen)
      | _ => s.subtree x fuel t seen

/-- A node as it stands in memory, with its physical address. -/
def State.nodeAt (s : State) (x : Refit) (i : Nat) : Option (Nat × Node) :=
  match s.pageNow x.job (x.nbase + 128 * i) with
  | some (.phys pa) => some (pa, Node.ofBytes (s.peek pa 128))
  | _ => none

/-- The leaf references of nodes with their true boxes; none where a record cannot be read. -/
def State.leavesOf (s : State) (x : Refit) (nodes : List Nat) : Option (List (DWord × Box)) :=
  (nodes.mapM (fun i => (s.nodeAt x i).bind (fun p =>
    (p.2.present.filter (fun j => (childOf j (p.2.refs.getD j 0#64)).kind != 0)).mapM (fun j =>
      match (s.childBox x p.2 j).1 with
      | .ok b => some (p.2.refs.getD j 0#64, b)
      | _ => none)))).map List.flatten

/-- The quantised box of child `j` contains a box (R286); of a box without finite coordinates nothing is asked. -/
def Node.contains (n : Node) (j : Nat) (b : Box) : Bool :=
  match b with
  | none => true
  | some l => (List.range 3).all (fun a =>
      match n.plane a (n.lo a j), n.plane a (n.hi a j), l[a]? with
      | .fin lo, .fin hi, some p => lo.le p.1 && p.2.le hi
      | _, _, _ => false)

/-- The subtree of a node on the nodes of `nodes`, over leaves: its leaf references and its true box, where every quantised box
contains the true box of its child (R286). -/
def State.rebuiltTree (s : State) (x : Refit) (nodes : List Nat) (leaves : List (DWord × Box)) :
    Nat → Nat → Option (List DWord × Box)
  | 0, _ => none
  | fuel + 1, i =>
    match s.nodeAt x i with
    | none => none
    | some (_, n) =>
      if n.exps.any (fun e => e == 255) then none
      else
        (n.present.foldl (fun (acc : Option (List DWord × List Box)) j =>
          let ref := n.refs.getD j 0#64
          let c := childOf j ref
          let sub := if c.kind = 0 then
              (if x.nbase ≤ c.addr ∧ (c.addr - x.nbase) % 128 = 0 ∧ nodes.contains ((c.addr - x.nbase) / 128) = true
                then s.rebuiltTree x nodes leaves fuel ((c.addr - x.nbase) / 128) else none)
            else if leaves.any (fun l => l.1 == ref) then
              some ([ref], boxUnion ((leaves.filter (fun l => l.1 == ref)).map Prod.snd))
            else none
          match acc, sub with
          | some (rs, bs), some (r, b) => if n.contains j b then some (rs ++ r, bs ++ [b]) else none
          | _, _ => none) (some ([], []))).map (fun p => (p.1, boxUnion p.2))

/-- Words that firmware writes at a virtual address. -/
def State.putFree (x : Refit) (n : Nat) (s : State) (va : Nat) : State :=
  match s.pageNow x.job va with
  | some (.phys pa) =>
    let (ws, s) := s.drawWords n
    s.pokeWords pa ws
  | _ => s

/-- Firmware rebuilds the subtree of a flagged node in place, on the same node indices (R307). What it writes is its own choice, as long
as the subtree keeps its leaves and every box contains the true box of its child; the nodes as the refit has left them are one such
rebuild. The new BUILD values are free (DESIGN CHOICE, assumption 21). -/
def State.rebuildTree (s : State) (x : Refit) (root : Nat) : State :=
  let nodes := s.subtree x (9 * x.ncount + 1) [root] []
  let t := nodes.foldl (fun s i => State.putFree x 32 s (x.nbase + 128 * i)) s
  let good := match s.leavesOf x nodes with
    | none => false
    | some l =>
      match t.rebuiltTree x nodes l (nodes.length + 1) root with
      | none => false
      | some r => r.1.isPerm (l.map Prod.fst)
  nodes.foldl (fun s i => State.putFree x 1 s (x.rbase + 16 * i + 8)) (if good then t else { s with free := t.free })

/-- REFIT_COMPLETE: the root is done, the scan is over without it, or the command has failed. -/
def execRefitComplete (die : Nat) (s : State) : Out' :=
  match s.refitHead die with
  | none => idle s
  | some (i, x) =>
    let passedAll := x.started && decide (x.ncount ≤ x.next) && x.ready.isEmpty
    if x.request.isSome || !(x.rootDone || x.status != 0 || passedAll) then idle s
    else
      let status := if x.status != 0 then x.status else if x.rootDone then 0 else 3
      let n := x.flagged.length
      let launch := ((s.groups[x.group]?).map (fun G => (s.launch G.launch).id)).getD 0#32
      let s := if n = 0 then s
        else if s.mode 3 then
          (s.jobRequest 3 x.job (.refit die) 0 (wordsBytes [x.w 6, x.w 7, BitVec.ofNat 32 n, launch]) 0#32 0#32).getD s
        else x.flagged.foldl (fun s k => s.rebuildTree x k) s
      let s : State := { s with refits := s.refits.eraseIdx i }
      let s := s.modWave x.group x.wave (fun wv =>
        (if (wv.pend? x.pend).isSome then wv.sset x.dreg (BitVec.ofNat 32 (status + 256 * n)) false else wv).retirePend x.pend)
      .next (s.groupCheck x.group)

end Sys2Proof.Machine
end

