-- ==== Sys2Proof/Machine/Texture.lean ====
section
/-! DEFINITION. Lane group 10: the sampler (spec/12 R325 to R330). -/

namespace Sys2Proof.Machine

/-! ### Descriptors and levels (R325, Table 12.7) -/

structure TexDesc where
  base : Nat
  w : Nat
  h : Nat
  fmt : Nat
  levels : Nat
  addru : Nat
  addrv : Nat
  filt : Nat
  sparse : Bool
  border : List Word

/-- Channels, bytes of a channel, tile width and height of a format. -/
def texFormat (fmt : Nat) : Nat × Nat × Nat × Nat :=
  match fmt with
  | 0 => (1, 1, 128, 128)
  | 1 => (2, 1, 128, 64)
  | 2 => (4, 1, 64, 64)
  | 3 => (1, 2, 128, 64)
  | 4 => (2, 2, 64, 64)
  | 5 => (4, 2, 64, 32)
  | 6 => (1, 4, 64, 64)
  | 7 => (2, 4, 64, 32)
  | _ => (4, 4, 32, 32)

/-- A descriptor that obeys its table. -/
def TexDesc.ofWords (ws : List Word) : Option TexDesc :=
  let w := fun (n : Nat) => ws.getD n 0#32
  let d : TexDesc :=
    { base := (pairOf (w 0) (w 1)).toNat, w := ((w 2).extractLsb' 0 15).toNat + 1, h := ((w 2).extractLsb' 15 15).toNat + 1,
      fmt := ((w 3).extractLsb' 0 4).toNat, levels := ((w 3).extractLsb' 4 5).toNat, addru := ((w 3).extractLsb' 9 2).toNat,
      addrv := ((w 3).extractLsb' 11 2).toNat, filt := ((w 3).extractLsb' 13 2).toNat, sparse := (w 3).getLsbD 15,
      border := [w 4, w 5, w 6, w 7] }
  if d.base % 16384 != 0 || (w 2).extractLsb' 30 2 != 0#2 || decide (8 < d.fmt) || d.levels == 0 || decide (16 < d.levels) ||
      decide ((max d.w d.h).log2 + 1 < d.levels) || d.filt == 3 || (w 3).extractLsb' 16 16 != 0#16 ||
      (ws.drop 8).any (fun x => x != 0#32) then none
  else some d

def TexDesc.bytes (d : TexDesc) : Nat := let f := texFormat d.fmt; f.1 * f.2.1
def TexDesc.wl (d : TexDesc) (l : Nat) : Nat := max 1 (d.w >>> l)
def TexDesc.hl (d : TexDesc) (l : Nat) : Nat := max 1 (d.h >>> l)
def ceilDiv (a b : Nat) : Nat := (a + b - 1) / b
def TexDesc.tpr (d : TexDesc) (l : Nat) : Nat := ceilDiv (d.wl l) (texFormat d.fmt).2.2.1

/-- Address of texel (x, y) of a level. -/
def TexDesc.at_ (d : TexDesc) (l x y : Nat) : Nat :=
  let tw := (texFormat d.fmt).2.2.1
  let th := (texFormat d.fmt).2.2.2
  let lb := d.base + 16384 * ((List.range l).map (fun j => d.tpr j * ceilDiv (d.hl j) th)).foldl (· + ·) 0
  lb + 16384 * (y / th * d.tpr l + x / tw) + (y % th * tw + x % tw) * d.bytes

/-- An index under an addressing mode; none reads BORDER. -/
def address (mode : Nat) (i : Int) (w : Nat) : Option Nat :=
  match mode with
  | 0 => some (i % w).toNat
  | 1 => some (max 0 (min i (w - 1))).toNat
  | 2 =>
    let k := (i % (2 * w)).toNat
    some (if k < w then k else 2 * w - 1 - k)
  | _ => if 0 ≤ i ∧ i < w then some i.toNat else none

/-- A term of a filter: the level's part, the address of its texel (none for BORDER), its weight. -/
structure Term where
  part : Nat
  va : Option Nat
  weight : Nat

def TexDesc.term (d : TexDesc) (part l : Nat) (i j : Int) (weight : Nat) : Term :=
  { part := part, weight := weight,
    va := match address d.addru i (d.wl l), address d.addrv j (d.hl l) with
      | some x, some y => some (d.at_ l x y)
      | _, _ => none }

/-! ### Coordinates (R327 R328) -/

/-- A NaN coordinate reads as 0. -/
def quiet (w : Word) : Nat := if (f32v w).isNan then 0 else w.toNat

/-- floor of a coordinate; free where it is infinite, for which no result is stated (assumption 21). -/
def coord (x fr : Nat) : Int :=
  match f32.read x with
  | .fin d => d.floor
  | _ => freeInt fr

/-- The nearest index and the weight in 1/256 of a bilinear coordinate. -/
def lerp (x fr : Nat) : Int × Nat :=
  match f32.read x with
  | .fin d => (d.floor, (roundAt .rne ((d.add (Dy.ofInt (-d.floor) 0)).scale 8) 0).1)
  | _ => (freeInt fr, fr % 257)

def f32OfNat (n : Nat) : Nat := (f32.ofInt .rne n).1

/-- The terms of point sampling at a level. -/
def TexDesc.point (d : TexDesc) (u v l : Nat) (fr : Nat → Nat) : List Term :=
  [d.term 0 l (coord (fmul32 u (f32OfNat (d.wl l))) (fr 0)) (coord (fmul32 v (f32OfNat (d.hl l))) (fr 1)) 1]

/-- The terms of bilinear filtering at a level. -/
def TexDesc.bilinear (d : TexDesc) (part u v l : Nat) (fr : Nat → Nat) : List Term :=
  let (i, wa) := lerp (fma32 u (f32OfNat (d.wl l)) 0xBF000000) (fr 0)
  let (j, wb) := lerp (fma32 v (f32OfNat (d.hl l)) 0xBF000000) (fr 1)
  [d.term part l i j ((256 - wa) * (256 - wb)), d.term part l (i + 1) j (wa * (256 - wb)),
   d.term part l i (j + 1) ((256 - wa) * wb), d.term part l (i + 1) (j + 1) (wa * wb)]

/-- λ clamped to the levels, as an exact number. -/
def TexDesc.clampLod (d : TexDesc) (lam : Nat) : Dy :=
  let top := Dy.ofInt (d.levels - 1) 0
  match f32.read lam with
  | .nan _ => Dy.zero false
  | .inf n => if n then Dy.zero false else top
  | .fin x => if x.neg then Dy.zero false else if top.lt x then top else x

/-- λ of `TEX2D` from the derivatives. -/
def TexDesc.lod (d : TexDesc) (g : List Nat) : Nat :=
  let sq := fun (a b : Nat) =>
    let x := (f32.read (fmul32 a (f32OfNat d.w)))
    let y := (f32.read (fmul32 b (f32OfNat d.h)))
    match x.mul x, y.mul y with
    | some p, some q => (f32.addV .rne p q).1
    | _, _ => f32.nanEnc
  let gx := sq (g.getD 0 0) (g.getD 1 0)
  let gy := sq (g.getD 2 0) (g.getD 3 0)
  fmul32 (specialFn 3 (f32.minmax true gx gy).1).1 0x3F000000

/-- What a lane fetches at some level: the level it names, the terms, and f8 of a second level. -/
structure Foot where
  lvl : Nat
  terms : List Term
  f8 : Nat
  raw : Bool

/-- How a lane fetches: its requested footprint, and the one of a level that stands in for it. -/
structure Plan where
  want : Foot
  at_ : Nat → Foot

/-- The plan of the filtering instructions. -/
def TexDesc.plan (d : TexDesc) (u v : Nat) (lam : Nat) (fr : Nat → Nat) : Plan :=
  let x := d.clampLod lam
  let pt := fun (l : Nat) => { lvl := l, terms := d.point u v l fr, f8 := 0, raw := true : Foot }
  let bi := fun (l : Nat) => { lvl := l, terms := d.bilinear 0 u v l fr, f8 := 0, raw := false : Foot }
  let l := min (d.levels - 1) (x.add { neg := false, man := 1, exp := -1 }).floor.toNat
  let one := fun (l : Nat) => if d.filt = 0 then pt l else bi l
  let want :=
    if d.filt = 2 then
      let l0 := x.floor.toNat
      if l0 = d.levels - 1 then bi l0
      else { lvl := l0, terms := d.bilinear 0 u v l0 fr ++ d.bilinear 1 u v (l0 + 1) (fun k => fr (k + 2)),
             f8 := (roundAt .rne ((x.add (Dy.ofInt (-(l0 : Int)) 0)).scale 8) 0).1, raw := false }
    else one l
  { want := want, at_ := one }

/-- The plan of `TEXFETCH`: a texel, with the addressing applied at each level. -/
def TexDesc.fetchPlan (d : TexDesc) (x y : Int) (level : Nat) : Plan :=
  let f := fun (l : Nat) => { lvl := l, terms := [d.term 0 l x y 1], f8 := 0, raw := true : Foot }
  { want := f (min level (d.levels - 1)), at_ := f }

/-! ### Tiles (R329) -/

/-- What a tile of a footprint is: a location, a page state, or a fault. -/
def State.tile (s : State) (c : Ctx) (sparse : Bool) (va n : Nat) : Resid × State :=
  let v := BitVec.ofNat 64 va
  if sparse then s.ldrqCheck c false v n
  else
    match s.xaccess (coreReq c.grp.core c.grp.job false false) v n n with
    | (.loc l, s) => (.loc l, s)
    | (.fault f, s) => (.fault f, s)

/-- The tiles of a footprint's terms. -/
def State.tiles (s : State) (c : Ctx) (sparse : Bool) (n : Nat) : List Term → List (Term × Resid) × State
  | [] => ([], s)
  | t :: rest =>
    match t.va with
    | none =>
      let (l, s) := s.tiles c sparse n rest
      ((t, .loc (.phys 0)) :: l, s)
    | some va =>
      let (r, s) := s.tile c sparse va n
      let (l, s) := s.tiles c sparse n rest
      ((t, r) :: l, s)

def worst (l : List (Term × Resid)) : Nat :=
  l.foldl (fun m x => match x.2 with
    | .state st => max m st
    | _ => m) 0

def firstFault (l : List (Term × Resid)) : Option Flt :=
  l.findSome? (fun x => match x.2 with
    | .fault f => some f
    | _ => none)

/-- The lowest level from `l` on whose footprint is resident, or has a fault of another kind, which traps as for `LDG`. -/
def State.standIn (s : State) (c : Ctx) (d : TexDesc) (at_ : Nat → Foot) : Nat → Nat → Option (Foot × List (Term × Resid)) × State
  | 0, _ => (none, s)
  | fuel + 1, l =>
    if d.levels ≤ l then (none, s)
    else
      let (r, s) := s.tiles c true d.bytes (at_ l).terms
      if worst r = 0 ∨ (firstFault r).isSome then (some (at_ l, r), s) else s.standIn c d at_ fuel (l + 1)

/-- What a lane of a texture instruction comes to: a bad handle, a fault, or a fetch with the entries to record. -/
inductive TexLane where
  | handle
  | fault (f : Flt)
  | fetch (accs : List Acc) (resid : Word) (fb : List DWord)
  | query (st lvl : Nat) (fb : List DWord)

/-- Accesses of the terms of a footprint. -/
def footAccs (d : TexDesc) (lane : Nat) (f : Foot) (r : List (Term × Resid)) : List Acc :=
  r.map (fun x =>
    let data := [d.bytes, d.fmt, x.1.part, x.1.weight, f.raw.toNat, f.f8].map (BitVec.ofNat 32)
    match x.1.va, x.2 with
    | some va, .loc l => { lane := lane, va := BitVec.ofNat 64 va, loc := l, data := data, live := true }
    | _, _ => { lane := lane, va := 0#64, loc := .phys 0, data := data ++ d.border, live := false })

def residWord (res : Bool) (lvl st : Nat) : Word := BitVec.ofNat 32 (res.toNat + 2 * lvl + 64 * st)

/-- Entries of the feedback buffer for the tiles of the requested footprint that are not resident. -/
def footFeedback (f : Foot) (r : List (Term × Resid)) : List DWord :=
  r.filterMap (fun x => match x.1.va, x.2 with
    | some va, .state st => some (fbEntry (BitVec.ofNat 64 va) st 1 (f.lvl + x.1.part))
    | _, _ => none)

/-- Resolve a lane's plan. -/
def State.texLane (s : State) (c : Ctx) (d : TexDesc) (p : Plan) (lane : Nat) (query : Bool) : TexLane × State :=
  let sparse := d.sparse || query
  let (r, s) := s.tiles c sparse d.bytes p.want.terms
  match firstFault r with
  | some f => (.fault f, s)
  | none =>
    let st := worst r
    let fb := footFeedback p.want r
    if st = 0 then
      (if query then .query 0 p.want.lvl fb else .fetch (footAccs d lane p.want r) (residWord false p.want.lvl 0) fb, s)
    else
      match s.standIn c d p.at_ 16 p.want.lvl with
      | (some (f, r'), s) =>
        (match firstFault r' with
         | some x => .fault x
         | none => if query then .query st f.lvl fb
          else .fetch (footAccs d lane f r') (residWord (f.lvl != p.want.lvl) f.lvl st) fb, s)
      | (none, s) => (if query then .query st 31 fb else .fetch [] (residWord true 31 st) fb, s)

/-- Read a descriptor. -/
inductive DescRead where
  | handle
  | fault (f : Flt)
  | ok (d : TexDesc)

def State.texDesc (s : State) (c : Ctx) (h : Nat) : DescRead × State :=
  if c.lau.txcount ≤ h then (.handle, s)
  else
    let va := c.lau.txbase + BitVec.ofNat 64 (64 * h)
    match s.xaccess (coreReq c.grp.core c.grp.job false false) va 64 64 with
    | (.fault f, s) => (.fault f, s)
    | (.loc l, s) =>
      if s.locPoison c.grp l 64 then (.fault (Flt.plain cPoison va), s)
      else
        let s := s.locTouch l 64
        match TexDesc.ofWords (leWords 16 (s.locRead c.grp l 64)) with
        | some d => (.ok d, s)
        | none => (.handle, s)

/-! ### Issue (R326) -/

/-- An earlier access of the wave that a descriptor read must come after. -/
def texHold (b : BitVec 7) (s : State) : Bool :=
  match s.ctx? with
  | none => false
  | some c =>
    c.wave.pend.any (fun p => p.accs.any (fun a => a.live && (p.acq ||
      (!p.isLoad && c.lanes.any (fun i =>
        let va := c.lau.txbase.toNat + 64 * (c.B false b i).toNat
        decide (va < a.va.toNat + p.size) && decide (a.va.toNat < va + 64))))))

/-- Lanes of a texture instruction, one after another. -/
def texLanes (c : Ctx) (plan : TexDesc → Nat → (Nat → Nat) → Plan) (query : Bool) (b : BitVec 7) :
    State → List Nat → List (Nat × TexLane) × State
  | s, [] => ([], s)
  | s, i :: t =>
    let n := s.free
    let (r, s) :=
      match s.texDesc c (c.B false b i).toNat with
      | (.handle, s) => (TexLane.handle, s)
      | (.fault f, s) => (.fault f, s)
      | (.ok d, s) => State.texLane { s with free := n + 4 } c d (plan d i (fun k => Config.freeNat (n + k))) i query
    let (rest, s) := texLanes c plan query b s t
    ((i, r) :: rest, s)

/-! What a lane's request leaves behind. -/

def TexLane.rec? (c : Ctx) (lane : Nat) : TexLane → Option Rec
  | .handle => some (c.laneRec lane false (Flt.plain cTex 0#64))
  | .fault f => some (c.laneRec lane false f)
  | .fetch _ _ _ | .query _ _ _ => none

/-- Neither a fault nor a bad handle. -/
def TexLane.served : TexLane → Bool
  | .fetch _ _ _ | .query _ _ _ => true
  | .handle | .fault _ => false

def TexLane.accs : TexLane → List Acc
  | .fetch l _ _ => l
  | _ => []

/-- Words that need no texel: residency, page state and level. -/
def TexLane.words (d lane : Nat) : TexLane → List Wr
  | .fetch _ w _ => [{ lane := lane, reg := d + 4, val := w, poison := false }]
  | .query st lvl _ => [{ lane := lane, reg := d, val := BitVec.ofNat 32 st, poison := false },
      { lane := lane, reg := d + 1, val := BitVec.ofNat 32 lvl, poison := false }]
  | _ => []

/-- Entries for the feedback buffer. -/
def TexLane.pages : TexLane → List DWord
  | .fetch _ _ l | .query _ _ l => l
  | _ => []

/-- A texture instruction with `k` operands, `m` destinations and a plan. -/
def texIssue (fn k m : Nat) (plan : Ctx → TexDesc → Nat → (Nat → Nat) → Plan) (d a b : BitVec 7) (s : State) : Out' :=
  issue { uni := false, long := true, ctr := 7, mem := true, litB := b, uses := [rdV a k, rdB false b, wrV d m], hold := texHold b s } s
    fun c s0 =>
      let r := texLanes c (plan c) (fn == 2) b s0 c.lanes
      let recs := r.1.filterMap (fun x => x.2.rec? c x.1)
      let parks := recs.filter (fun r => r.svc)
      let ends := recs.filter (fun r => r.cause == cTex)
      if recs.any (fun r => !r.svc && r.cause != cTex) || (!parks.isEmpty && c.cur.sp == trapIdx) then (r.2, .trap false recs)
      else
        let good := (r.1.filter (fun x => x.2.served)).map Prod.fst
        let s := r.2.feedbacks c.grp c.lau (r.1.flatMap (fun x => x.2.pages))
        let s := if parks.isEmpty then s
          else s.modWave c.cur.g c.cur.w (fun wv => wv.park c (Mask.ofLanes (parks.map (fun r => r.lane))) parks)
        let s := if good.isEmpty then s
          else s.addPend c 7 false ((List.range m).map (fun j => d.toNat + j)) (Mask.ofLanes good) (Mask.ofLanes good) (.texture fn)
            false false (r.1.flatMap (fun x => x.2.accs)) (r.1.flatMap (fun x => x.2.words d.toNat x.1))
        (s, if !ends.isEmpty then .trap true ends else if good.isEmpty && !parks.isEmpty then .stay else .next)

def execTex2d (d a b : BitVec 7) (s : State) : Out' :=
  texIssue 0 6 5 (fun c t i fr =>
    let x := fun (k : Nat) => c.wave.vget (a.toNat + k) i
    t.plan (quiet (x 0)) (quiet (x 1)) (t.lod [(x 2).toNat, (x 3).toNat, (x 4).toNat, (x 5).toNat]) fr) d a b s

def execTexfetch (d a b : BitVec 7) (s : State) : Out' :=
  texIssue 1 3 5 (fun c t i _ =>
    let x := fun (k : Nat) => c.wave.vget (a.toNat + k) i
    t.fetchPlan (x 0).toInt (x 1).toInt (x 2).toNat) d a b s

def execTexrq (d a b : BitVec 7) (s : State) : Out' :=
  texIssue 2 3 2 (fun c t i fr =>
    let x := fun (k : Nat) => c.wave.vget (a.toNat + k) i
    t.plan (quiet (x 0)) (quiet (x 1)) (x 2).toNat fr) d a b s

def execTexlod (d a b : BitVec 7) (s : State) : Out' :=
  texIssue 3 3 5 (fun c t i fr =>
    let x := fun (k : Nat) => c.wave.vget (a.toNat + k) i
    t.plan (quiet (x 0)) (quiet (x 1)) (x 2).toNat fr) d a b s

/-! ### Completion (R328 R330) -/

/-- round(b / 255, f32.rne). -/
def un8 (b : Nat) : Nat := if b = 0 then 0 else rne32 (Dy.quot false b 255)

/-- The four channels of a texel as binary32. -/
def texel (fmt : Nat) (b : List Byte) : List Nat :=
  let f := texFormat fmt
  let ch := (List.range f.1).map (fun k =>
    let x := leNat ((b.drop (f.2.1 * k)).take f.2.1)
    match f.2.1 with
    | 1 => un8 x
    | 2 => (f16.read x).toF32
    | _ => x)
  (ch ++ [0, 0, 0, oneF32].drop f.1).take 4

/-- An exact weighted sum over a power of two, rounded once (R328). -/
def weighted (sh : Nat) (l : List (Nat × Nat)) : Nat :=
  let xs := (l.filter (fun p => p.1 != 0)).map (fun p => (p.1, f32.read p.2))
  let infs := xs.filterMap (fun p => match p.2 with
    | .inf n => some n
    | _ => none)
  if xs.any (fun p => p.2.isNan) || (infs.contains true && infs.contains false) then f32.nanEnc
  else
    match infs with
    | n :: _ => f32.signed n f32.infEnc
    | [] =>
      match xs with
      | [] => 0
      | (w, x) :: t =>
        let one := fun (w : Nat) (x : Fp) => ({ neg := false, man := w, exp := -(sh : Int) } : Dy).mul x.num
        rne32 (t.foldl (fun a p => exactSum .rne a (one p.1 p.2)) (one w x))

/-- The colour of a lane: from terms (part, weight, channels). -/
def blend (raw : Bool) (f8 : Nat) (ts : List (Nat × Nat × List Nat)) : List Nat :=
  (List.range 4).map (fun k =>
    let ch := fun (p : Nat) => (ts.filter (fun t => t.1 == p)).map (fun t => (t.2.1, t.2.2.getD k 0))
    if raw then (((ch 0).map Prod.snd).headD 0)
    else
      let c0 := weighted 16 (ch 0)
      if ts.any (fun t => t.1 == 1) then weighted 8 [(256 - f8, c0), (f8, weighted 16 (ch 1))] else c0)

/-- Read the texels of a lane in turn: the terms, and whether one of them that counts is poisoned. -/
def State.texels (s : State) (G : Group) (x : Reader) : List Acc → (List (Nat × Nat × List Nat) × Bool) × State
  | [] => (([], false), s)
  | a :: t =>
    let w := fun (k : Nat) => (a.data.getD k 0#32).toNat
    let (c, p, s) :=
      if a.live then
        let r := s.laneRead G x true false a.va a.loc (w 0)
        (texel (w 1) r.bytes, r.bad.any id && (w 3 != 0), r.s)
      else ((a.data.drop 6).map BitVec.toNat, false, s)
    let ((l, q), s) := s.texels G x t
    (((w 2, w 3, c) :: l, p || q), s)

/-- TEXTURE_FETCH_COMPLETE: the texels of a lane arrive, its destinations are written. Where they are the last accesses that a
`FENCE` waits for, it acquires (spec/07 R197 R202). -/
def execTextureFetchComplete (g w p lane : Nat) (s : State) : Out' :=
  match s.groups[g]?, s.wave? g w, (s.wave? g w).bind (fun wv => wv.pend? p) with
  | some G, some wv, some q =>
    match q.kind with
    | .texture fn =>
      let mine := q.accs.filter (fun a => a.lane == lane)
      if (s.core G.core).held || !q.lanes.getLsbD lane || mine.any (fun a => a.live && !s.mayPerform g w G wv q a) then idle s
      else
        let ((ts, bad), s) := s.texels G (G.reader w (Mask.bit lane)) mine
        let raw := (mine.head?).map (fun a => a.data.getD 4 0#32 != 0#32)
        let f8 := ((mine.head?).map (fun a => (a.data.getD 5 0#32).toNat)).getD 0
        let colour := if fn = 2 then []
          else (blend (raw.getD true) f8 ts).zipIdx.map (fun x =>
            { lane := lane, reg := q.regs.headD 0 + x.2, val := BitVec.ofNat 32 x.1, poison := bad : Wr })
        let s := if (q.accs.any (fun a => a.lane != lane && a.live)) then s else s.fencePassed g w p
        .next (s.modWave g w (fun wv =>
          ((wv.writeAll false (colour ++ q.wrs.filter (fun x => x.lane == lane))).modPend p (fun q => { q with
            accs := q.accs.filter (fun a => a.lane != lane) })).shedLanes p (Mask.bit lane)))
    | _ => idle s
  | _, _, _ => idle s

end Sys2Proof.Machine
end

