-- ==== Sys2Proof/Machine/Packet.lean ====
section
/-! DEFINITION. `EMITVP` and `VCLOSE`, the packet units of the geometry dies and the region crossbar (spec/12 R308 to R320). -/

namespace Sys2Proof.Machine

/-! ### Issue (R313) -/

/-- Selector of a core's commands at its packet unit. -/
def selPacket : Nat := 6

/-- Index of a geometry core's die: its number less 8 (Table 12.5). -/
def gdieOf (core : Nat) : Nat := dieOf core - 8

/-- Enter a command in the packet unit of the die. -/
def State.pushPacket (s : State) (c : Ctx) (d : BitVec 7) (close : Bool) (ws : List Word) (ivs : List Iv) : State :=
  let x : GCmd :=
    { gdie := gdieOf c.grp.core, group := c.cur.g, wave := c.cur.w, pend := c.wave.nextPend, dreg := d.toNat, close := close, words := ws,
      final := false, result := none }
  let s := s.pushCmd c selPacket .packet ws ivs (some d.toNat) 0 0#32
  { s with gcmds := s.gcmds ++ [x] }

/-- The interval entered is the largest block; `State.cmdIvs` narrows it to the actual one. -/
def execEmitvp (d a : BitVec 7) (s : State) : Out' :=
  issue { uni := true, long := true, ctr := 3, bad := firstBroken [positive d, blockOf 4 a], mem := true, on := .geometry,
          uses := [rdS a 4, wrS d], hold := s.scoreFull s.curCore, why := 20 } s fun c s =>
    let ws := c.wave.sblock a.toNat 4
    let off := (ws.getD 0 0#32).toNat
    if (ws.getD 1 0#32).extractLsb' 4 28 != 0#28 || ws.getD 3 0#32 != 0#32 then raise c s cBadDescriptor
    else if off % 16 != 0 then raise c s cMisaligned
    else if c.lau.localBytes < off + blockBytes then raise c s cLocalRange
    else (s.pushPacket c d false ws [{ acm := false, lo := off, hi := off + blockBytes, wr := false }], .next)

def execVclose (d a : BitVec 7) (s : State) : Out' :=
  issue { uni := true, long := true, ctr := 3, bad := firstBroken [positive d, blockOf 2 a], mem := true, on := .geometry,
          uses := [rdS a 2, wrS d] } s fun c s =>
    let ws := c.wave.sblock a.toNat 2
    if (ws.getD 1 0#32).extractLsb' 5 27 != 0#27 then raise c s cBadDescriptor
    else (s.pushPacket c d true ws [], .next)

/-! ### The packet unit -/

/-- The command that the unit of a die performs: the oldest that does not wait for the end of a frame. -/
def State.packetHead (s : State) (gdie : Nat) : Option GCmd := s.gcmds.find? (fun x => x.gdie == gdie && !x.final)

def GCmd.same (x y : GCmd) : Bool := x.group == y.group && x.wave == y.wave && x.pend == y.pend

def Cmd.of (x : GCmd) (y : Cmd) : Bool := y.op == .packet && y.group == x.group && y.wave == x.wave && y.pend == x.pend

/-- A command of the packet unit completes with a status word. -/
def State.finishPacket (s : State) (x : GCmd) (w : Nat) : State :=
  let s : State := { s with
    gcmds := s.gcmds.filter (fun y => !(y.same x))
    cores := s.cores.map (fun c => { c with queues := c.queues.modify selPacket (fun q => q.filter (fun y => !(Cmd.of x y))) })
    groups := s.groups.map (fun G => { G with savedCmds := G.savedCmds.filter (fun y => !(Cmd.of x y.2)) }) }
  let s := s.modWave x.group x.wave (fun wv =>
    (if (wv.pend? x.pend).isSome then wv.sset x.dreg (BitVec.ofNat 32 w) false else wv).retirePend x.pend)
  s.groupCheck x.group

def State.stream (s : State) (n : Nat) : Stream := s.streams.getD n Stream.idle
def State.modStream (s : State) (n : Nat) (f : Stream → Stream) : State := { s with streams := s.streams.modify n f }

/-- Geometry dies that are present, as indices. -/
def State.geometryDies (s : State) : List Nat := (List.range s.mix.geometryDies).filter (fun i => s.diePresent (8 + i))
/-- Shading dies that are present. -/
def State.shadingDies (s : State) : List Nat := (List.range s.mix.shadingDies).filter (fun d => s.diePresent d)

/-! ### Regions (R308 R311) -/

def Stream.w (x : Stream) (n : Nat) : Word := x.words.getD n 0#32
def Stream.addr (x : Stream) (n : Nat) : Nat := (pairOf (x.w n) (x.w (n + 1))).toNat
def Stream.repro (x : Stream) : Bool := (x.w 0).getLsbD 4
def Stream.honly (x : Stream) : Bool := (x.w 0).getLsbD 5
def Stream.lequal (x : Stream) : Bool := (x.w 0).getLsbD 6
def Stream.spp (x : Stream) : Nat := if (x.w 0).getLsbD 7 then 4 else 1
def Stream.clear (x : Stream) : Bool := (x.w 0).getLsbD 8
def Stream.wide (x : Stream) : Nat := ((x.w 1).extractLsb' 0 15).toNat + 1
def Stream.high (x : Stream) : Nat := ((x.w 1).extractLsb' 16 15).toNat + 1
def Stream.rw (x : Stream) : Nat := (x.wide + 31) / 32
def Stream.rh (x : Stream) : Nat := (x.high + 31) / 32
def Stream.owner (x : Stream) (rx ry : Nat) : Nat := (x.map.getD (ry % 64 * 64 + rx % 64) 0#8).toNat

/-! ### EMITVP (R314 R315) -/

/-- The block of a command, as it lies in CLM or in the image of a saved group. -/
def State.packetBlock (s : State) (x : GCmd) (n : Nat) : List Byte :=
  match s.groups[x.group]? with
  | none => List.replicate n 0#8
  | some G =>
    let off := (x.words.getD 0 0#32).toNat
    if G.state == .saved then cellBytes G.savedClm off n else s.locRead G (.clm off) n

structure Block where
  tcount : Nat
  vcount : Nat
  cull : Nat
  mesh : Nat
  bytes : List Byte

def Block.ofBytes (b : List Byte) : Block :=
  let w0 := BitVec.ofNat 32 (wordAt b 0)
  { tcount := (w0.extractLsb' 0 8).toNat, vcount := (w0.extractLsb' 8 9).toNat, cull := (w0.extractLsb' 17 2).toNat,
    mesh := wordAt b 4 % 2 ^ 25, bytes := b }

def Block.tri (k : Block) (t : Nat) : List Byte := (k.bytes.drop (16 + 12 * k.vcount + 4 * t)).take 4

def Block.bad (k : Block) : Bool :=
  k.tcount == 0 || decide (128 < k.tcount) || decide (k.vcount < 3) || decide (256 < k.vcount) || k.cull == 3 ||
    (BitVec.ofNat 32 (wordAt k.bytes 0)).extractLsb' 19 13 != 0#13 || wordAt k.bytes 4 / 2 ^ 25 != 0 || wordAt k.bytes 8 != 0 ||
    wordAt k.bytes 12 != 0 || k.mesh == 0x1FFFFFF ||
    (List.range k.tcount).any (fun t => ((k.tri t).take 3).any (fun i => decide (k.vcount ≤ i.toNat)) || ((k.tri t).getD 3 0#8).getLsbD 7)

/-- round(x × 256, RNE) of a coordinate that lies in range. -/
def snap (x : Nat) : Option Int :=
  match f32.read x with
  | .fin d =>
    let m := (roundAt .rne (d.scale 8) 0).1
    if m < 2 ^ 30 then some (if d.neg then -(m : Int) else m) else none
  | _ => none

/-- A triangle of a block as it is sent; none where it is dropped. -/
def Block.snapped (k : Block) (st : Stream) (t : Nat) : Option Tri :=
  let v := fun (j : Nat) => ((k.tri t).getD j 0#8).toNat
  let f := fun (j i : Nat) => wordAt k.bytes (16 + 12 * v j + 4 * i)
  match [0, 1, 2].mapM (fun j => snap (f j 0)), [0, 1, 2].mapM (fun j => snap (f j 1)),
    [0, 1, 2].mapM (fun j => Fp.dy? (f32.read (f j 2))) with
  | some xs, some ys, some _ =>
    let x := fun (j : Nat) => xs.getD j 0
    let y := fun (j : Nat) => ys.getD j 0
    let area := (x 1 - x 0) * (y 2 - y 0) - (x 2 - x 0) * (y 1 - y 0)
    let lo := fun (a b c : Int) => max 0 (min a (min b c) / 8192)
    let hi := fun (n : Nat) (a b c : Int) => min ((n : Int) - 1) (max a (max b c) / 8192)
    let rxlo := lo (x 0) (x 1) (x 2)
    let rxhi := hi st.rw (x 0) (x 1) (x 2)
    let rylo := lo (y 0) (y 1) (y 2)
    let ryhi := hi st.rh (y 0) (y 1) (y 2)
    if area = 0 ∨ (k.cull = 1 ∧ area < 0) ∨ (k.cull = 2 ∧ 0 < area) ∨ rxhi < rxlo ∨ ryhi < rylo then none
    else some { x := xs, y := ys, z := [0, 1, 2].map (fun j => BitVec.ofNat 32 (f j 2)), tid := ((k.tri t).getD 3 0#8).toNat % 128,
                rxlo := rxlo.toNat, rxhi := rxhi.toNat, rylo := rylo.toNat, ryhi := ryhi.toNat }
  | _, _, _ => none

/-- Owners of the regions of a triangle's rectangle. -/
def Tri.owners (t : Tri) (st : Stream) : List Nat :=
  ((List.range (t.ryhi + 1 - t.rylo)).flatMap (fun j => (List.range (t.rxhi + 1 - t.rxlo)).map (fun i =>
    st.owner (t.rxlo + i) (t.rylo + j)))).eraseDups

/-- A packed bit field: value and width. -/
abbrev BitField := Nat × Nat

/-- A coordinate delta: its width and its zigzag code. A width of 32 has the code 0 (DESIGN CHOICE, assumption 46). -/
def deltaField (d : Int) : List BitField :=
  let z := if 0 ≤ d then 2 * d.toNat else 2 * (-d).toNat - 1
  let w := if z = 0 then 0 else z.log2 + 1
  [(w % 32, 5), (z, w)]

/-- The vertices of a packet after the one before them. -/
def vertexFields : Int × Int → List (Int × Int × Word) → List BitField
  | _, [] => []
  | p, v :: t => deltaField (v.1 - p.1) ++ deltaField (v.2.1 - p.2) ++ [(v.2.2.toNat, 32)] ++ vertexFields (v.1, v.2.1) t

/-- The triangles of a packet after the vertex before them: rectangle, TID, vertices. The order of the rectangle's fields, the
first field in the lowest bits, is the model's (DESIGN CHOICE, assumption 46). -/
def triFields : Int × Int → List Tri → List BitField
  | _, [] => []
  | p, t :: rest =>
    let vs := (t.x.zip (t.y.zip t.z))
    [(t.rxlo, 10), (t.rxhi, 10), (t.rylo, 10), (t.ryhi, 10), (t.tid, 7)] ++ vertexFields p vs ++
      triFields (match vs.getLast? with
        | some v => (v.1, v.2.1)
        | none => p) rest

/-- Fields packed from bit 0 up: the number and its width. -/
def packFields : List BitField → Nat × Nat
  | [] => (0, 0)
  | f :: t => (f.1 % 2 ^ f.2 + 2 ^ f.2 * (packFields t).1, f.2 + (packFields t).2)

/-- The delta-compressed body. -/
def packetBody (ts : List Tri) : List Byte :=
  let b := packFields (triFields (0, 0) ts)
  leBytes ((b.2 + 7) / 8) b.1

/-- Bytes of a packet: header and body. -/
def packetBytes (ts : List Tri) : Nat := 32 + (packetBody ts).length

/-- A packet as it lies in the spill area: the header of Table 12.5 and the body. -/
def Packet.image (p : Packet) (stream dest : Nat) : List Byte :=
  let body := packetBody p.tris
  padTo 32 (leBytes 4 p.seq ++ leBytes 4 (p.mesh + 2 ^ 25 * p.gdie) ++ leBytes 4 (stream + 2 ^ 4 * p.tris.length + 2 ^ 12 * dest) ++
    leBytes 4 (body.length % 2 ^ 16)) ++ body

/-- Status words of `EMITVP` that send nothing. The order of the refusals is DEDUCED (assumption 23). -/
def State.emitRefusal (s : State) (x : GCmd) (k : Block) : Option Nat :=
  let st := s.stream ((x.words.getD 1 0#32).toNat % 16)
  if !st.isOpen then some 1
  else if st.fault then some 5
  else
    match st.tokens.getD x.gdie none with
    | none => some 2
    | some t => if (x.words.getD 2 0#32).toNat < t then some 3 else if k.bad then some 4 else none

/-- EMITVP_COMPLETE: the block is read, its packets go to the crossbar, or it is refused. -/
def execEmitvpComplete (gdie : Nat) (s : State) : Out' :=
  match s.packetHead gdie with
  | none => idle s
  | some x =>
    let core := ((s.groups[x.group]?).map (fun G => G.core)).getD 0
    let held := (s.unfinished core).any (fun y => Cmd.of x y && !s.mayRun core y)
    if x.close || held then idle s
    else
      let k := Block.ofBytes (s.packetBlock x blockBytes)
      let n := (x.words.getD 1 0#32).toNat % 16
      match s.emitRefusal x k with
      | some r =>
        .next ((if r = 3 then s.modStream n (fun y => { y with late := y.late + 1 }) else s).finishPacket x r)
      | none =>
        let st := s.stream n
        let all := (List.range k.tcount).map (k.snapped st)
        let kept := all.filterMap id
        let dests := (List.range 8).filter (fun d => kept.any (fun t => (t.owners st).contains d))
        let msgs := dests.map (fun d =>
          let ts := kept.filter (fun t => (t.owners st).contains d)
          { stream := n, gdie := gdie, sdie := d,
            body := .packet { seq := (x.words.getD 2 0#32).toNat, mesh := k.mesh, gdie := gdie, tris := ts, bytes := packetBytes ts } : XMsg })
        let s := s.modStream n (fun y => { y with drop := y.drop + (k.tcount - kept.length) })
        .next (State.finishPacket { s with xbar := s.xbar ++ msgs } x
          (2 ^ 8 * kept.length + 2 ^ 16 * (dests.map (fun d => 2 ^ d)).foldl (· + ·) 0))

/-! ### VCLOSE (R316) -/

/-- VCLOSE_COMPLETE: the token is sent; a final one completes when its frame has ended. -/
def execVcloseComplete (gdie : Nat) (s : State) : Out' :=
  match s.gcmds.find? (fun x => x.gdie == gdie && x.result.isSome) with
  | some x => .next (s.finishPacket x (x.result.getD 0))
  | none =>
    match s.packetHead gdie with
    | none => idle s
    | some x =>
      if !x.close then idle s
      else
        let w1 := x.words.getD 1 0#32
        let n := w1.toNat % 16
        let N := (x.words.getD 0 0#32).toNat
        let st := s.stream n
        let send := fun (s : State) (t : Option Nat) =>
          let s := s.modStream n (fun y => { y with tokens := y.tokens.set gdie t })
          { s with xbar := s.xbar ++ s.shadingDies.map (fun d => { stream := n, gdie := gdie, sdie := d, body := .token t : XMsg }) }
        if !st.isOpen then .next (s.finishPacket x 1)
        else
          match st.tokens.getD gdie none with
          | none => .next (s.finishPacket x 2)
          | some t =>
            if w1.getLsbD 4 then
              .next { send s none with gcmds := s.gcmds.map (fun y => if y.same x then { y with final := true } else y) }
            else if N < t then .next (s.finishPacket x (if st.fault then 5 else 3))
            else .next ((send s (some N)).finishPacket x (if st.fault then 5 else 0))

/-! ### What the units of a die read and write

Bytes at an address of the stream's job. An address without a usable page reads as nothing and takes no write (DESIGN
CHOICE, assumption 24). -/

def State.unitLoc (s : State) (die job : Nat) (wr : Bool) (va n : Nat) : Option (Loc × State) :=
  match s.xpage { die := die, job := job, wr := wr, fetch := false, core := none } (BitVec.ofNat 64 va) with
  | (.page p, s) =>
    match s.inPage p (BitVec.ofNat 64 va) n with
    | .loc l => if va < 2 ^ 52 then some (l, s) else none
    | .fault _ => none
  | (.fault _, _) => none

def State.unitRead (s : State) (die job va n : Nat) : Option (List Byte) :=
  match s.unitLoc die job false va n with
  | some (.phys pa, s) => some (s.peek pa n)
  | some (.host p a, s) => some (s.hostRead p a n)
  | _ => none

def State.unitWrite (s : State) (die job va : Nat) (b : List Byte) : State :=
  match s.unitLoc die job true va b.length with
  | some (.phys pa, s) => ((s.dropCopies die pa b.length).dropShared pa b.length).poke pa b
  | some (.host p a, s) => s.hostStore p a b
  | _ => s

/-! ### Arrival (R318 R319) -/

/-- The oldest message of a path. -/
def State.pathHead (s : State) (gdie sdie : Nat) : Option (Nat × XMsg) :=
  (s.xbar.zipIdx.find? (fun p => p.1.gdie == gdie && p.1.sdie == sdie)).map (fun p => (p.2, p.1))

/-- The on-die buffer of a stream. -/
def onDie : Nat := 2 ^ 20

def bytesOf (ps : List Packet) : Nat := (ps.map Packet.bytes).foldl (· + ·) 0

/-- Bytes in a die's own buffer. -/
def DieFrame.held (f : DieFrame) : Nat := bytesOf (f.pkts.filter (fun p => p.spill.isNone))

/-- Bytes of a die's packets in the spill area. -/
def DieFrame.spill (f : DieFrame) : DieFrame := { f with spilled := bytesOf (f.pkts.filter (fun p => p.spill.isSome)) }

/-- The spill area in use: offset and bytes. -/
def Stream.spans (st : Stream) : List (Nat × Nat) := st.dies.flatMap (fun f => f.pkts.filterMap (fun p => p.spill.map (fun o => (o, p.bytes))))

/-- A free place for `n` bytes in the spill area: at its start or behind a packet (DESIGN CHOICE, assumption 46). -/
def Stream.spillAt (st : Stream) (n : Nat) : Option Nat :=
  (0 :: st.spans.map (fun x => x.1 + x.2)).find? (fun o =>
    decide (o + n ≤ (st.w 16).toNat) && st.spans.all (fun x => decide (o + n ≤ x.1) || decide (x.1 + x.2 ≤ o)))

/-- A die holds a packet. -/
def State.holdPacket (s : State) (n sdie : Nat) (p : Packet) : State :=
  s.modStream n (fun y => { y with dies := y.dies.modify sdie (fun f => DieFrame.spill { f with pkts := f.pkts ++ [p] }) })

/-- PACKET_ARRIVAL: the packet is held in the die's buffer, else in the spill area; one that exceeds that puts the stream in
Fault. -/
def execPacketArrival (gdie sdie : Nat) (s : State) : Out' :=
  match s.pathHead gdie sdie with
  | none => idle s
  | some (i, m) =>
    match m.body with
    | .token _ => idle s
    | .packet p =>
      let s : State := { s with xbar := s.xbar.eraseIdx i }
      let st := s.stream m.stream
      if !st.isOpen || st.fault then .next s
      else if ((st.dies[sdie]?).map DieFrame.held).getD 0 + p.bytes ≤ onDie then .next (s.holdPacket m.stream sdie p)
      else
        match st.spillAt p.bytes with
        | none => .next (s.modStream m.stream (fun y => { y with fault := true }))
        | some o =>
          .next ((s.unitWrite sdie st.job (st.addr 14 + o) (p.image m.stream sdie)).holdPacket m.stream sdie { p with spill := some o })

/-- TOKEN_ARRIVAL: the release point of the die rises. -/
def execTokenArrival (gdie sdie : Nat) (s : State) : Out' :=
  match s.pathHead gdie sdie with
  | none => idle s
  | some (i, m) =>
    match m.body with
    | .packet _ => idle s
    | .token t =>
      let s : State := { s with xbar := s.xbar.eraseIdx i }
      .next (s.modStream m.stream (fun y => { y with dies := y.dies.modify sdie (fun f => { f with tokens := f.tokens.set gdie t }) }))

/-- A packet lies below the release point of a die: the minimum of the tokens of the present geometry dies. -/
def State.released (s : State) (f : DieFrame) (p : Packet) : Bool :=
  s.geometryDies.all (fun g => match f.tokens.getD g none with
    | none => true
    | some t => decide (p.seq < t))

end Sys2Proof.Machine
end

