-- ==== Sys2Proof/Machine/Frame.lean ====
section
/-! DEFINITION. Frames: the FRAME entry, reprojection, rasterisation and the end of a frame (spec/12 R308 to R312, R318 to
R324). -/

namespace Sys2Proof.Machine

/-! ### The frame record (R310) -/

/-- Admission refuses the record and its map. -/
def State.frameBad (s : State) (va : Nat) (ws : List Word) (map : Option (List Byte)) : Bool :=
  let w := fun (n : Nat) => ws.getD n 0#32
  let a := fun (n : Nat) => (pairOf (w n) (w (n + 1))).toNat
  let zero := (w 0).extractLsb' 9 23 == 0#23 && !(w 1).getLsbD 15 && !(w 1).getLsbD 31 && (w 12).extractLsb' 16 16 == 0#16 &&
    w 13 == 0#32 && w 17 == 0#32 && ((List.range 4).all (fun i => w (28 + i) == 0#32 && (w (34 + 4 * i)).extractLsb' 8 24 == 0#24 &&
      w (35 + 4 * i) == 0#32)) && (ws.drop 48).all (fun x => x == 0#32)
  let k16 := [2, 6, 8, 32, 36, 40, 44].all (fun n => a n % 16384 == 0)
  let aligned := va % 256 == 0 && k16 && a 10 % 64 == 0 && a 14 % 65536 == 0 && (w 16).toNat % 65536 == 0 && a 18 % 64 == 0 && a 26 % 64 == 0
  !zero || !aligned || ((w 0).getLsbD 4 && (w 0).getLsbD 7) ||
    (match map with
     | none => true
     | some m => m.any (fun d => decide (7 < d.toNat) || !(s.shadingDies.contains d.toNat)))

/-- A frame record and its map, where they can be read. -/
def State.readFrame (s : State) (job : Nat) (va : DWord) : Option (List Word × Option (List Byte)) × State :=
  match s.fwRead job va 64 with
  | none => (none, s)
  | some (ws, s) =>
    match s.fwRead job (pairOf (ws.getD 26 0#32) (ws.getD 27 0#32)) 1024 with
    | none => (some (ws, none), s)
    | some (m, s) => (some (ws, some (wordsBytes m)), s)

/-- Open a stream for a frame. -/
def State.openFrame (s : State) (q : Queue) (index : Nat) (ws : List Word) (map : List Byte) : State :=
  let n := (ws.getD 0 0#32).toNat % 16
  let zero := List.replicate s.mix.geometryDies (some 0)
  let x : Stream :=
    { isOpen := true, job := q.job, queue := q.num, index := index, words := ws, map := map, tokens := zero,
      dies := List.replicate 8 { tokens := zero, pkts := [], spilled := 0, ready := false }, fault := false, late := 0, drop := 0,
      holes := 0, rdone := false }
  let x := if x.repro || x.clear then x else { x with dies := x.dies.map (fun d => { d with ready := true }) }
  (s.modStream n (fun _ => x)).unitWrite baseDie q.job (x.addr 18) (List.replicate 32 0#8)

/-- The record at the head of a queue waits for the end of an Open stream's frame. -/
def State.frameWaits (s : State) (q : Nat) : Bool :=
  match s.queue? q with
  | none => false
  | some x =>
    match s.headEntry x with
    | (none, _) => false
    | (some e, s) =>
      match s.readFrame x.job (pairOf (e.getD 2 0#32) (e.getD 3 0#32)) with
      | (some (ws, map), s) =>
        (e.getD 0 0#32).toNat % 256 == 5 && entryClean 5 e && !s.frameBad (pairOf (e.getD 2 0#32) (e.getD 3 0#32)).toNat ws map &&
          (s.stream ((ws.getD 0 0#32).toNat % 16)).isOpen
      | (none, _) => false

/-- FRAME: the record is checked and its stream opens. A record that cannot be read is refused (DEDUCED, assumption 24). -/
def execFrameEntry (q : Nat) (s : State) : Out' :=
  if s.frameWaits q then idle s
  else
    s.takeEntry q 5 fun x index e s =>
      let va := pairOf (e.getD 2 0#32) (e.getD 3 0#32)
      match s.readFrame x.job va with
      | (some (ws, some map), s) =>
        if s.frameBad va.toNat ws (some map) then s.completeEntry q index 4 0#32 0#32 0#32 0#32 else s.openFrame x index ws map
      | (_, s) => s.completeEntry q index 4 0#32 0#32 0#32 0#32

/-! ### Pixels (R311 R312) -/

def clearSample : Nat := 0xFFFFFFFF7F800000
def emptyMesh : Nat := 0x1FFFFFF

def meshOf (x : Nat) : Nat := x / 2 ^ 32 % 2 ^ 25

/-- Region of a pixel, and its number within it. -/
def regionOf (x y : Nat) : Nat × Nat := (x / 32, y / 32)
def inRegion (x y : Nat) : Nat := y % 32 * 32 + x % 32

/-- Address of the bytes of a pixel in a region-tiled buffer. -/
def Stream.pixel (st : Stream) (base ps x y : Nat) : Nat :=
  base + ((y / 32) * st.rw + x / 32) * (1024 * ps) + inRegion x y * ps

def Stream.ownerOf (st : Stream) (x y : Nat) : Nat := st.owner (x / 32) (y / 32)

/-- The pixels of the target that a die owns. -/
def Stream.pixelsOf (st : Stream) (d : Nat) : List (Nat × Nat) :=
  ((List.range st.high).flatMap (fun y => (List.range st.wide).map (fun x => (x, y)))).filter (fun p => st.ownerOf p.1 p.2 == d)

/-- Byte address of the HMASK bit of a pixel. -/
def Stream.maskByte (st : Stream) (x y : Nat) : Nat :=
  st.addr 8 + ((y / 32) * st.rw + x / 32) * 128 + inRegion x y / 8

def State.setMask (s : State) (st : Stream) (d x y : Nat) (b : Bool) : State :=
  let a := st.maskByte x y
  match s.unitRead d st.job a 1 with
  | some [v] =>
    let bit := BitVec.shiftLeft 1#8 (inRegion x y % 8)
    s.unitWrite d st.job a [if b then v ||| bit else v &&& ~~~bit]
  | _ => s

def State.maskBit (s : State) (st : Stream) (d x y : Nat) : Bool :=
  match s.unitRead d st.job (st.maskByte x y) 1 with
  | some [v] => v.getLsbD (inRegion x y % 8)
  | _ => false

/-! ### Reprojection (R324) -/

/-- The new coordinate of a pixel: floor(round(p + 0.5 + d, f32.rne)). -/
def moved (p : Nat) (d : Dy) : Option Int :=
  match f32.read (rne32 ((Dy.ofInt (2 * p + 1) (-1)).add d)) with
  | .fin x => some x.floor
  | _ => none

/-- The candidate that a pixel of the previous buffer sends. -/
def State.candidate (s : State) (st : Stream) (x y : Nat) : Option Cand :=
  let d := st.ownerOf x y
  match s.unitRead d st.job (st.pixel (st.addr 4) 8 x y) 8 with
  | none => none
  | some b =>
    let old := leNat b
    match s.unitRead d st.job (st.pixel (st.addr 6) 16 x y) 12 with
    | none => none
    | some m =>
      if meshOf old = emptyMesh then none
      else
        match (f32.read (wordAt m 0)).dy?, (f32.read (wordAt m 4)).dy?, (f32.read (wordAt m 8)).dy? with
        | some dx, some dy, some zn =>
          match moved x dx, moved y dy with
          | some qx, some qy =>
            let one : Dy := { neg := false, man := 1, exp := 0 }
            if 0 ≤ qx ∧ qx < st.wide ∧ 0 ≤ qy ∧ qy < st.high ∧ !(zn.lt (Dy.zero false)) ∧ !(one.lt zn) then
              some { x := qx.toNat, y := qy.toNat, zn := if zn.man = 0 then 0 else wordAt m 8, hi := old / 2 ^ 32 }
            else none
          | _, _ => none
        | _, _, _ => none

/-- The candidates of all dies are sent before any die writes. -/
def State.sendAll (s : State) (n : Nat) : State :=
  let st := s.stream n
  if st.sent.isSome then s
  else
    let all := (List.range st.high).flatMap (fun y => (List.range st.wide).map (fun x => (x, y)))
    s.modStream n (fun x => { x with sent := some (all.filterMap (fun p => s.candidate st p.1 p.2)) })

/-- The best candidate: smallest depth, then smallest upper word. Depths in [0, 1] order as their bits do. -/
def bestCand : List Cand → Option Cand
  | [] => none
  | c :: t =>
    match bestCand t with
    | none => some c
    | some m => if m.zn < c.zn || (m.zn == c.zn && m.hi < c.hi) then some m else some c

/-- Write a pixel of the new buffer from the candidates that landed on it. -/
def State.landed (s : State) (n d : Nat) (cs : List Cand) (p : Nat × Nat) : State :=
  let st := s.stream n
  let mine := cs.filter (fun c => c.x == p.1 && c.y == p.2)
  let tol := (st.w 12).toNat % 2 ^ 16
  let va := st.pixel (st.addr 2) 8 p.1 p.2
  let good := match bestCand mine with
    | some m => if mine.all (fun c => decide (c.zn - m.zn ≤ tol)) then some m else none
    | none => none
  match good with
  | some m => (s.unitWrite d st.job va (leBytes 8 (m.zn + 2 ^ 32 * m.hi))).setMask st d p.1 p.2 false
  | none =>
    let s := (s.unitWrite d st.job va (leBytes 8 clearSample)).setMask st d p.1 p.2 true
    (s.appendWord d st.job (st.addr 10) (BitVec.ofNat 32 (p.1 + 2 ^ 16 * p.2))).modStream n (fun x => { x with holes := x.holes + 1 })

/-- Clear the samples that a die owns. -/
def State.clearDie (s : State) (st : Stream) (d : Nat) : State :=
  (st.pixelsOf d).foldl (fun s p =>
    s.unitWrite d st.job (st.pixel (st.addr 2) (8 * st.spp) p.1 p.2) ((List.replicate st.spp (leBytes 8 clearSample)).flatten)) s

/-- REPROJECTION_COMPLETE: the start-of-frame work of a die is done; after the last die RDONE and HOLES are written. -/
def execReprojectionComplete (stream sdie : Nat) (s : State) : Out' :=
  let st := s.stream stream
  if !st.isOpen || !s.shadingDies.contains sdie || (st.dies.getD sdie { tokens := [], pkts := [], spilled := 0, ready := true }).ready then idle s
  else
    let s := if st.repro then
        let s := s.sendAll stream
        (st.pixelsOf sdie).foldl (fun s p => s.landed stream sdie ((s.stream stream).sent.getD []) p) s
      else s.clearDie st sdie
    let s := s.modStream stream (fun x => { x with dies := x.dies.modify sdie (fun f => { f with ready := true }) })
    let rep := st.repro
    let st := s.stream stream
    let all := s.shadingDies.all (fun d => ((st.dies[d]?).map DieFrame.ready).getD true)
    if rep && all then
      let s := s.unitWrite baseDie st.job (st.addr 18) (leBytes 4 1 ++ leBytes 4 st.holes)
      .next (s.modStream stream (fun x => { x with rdone := true }))
    else .next s

/-! ### Rasterisation (R321) -/

/-- Offsets of the samples in a pixel, in 1/256. -/
def sampleAt (spp i : Nat) : Int × Int :=
  if spp = 1 then (128, 128)
  else
    match i with
    | 0 => (96, 32)
    | 1 => (224, 96)
    | 2 => (32, 160)
    | _ => (160, 224)

/-- Vertices with the orientation A > 0. -/
def Tri.oriented (t : Tri) : List (Int × Int × Dy) × Int :=
  let v := (List.range 3).map (fun i => (t.x.getD i 0, t.y.getD i 0, (f32v (t.z.getD i 0#32)).num))
  let p := fun (i : Nat) => v.getD i (0, 0, Dy.zero false)
  let a := ((p 1).1 - (p 0).1) * ((p 2).2.1 - (p 0).2.1) - ((p 2).1 - (p 0).1) * ((p 1).2.1 - (p 0).2.1)
  if a < 0 then ([p 0, p 2, p 1], -a) else (v, a)

/-- Depth of a sample that the triangle covers. -/
def Tri.depthAt (t : Tri) (sx sy : Int) : Option Nat :=
  let (v, area) := t.oriented
  let p := fun (i : Nat) => v.getD i (0, 0, Dy.zero false)
  let e := fun (i j : Nat) => ((p j).1 - (p i).1) * (sy - (p i).2.1) - ((p j).2.1 - (p i).2.1) * (sx - (p i).1)
  let on := fun (i j : Nat) =>
    let dx := (p j).1 - (p i).1
    decide (0 < e i j) || (e i j == 0 && (decide (0 < dx) || (dx == 0 && decide (0 < (p j).2.1 - (p i).2.1))))
  if on 0 1 && on 1 2 && on 2 0 then
    let sum := (((Dy.ofInt (e 1 2) 0).mul (p 0).2.2).add ((Dy.ofInt (e 2 0) 0).mul (p 1).2.2)).add ((Dy.ofInt (e 0 1) 0).mul (p 2).2.2)
    some (if sum.man = 0 then 0 else rne32 (sum.div (Dy.ofInt area 0)))
  else none

/-- The samples of the regions of a triangle that a die owns: pixel and sample number. -/
def Stream.samplesOf (st : Stream) (t : Tri) (d : Nat) : List (Nat × Nat × Nat) :=
  ((List.range (t.ryhi + 1 - t.rylo)).flatMap (fun j => (List.range (t.rxhi + 1 - t.rxlo)).map (fun i => (t.rxlo + i, t.rylo + j)))).flatMap
    (fun r =>
      if st.owner r.1 r.2 != d then []
      else ((List.range 32).flatMap (fun py => (List.range 32).map (fun px => (32 * r.1 + px, 32 * r.2 + py)))).flatMap (fun p =>
        if p.1 < st.wide ∧ p.2 < st.high then (List.range st.spp).map (fun k => (p.1, p.2, k)) else []))

/-- Test and write one sample. -/
def State.shadeSample (s : State) (st : Stream) (d mesh : Nat) (t : Tri) (p : Nat × Nat × Nat) : State :=
  let o := sampleAt st.spp p.2.2
  match t.depthAt (256 * p.1 + o.1) (256 * p.2.1 + o.2) with
  | none => s
  | some z =>
    let zv := f32.read z
    let va := st.pixel (st.addr 2) (8 * st.spp) p.1 p.2.1 + 8 * p.2.2
    match s.unitRead d st.job va 8 with
    | none => s
    | some b =>
      let depth := f32.read (leNat b % 2 ^ 32)
      let near := zv.lt depth || (st.lequal && zv.eqv depth)
      if zv.lt zeroFp || (f32.read oneF32).lt zv || (st.honly && !s.maskBit st d p.1 p.2.1) || !near then s
      else s.unitWrite d st.job va (leBytes 8 (z + 2 ^ 32 * (mesh + 2 ^ 25 * t.tid)))

/-- The released packet with the lowest key: (SEQ, GDIE), then the order of acceptance. -/
def lowestKey : List (Nat × Packet) → Option (Nat × Packet)
  | [] => none
  | x :: t =>
    match lowestKey t with
    | none => some x
    | some y => if y.2.seq < x.2.seq || (y.2.seq == x.2.seq && y.2.gdie < x.2.gdie) then some y else some x

/-- RASTERISE: the next triangle of the first released packet in key order is rasterised. -/
def execRasterise (stream sdie : Nat) (s : State) : Out' :=
  let st := s.stream stream
  match st.dies[sdie]? with
  | none => idle s
  | some f =>
    match lowestKey ((f.pkts.zipIdx.map (fun x => (x.2, x.1))).filter (fun x => s.released f x.2)) with
    | none => idle s
    | some (i, p) =>
      if !st.isOpen || !f.ready then idle s
      else
        let rest := p.tris.drop 1
        let pkts := if rest.isEmpty then f.pkts.eraseIdx i else f.pkts.set i { p with tris := rest }
        let s := match p.tris with
          | [] => s
          | t :: _ => (st.samplesOf t sdie).foldl (fun s x => s.shadeSample st sdie p.mesh t x) s
        .next (s.modStream stream (fun x => { x with dies := x.dies.set sdie (DieFrame.spill { f with pkts := pkts }) }))

/-! ### The end of a frame (R309 R320) -/

/-- Nothing is left to do for the frame. In Fault it ends when the final tokens have arrived. -/
def State.frameOver (s : State) (st : Stream) : Bool :=
  s.shadingDies.all (fun d =>
    match st.dies[d]? with
    | none => true
    | some f => f.ready && s.geometryDies.all (fun g => (f.tokens.getD g none).isNone) && (st.fault || f.pkts.isEmpty))

/-- FRAME_END: hamper copies go, FSTAT is written, the entry completes. -/
def execFrameEnd (stream : Nat) (s : State) : Out' :=
  let st := s.stream stream
  if !st.isOpen || !s.frameOver st then idle s
  else
    let a := st.addr 18
    let s : State := { s with hcopies := [] }
    let s := (s.unitWrite baseDie st.job (a + 12) (leBytes 4 st.late ++ leBytes 4 st.drop)).unitWrite baseDie st.job (a + 8)
      (leBytes 4 (if st.fault then 2 else 1))
    let s : State := { s with gcmds := s.gcmds.map (fun x =>
      if x.final && x.result.isNone && (x.words.getD 1 0#32).toNat % 16 == stream then { x with result := some (if st.fault then 5 else 0) } else x) }
    .next ((s.modStream stream (fun _ => Stream.idle)).completeEntry st.queue st.index stOK 0#32 0#32 0#32 0#32)

end Sys2Proof.Machine
end

