-- ==== Sys2Proof/Machine/Trap.lean ====
section
/-! DEFINITION. Uniform group 14: the functions of trap level and `NOP` (spec/01 R20, spec/13 R356 to R361), and the
invalidation of cached translations that `TLBINV` and the INVAL entry share. -/

namespace Sys2Proof.Machine

/-! ### Invalidation (R361, spec/06 R173) -/

/-- The addresses from a base: a length of 0 is the whole space. -/
def invalRange (base len : DWord) : Nat × Nat := if len = 0#64 then (0, 2 ^ 64) else (base.toNat, base.toNat + len.toNat)

/-- Remove the cached translations and table entries of a tag that overlap [lo, hi), on every die; hampers keep no older
copy of a line after it. -/
def State.tlbDrop (s : State) (tag lo hi : Nat) : State :=
  { s with
    tlb := s.tlb.filter (fun t => !(t.tag == tag && decide (t.base < hi) && decide (lo < t.base + t.size)))
    walks := s.walks.filter (fun e => !(e.tag == tag && decide (e.base * 2 ^ pageShift (e.lvl + 1) < hi) &&
      decide (lo < (e.base + 1) * 2 ^ pageShift (e.lvl + 1))))
    hcopies := s.hcopies.filter (fun h => h.frame) }

/-- Some access of a job to [lo, hi) is translated and not performed. -/
def State.inFlight (s : State) (job lo hi : Nat) : Bool :=
  s.groups.any (fun G => G.job == job && G.waves.any (fun wv => wv.pend.any (fun p => p.insn.extractLsb' 27 4 != 8#4 &&
    p.accs.any (fun a => a.live && decide (a.va.toNat < hi) && decide (lo < a.va.toNat + p.accSize a)))))

/-- A `TLBINV` has still to wait for accesses through the entries it removes. -/
def invalHolds (a : BitVec 7) (s : State) : Bool :=
  match s.ctx? with
  | none => false
  | some c =>
    let r := invalRange (c.wave.spair a.toNat) ((c.wave.sget (a.toNat + 2)).setWidth 64)
    c.wave.sget (a.toNat + 3) == 0#32 && s.inFlight c.grp.job r.1 r.2

/-- `TLBINV` issues once no access through a removed entry is left, and removes the entries at that moment. -/
def execTlbinv (a : BitVec 7) (s : State) : Out' :=
  issue { uni := true, priv := true, bad := firstBroken [blockOf 4 a], uses := [rdS a 4], hold := invalHolds a s } s fun c s =>
    if c.wave.sget (a.toNat + 3) != 0#32 then raise c s cBadDescriptor
    else
      let r := invalRange (c.wave.spair a.toNat) ((c.wave.sget (a.toNat + 2)).setWidth 64)
      (s.tlbDrop (s.job c.grp.job).tag r.1 r.2, .next)

/-! ### The trap registers (R358 R360) -/

/-- The trap register `n`. -/
def TrapState.read (t : TrapState) (n : Nat) : Word :=
  match n with
  | 0 => lo32 t.tpc
  | 1 => hi32 t.tpc
  | 2 => BitVec.ofNat 32 (t.tslot % 4)
  | 3 => BitVec.ofNat 32 t.recs.length
  | 4 => BitVec.ofNat 32 t.tsplit
  | 5 => 1#32
  | 6 => t.tscr0
  | _ => t.tscr1

/-- Write the trap register `n`; TNREC, TSPLIT and TLEVEL ignore it. -/
def TrapState.write (t : TrapState) (n : Nat) (x : Word) : TrapState :=
  match n with
  | 0 => { t with tpc := pairOf x (hi32 t.tpc), wrote := true }
  | 1 => { t with tpc := pairOf (lo32 t.tpc) x, wrote := true }
  | 2 => { t with tslot := x.toNat % 4, wrote := true }
  | 6 => { t with tscr0 := x }
  | 7 => { t with tscr1 := x }
  | _ => t

def execSysrd (d n : BitVec 7) (s : State) : Out' :=
  issue { uni := true, priv := true, bad := firstBroken [below 8 n], uses := [wrS d] } s fun c s =>
    (s.setUni c d (c.wave.trap.read n.toNat), .next)

def execSyswr (n b : BitVec 7) (s : State) : Out' :=
  issue { uni := true, priv := true, bad := firstBroken [below 8 n], uses := [rdS b] } s fun c s =>
    (s.modWave c.cur.g c.cur.w (fun wv => { wv with trap := wv.trap.write n.toNat (c.wave.sget b.toNat) }), .next)

def execFltrec (d a : BitVec 7) (s : State) : Out' :=
  issue { uni := true, priv := true, bad := firstBroken [multipleOf 8 d], uses := [rdS a, wrS d 8] } s fun c s =>
    let ws := match c.wave.trap.recs[(c.wave.sget a.toNat).toNat]? with
      | some r => r.words
      | none => List.replicate 8 0#32
    (s.modWave c.cur.g c.cur.w (fun wv => wv.ssets d.toNat ws), .next)

/-! ### Settling Parked entries and the return (R359) -/

/-- Settle a Parked entry whose service was refused; the trapping split's resume point is its own again (DEDUCED,
assumption 25). -/
def Wave.parkres (wv : Wave) (i : Nat) (outcome : Nat) : Wave :=
  let e := wv.entry i
  let e' := if outcome = 0 then { e with st := .ready, refused := false, recs := [], request := none, fetchFault := false }
    else e.settled
  let wv := wv.setEntry i e'
  if i = wv.trap.tsplit then { wv with trap := { wv.trap with tpc := e'.pc, tslot := e'.slot } } else wv

/-- The lanes of a Parked entry die; the handler's mask is the lanes that still live. -/
def Wave.parkEnd (wv : Wave) (i : Nat) : Wave :=
  let wv := wv.kill (wv.entry i).mask
  { wv with trap := { wv.trap with entry := { wv.trap.entry with mask := wv.live } } }

def execParkres (a : BitVec 7) (s : State) : Out' :=
  issue { uni := true, priv := true, bad := firstBroken [multipleOf 2 a], uses := [rdS a 2] } s fun c s =>
    let i := (c.wave.sget a.toNat).toNat
    let o := (c.wave.sget (a.toNat + 1)).toNat % 4
    let e := c.wave.splits.getD i Split.empty
    if e.st != .parked || !e.refused || o == 3 then (s, .next)
    else if o < 2 then (s.modWave c.cur.g c.cur.w (fun wv => wv.parkres i o), .next)
    else
      let s := s.dropRays c.grp.core c.cur.g c.cur.w e.mask
      let s := (s.modWave c.cur.g c.cur.w (fun wv => wv.parkEnd i)).modGroup c.cur.g Group.refreshWaits
      (s, if (c.wave.live &&& ~~~e.mask) == 0#64 then .stay else .next)

/-- `RETT`: a TPC that is no bundle address is a cause of the handler's own. -/
def execRett (s : State) : Out' :=
  issue { uni := true, priv := true } s fun c s =>
    if c.wave.trap.wrote && c.wave.trap.tpc.extractLsb' 0 4 != 0#4 then raise c s cMisalignedTarget
    else ((s.yld c).modWave c.cur.g c.cur.w (fun wv => wv.returnTrap c.lau.traph), .stay)

/-- `NOP`. -/
def execNop (s : State) : Out' := issue { uni := true, nop := true } s fun _ s => (s, .next)

end Sys2Proof.Machine
end

