-- ==== Sys2Proof/Machine/Cancel.lean ====
section
/-! DEFINITION. Cancelling a launch, a graph or a job, and the CANCEL entry (spec/13 R339 R341). -/

namespace Sys2Proof.Machine

/-- Cancel a launch. The group `own`, whose wave issues the cancel, ends at the end of its bundle (R348). -/
def State.cancelLaunch (s : State) (l : Nat) (own : Option Nat) : State :=
  if (s.launch l).ended then s
  else
    let s := s.modLaunch l (fun L => { L with cancelled := true, again := [] })
    let s := (List.range s.groups.length).foldl (fun s g =>
      if ((s.groups[g]?).map Group.launch) == some l then
        (if own = some g then s.modGroup g (fun G => { G with stopping := some .cancel }) else s.cancelGroup g)
      else s) s
    s.launchCheck l

/-- Cancel the running and the unstarted nodes of a graph. -/
def State.cancelGraph (s : State) (gi : Nat) (own : Option Nat) : State :=
  match s.graphs[gi]? with
  | none => s
  | some gr =>
    if gr.ended then s
    else
      let s : State := { s with graphs := s.graphs.modify gi (fun x => { x with
        status := if x.status = 0 then stCancelled else x.status
        states := x.states.map (fun n => if n == .waiting then .dropped else n) }) }
      let s := (List.range s.launches.length).foldl (fun s l =>
        if ((s.launch l).graph.map Prod.fst) == some gi then s.cancelLaunch l own else s) s
      s.graphCheck gi

/-- The Open streams of a job close without the end of their frames. -/
def State.closeStreams (s : State) (job : Nat) : State :=
  { s with
    xbar := s.xbar.filter (fun m => !((s.streams.getD m.stream Stream.idle).isOpen && (s.streams.getD m.stream Stream.idle).job == job))
    streams := s.streams.map (fun st => if st.isOpen && st.job == job then Stream.idle else st) }

/-- Cancel a job: its launches and graphs, its queues; every other entry that was taken completes as CANCELLED. `keep`
is the CANCEL entry that does this. -/
def State.cancelJob (s : State) (job : Nat) (keep : Option (Nat × Nat)) : State :=
  let mine := s.queues.filter (fun x => x.job == job)
  let s := mine.foldl State.qDisable s
  let s := (List.range s.graphs.length).foldl (fun s gi =>
    if ((s.graphs[gi]?).map Graph.job) == some job then s.cancelGraph gi none else s) s
  let s := (List.range s.launches.length).foldl (fun s l =>
    if (s.launch l).job = job then s.cancelLaunch l none else s) s
  let s := mine.foldl (fun s x => x.taken.foldl (fun s t =>
    if t.kind = 1 ∨ t.kind = 2 ∨ keep = some (x.num, t.index) then s
    else s.completeEntry x.num t.index stCancelled (entryId t.kind t.words) 0#32 0#32 0#32) s) s
  s.closeStreams job

/-- Some launch or graph of a job has not ended. -/
def State.jobActive (s : State) (job : Nat) : Bool :=
  s.launches.any (fun L => L.job == job && !L.ended) || s.graphs.any (fun g => g.job == job && !g.ended)

/-- The oldest launch of a job with an id that has not completed. -/
def State.findLaunch (s : State) (job : Nat) (id : Word) : Option Nat :=
  s.launches.findIdx? (fun L => L.job == job && !L.ended && L.id == id)
def State.findGraph (s : State) (job : Nat) (id : Word) : Option Nat :=
  s.graphs.findIdx? (fun g => g.job == job && !g.ended && g.id == id)

def stNotFound : Nat := 12

/-- Completion with the status OK. -/
def State.entryDone (s : State) (q index status : Nat) (w1 : Word) : State := s.completeEntry q index status w1 0#32 0#32 0#32

/-- Cancel the target of a CANCEL entry; none names work already complete. `ref` remembers the target. -/
def State.startCancel (s : State) (x : Queue) (index : Nat) (ws : List Word) : State :=
  let id := ws.getD 2 0#32
  match ((ws.getD 1 0#32).extractLsb' 0 2).toNat with
  | 1 =>
    match s.findLaunch x.job id with
    | some l => (s.modTaken x.num index (fun t => { t with ref := l })).cancelLaunch l none
    | none => s.entryDone x.num index stNotFound id
  | 2 =>
    match s.findGraph x.job id with
    | some gi => (s.modTaken x.num index (fun t => { t with ref := gi })).cancelGraph gi none
    | none => s.entryDone x.num index stNotFound id
  | _ => s.cancelJob x.job (some (x.num, index))

/-- The target of a CANCEL entry has ended. -/
def State.cancelOver (s : State) (job : Nat) (t : Taken) : Bool :=
  match ((t.words.getD 1 0#32).extractLsb' 0 2).toNat with
  | 1 => (s.launch t.ref).ended
  | 2 => ((s.graphs[t.ref]?).map Graph.ended).getD true
  | _ => !s.jobActive job

/-- CANCEL_ENTRY: an entry whose cancellation has completed completes; else the entry at HEAD is taken. -/
def execCancelEntry (q : Nat) (s : State) : Out' :=
  match (s.queue? q).bind (fun x => (x.taken.find? (fun t => t.kind == 4 && s.cancelOver x.job t)).map (fun t => t)) with
  | some t => .next (s.entryDone q t.index stOK (entryId 4 t.words))
  | none => s.takeEntry q 4 fun x index ws s => s.startCancel x index ws

end Sys2Proof.Machine
end

