-- ==== Sys2Proof/Machine/Admit.lean ====
section
/-! DEFINITION. The entries LAUNCH, GRAPH, WAIT and INVAL (spec/13 R333 to R338, R344, R361). -/

namespace Sys2Proof.Machine

/-! ### What admission reads -/

/-- Bytes at a virtual address of a job, wherever its pages lie; nothing is placed. -/
def State.jobBytes (s : State) (job va n : Nat) : Option (List Byte) :=
  (List.range n).foldr (fun i acc =>
    match acc, s.unitRead baseDie job (va + i) 1 with
    | some t, some b => some (b ++ t)
    | _, _ => none) (some [])

/-- Words at a virtual address of a job; an aligned word lies in one page and is read at once. -/
def State.jobWords (s : State) (job va n : Nat) : Option (List Word) :=
  if va % 4 ≠ 0 then (s.jobBytes job va (4 * n)).map (leWords n)
  else
    (List.range n).foldr (fun i acc =>
      match acc, s.unitRead baseDie job (va + 4 * i) 4 with
      | some t, some b => some (BitVec.ofNat 32 (leNat b) :: t)
      | _, _ => none) (some [])

/-- The column set. -/
def State.columnSet (s : State) (job : Nat) (L : Launch) : Option (List Nat) :=
  if L.colw = 0 then some [] else (s.jobWords job L.cset.toNat 96).map (fun ws => ws.map BitVec.toNat)

/-- The page of an address takes a write of the device: resident, placed, writable, GDDR7 or column pool. -/
def State.fixPage (s : State) (job va : Nat) : Bool :=
  decide (va < 2 ^ 52) &&
    match s.walk va 3 (s.job job).root with
    | .leaf e _ _ => eState e == 0 && eW e && (eKind e == 0 || (eKind e == 1 && ePlaced e))
    | .fault _ _ _ => false

/-- The first address of each 16 KiB of the fix-up words. -/
def fixPages (L : Launch) : List Nat :=
  let lo := L.fixb.toNat
  let hi := lo + 4 * L.ptiles
  (List.range ((hi - 1) / 16384 - lo / 16384 + 1)).map (fun i => max lo ((lo / 16384 + i) * 16384))

def State.fixPagesOk (s : State) (job : Nat) (L : Launch) : Bool := (fixPages L).all (s.fixPage job)

/-- Write 0 to the fix-up words; words on a page that is not usable stay as they are (R344). -/
def State.zeroFix (s : State) (job : Nat) (L : Launch) : State :=
  (fixPages L).foldl (fun s a =>
    let n := min (a / 16384 * 16384 + 16384) (L.fixb.toNat + 4 * L.ptiles) - a
    s.unitWrite baseDie job a (List.replicate n 0#8)) s

/-! ### The checks of R337 -/

/-- A field of the record itself is out of range, misaligned or not 0 where it must be. -/
def Launch.malformed (L : Launch) : Bool :=
  let f := fun (n lo k : Nat) => (L.w n).toNat / 2 ^ lo % 2 ^ k
  f 0 0 8 != 1 || f 0 19 13 != 0 || f 8 28 4 != 0 || f 9 24 8 != 0 || f 19 16 16 != 0 ||
    (List.range 4).any (fun i => L.w (28 + i) != 0#32) || (List.range 16).any (fun i => L.w (48 + i) != 0#32) || f 0 17 2 == 3 ||
    decide (L.lregs < 8) || decide (128 < L.lregs) || L.lregs % 8 != 0 || decide (L.sregs < 8) || decide (128 < L.sregs) ||
    L.sregs % 8 != 0 || L.waves == 0 || decide (16 < L.waves) || decide (64 < L.bars) || decide (512 < f 9 0 10) ||
    decide (512 < L.acm) || decide (12 < L.colw) || L.grid == 0 || decide (2 ^ 48 < L.grid) ||
    (L.colw == 0 && L.cset != 0#64) || L.code.toNat % 16 != 0 || L.traph.toNat % 16 != 0 || L.fixb.toNat % 64 != 0 ||
    L.txbase.toNat % 64 != 0 || L.cset.toNat % 4 != 0 || ((L.wantsTree || L.pers) && !L.cres) ||
    (L.pers && (L.ptiles * L.pkiter == 0 || L.fixb == 0#64)) || (L.geom && (decide (0 < L.acm) || decide (0 < L.colw)))

/-- An allocation that the column set names is missing, of another job, or smaller than the window. -/
def State.columnsBad (s : State) (job : Nat) (L : Launch) (nums : List Nat) : Bool :=
  nums.zipIdx.any (fun p => p.1 != 0xFFFFFFFF &&
    !(s.colAllocs.any (fun a => a.num == p.1 && a.core == p.2 && a.job == job && decide (L.colw ≤ a.units))))

/-- The cores on which a launch may run, even if they are not empty. -/
def State.coresOf (s : State) (L : Launch) : List Nat := (List.range 112).filter (s.coreFor L)

/-- The status of the first check that fails; 0 when all pass. -/
def State.admission (s : State) (job : Nat) (L : Launch) (nums : Option (List Nat)) : Nat :=
  let cores := s.coresOf L
  if L.malformed || nums.isNone || (L.pers && !s.fixPagesOk job L) then 5
  else if L.geom && s.mix.geometryDies == 0 then 2
  else if (List.range 8).any (fun n => slotRefused (L.slotRecord n)) then 3
  else if s.columnsBad job L (nums.getD []) then 7
  else if cores.isEmpty || L.capacity == 0 then 6
  else if L.wantsTree && !(s.trees.any (fun t => t.owner.isNone)) then 8
  else if L.cres && decide (cores.length * L.capacity < L.grid) then 9
  else 0

/-- Admit a launch: its status, and the state with it listed. Firmware's copy of the record lies where it pleases
(assumption 16). -/
def State.enlist (s : State) (job : Nat) (ws : List Word) (queue index : Nat) (graph : Option (Nat × Nat)) : Nat × State :=
  let L : Launch := { Launch.empty with job := job, words := ws, queue := queue, index := index, graph := graph }
  let nums := if L.malformed then some [] else s.columnSet job L
  let L : Launch := { L with csetNums := nums.getD [] }
  let st := s.admission job L nums
  if st ≠ 0 then (st, s)
  else
    let (lrec, s) := s.draw
    let ti := if L.wantsTree then s.trees.findIdx? (fun t => t.owner.isNone) else none
    let l := s.launches.length
    let s : State := { s with
      launches := s.launches ++ [{ L with lrec := lrec, tree := ti }]
      trees := s.trees.zipIdx.map (fun p => if some p.2 = ti then { Tree.empty with owner := some l } else p.1) }
    (0, if L.pers then s.zeroFix job L else s)

/-- LAUNCH: a record that passes every check becomes a launch, whose groups wait for room. -/
def execLaunchEntry (q : Nat) (s : State) : Out' :=
  s.takeEntry q 1 fun x index ws s =>
    match s.enlist x.job ws q index none with
    | (0, s) => s
    | (st, s) => s.entryDone q index st (ws.getD 1 0#32)

/-! ### Graphs (R338) -/

/-- GRAPH: its header is read; a header that cannot be read or names no node is malformed. -/
def execGraphEntry (q : Nat) (s : State) : Out' :=
  s.takeEntry q 2 fun x index ws s =>
    match s.jobWords x.job (pairOf (ws.getD 2 0#32) (ws.getD 3 0#32)).toNat 16 with
    | none => s.entryDone q index 5 0#32
    | some h =>
      let n := (h.getD 0 0#32).toNat
      let id := h.getD 4 0#32
      if n = 0 ∨ 65535 < n then s.entryDone q index 5 id
      else
        let gr : Graph :=
          { job := x.job, queue := q, index := index, id := id, nodes := n, base := pairOf (h.getD 2 0#32) (h.getD 3 0#32),
            states := List.replicate n .waiting, counter := 0#32, status := 0, ended := false }
        { s with graphs := s.graphs ++ [gr] }

/-- The words of a node: its launch record and its dependence word. -/
def State.nodeWords (s : State) (gr : Graph) (n : Nat) : Option (List Word) := s.jobWords gr.job (gr.base.toNat + 288 * n) 72

/-- Node `m` names node `n` among its successors. -/
def State.precedes (s : State) (gr : Graph) (m n : Nat) : Bool :=
  match s.nodeWords gr m with
  | none => false
  | some ws =>
    match s.jobBytes gr.job (pairOf (ws.getD 66 0#32) (ws.getD 67 0#32)).toNat (2 * (ws.getD 68 0#32).toNat) with
    | none => false
    | some b => (List.range (ws.getD 68 0#32).toNat).any (fun i => halfAt b i == n)

/-- Predecessors of a node that have completed with the status OK. -/
def State.predsDone (s : State) (gr : Graph) (n : Nat) : Nat :=
  ((List.range gr.nodes).filter (fun m => gr.states.getD m .waiting == .ok && s.precedes gr m n)).length

/-- GRAPH_NODE_START: a node whose predecessors have completed starts as a LAUNCH entry does; one that is refused
completes with its status and drops the nodes that wait. A node that cannot be read is malformed. -/
def execGraphNodeStart (graph node : Nat) (s : State) : Out' :=
  match s.graphs[graph]? with
  | none => idle s
  | some gr =>
    if !s.up || gr.ended || gr.status != 0 || gr.states.getD node .ok != .waiting then idle s
    else
      let set := fun (s : State) (st : NodeState) (status k : Nat) =>
        ({ s with graphs := s.graphs.modify graph (fun x => { x with
          states := x.states.set node st, status := status, counter := x.counter + BitVec.ofNat 32 k }) } : State)
      match s.nodeWords gr node with
      | none => .next ((set s .failed 5 1).graphCheck graph)
      | some ws =>
        if s.predsDone gr node < (ws.getD 64 0#32).toNat then idle s
        else
          match s.enlist gr.job (ws.take 64) gr.queue gr.index (some (graph, node)) with
          | (0, s) => .next (set s .running 0 0)
          | (st, s) => .next ((set s .failed st 1).graphCheck graph)

/-! ### WAIT (R333 R334) -/

/-- The condition of a WAIT entry; a word that cannot be read does not satisfy it. -/
def State.waitHolds (s : State) (job : Nat) (ws : List Word) : Bool :=
  match s.unitRead baseDie job (pairOf (ws.getD 2 0#32) (ws.getD 3 0#32)).toNat 4 with
  | none => false
  | some b =>
    let v := (ws.getD 4 0#32).toNat
    if (ws.getD 5 0#32).getLsbD 0 then leNat b == v else decide (v ≤ leNat b)

/-- WAIT: the word is read when the entry starts; the entry then holds back its queue. -/
def execWaitEntry (q : Nat) (s : State) : Out' :=
  s.takeEntry q 3 fun x index ws s =>
    if s.waitHolds x.job ws then s.entryDone q index stOK 0#32
    else
      let us := (ws.getD 6 0#32).toNat
      s.modTaken q index (fun t => { t with deadline := if us = 0 then 0 else s.now + 1000 * us })

/-- The WAIT entry in progress. -/
def Queue.waiting (x : Queue) : Option Taken := x.taken.find? (fun t => t.kind == 3)

/-- WAIT_REREAD: the word is read again and satisfies the condition. -/
def execWaitReread (q : Nat) (s : State) : Out' :=
  match s.queue? q with
  | none => idle s
  | some x =>
    match x.waiting with
    | some t => if s.up && s.waitHolds x.job t.words then .next (s.entryDone q t.index stOK 0#32) else idle s
    | none => idle s

/-- WAIT_TIMEOUT: status TIMEOUT. -/
def execWaitTimeout (q : Nat) (s : State) : Out' :=
  match s.queue? q with
  | none => idle s
  | some x =>
    match x.waiting with
    | some t => if s.up && t.deadline != 0 && decide (t.deadline ≤ s.now) then .next (s.entryDone q t.index 11 0#32) else idle s
    | none => idle s

/-! ### INVAL (R361) -/

/-- The range of an INVAL entry. -/
def invalOf (ws : List Word) : Nat × Nat :=
  invalRange (pairOf (ws.getD 2 0#32) (ws.getD 3 0#32)) (pairOf (ws.getD 4 0#32) (ws.getD 5 0#32))

/-- INVAL: the cached translations go at once; the entry completes when no access through them is left. -/
def execInvalEntry (q : Nat) (s : State) : Out' :=
  match (s.queue? q).bind (fun x => x.taken.find? (fun t => t.kind == 6 &&
      !(s.inFlight x.job (invalOf t.words).1 (invalOf t.words).2))) with
  | some t => .next (s.entryDone q t.index stOK 0#32)
  | none => s.takeEntry q 6 fun x _ ws s => s.tlbDrop (s.job x.job).tag (invalOf ws).1 (invalOf ws).2

end Sys2Proof.Machine
end

