-- ==== Sys2Proof/Machine/Worker.lean ====
section
/-! DEFINITION. Uniform group 11, functions 0 to 4: the work instructions (spec/13 R345 to R350). -/

namespace Sys2Proof.Machine

/-- `GETWORK`: the next item of the group's cursor, or zeros. A tile that another group owns is remembered until its
`WORKDONE` (R346 R347). -/
def execGetwork (d : BitVec 7) (s : State) : Out' :=
  issue { uni := true, long := true, bad := firstBroken [multipleOf 4 d], uses := [wrS d 4],
          instant := (List.range 4).map (fun i => d.toNat + i) } s fun c s =>
    if !c.lau.pers then raise c s cWork
    else
      match c.grp.items with
      | [] => (s.modWave c.cur.g c.cur.w (fun wv => wv.ssets d.toNat (List.replicate 4 0#32)), .next)
      | (t, kb, ke, fl) :: rest =>
        let s := s.modGroup c.cur.g (fun G => { G with
          items := rest, shared := if fl.getLsbD 1 && !fl.getLsbD 2 then G.shared ++ [t] else G.shared })
        (s.modWave c.cur.g c.cur.w (fun wv =>
          wv.ssets d.toNat [BitVec.ofNat 32 t, BitVec.ofNat 32 kb, BitVec.ofNat 32 ke, fl]), .next)

/-- `WORKDONE`: an atomic add of 1 with a release, to the tile's fix-up word; its translation faults are those of a
uniform access of group 9 (DEDUCED, assumption 26). -/
def execWorkdone (a : BitVec 7) (s : State) : Out' :=
  issue { uni := true, long := true, ctr := 2, mem := true, uses := [rdS a] } s fun c s =>
    let t := (c.wave.sget a.toNat).toNat
    if !(c.grp.shared.contains t) then raise c s cWork
    else
      let va := c.lau.fixb + BitVec.ofNat 64 (4 * t)
      let (r, s) := s.xaccess (coreReq c.grp.core c.grp.job true false) va 4 4
      outcome c s true true [(0, va, r)] fun good s =>
        let accs := good.map (fun x => { lane := 0, va := x.2.1, loc := x.2.2, data := [1#32], live := true : Acc })
        (s.modGroup c.cur.g (fun G => { G with shared := G.shared.erase t })).addPend c 2 true [] 0#64 c.act (.mem .workdone)
          false true accs []

/-- A cancel from a wave: the state, and the status, which is none when the wave's own group is cancelled (R348). -/
def State.waveCancel (s : State) (c : Ctx) (level : Nat) (id : Word) : State × Option Word :=
  let own := some c.cur.g
  let hit := fun (s : State) =>
    (s, if ((s.groups[c.cur.g]?).bind Group.stopping) == some Stopping.cancel then none else some 0#32)
  match level with
  | 0 => hit (s.modGroup c.cur.g (fun G => { G with stopping := some .cancel }))
  | 1 => hit (s.cancelLaunch c.grp.launch own)
  | 2 =>
    match s.findLaunch c.grp.job id with
    | some l => hit (s.cancelLaunch l own)
    | none => (s, some 1#32)
  | _ =>
    match c.lau.graph with
    | some (gi, _) => hit (s.cancelGraph gi own)
    | none => (s, some 1#32)

/-- `CANCEL`: it acts at issue; the wave runs on to the end of its bundle. -/
def execCancel (d a : BitVec 7) (s : State) : Out' :=
  issue { uni := true, long := true, bad := firstBroken [multipleOf 2 a], uses := [rdS a 2, wrS d], instant := [d.toNat] } s
    fun c s =>
      let x := c.wave.sget a.toNat
      if x.extractLsb' 2 30 != 0#30 then raise c s cWork
      else
        match s.waveCancel c (x.toNat % 4) (c.wave.sget (a.toNat + 1)) with
        | (s, some st) => (s.setUni c d st, .next)
        | (s, none) => (s, .next)

/-- The completion counter of a level, for the issuer (R339 R349). -/
def State.counterOf (s : State) (c : Ctx) (level : Nat) : Word :=
  match level with
  | 0 => BitVec.ofNat 32 c.grp.retired
  | 1 => c.lau.completed
  | 2 => ((c.lau.graph.bind (fun x => s.graphs[x.1]?)).map Graph.counter).getD 0#32
  | _ => (s.job c.grp.job).counter

/-- `CCOUNT`: the read acquires from the completions that it counts (R340 R349). -/
def execCcount (d a : BitVec 7) (s : State) : Out' :=
  issue { uni := true, long := true, bad := firstBroken [positive d], uses := [rdS a, wrS d], instant := [d.toNat] } s fun c s =>
    let x := c.wave.sget a.toNat
    if x.extractLsb' 2 30 != 0#30 then raise c s cWork
    else ((s.setUni c d (s.counterOf c (x.toNat % 4))).acquiredBy c.grp.core c.reader, .next)

/-! ### ENQ (R350) -/

/-- Append an entry to a queue: its bytes and the marks of its words. -/
def State.append (s : State) (c : Ctx) (q : Nat) (b : List Byte) (bad : List Nat) : Nat × State :=
  match s.queue? q with
  | none => (2, s)
  | some x =>
    if x.job != c.grp.job || !s.qEnabled x || !s.qDevq x then (2, s)
    else
      let tail := s.qw x 4
      let n := 2 ^ s.qRlog x
      if (tail - s.qw x 3).toNat = n then (1, s)
      else
        let va := (pairOf (s.qw x 0) (s.qw x 1)).toNat + 256 * (tail.toNat % n)
        let s := s.unitWrite baseDie x.job va b
        let s := match s.unitLoc baseDie x.job true va 256 with
          | some (.phys pa, _) => bad.foldl (fun (s : State) i => { s with memP := mark s.memP (pa + 8 * i) }) s
          | _ => s
        (0, s.qset x 4 (tail + 1#32))

/-- The entry of an `ENQ` lies in a column that is not Ready. -/
def enqWaits (a : BitVec 7) (s : State) : Bool :=
  match s.ctx? with
  | none => false
  | some c =>
    match s.xaccess (coreReq c.grp.core c.grp.job false false) (c.wave.spair a.toNat) 256 256 with
    | (.loc (.phys pa), _) => !s.serves pa
    | _ => false

/-- `ENQ` waits for the accesses that it releases, reads the entry and appends it in one step. -/
def execEnq (d a b : BitVec 7) (s : State) : Out' :=
  issue { uni := true, long := true, ctr := 3, bad := firstBroken [positive d, multipleOf 2 a], mem := true, hold := unreleased s || enqWaits a s,
          uses := [rdS a 2, rdS b, wrS d], instant := [d.toNat] } s fun c s =>
    let va := c.wave.spair a.toNat
    let (r, s) := s.xaccess (coreReq c.grp.core c.grp.job false false) va 256 256
    match r with
    | .fault f => outcome c s true false [(0, va, .fault f)] (fun _ s => s)
    | .loc l =>
      let r := (s.seenAt c.grp c.reader l 256).laneRead c.grp c.reader true true va l 256
      let bad := (List.range 32).filter (fun i => r.bad.getD (2 * i) false)
      let (st, s) := r.s.append c (c.wave.sget b.toNat).toNat r.bytes bad
      (s.setUni c d (BitVec.ofNat 32 st), .next)

end Sys2Proof.Machine
end

