-- ==== Sys2Proof/Machine/Answer.lean ====
section
/-! DEFINITION. Fault service and the answers to requests (spec/03 R91, spec/08 R231, spec/09 R261, spec/10 R275, spec/11
R301 R306, spec/13 R356 R359 R363). -/

namespace Sys2Proof.Machine

/-! ### Asking (R91) -/

/-- No split of the wave is Ready. -/
def Wave.noneReady (wv : Wave) : Bool := !(wv.splits.any (fun e => e.st == .ready))

/-- Unreported records of a wave, by split index and then lane. -/
def Wave.unreportedRecs (wv : Wave) : List Rec :=
  sortRecs ((wv.splits.zipIdx.filter (fun p => p.1.unreported)).flatMap (fun p => p.1.recs.map (fun r => { r with split := p.2 })))

/-- Service of some Parked entries is refused: they wait for `PARKRES`, and the wave takes the trap (R356). -/
def State.refuseWave (s : State) (g w : Nat) (pick : Split → Bool) (recs : List Rec) : State :=
  if !(((s.wave? g w).map (fun wv => wv.splits.any pick)).getD false) then s
  else
    let s := s.modWave g w (fun wv => { wv with splits := wv.splits.map (fun e =>
      if pick e then { e with refused := true, request := none } else e) })
    s.takeTrap g w false recs

/-- FAULT_SERVICE_REQUEST: one request carries every unreported record. Without a queue or room for it the service is
refused at once. -/
def execFaultServiceRequest (g w : Nat) (s : State) : Out' :=
  match s.groups[g]?, s.wave? g w with
  | some G, some wv =>
    if G.state != .resident || !wv.unreported || !(wv.svcDue || wv.noneReady) then idle s
    else
      let recs := wv.unreportedRecs
      match s.askService G.job (.wave g w) recs with
      | some (id, s) =>
        .next (s.modWave g w (fun wv => { wv with svcDue := false, splits := wv.splits.map (fun e =>
          if e.unreported then { e with request := some id } else e) }))
      | none => .next ((s.modWave g w (fun wv => { wv with svcDue := false })).refuseWave g w Split.unreported recs)
  | _, _ => idle s

/-! ### Answers -/

/-- A Parked entry of a request is Ready again and replays its instruction; in a stopped wave it is Ready when the stop ends
(spec/15 R380). -/
def Split.served (e : Split) (stopped : Bool) : Split :=
  let e := { e with recs := [], request := none, fetchFault := false }
  if stopped then { e with st := .debugParked, prior := .ready } else { e with st := .ready }

/-- Parked for a request. -/
def Split.waitsFor (e : Split) (id : Nat) : Bool := e.request == some id && e.st == .parked

/-- The Parked entries of a request go on. -/
def Wave.served (wv : Wave) (id : Nat) : Wave :=
  { wv with splits := wv.splits.map (fun e => if e.waitsFor id then e.served (wv.state == .stopped) else e) }

def State.answerWave (s : State) (g w : Nat) (r : Request) (ok : Bool) : State :=
  if ok then
    match s.groups[g]? with
    | some G => ((s.acquired G.core).modWave g w (fun wv => wv.served r.id)).settle g w
    | none => s
  else s.refuseWave g w (fun e => e.waitsFor r.id) r.recs

/-- The fault that the records of a request name. -/
def Request.fault (r : Request) : Flt :=
  match r.recs with
  | [] => Flt.plain cPageFault 0#64
  | x :: _ => { cause := x.cause, va := x.va, pst := x.pst, lvl := x.lvl }

/-- Gather requests, in the pools and saved, that wait for a service: served, they enter the pool as if they were new. -/
def State.answerGather (s : State) (r : Request) (ok : Bool) : State :=
  let mine := fun (x : NReq) => x.request == some r.id
  if ok then
    let back := fun (now : Nat) (l : List NReq) =>
      l.filter (fun x => !mine x) ++
        (l.filter mine).map (fun x => x.again now (((s.groups[x.group]?).map Group.window).getD x.window))
    { s with
      cores := s.cores.map (fun c => { c with pool := back c.ccycle.toNat c.pool })
      groups := s.groups.map (fun G => { G with savedReqs := back 0 G.savedReqs }) }
  else
    let rs := s.cores.flatMap (fun c => c.pool.filter mine) ++ s.groups.flatMap (fun G => G.savedReqs.filter mine)
    let s : State := { s with
      cores := s.cores.map (fun c => { c with pool := c.pool.filter (fun x => !mine x) })
      groups := s.groups.map (fun G => { G with savedReqs := G.savedReqs.filter (fun x => !mine x) }) }
    s.endReqs r.fault rs

/-- Ray slots, placed and saved, that wait for a service. -/
def State.answerRay (s : State) (r : Request) (ok : Bool) : State :=
  let mine := fun (x : RaySlot) => x.request == some r.id
  if ok then
    let back := fun (x : RaySlot) => if mine x then { x with st := .traversing, request := none } else x
    { s with
      cores := s.cores.map (fun c => { c with rays := c.rays.map back })
      groups := s.groups.map (fun G => { G with savedRays := G.savedRays.map back }) }
  else
    let here := s.cores.zipIdx.flatMap (fun p => (p.1.rays.filter mine).map (fun x => (p.2, x)))
    let away := s.groups.flatMap (fun G => (G.savedRays.filter mine).map (fun x => (0, x)))
    let s : State := { s with groups := s.groups.map (fun G => { G with savedRays := G.savedRays.filter (fun x => !mine x) }) }
    match r.recs with
    | [] => s
    | rec_ :: _ => (here ++ away).foldl (fun s p => s.rayTrap p.1 p.2 rec_) s

/-- A stopped command: a copy resumes at COPY_FAULT_RESUME, the others at once; refused, it ends with PAGE_REFUSED. -/
def State.answerCmd (s : State) (g w pend : Nat) (ok : Bool) : State :=
  let mine := fun (x : Cmd) => x.group == g && x.wave == w && x.pend == pend
  let back := fun (x : Cmd) =>
    if mine x && !(ok && x.op == .copy) then { x with stop := none, status := if ok then x.status else 3 } else x
  let found := s.cores.zipIdx.flatMap (fun p => p.1.queues.zipIdx.flatMap (fun q => (q.1.filter mine).map (fun x => (p.2, q.2, x)))) ++
    s.groups.flatMap (fun G => (G.savedCmds.filter (fun y => mine y.2)).map (fun y => (G.core, y.1, y.2)))
  let s := if ok then s else found.foldl (fun s x => s.setStatus x.1 x.2.1 x.2.2.group 3 x.2.2.seq) s
  { s with
    cores := s.cores.map (fun c => { c with queues := c.queues.map (fun q => q.map back) })
    groups := s.groups.map (fun G => { G with savedCmds := G.savedCmds.map (fun x => (x.1, back x.2)) }) }

/-- The refit engine goes on, or ends with status FAULT. -/
def State.answerRefit (s : State) (r : Request) (ok : Bool) : State :=
  { s with refits := s.refits.map (fun x =>
      if x.request == some r.id then { x with request := none, status := if ok then x.status else 2 } else x) }

/-! ### Pre-emption options (R351 R352) -/

/-- The groups that share an option with a victim: those of a CRES launch, or the victim alone. -/
def State.victims (s : State) (v : Nat) : List Nat :=
  match s.groups[v]? with
  | none => []
  | some G =>
    if (s.launch G.launch).cres then
      (List.range s.groups.length).filter (fun g =>
        ((s.groups[g]?).map (fun H => H.launch == G.launch && H.state == .resident && H.ending.isNone)).getD false)
    else if G.state == .resident && G.ending.isNone then [v] else []

/-- Apply an option: 0 drain, 1 save, 2 flush. -/
def State.preempt (s : State) (v option : Nat) : State :=
  let how : Stopping := if option = 0 then .drain else if option = 1 then .save else .flush
  let vs := (s.victims v).filter (fun g => ((s.groups[g]?).map (fun G => G.stopping.isNone)).getD false)
  let s := vs.foldl (fun s g => s.modGroup g (fun G => { G with stopping := some how })) s
  vs.foldl (fun s g => s.boundary g) s

/-- Apply an answer to a request and forget the request. -/
def State.answer (s : State) (r : Request) (ok : Bool) (option : Nat) : State :=
  let s := s.dropRequest r.id
  match r.body with
  | .wave g w => s.answerWave g w r ok
  | .gather _ => s.answerGather r ok
  | .ray _ => s.answerRay r ok
  | .command g w p => s.answerCmd g w p ok
  | .bind l gidx => if ok then s else s.modLaunch l (fun L => { L with bindRefused := L.bindRefused ++ [gidx] })
  | .preempt v _ allowed => if ok && option != 3 && allowed.testBit option then s.preempt v option else s
  | .refit _ => s.answerRefit r ok
  | .repair => s

/-! ### The service of firmware (R5, spec/06 R169 R171) -/

/-- The shading core whose pool area firmware serves a request from; none for a party without a ring. -/
def State.servedCore (s : State) (r : Request) : Option Nat :=
  let shade := fun (c : Nat) => if shading c then some c else none
  match r.body with
  | .wave g _ | .command g _ _ => ((s.groups[g]?).map (fun G => G.core)).bind shade
  | .gather c | .ray c => shade c
  | .bind _ _ | .preempt _ _ _ | .refit _ | .repair => none

/-- Bytes of the page of a request whose leaf lies at an address. -/
def State.pageAt (s : State) (r : Request) (at_ : Nat) : Option Nat :=
  r.recs.findSome? (fun x =>
    match s.walk x.va.toNat 3 (s.job r.job).root with
    | .leaf _ lvl a => if a = at_ then some (2 ^ pageShift lvl) else none
    | .fault _ _ _ => none)

/-- The leaf of a page without a frame is swapped for the same leaf with a zeroed frame of its size: one of the pool area that the
request is served from, in use nowhere. -/
def State.placesFrame (s : State) (r : Request) (at_ : Nat) (old e : DWord) : Bool :=
  let same := 0xFFFF000000003FFF#64 &&& ~~~0x1C00#64
  let frame := eAddr e
  match s.pageAt r at_ with
  | none => false
  | some size =>
    (e &&& same) == (old &&& same) && ePlaced e && eA e && (eD e || !(r.recs.any Rec.wr)) && frame % size == 0 && s.inPool frame size &&
      (match s.servedCore r with
       | some c => columnOf frame == some c
       | none => true) &&
      (cellPart s.mem frame (frame + size)).isEmpty && !s.frameUsed frame size

/-- An entry that firmware may write for a request at an address: the placement of a page, or any entry that the walker does not
refuse, whose whole page lies in the range of its kind. A page that has been placed meanwhile, by a walk or by an earlier write
of the same service, makes the compare-and-swap fail (R171); a frame that is in use is given to no other page. -/
def State.mayWriteLeaf (s : State) (r : Request) (x : Nat × DWord) : Bool :=
  let old := s.peek64 x.1
  let e := x.2
  x.1 % 8 == 0 && decide (x.1 + 8 ≤ s.mix.gddr) && eV e &&
    (if eV old && eLeaf old && eKind old == 1 && eState old == 0 then !ePlaced old && s.placesFrame r x.1 old e
     else if eLeaf e then
       [0, 1, 2].any (fun l => !s.badLeaf e l &&
         (decide (eKind e = 2 ∨ eKind e = 3) || (eKind e == 1 && !ePlaced e) ||
           (s.inKind (eKind e) (eAddr e) (2 ^ pageShift l) && (eKind e != 1 || !s.frameUsed (eAddr e) (2 ^ pageShift l)))))
     else !badTable e && decide (eAddr e + 16384 ≤ s.mix.gddr))

/-- Firmware writes the entries of a request one after another; none where one of them is not for it to write. -/
def State.writeLeaves (s : State) (r : Request) : List (Nat × DWord) → Option State
  | [] => some s
  | x :: rest => if s.mayWriteLeaf r x then (s.poke64 x.1 x.2).writeLeaves r rest else none

/-- FAULT_SERVICE_DONE: firmware has served a request, with the table entries that it writes for it, or refuses it: where no
zeroed frame is to be had, for one. -/
def execFaultServiceDone (req : Nat) (done : Bool) (leaves : List (Nat × BitVec 64)) (s : State) : Out' :=
  match s.request? req with
  | none => idle s
  | some r =>
    if !r.hw || !s.up then idle s
    else if !done then .next (s.answer r false 0)
    else happens s ((s.writeLeaves r leaves).map (fun s => s.answer r true 0))

/-- The queue on which a request may be answered (R363). -/
def State.mayAnswer (s : State) (x : Queue) (r : Request) : Bool :=
  !r.hw && (if r.typ == 0 || r.typ == 3 then x.job == r.job
    else (r.typ == 1 || r.typ == 2) && ((s.devSvcQueue).map Queue.num) == some x.num)

/-- RESUME: the answer of the host; one that names no such request is NOT_FOUND. -/
def execResumeEntry (q : Nat) (s : State) : Out' :=
  s.takeEntry q 7 fun x index ws s =>
    let id := ws.getD 1 0#32
    let w2 := ws.getD 2 0#32
    match s.request? id.toNat with
    | none => s.entryDone q index stNotFound id
    | some r =>
      if s.mayAnswer x r then
        (s.answer r (w2.getLsbD 0) (w2.extractLsb' 1 2).toNat).entryDone q index stOK id
      else s.entryDone q index stNotFound id

end Sys2Proof.Machine
end

