-- ==== Sys2Proof/Machine/Preempt.lean ====
section
/-! DEFINITION. Placing the waiting groups, bind records, and pre-emption: choice, save and restore (spec/13 R342 R343
R351 to R355, R363). -/

namespace Sys2Proof.Machine

/-! ### What waits (R343) -/

/-- The group of a launch with an index, while it is saved. -/
def State.savedGroup (s : State) (l gidx : Nat) : Option Nat :=
  s.groups.findIdx? (fun G => G.launch == l && G.gidx == gidx && G.state == .saved)

/-- A group of a launch that has not been placed yet, or was flushed. -/
def Launch.unplaced (L : Launch) (gidx : Nat) : Bool :=
  !L.ended && !L.cancelled && (L.again.contains gidx || (decide (L.next ≤ gidx) && decide (gidx < L.grid)))

/-- Some group of the launch waits, unplaced or saved. -/
def State.waits (s : State) (l : Nat) : Bool :=
  let L := s.launch l
  !L.ended && !L.cancelled && (decide (L.next < L.grid) || !L.again.isEmpty || s.groups.any (fun G => G.launch == l && G.state == .saved))

/-- The core that a saved group must return to. -/
def Group.bound (G : Group) (L : Launch) : Option Nat := if 0 < L.colw then some G.core else none

/-- The state without a saved group's own commitment, for the check of its restore. -/
def State.without (s : State) (g : Nat) : State := s.modGroup g (fun G => { G with state := .cancelled })

/-- What a saved group needs on a core beside what its placement names: scratch is one group's at a time (spec/05 R150), and
its gather requests need room (spec/10 R271). A group bound to a column window returns to its core. -/
def State.takesBack (s : State) (G : Group) (core : Nat) : Bool :=
  ((G.bound (s.launch G.launch)).getD core == core) && (G.savedWays == 0 || (s.core core).holder.isNone) &&
    decide ((s.core core).pooled + G.savedReqs.length ≤ 512)

/-- Everything a restore needs is free on a core. -/
def State.restorable (s : State) (g : Nat) (p : Place) : Bool :=
  match s.groups[g]? with
  | none => false
  | some G => (s.without g).admits (s.launch G.launch) p && s.takesBack G p.core

/-- A placement for the next of `n` saved groups that return together. -/
def State.findRestore (s : State) (g n : Nat) : Option Place :=
  match s.groups[g]? with
  | none => none
  | some G =>
    let L := s.launch G.launch
    (List.range 112).findSome? (fun c =>
      if s.takesBack G c && (s.without g).coreFor L c then
        (((s.without g).placeOn L c n).filter (fun p => s.restorable g p)) else none)

/-! ### Restoring (R304 R354 R355) -/

/-- Spilled rays of a restored group take slots again, those that cannot stay spilled first. -/
def State.reslot (s : State) (core : Nat) (rs : List RaySlot) : State :=
  let busy := rs.filter (fun r => !r.spilled && r.st != .candidate)
  let rest := rs.filter (fun r => !r.spilled && r.st == .candidate)
  let put := fun (s : State) (r : RaySlot) (i : Nat) =>
    s.modCore core (fun c => c.modRay r.group r.wave r.lane (fun x => { x with spilled := false, idx := i }))
  let s := busy.foldl (fun s r =>
    match s.takeSlot core with
    | some (i, s) => put s r i
    | none => s) s
  rest.foldl (fun s r =>
    match (s.core core).freeSlot with
    | some i => put s r i
    | none => s) s

/-- A saved group returns to a core. -/
def State.restore (s : State) (g : Nat) (p : Place) : State :=
  let rays := ((s.groups[g]?).map Group.savedRays).getD []
  let s := ((s.restoreGroup g p).reslot p.core rays).groupCheck g
  s.groups.zipIdx.foldl (fun s x => if x.2 = g then (List.range x.1.waves.length).foldl (fun s w => s.settle g w) s else s) s

/-- Restore groups one after another where firmware finds room; none when one finds none. -/
def State.restoreAll (s : State) : List Nat → Option State
  | [] => some s
  | g :: rest =>
    match s.findRestore g (rest.length + 1) with
    | none => none
    | some p => (s.restore g p).restoreAll rest

/-- The other groups of a CRES launch that come back with group `g`, those that need scratch first. -/
def State.fellows (s : State) (g : Nat) : List Nat :=
  match s.groups[g]? with
  | none => []
  | some G =>
    if (s.launch G.launch).cres then
      let mine := fun (scr : Bool) => (List.range s.groups.length).filter (fun h =>
        h != g && ((s.groups[h]?).map (fun H => H.launch == G.launch && H.state == .saved && (H.savedWays != 0) == scr)).getD false)
      mine true ++ mine false
    else []

/-- Some group of the launch is still on its way to be saved. -/
def State.saving (s : State) (l : Nat) : Bool := s.groups.any (fun G => G.launch == l && G.state == .resident && G.stopping == some .save)

/-- Restore a group and, for a CRES launch, its fellows. -/
def State.tryRestore (s : State) (g : Nat) (p : Place) : Option State :=
  match s.groups[g]? with
  | none => none
  | some G =>
    if G.state != .saved || s.saving G.launch || (s.launch G.launch).cancelled || !s.restorable g p then none
    else (s.restore g p).restoreAll (s.fellows g)

/-! ### Placing (R343) -/

/-- Place groups of a launch where firmware finds room; none when one finds none. -/
def State.placeAll (s : State) (l : Nat) : List Nat → Option State
  | [] => some s
  | g :: rest =>
    match s.findPlace (s.launch l) (rest.length + 1) with
    | none => none
    | some p => (s.createGroup l g p).placeAll l rest

/-- Every unplaced group of a launch. -/
def Launch.pending (L : Launch) : List Nat := L.again ++ (List.range (L.grid - L.next)).map (fun i => L.next + i)

/-- How many groups of a launch are placed together with the next one. -/
def Launch.together (L : Launch) : Nat := if L.cres then L.pending.length else 1

/-- Place a group, and for a CRES launch every other one at the same moment. -/
def State.tryPlace (s : State) (l gidx : Nat) (p : Place) : Option State :=
  let L := s.launch l
  if !L.unplaced gidx || !s.admits L p then none
  else if L.cres then (s.createGroup l gidx p).placeAll l (L.pending.erase gidx)
  else some (s.createGroup l gidx p)

/-- A waiting launch has a group that could be placed or restored now. -/
def State.placeable (s : State) (l : Nat) : Bool :=
  let L := s.launch l
  ((match L.pending with
    | [] => none
    | g :: _ => (s.findPlace L L.together).bind (fun p => s.tryPlace l g p)).isSome && !L.ended && !L.cancelled) ||
    (List.range s.groups.length).any (fun g => ((s.groups[g]?).map (fun G => G.launch == l && G.state == .saved)).getD false &&
      ((s.findRestore g ((s.fellows g).length + 1)).bind (fun p => s.tryRestore g p)).isSome)

/-- Launches whose groups come before those of launch `l`: a higher PRIO, or the same and an earlier start. -/
def State.ahead (s : State) (l : Nat) : Bool :=
  let L := s.launch l
  (List.range s.launches.length).any (fun k =>
    (decide (L.prio < (s.launch k).prio) || ((s.launch k).prio == L.prio && decide (k < l))) && k != l && s.waits k && s.placeable k)

/-! ### Pre-emption (R351 R352) -/

/-- The three options of one group: whether allowed, T and C in ns (device time). -/
def State.options (s : State) (g : Nat) (G : Group) : List (Bool × Nat × Nat) :=
  let L := s.launch G.launch
  let E := (G.first.map (fun t => s.now - t)).getD 0
  let p := G.progress
  let drain := if p = 0 then 0 else if p < L.eph then E * (L.eph - p) / p else E / p
  let save := 2000 + G.stateBytes L (s.waysOf g G.core) / 256
  [(decide (0 < L.eph) && decide (1 ≤ p), drain, drain), (true, save, 2 * save), (L.rstr, 1000, E)]

/-- The options of a victim: for a CRES launch allowed when allowed for each member, each figure the largest. -/
def State.optionsOf (s : State) (v : Nat) : List (Bool × Nat × Nat) :=
  let all := (s.victims v).filterMap (fun g => (s.groups[g]?).map (s.options g))
  (List.range 3).map (fun i =>
    all.foldl (fun a o =>
      let x := o.getD i (false, 0, 0)
      (a.1 && x.1, max a.2.1 x.2.1, max a.2.2 x.2.2)) (true, 0, 0))

/-- The option that is taken: of those allowed that meet LATB the one with the smallest C; where none meets it the
smallest C of all; drain before save before flush. -/
def chooseOption (latb : Nat) (o : List (Bool × Nat × Nat)) : Nat :=
  let ok := (o.zipIdx.filter (fun x => x.1.1)).map (fun x => (x.2, x.1.2))
  let meets := ok.filter (fun x => latb == 0 || decide (x.2.1 ≤ latb))
  let from_ := if meets.isEmpty then ok else meets
  match from_ with
  | [] => 1
  | x :: rest => (rest.foldl (fun b y => if y.2.2 < b.2.2 then y else b) x).1

/-- A candidate comes before another: lower PRIO, then longer residency. -/
def State.victimBefore (s : State) (a b : Group) : Bool :=
  let x := (s.launch a.launch).prio
  let y := (s.launch b.launch).prio
  decide (x < y) || (x == y && decide (a.placed < b.placed))

/-- A group of the core kind that the requester needs, with a lower PRIO. -/
def State.inferior (s : State) (L : Launch) (G : Group) : Bool :=
  G.state == .resident && G.ending.isNone && decide ((s.launch G.launch).prio < L.prio) && s.coreFor L G.core

/-- The victim for a requester: none while a pre-emption for it is under way. Groups with a Stopped wave are never
chosen. -/
def State.victimFor (s : State) (l : Nat) : Option Nat :=
  let L := s.launch l
  if s.groups.any (fun G => s.inferior L G && G.stopping.isSome) then none
  else
    let free := fun (g : Nat) => (s.victims g).all (fun h => ((s.groups[h]?).map (fun H =>
      H.waves.all (fun wv => !wv.halted))).getD true)
    ((s.groups.zipIdx.filter (fun p => s.inferior L p.1 && free p.2)).foldl (fun (o : Option (Group × Nat)) p =>
      match o with
      | none => some p
      | some b => if s.victimBefore p.1 b.1 then some p else o) none).map Prod.snd

/-- The body of a type 2 request (R363). -/
def State.preemptBody (s : State) (v l : Nat) (o : List (Bool × Nat × Nat)) : List Byte :=
  match s.groups[v]? with
  | none => []
  | some G =>
    let mask := o.zipIdx.foldl (fun m x => m + (if x.1.1 then 2 ^ x.2 else 0)) 0
    leBytes 4 G.core ++ leBytes 4 G.slot ++ leBytes 4 (s.launch G.launch).id.toNat ++ leBytes 4 (s.launch l).id.toNat ++
      leBytes 4 mask ++ leBytes 4 0 ++ o.flatMap (fun x => leBytes 8 x.2.1 ++ leBytes 8 x.2.2) ++ List.replicate 24 0#8

/-- A waiting group of launch `l` finds no room: a pre-emption is chosen, or the host is asked for one. A choice that the host
has been asked for stays the host's, also when the mode changes (R362). -/
def State.requestPreemption (s : State) (l : Nat) : Option State :=
  match s.victimFor l with
  | none => none
  | some v =>
    let o := s.optionsOf v
    if s.requests.any (fun r => match r.body with
      | .preempt _ k _ => k == l
      | _ => false) then none
    else if s.deviceMode 2 then
        let mask := o.zipIdx.foldl (fun m x => m + (if x.1.1 then 2 ^ x.2 else 0)) 0
        some (s.deviceRequest 2 (s.launch l).job (.preempt v l mask) (s.preemptBody v l o))
    else some (s.preempt v (chooseOption (s.launch l).latb o))

/-- The body of a type 1 request (R363). -/
def State.bindBody (s : State) (l gidx : Nat) : List Byte :=
  let L := s.launch l
  leBytes 4 L.id.toNat ++ leBytes 4 (s.job L.job).tag ++ leBytes 8 gidx ++ leBytes 4 (L.w 8).toNat ++ leBytes 4 (L.w 9).toNat ++
    leBytes 4 L.refb ++ leBytes 4 (L.prio + 8 * L.geom.toNat + 16 * L.cres.toNat) ++ List.replicate 32 0#8

/-- The host is asked to bind a waiting group: once, until it answers, and again after a refusal when a group has left. -/
def State.requestBinding (s : State) (l gidx : Nat) : Option State :=
  if s.requests.any (fun r => r.body == .bind l gidx) || (s.launch l).bindRefused.contains gidx then none
  else some (s.deviceRequest 1 (s.launch l).job (.bind l gidx) (s.bindBody l gidx))

/-- The host has been asked to bind the group, or another one of its CRES launch, and has not answered: the request completes
in the mode in which it was raised (R362). -/
def State.bindAsked (s : State) (l gidx : Nat) : Bool :=
  s.requests.any (fun r => match r.body with
    | .bind k i => k == l && (i == gidx || (s.launch l).cres)
    | _ => false)

/-- GROUP_PLACEMENT: a waiting group is placed when no group before it could be; one that finds no room requests
pre-emption. In host-assisted mode the host is asked to bind it. -/
def execGroupPlacement (launch gidx core slot part clmb acmb nbb : Nat) (s : State) : Out' :=
  let L := s.launch launch
  let wanted := L.unplaced gidx || (!L.cancelled && (s.savedGroup launch gidx).isSome)
  if !s.up || !wanted || (!s.deviceMode 1 && s.bindAsked launch gidx) then idle s
  else if s.deviceMode 1 then
    match s.requestBinding launch gidx with
    | some s => .next s
    | none => if s.placeable launch then idle s else happens s (s.requestPreemption launch)
  else if s.ahead launch then idle s
  else
    match s.tryPlace launch gidx { core := core, slot := slot, part := part, clmb := clmb, acmb := acmb, nbb := nbb } with
    | some s => .next s
    | none => if s.placeable launch || s.saving launch then idle s else happens s (s.requestPreemption launch)

/-- GROUP_RESTORE: a saved group comes back, the groups of a CRES launch together. -/
def execGroupRestore (g core slot part clmb acmb nbb : Nat) (s : State) : Out' :=
  match s.groups[g]? with
  | none => idle s
  | some G =>
    if !s.up || s.deviceMode 1 || s.bindAsked G.launch G.gidx || s.ahead G.launch then idle s
    else happens s (s.tryRestore g { core := core, slot := slot, part := part, clmb := clmb, acmb := acmb, nbb := nbb })

/-! ### Bind records from the host (R342) -/

/-- A bind record names resources in use, or no group that waits: V reads 0, and the host is told. -/
def State.bindConflict (s : State) (core slot : Nat) (ws : List Word) : State :=
  let s := s.modCore core (fun c => { c with binds := c.binds.set slot (ws.set 0 (ws.getD 0 0#32 &&& ~~~1#32)) })
  match s.devSvcQueue with
  | none => s
  | some q => s.addComp q.num 0 15 (BitVec.ofNat 32 core) (BitVec.ofNat 32 slot) 0#32 0#32 0#32

/-- The fields that a bind record holds; the others read 0. -/
def bindMask (ws : List Word) : List Word :=
  let w := fun (n : Nat) => ws.getD n 0#32
  [w 0 &&& 0xFFF0F#32, w 1, w 2, w 3, w 4, w 5 &&& 0xFFFFFF#32, w 6, w 7]

/-- The launch that a record names by its address-space tag and the address of its launch record. -/
def State.boundLaunch (s : State) (tag lrec : Nat) : Option Nat :=
  s.launches.findIdx? (fun L => !L.ended && !L.cancelled && L.lrec % 2 ^ 64 == lrec && (s.job L.job).tag == tag)

/-- A record written by the host: with V = 1 dispatch creates or restores the group, on a core where its launch may run (spec/05
R155). The record of a slot that holds a group stays as it is. -/
def State.bindWrite (s : State) (core slot : Nat) (words : List Word) : State :=
  let ws := bindMask words
  let w := fun (n : Nat) => (ws.getD n 0#32).toNat
  let busy := (s.groupsOn core).any (fun G => G.slot == slot)
  if w 0 % 2 = 0 then (if busy then s else s.modCore core (fun c => { c with binds := c.binds.set slot ws }))
  else if busy then
    match s.devSvcQueue with
    | none => s
    | some q => s.addComp q.num 0 15 (BitVec.ofNat 32 core) (BitVec.ofNat 32 slot) 0#32 0#32 0#32
  else
    let p := { core := core, slot := slot, part := w 0 / 2 % 4, clmb := w 5 % 512, acmb := w 5 / 2 ^ 9 % 512, nbb := w 5 / 2 ^ 18 % 64 : Place }
    let gidx := w 3 + 2 ^ 32 * w 4
    match s.boundLaunch (w 0 / 2 ^ 8 % 2 ^ 12) (w 1 + 2 ^ 32 * w 2) with
    | none => s.bindConflict core slot ws
    | some l =>
      let L := s.launch l
      if w 0 / 8 % 2 = 1 then
        match s.savedGroup l gidx with
        | some g =>
          let fits := s.coreFor L core && s.freeAt L p && ((s.groups[g]?).map (fun G => s.takesBack G core)).getD false
          if fits then s.restore g p else s.bindConflict core slot ws
        | none => s.bindConflict core slot ws
      else if L.unplaced gidx && s.coreFor L core && s.freeAt L p then s.createGroup l gidx p
      else s.bindConflict core slot ws

/-- A record names a group for which the host's answer is still to come. -/
def State.bindsAsked (s : State) (words : List Word) : Bool :=
  let w := fun (n : Nat) => ((bindMask words).getD n 0#32).toNat
  match s.boundLaunch (w 0 / 2 ^ 8 % 2 ^ 12) (w 1 + 2 ^ 32 * w 2) with
  | some l => s.bindAsked l (w 3 + 2 ^ 32 * w 4)
  | none => false

/-- BIND_RECORD_WRITE: the host writes a record through the bind window; in hardware mode firmware alone writes them, but for a
group whose binding the host was asked for (R362). -/
def execBindRecordWrite (core slot : Nat) (words : List (BitVec 32)) (s : State) : Out' :=
  if !s.up || !(s.deviceMode 1 || s.bindsAsked words) || decide (112 ≤ core) || decide (16 ≤ slot) then idle s
  else .next (s.bindWrite core slot words)

/-! ### Saving (R353 R354) -/

/-- Commands of a group in a queue. -/
def State.cmdsOf (s : State) (core sel g : Nat) : List Cmd := (s.cmds core sel).filter (fun x => x.group == g)

/-- A `TTRUN` none of whose steps has begun and not completed (R353, spec/10 R284). -/
def Cmd.betweenSteps (x : Cmd) : Bool := x.op == .ttrun && x.stop.isNone && x.status == 0 && x.run == 0 && x.ahead.isEmpty

/-- A command with no local access left, which runs to completion while its group is saved (spec/08 R234): a copy whose elements
have all been moved or that has ended on an error, an export that has read the rest of its elements, a fence, a maintenance of
caches. -/
def Cmd.landed (x : Cmd) : Bool :=
  match x.op with
  | .copy =>
    let d := CopyDesc.ofWords x.desc
    x.stop.isNone && (x.status != 0 || decide (d.count ≤ x.done) || (d.dir == 1 && !x.ahead.isEmpty))
  | .qfence _ | .cinv | .cflush => true
  | _ => false

/-- A running export whose global writes alone may be left: an engine that has read ahead, which no rule bounds (DESIGN CHOICE,
assumption 65). -/
def CopyDesc.exports (d : CopyDesc) : Bool := d.dir == 1 && (d.mode == 0 || d.mode == 1 || d.mode == 5)

/-- Whether the export at the head of a queue of a group that is saved has read the rest of its elements is free. -/
def State.readOn (g : Nat) (G : Group) (s : State) (q : Nat) : State :=
  match s.copyHead G.core q with
  | none => s
  | some (x, _) =>
    let d := CopyDesc.ofWords x.desc
    if x.group != g || !x.started || !d.exports || !x.ahead.isEmpty then s
    else
      let (b, s) := s.drawBit
      match (if b then s.readRest g G d (d.count - x.done) x.done else none) with
      | some l => s.modCmd G.core q x.ord (fun y => { y with ahead := l })
      | none => s

/-- Everything that a save waits for has completed. -/
def State.quiet (s : State) (g : Nat) (G : Group) : Bool :=
  let c := s.core G.core
  G.waves.all (fun wv => !wv.halted && wv.pend.all (fun p => p.cls == 3 || p.cls == 5 || p.cls == 6)) && G.barRel.isEmpty &&
    !s.hpartBusy g G.core &&
    (s.cmdsOf G.core selMatrix g).all (fun x => !x.started || x.betweenSteps) &&
    ((s.launch G.launch).acm == 0 || c.shadow.st != .filling) &&
    !(((c.tile.map (fun t => t.rows ++ t.results.map (fun r => r.1))).getD []).any (fun r => r.group == g))

/-- A wave as it is saved: windows closed, sleeps as the time that remains. -/
def Wave.saved (wv : Wave) (now : Nat) : Wave :=
  if wv.state == .retired then wv
  else
    { (wv.mapEntries (fun e => { e with windows := [], fence := [], wake := e.wake - now })) with
      state := .saved, priorState := wv.state, frozen := false, seen := none }

/-- Save a group and give up its core. What it holds in the queues is saved with it, but for the commands that have no local access
left. -/
def State.saveGroup (s : State) (g : Nat) (G : Group) : State :=
  let L := s.launch G.launch
  let c := s.core G.core
  let holds := c.holder == some g
  let ways := if holds then c.ways else 0
  let lo := G.clmb * 1024
  let area := match s.poolTake G.job (G.stateBytes L ways) with
    | some off => (s.job G.job).saveb + off
    | none => 0
  let clm := (cellPart c.clm lo (lo + L.localBytes)).map (fun x => (x.1 - lo, x.2))
  let clmP := (c.clmP.filter (fun w => decide (lo / 8 ≤ w) && decide (w < (lo + L.localBytes) / 8))).map (fun w => w - lo / 8)
  let acm := (c.acm.filter (fun r => decide (G.acmb ≤ r.row) && decide (r.row < G.acmb + L.acm))).map (fun r => { r with row := r.row - G.acmb })
  let cmds := c.queues.zipIdx.flatMap (fun q => (q.1.filter (fun x => x.group == g && !x.landed)).map (fun x => (q.2, x)))
  let queues := c.queues.map (fun q => (q.filter (fun x => x.group != g || x.landed)).map (fun x => if x.group = g then { x with ivs := [] } else x))
  let s := s.modGroup g (fun G => { G with
    state := .saved, stopping := none, waves := G.waves.map (fun (wv : Wave) => wv.saved s.now), first := G.first.map (fun t => s.now - t)
    savedClm := clm, savedClmP := clmP, savedScr := if holds then c.scr else [], savedScrP := if holds then c.scrP else [],
    savedWays := ways, savedCmds := cmds, savedQstat := c.qstat.filter (fun q => q.group == g),
    savedPlanes := if 0 < L.acm then (c.active, c.shadow) else (Plane.empty, Plane.empty), savedAcm := acm,
    savedReqs := c.pool.filter (fun r => r.group == g), savedRays := c.rays.filter (fun r => r.group == g), save := area })
  (s.modCore G.core (fun c => { (c.release g G.slot (decide (0 < L.acm))) with queues := queues })).askAgain

/-- GROUP_SAVE: the group stands at bundle boundaries with nothing of what R353 names in flight. -/
def execGroupSave (g : Nat) (s : State) : Out' :=
  match s.groups[g]? with
  | none => idle s
  | some G =>
    if G.state == .resident && G.stopping == some .save && G.ending.isNone && G.atBoundary && s.quiet g G then
      .next (((List.range 4).foldl (State.readOn g G) s).saveGroup g G)
    else idle s

end Sys2Proof.Machine
end

