-- ==== Sys2Proof/Machine/Climate.lean ====
section
/-! DEFINITION. Clock regions, device time, heat, refresh and power (spec/14 R364 to R373), frame rings (spec/06 R171),
retirement of cores, the background tester, link errors and the ports (spec/16 R383 R385 R391 R392 R395 R396). -/

namespace Sys2Proof.Machine

/-! ### Clock targets (R364 R373) -/

/-- Regions, in the order of R364: 104 shading cores, 18 geometry cores, 16 crossbar segments, two packet units, four
memory dies, the base die (DESIGN CHOICE, assumption 29: the manual numbers none). -/
def regions : Nat := 145
def coreRegions : Nat := 122

/-- Target of a region in MHz; 2.7 GHz until firmware sets another. -/
def State.target (s : State) (r : Nat) : Nat := ((s.clocks.find? (fun x => x.1 == r)).map Prod.snd).getD 2700
def State.setTarget (s : State) (r mhz : Nat) : State := { s with clocks := (r, mhz) :: s.clocks.filter (fun x => x.1 != r) }

/-- CLOCK_TARGET_UPDATE: 800 MHz to 2.7 GHz in steps of 25 MHz. -/
def execClockTargetUpdate (region mhz : Nat) (s : State) : Out' :=
  if s.up && decide (region < regions) && decide (800 ≤ mhz) && decide (mhz ≤ 2700) && mhz % 25 == 0 then .next (s.setTarget region mhz)
  else idle s

/-- The physical core of its die that serves a logical shading core (spec/00 R3, spec/16 R391). -/
def State.physical (s : State) (core : Nat) : Nat :=
  let d := (s.dies.getD (core / 12) { pres := false, kind := 0, pos := 0, en := 0#13, spr := 15, ret := 15, rpr := 0 })
  if core % 12 = d.ret then d.spr else core % 12

/-- The logical core that a physical core of a die serves as; past those of the die where it serves as none. -/
def State.logical (s : State) (die unit : Nat) : Nat :=
  12 * die + (((List.range 12).find? (fun i => s.physical (12 * die + i) == unit)).getD 12)

/-- The region of a logical core: that of the physical core which serves it. -/
def State.regionOf (s : State) (core : Nat) : Nat :=
  if core < 96 then 13 * (core / 12) + s.physical core
  else 104 + 9 * ((core - 96) / 8) + (core - 96) % 8

/-- Change the target of every core region together. -/
def State.allTargets (s : State) (f : Nat → Nat) : State :=
  (List.range coreRegions).foldl (fun s r => s.setTarget r (f (s.target r))) s

def lowerTarget (t : Nat) : Nat := max 800 (t - 25)
def raiseTarget (t : Nat) : Nat := min 2700 (t + 25)

/-- POWER_MEASURE: the mean of the last ten measurements against the limit. -/
def execPowerMeasure (watts : Nat) (s : State) : Out' :=
  if !s.up then idle s
  else
    let log := (s.powerLog ++ [watts]).drop (s.powerLog.length + 1 - 10)
    let sum := log.foldl (· + ·) 0
    let above := decide (s.powerLimit * log.length < sum)
    let low := if decide (100 * sum ≤ 95 * s.powerLimit * log.length) then s.powerLow + 1 else 0
    let s : State := { s with powerLog := log, powerLow := low }
    .next (if above then s.allTargets lowerTarget else if 100 ≤ low then s.allTargets raiseTarget else s)

/-! ### Device time and PTP (R368) -/

/-- 500 ppm in units of 2^-32. -/
def maxSlew : Int := 2147483

/-- PTP_MESSAGE: the error and the slew of the time record; TOFF and LOCK when the lock is gained. -/
def execPtpMessage (port : Nat) (offset : BitVec 64) (err rate : BitVec 32) (locked : Bool) (s : State) : Out' :=
  let lock := ((s.cfgWord 10).extractLsb' 0 2).toNat
  let good := decide (err.toNat < 50)
  let slew := decide (-maxSlew ≤ rate.toInt) && decide (rate.toInt ≤ maxSlew)
  if !s.up || decide (1 < port) || !slew || ((locked || lock == 2) && !good) then idle s
  else
    let gained := locked && lock != 2
    let s := if gained then (s.cfgSet 8 (lo32 offset)).cfgSet 9 (hi32 offset) else s
    let l := if locked || lock == 2 then 2 else 1
    .next (((s.cfgSet 10 (BitVec.ofNat 32 (l + 4 * port))).cfgSet 11 err).cfgSet 12 rate)

/-- PTP_HOLDOVER: the grandmaster of a lock is lost. -/
def execPtpHoldover (s : State) : Out' :=
  if s.up && (s.cfgWord 10).extractLsb' 0 2 == 2#2 then .next (s.cfgSet 10 (s.cfgWord 10 ||| 3#32)) else idle s

/-! ### Heat and refresh (R369 R372 R422) -/

/-- The threshold below which a class falls, in thousandths of a degree. -/
def fallBelow (k : Nat) : Int := if k = 3 then 102000 else if k = 2 then 92000 else 82000

/-- The time since when a sample stands below the fall threshold of its class. -/
def belowSince (k : Nat) (t : Int) (old : Option Nat) (now : Nat) : Option Nat :=
  if 0 < k ∧ t < fallBelow k then some (old.getD now) else none

/-- TEMP_SAMPLE: the class rises at the first sample above its threshold; at 120 °C the clock is held until 110 °C. Only
shading cores have vaults. A rise that takes more vault time than the commitments of R371 leave slows the core until its class
falls (R372). -/
def execTempSample (core : Nat) (milliC : Int) (s : State) : Out' :=
  if !s.corePresent core then idle s
  else
    .next (s.modCore core (fun c =>
      let k := if shading core then max c.rclass (classAbove (milliC * 256)) else 0
      { c with
        temp := milliC, rclass := k, below := belowSince k milliC (if k = c.rclass then c.below else none) s.now
        held := if c.held then decide (110000 < milliC) else decide (120000 ≤ milliC)
        slowed := c.slowed || (decide (c.rclass < k) && decide (1000 * 256 < vaultTime k * 256 + s.committed core)) }))

/-- REFRESH_CLASS_FALL: one step after 64 ms below; the core is slowed no longer (R372). -/
def execRefreshClassFall (core : Nat) (s : State) : Out' :=
  let c := s.core core
  match c.below with
  | none => idle s
  | some t =>
    if c.rclass = 0 ∨ s.now < t + 64000000 then idle s
    else .next (s.modCore core (fun c => { c with rclass := c.rclass - 1, below := belowSince (c.rclass - 1) c.temp none s.now, slowed := false }))

/-- REFRESH_BURST: accesses that meet a burst are late, and nothing else changes (R422). -/
def execRefreshBurst (core vault : Nat) (s : State) : Out' :=
  if s.corePresent core && shading core && decide (vault < 16) then .next s else idle s

/-- A group's share of a charge, as a fraction: by its commitment among the resident groups, equally where these commit nothing
(R372). -/
def refreshShare (charge sum count refb : Nat) : Nat × Nat := if sum = 0 then (charge, count) else (charge * refb, sum)

/-- The sum of two fractions. -/
def fracAdd (x y : Nat × Nat) : Nat × Nat :=
  let d := Nat.lcm x.2 y.2
  (x.1 * (d / x.2) + y.1 * (d / y.2), d)

/-- REFRESH_CHARGE: a millisecond's charge of a core goes to its resident groups by their commitments, and a core that is slowed
loses 25 MHz. -/
def execRefreshCharge (core : Nat) (s : State) : Out' :=
  if !s.up || !s.corePresent core || !shading core then idle s
  else
    let gs := s.groupsOn core
    let k := (s.core core).rclass
    let sum := (gs.map (fun G => (s.launch G.launch).refb)).foldl (· + ·) 0
    let s := gs.foldl (fun s G => s.modLaunch G.launch (fun L => { L with
      charge := fracAdd L.charge (refreshShare (vaultTime k - 30) sum gs.length L.refb) })) s
    .next (if (s.core core).slowed then s.setTarget (s.regionOf core) (lowerTarget (s.target (s.regionOf core))) else s)

/-! ### Frame rings (spec/06 R171, spec/16 R386) -/

/-- Firmware lays a ring out when it first fills it: a base and a size of its own choice (assumption 29). -/
def State.layRing (s : State) (w : Nat) : State :=
  if s.ringLog w ≠ 0 then s
  else
    let (a, s) := s.draw
    let (k, s) := s.draw
    let base := a % (s.mix.gddr / 8) * 8
    let log := 4 + k % 13
    (s.cfgSet w (BitVec.ofNat 32 base)).cfgSet (w + 1) (BitVec.ofNat 32 (base / 2 ^ 32 % 2 ^ 16 + 2 ^ 16 * log))

/-- FRAME_RING_FILL: firmware zeroes a free frame of the core's pool area and appends it at TAIL. Which frames are free is
firmware's own book-keeping (assumption 29). -/
def execFrameRingFill (core : Nat) (big : Bool) (frame : Nat) (s : State) : Out' :=
  let w := ringWord core big
  let n := if big then 32 * 2 ^ 20 else 16384
  let s' := s.layRing w
  let tail := s'.cfgWord (w + 3)
  if !s.up || !shading core || columnOf frame != some core || frame % n != 0 || !s.inPool frame n || !s.serves frame ||
      decide (2 ^ s'.ringLog w ≤ (tail - s'.cfgWord (w + 2)).toNat) then idle s
  else
    let s := s'.drain frame n
    let s : State := { s with mem := cellClear s.mem frame (frame + n), memP := unmark s.memP frame n }
    .next ((s.poke64 (s.ringSlot w tail) (BitVec.ofNat 64 frame)).cfgSet (w + 3) (tail + 1#32))

/-! ### Units by kind and number (assumption 29) -/

def kindLlc : Nat := 0
def kindGddr : Nat := 1
def kindHamper : Nat := 2
def kindClm : Nat := 3
def kindColumn : Nat := 4
def kindRegs : Nat := 5
def kindAcm : Nat := 6
def kindLink : Nat := 7

def unitNo (kind index : Nat) : Nat := kind * 2 ^ 16 + index

/-- The unit whose corrected errors a repair of a type answers. -/
def State.dueUnit (s : State) (typ die unit : Nat) : Nat :=
  if typ = 4 then unitNo kindLlc die else if typ = 5 then unitNo kindColumn (s.logical die (unit / 16))
  else unitNo kindAcm (s.logical die unit)

/-! ### Repairs (spec/16 R391 R392 R395) -/

/-- An entry of the darn record. -/
def darnEntry (typ die unit : Nat) (failed spare : Nat) : List Word :=
  [BitVec.ofNat 32 (typ + 2 ^ 4 * die + 2 ^ 9 * unit), BitVec.ofNat 32 failed, BitVec.ofNat 32 spare, 0#32]

/-- The darn record: fuse entries first. -/
def State.darn (s : State) : List (List Word) := s.fuses ++ s.rowset

/-- Append an entry to both copies; it is persistent then. -/
def State.darnAppend (s : State) (e : List Word) : State := { s with rowset := s.rowset ++ [e], journal := s.journal ++ [e] }

/-- Room for one more entry of the record. -/
def State.darnRoom (s : State) : Bool := decide (s.darn.length + s.found.length < 4096)

/-- The host-assisted replay that waits. -/
def State.repairAsked (s : State) : Bool := s.requests.any (fun r => r.body == .repair)

/-- Replay is going on: the host has not yet answered, or some column is not verified. -/
def State.inReplay (s : State) : Bool := s.repairAsked || s.columns.any (fun c => c == .replaying)

/-- A repair is applied and appended; the swap of a retired core waits for the next reset (R391). -/
def State.repairNow (s : State) (e : List Word) : State :=
  if (e.getD 0 0#32).toNat % 16 = 1 then s.darnAppend e else { (s.darnAppend e) with softRepair := s.softRepair ++ [e] }

/-- A repair is found: it is applied and appended, after the replay where one is going on (R393). -/
def State.repairFound (s : State) (e : List Word) : State :=
  if s.inReplay then { s with found := s.found ++ [e] } else s.repairNow e

/-- Answer a service request: the status and the body (R387). -/
def State.serve (s : State) (port : Nat) (w0 tag : Word) (status : Nat) (body : List Byte) : State :=
  s.emit (.service port [(w0 &&& 0x1FF#32) ||| BitVec.ofNat 32 (2 ^ 16 * status), tag, BitVec.ofNat 32 body.length, 0#32] body)

/-- Once the replay is complete, the repairs that it found are applied and appended, and DARN_APPLY is answered. -/
def State.afterReplay (s : State) : State :=
  if s.inReplay then s
  else
    let s := s.found.foldl State.repairNow { s with found := [] }
    match s.darnReply with
    | some (port, w0, tag) => State.serve { s with darnReply := none } port w0 tag 0 []
    | none => s

/-! ### The die table (R390) -/

def Mix.code : Mix → Nat
  | .g2s8m4 => 0
  | .g1s4m2 => 1
  | .g0s8m4 => 2

/-- The die table in memory: a header of 64 bytes and thirty-two entries of 32. A die whose repair failed is listed as
not present. -/
def State.dieTable (s : State) : List Byte :=
  padTo 64 (leBytes 4 0x44494531 ++ leBytes 4 s.mix.code) ++ s.dies.flatMap (fun d =>
    padTo 32 (leBytes 4 ((if d.pres && d.rpr != 3 then 1 else 0) + 2 * d.kind + 8 * d.pos) ++
      leBytes 4 (d.en.toNat + 2 ^ 13 * d.spr + 2 ^ 17 * d.ret) ++ leBytes 4 d.rpr))

/-- Every live job's copy is written. -/
def State.publish (s : State) : State :=
  s.jobs.foldl (fun s J => if J.live then s.poke J.frame s.dieTable else s) s

/-! ### Repairs and errors -/

/-- CORE_RETIREMENT: from now on no group is admitted to the core; the spare takes its place at the next reset. A shading
die has one spare core. -/
def execCoreRetirement (core : Nat) (s : State) : Out' :=
  let d := core / 12
  let used := (s.darn ++ s.found).any (fun e => (e.getD 0 0#32).toNat % 512 == 1 + 16 * d)
  if !s.up || !shading core || !s.corePresent core || (s.core core).retiring || used || !s.darnRoom then idle s
  else .next ((s.repairFound (darnEntry 1 d (core % 12) (core % 12) 12)).modCore core (fun c => { c with retiring := true }))

/-- The spares that entries of a type already use in a unit. -/
def State.sparesUsed (s : State) (typ die unit : Nat) : List Nat :=
  ((s.darn ++ s.found).filter (fun e => e.getD 0 0#32 &&& ~~~0x1000000#32 == (darnEntry typ die unit 0 0).getD 0 0#32)).map
    (fun e => (e.getD 2 0#32).toNat)

/-- BACKGROUND_TEST: a data TSV that fails is replaced by a patch lane of its bus, of which there are eight; lanes 0 to 15 are
never patched (R391 R392). A bus without a failure is left as it was. The test of a replay is its pattern pass (R393). -/
def execBackgroundTest (core vault : Nat) (failed : Option (Nat × Nat)) (s : State) : Out' :=
  if !s.up || !s.corePresent core || !shading core || decide (16 ≤ vault) || s.columns.getD core .notReady == .notReady then idle s
  else
    match failed with
    | none => .next s
    | some (tsv, lane) =>
      let unit := s.physical core * 16 + vault
      if decide (tsv < 16) || decide (128 ≤ tsv) || decide (8 ≤ lane) || (s.sparesUsed 3 (core / 12) unit).contains lane || !s.darnRoom then
        idle s
      else .next (s.repairFound (darnEntry 3 (core / 12) unit tsv lane))

/-- A unit of a die has elements of a type that firmware replaces: columns of an array, ways of an LLC slice, rows of a vault
(R391 R392; TYPE 1 and 3 have events of their own). Arrays and vaults are those of the thirteen physical cores. -/
def State.repairable (s : State) (typ die unit failed : Nat) : Bool :=
  s.up && s.diePresent die &&
    ((typ == 2 && decide (die < 8) && decide (unit < 13) && decide (failed < 128)) ||
     (typ == 4 && decide (12 ≤ die) && decide (die < 16) && unit == 0) ||
     (typ == 5 && decide (die < 8) && decide (unit < 208)))

/-- The first spare of a unit that stands in for nothing: of four array columns, of two ways; how many spare rows a vault has
the manual does not say. -/
def State.spareFor (s : State) (typ die unit : Nat) : Option Nat :=
  let used := s.sparesUsed typ die unit
  (List.range (if typ = 2 then 4 else if typ = 4 then 2 else used.length + 1)).find? (fun i => !used.contains i)

/-- Firmware replaces an element of a unit by a spare; the repair that it had scheduled for the unit is done. -/
def State.repair (s : State) (typ die unit failed : Nat) : State :=
  match s.spareFor typ die unit with
  | some i =>
    if s.repairable typ die unit failed && s.darnRoom && decide (failed < 2 ^ 32) then
      { (s.repairFound (darnEntry typ die unit failed i)) with
        repairDue := s.repairDue.filter (fun x => !(x.1 == die && x.2 == s.dueUnit typ die unit)) }
    else s
  | none => s

/-! ### Ports (spec/16 R383 R385) -/

/-- Rate of a port in Gb/s, by its code (R383). -/
def portRate (code : Nat) : Nat := 800 / 2 ^ code

/-- The rate of a queue pair: its port's, until it has been lowered. `qp` is its number and 4,096 times the port that it uses now: the
4,096 queue pairs are shared by both ports. -/
def State.qpRate (s : State) (qp : Nat) : Nat :=
  let port := portRate (s.rates.getD (qp / 4096) 0)
  min (((s.qpRates.find? (fun x => x.1 % 4096 == qp % 4096)).map Prod.snd).getD port) port

/-- CONGESTION_NOTIFICATION: the rate of a queue pair, in Gb/s, is lowered. -/
def execCongestionNotification (qp rate : Nat) (s : State) : Out' :=
  if s.up && decide (qp < 8192) && decide (rate < s.qpRate qp) then
    .next { s with qpRates := (qp, rate) :: s.qpRates.filter (fun x => x.1 % 4096 != qp % 4096) }
  else idle s

/-- MKA_KEY_AGREEMENT: the MACsec channel of a port is secured, or lost. -/
def execMkaKeyAgreement (port : Nat) (secured : Bool) (s : State) : Out' :=
  if s.up && decide (port < 2) then .next { s with secured := s.secured.set port secured } else idle s

/-! ### Columns (spec/05 R157) -/

/-- COLUMN_READY: the replay of a column is verified; a die whose columns are all Ready is repaired, and the die table says
so (R390 R393). -/
def execColumnReady (core : Nat) (s : State) : Out' :=
  if s.columns.getD core .notReady != .replaying then idle s
  else
    let s : State := { s with columns := s.columns.set core .ready }
    let d := core / 12
    let all := (List.range 12).all (fun i => s.columns.getD (12 * d + i) .notReady == .ready)
    let s := if all then State.publish { s with dies := s.dies.modify d (fun x => { x with rpr := 2 }) } else s
    .next s.afterReplay

/-- The replay of a die fails: RPR = 3, and the die is listed as not present (R390). It has no groups (assumption 28). -/
def State.replayFails (s : State) (d : Nat) : State :=
  let cols := (List.range 12).map (fun i => 12 * d + i)
  if decide (d < 8) && s.diePresent d && cols.any (fun c => s.columns.getD c .notReady == .replaying) &&
      cols.all (fun c => (s.groups.all (fun G => !(G.core == c && (G.state == .resident || G.state == .saved))))) then
    (State.publish { s with
      dies := s.dies.modify d (fun x => { x with rpr := 3 })
      columns := cols.foldl (fun l c => l.set c .notReady) s.columns }).afterReplay
  else s

end Sys2Proof.Machine
end

