-- ==== Sys2Proof/Machine/Sha3.lean ====
section
/-! DEFINITION. SHA3-512, which the manual names for the digests of spec/16 R388 and R398 and does not spell out: as FIPS 202
defines it (PRESUMED, assumption 11). -/

namespace Sys2Proof.Machine

/-- Round constants of Keccak-f[1600]. -/
def keccakConsts : List DWord :=
  [0x0000000000000001#64, 0x0000000000008082#64, 0x800000000000808A#64, 0x8000000080008000#64, 0x000000000000808B#64,
   0x0000000080000001#64, 0x8000000080008081#64, 0x8000000000008009#64, 0x000000000000008A#64, 0x0000000000000088#64,
   0x0000000080008009#64, 0x000000008000000A#64] ++
  [0x000000008000808B#64, 0x800000000000008B#64, 0x8000000000008089#64, 0x8000000000008003#64, 0x8000000000008002#64,
   0x8000000000000080#64, 0x000000000000800A#64, 0x800000008000000A#64, 0x8000000080008081#64, 0x8000000000008080#64,
   0x0000000080000001#64, 0x8000000080008008#64]

/-- Rotation of lane (x, y), at x + 5y. -/
def keccakTurns : List Nat := [0, 1, 62, 28, 27, 36, 44, 6, 55, 20, 3, 10, 43, 25, 39, 41, 45, 15, 21, 8, 18, 2, 61, 56, 14]

/-- One round: lane (x, y) stands at x + 5y. -/
def keccakRound (a : List DWord) (rc : DWord) : List DWord :=
  let c := (List.range 5).map (fun x => a.getD x 0#64 ^^^ a.getD (x + 5) 0#64 ^^^ a.getD (x + 10) 0#64 ^^^ a.getD (x + 15) 0#64 ^^^
    a.getD (x + 20) 0#64)
  let d := (List.range 5).map (fun x => c.getD ((x + 4) % 5) 0#64 ^^^ (c.getD ((x + 1) % 5) 0#64).rotateLeft 1)
  let b := (List.range 25).map (fun i =>
    let j := (i % 5 + 3 * (i / 5)) % 5 + 5 * (i % 5)
    (a.getD j 0#64 ^^^ d.getD (j % 5) 0#64).rotateLeft (keccakTurns.getD j 0))
  (List.range 25).map (fun i =>
    let row := i / 5 * 5
    let v := b.getD i 0#64 ^^^ (~~~(b.getD (row + (i + 1) % 5) 0#64) &&& b.getD (row + (i + 2) % 5) 0#64)
    if i = 0 then v ^^^ rc else v)

def keccak (a : List DWord) : List DWord := keccakConsts.foldl keccakRound a

/-- Absorb blocks of 72 bytes. -/
def sha3Absorb : Nat → List Byte → List DWord → List DWord
  | 0, _, a => a
  | n + 1, m, a =>
    sha3Absorb n (m.drop 72) (keccak (a.zipIdx.map (fun p =>
      if p.2 < 9 then p.1 ^^^ BitVec.ofNat 64 (leNat ((m.drop (8 * p.2)).take 8)) else p.1)))

/-- The message with its padding: 0x06, zeros, 0x80 in the last byte of a block. -/
def sha3Pad (m : List Byte) : List Byte :=
  let z := 71 - m.length % 72
  if z = 0 then m ++ [0x86#8] else m ++ [0x06#8] ++ List.replicate (z - 1) 0#8 ++ [0x80#8]

/-- The 64 bytes of the digest. -/
def sha3_512 (m : List Byte) : List Byte :=
  let p := sha3Pad m
  ((sha3Absorb (p.length / 72) p (List.replicate 25 0#64)).take 8).flatMap (fun w => leBytes 8 w.toNat)

end Sys2Proof.Machine
end

