-- ==== Sys2Proof/Machine/Boot.lean ====
section
/-! DEFINITION. Power-on, the boot protocol, the die table, replay of the darn record and the warm reset (spec/00 R1 R8
R10, spec/16 R388 to R394). -/

namespace Sys2Proof.Machine

/-! ### The die table (R390) -/

/-- Kind of a die of the mix: 0 shading, 1 geometry, 2 memory, 3 base. -/
def Mix.kind (m : Mix) (d : Nat) : Option Nat :=
  if d < m.shadingDies then some 0
  else if 8 ≤ d ∧ d < 8 + m.geometryDies then some 1
  else if 12 ≤ d ∧ d < 12 + m.memoryDies then some 2
  else if d = baseDie then some 3
  else none

/-- The entry of a die that has answered: its position is its number (DESIGN CHOICE, assumption 28); the spare core of a
shading die serves in the place of a retired one. -/
def dieEntry (kind d : Nat) (retired : Option (Nat × Nat)) : Die :=
  let all : BitVec 13 := if kind = 0 then 0xFFF#13 else if kind = 1 then 0xFF#13 else 0#13
  match retired with
  | some (r, sp) =>
    { pres := true, kind := kind, pos := d, en := (all &&& ~~~(BitVec.shiftLeft 1#13 r)) ||| BitVec.shiftLeft 1#13 sp, spr := sp, ret := r,
      rpr := 1 }
  | none => { pres := true, kind := kind, pos := d, en := all, spr := 15, ret := 15, rpr := if kind = 0 then 1 else 0 }

def noDie : Die := { pres := false, kind := 0, pos := 0, en := 0#13, spr := 0, ret := 0, rpr := 0 }

/-- The retirement of a die's core that the darn record holds. -/
def retiredOf (darn : List (List Word)) (d : Nat) : Option (Nat × Nat) :=
  (darn.find? (fun e => (e.getD 0 0#32).toNat % 512 == 1 + 16 * d)).map (fun e =>
    ((e.getD 1 0#32).toNat % 13, (e.getD 2 0#32).toNat % 13))

/-- The base die probes its bond ports. -/
def State.enumerate (s : State) : State :=
  { s with dies := (List.range 32).map (fun d =>
      match s.mix.kind d with
      | some k => if d = baseDie ∨ Config.bonded d = true then dieEntry k d (if k = 0 then retiredOf s.darn d else none) else noDie
      | none => noDie) }

/-! ### Replay (R393) -/

/-- The columns of the dies that are present. -/
def State.columnsTo (s : State) (c : ColState) : State :=
  { s with columns := (List.range 96).map (fun i => if s.diePresent (i / 12) then c else .notReady) }

/-- The record is applied; each column is Ready when its replay is verified (COLUMN_READY). -/
def State.replay (s : State) (entries : List (List Word)) : State :=
  State.afterReplay { s.columnsTo .replaying with softRepair := entries }

/-- Replay after a reset: firmware's own, or the host's, who is asked for it. -/
def State.startReplay (s : State) : State :=
  match s.deviceMode 4, s.devSvcQueue with
  | true, some q => (s.columnsTo .notReady).postRequest q.num 4 0 .repair 0 0 0 [] 0#32 0#32
  | _, _ => s.replay s.darn

/-! ### The firmware image (R388) -/

def imageMagic : Nat := 0x43524F46
def maxImage : Nat := 64 * 2 ^ 20
def sigBytes : Nat := 4627

/-- The body of an image whose header and signature verify. -/
def verified (img : List Byte) : Option (List Byte) :=
  let len := leNat ((img.drop 4).take 4)
  let body := (img.drop (8 + sigBytes)).take len
  if leNat (img.take 4) = imageMagic ∧ 8 + sigBytes ≤ img.length ∧ len ≤ maxImage ∧ body.length = len ∧
      Config.mldsaVerify (sha3_512 body) ((img.drop 8).take sigBytes) = true then some body
  else none

/-- Why a boot asks for an image: 0 absent, 1 invalid. -/
def State.bootReason (s : State) : Nat := if leNat (s.norImage.take 4) = imageMagic ∧ 4 ≤ s.norImage.length then 1 else 0

/-- Rates of the ports as the configuration block asks for them; no queue pair is faster than its port (R383). -/
def State.setRates (s : State) : State :=
  let rates := [((s.cfgWord 3).extractLsb' 0 2).toNat, ((s.cfgWord 3).extractLsb' 2 2).toNat]
  { s with rates := rates, qpRates := s.qpRates.map (fun x => (x.1, min x.2 (portRate (rates.getD (x.1 / 4096) 0)))) }

/-- The image starts: dies enumerated, row-sets rewritten from the journal, the record replayed, the words that firmware
sets at boot. -/
def State.startImage (s : State) (body : List Byte) : State :=
  let s := (State.enumerate { s with rowset := s.journal, fwImage := body, boot := .running }).setRates
  let s := ((((s.cfgSet 16 (lo32 Config.dbase)).cfgSet 17 (hi32 Config.dbase)).cfgSet 18 Config.dkey).cfgSet 19 Config.bwkey)
  (((s.cfgSet 20 (lo32 Config.bwbase)).cfgSet 21 (hi32 Config.bwbase)).startReplay).publish

/-- The state that power leaves: what the NOR and the fuses hold, the mix, and the model's own fields. -/
def State.powered (s : State) (b : Boot) : State :=
  { State.reset with
    mix := s.mix, boot := b, norImage := s.norImage, journal := s.journal, chain := s.chain, fuses := s.fuses,
    powerLimit := (match s.mix with
      | .g1s4m2 => 1250
      | _ => 2800)
    outbox := s.outbox, agenda := s.agenda, tick := s.tick, free := s.free }

/-- The ROM goes on: it verifies the image in the NOR and starts it, or runs the boot protocol. -/
def State.romBoot (s : State) : State :=
  match verified s.norImage with
  | some body => s.startImage body
  | none => { s with boot := .requesting s.bootReason }

/-- The ROM is at work: it begins, or it writes an image to the NOR. -/
def State.romRuns (s : State) : Bool :=
  match s.boot with
  | .rom | .storing _ => true
  | _ => false

/-- POWER_ON: power comes on, and the ROM begins. While the ROM writes an image to the NOR, it is the end of that write: the image
starts (R389; DESIGN CHOICE, assumption 50). -/
def execPowerOn (s : State) : Out' :=
  match s.boot with
  | .off | .rom => .next (s.powered .rom).romBoot
  | .storing img => .next (State.startImage { s with norImage := img } ((verified img).getD []))
  | _ => idle s

/-- What a write to the NOR leaves that power cuts short: an image that does not verify. How much of it stands there is free (R389;
assumption 50). -/
def State.torn (s : State) : State :=
  match s.boot with
  | .storing img => { s.draw.2 with norImage := img.take (s.draw.1 % (8 + sigBytes)) }
  | _ => s

/-- POWER_OFF: only the NOR and the fuses keep what they hold. -/
def execPowerOff (s : State) : Out' := if s.boot == .off then idle s else .next (s.torn.powered .off)

/-! ### The boot protocol (R389) -/

/-- The link-local address of a port: the EUI-64 of its MAC under fe80::/64. -/
def linkLocal (mac : BitVec 48) : Nat :=
  0xFE80 * 2 ^ 112 + ((mac.toNat / 2 ^ 24) ^^^ 0x020000) * 2 ^ 40 + 0xFFFE * 2 ^ 24 + mac.toNat % 2 ^ 24

/-- ff02::1. -/
def allNodes : Nat := 0xFF02 * 2 ^ 112 + 1

/-- A host of the boot protocol is its address and the port that it is reached on. -/
def bootHost (addr port : Nat) : Nat := 2 * addr + port

/-- Send a boot datagram on a port: TYPE and 24 bits of zero, SEQ, and the body. How SEQ counts the manual does not say
(assumption 29). -/
def State.sendBoot (s : State) (port dst typ val : Nat) : State :=
  let (seq, s) := s.draw
  s.emit (.boot port (linkLocal (Config.mac port)) dst [BitVec.ofNat 32 (typ % 256), BitVec.ofNat 32 seq] val)

/-- Answer a host. -/
def State.sendHost (s : State) (host typ val : Nat) : State := s.sendBoot (host % 2) (host / 2) typ val

/-- The state of the boot protocol now: a transfer that has had no datagram of its host for ten seconds is abandoned. -/
def State.bootNow (s : State) : Boot :=
  match s.boot with
  | .receiving _ _ _ _ last => if last + 10000000000 ≤ s.now then .requesting s.bootReason else s.boot
  | b => b

/-- REQ: every second on both ports. -/
def execBootReq (s : State) : Out' :=
  match s.bootNow with
  | .requesting reason => .next ((s.sendBoot 0 allNodes 1 reason).sendBoot 1 allNodes 1 reason)
  | _ => idle s

/-- OFFER: the first one is taken; one that is too long is refused. A datagram of the offering host keeps its transfer. -/
def execBootOffer (host len : Nat) (store : Bool) (s : State) : Out' :=
  match s.bootNow with
  | .requesting _ =>
    if maxImage < len then .next (s.sendHost host 5 2) else .next { s with boot := .receiving host len store [] s.now }
  | .receiving h l st got _ => if h = host then .next { s with boot := .receiving h l st got s.now } else idle s
  | _ => idle s

/-- The last byte has arrived: the image is verified, RESULT is sent, and the image is started, or first written to the NOR, which
takes until the next POWER_ON. -/
def State.received (s : State) (host : Nat) (store : Bool) (img : List Byte) : State :=
  match verified img with
  | none => State.sendHost { s with boot := .requesting s.bootReason } host 5 1
  | some body =>
    if store then { (s.sendHost host 5 0) with boot := .storing img } else (s.sendHost host 5 0).startImage body

/-- DATA: accepted at the offset last acknowledged; every DATA of the offering host is answered with ACK. -/
def execBootData (host offset : Nat) (bytes : List (BitVec 8)) (s : State) : Out' :=
  match s.bootNow with
  | .receiving h len store got _ =>
    if h ≠ host then idle s
    else
      let ok := offset == got.length && decide (1 ≤ bytes.length) && decide (bytes.length ≤ 1024) && decide (got.length + bytes.length ≤ len)
      let got := if ok then got ++ bytes else got
      let s : State := { (s.sendHost h 4 got.length) with boot := .receiving h len store got s.now }
      .next (if ok && got.length == len then s.received h store got else s)
  | _ => idle s

/-- BOOT_TRANSFER_TIMEOUT: ten seconds without a datagram of the offering host. -/
def execBootTransferTimeout (s : State) : Out' :=
  match s.boot with
  | .receiving _ _ _ _ last =>
    if last + 10000000000 ≤ s.now then .next { s with boot := .requesting s.bootReason } else idle s
  | _ => idle s

/-! ### Warm reset (R394) -/

/-- What a core keeps: its cycle count and its heat. -/
def Core.warm (c : Core) : Core :=
  { Core.reset with ccycle := c.ccycle, temp := c.temp, rclass := c.rclass, below := c.below, held := c.held, slowed := c.slowed }

/-- Every group, launch, graph, stream, tree and request ends without completion. -/
def State.stopAll (s : State) : State :=
  { s with
    groups := s.groups.map (fun G => if G.state == .resident || G.state == .saved then { G with state := .cancelled, waves := [] } else G)
    launches := s.launches.map (fun L => { L with ended := true, again := [], next := L.grid })
    graphs := s.graphs.map (fun g => { g with ended := true }), requests := [], trees := List.replicate 8 Tree.empty,
    streams := List.replicate 16 Stream.idle, xbar := [], gcmds := [], refits := [] }

/-- A line goes home at a reset; the write-back of a dirty one may fail, as a free bit says (R394;
assumption 37). -/
def State.hostHome (s : State) (l : HostLine) : State :=
  if l.dirtyWords.isEmpty then s.hostEvict l else if s.drawBit.1 then s.drawBit.2.hostLose l else s.drawBit.2.hostEvict l

/-- Retirements that were decided during a replay which the reset cuts short are appended: their swap takes effect now (R391). -/
def State.keepRetired (s : State) : State :=
  (s.found.filter (fun e => (e.getD 0 0#32).toNat % 16 == 1)).foldl State.darnAppend s

/-- Queued reductions are performed and dirty lines go home; the caches are empty. -/
def State.writeBack (s : State) : State :=
  let s := { (s.redQueue.foldl State.applyRed s) with redQueue := [] }
  let s := { (s.hostReds.foldl State.hostApply s) with hostReds := [] }
  let s := s.llcHost.foldl State.hostHome s
  { s with tlb := [], walks := [], hcopies := [], cores := s.cores.map Core.warm, softRepair := [], found := [],
           columns := List.replicate 96 .notReady }

/-- Words w1 and w3 of the completion of an entry that a reset ends (spec/13 R335): the graph of a GRAPH entry, the charge of a
launch. -/
def State.resetWords (s : State) (q : Nat) (t : Taken) : Word × Word :=
  (if t.kind = 2 then
     ((s.graphs.reverse.find? (fun g => g.queue == q && g.index == t.index)).map Graph.id).getD 0#32
   else entryId t.kind t.words,
   if t.kind = 1 then
     ((s.launches.reverse.find? (fun L => L.queue == q && L.index == t.index && L.graph.isNone)).map Launch.charged).getD 0#32
   else 0#32)

/-- Entries that were taken and had not completed do so with the status RESET. -/
def State.resetEntries (s : State) : State :=
  s.queues.foldl (fun s x => x.taken.foldl (fun s t =>
    s.completeEntry x.num t.index 16 (s.resetWords x.num t).1 (s.resetWords x.num t).2 0#32 0#32) s) s

/-- A DARN_APPLY whose replay the reset cuts short is answered with BUSY (DEDUCED, assumption 29). -/
def State.dropDarn (s : State) : State :=
  match s.darnReply with
  | some (port, w0, tag) => State.serve { s with darnReply := none } port w0 tag 3 []
  | none => s

/-- A warm reset, from its start to the completions. -/
def State.warmReset (s : State) : State := (s.keepRetired.dropDarn.stopAll.writeBack.setRates.enumerate.startReplay).publish.resetEntries

/-- WATCHDOG_EXPIRY. -/
def execWatchdogExpiry (s : State) : Out' := if s.up then .next s.warmReset else idle s

/-- FIRMWARE_UNCORRECTABLE_ERROR. -/
def execFirmwareUncorrectableError (s : State) : Out' := if s.up then .next s.warmReset else idle s

end Sys2Proof.Machine
end

