-- ==== Sys2Proof/Machine/Host.lean ====
section
/-! DEFINITION. What a host does over Ethernet beside doorbells: RDMA on job memory, doorbells and bind records, and the
service protocol (spec/16 R384 to R387, R396, R398). -/

namespace Sys2Proof.Machine

/-! ### RDMA (R384) -/

/-- The physical address of a byte that a host may reach. -/
def State.rdmaByte (s : State) (job va : Nat) (wr : Bool) : Option (Nat × State) :=
  match s.xpage { die := baseDie, job := job, wr := wr, fetch := false, core := none } (BitVec.ofNat 64 va) with
  | (.page p, s) =>
    if decide (va < 2 ^ 52) && (p.kind == 0 || p.kind == 1) then
      match s.inPage p (BitVec.ofNat 64 va) 1 with
      | .loc (.phys pa) => some (pa, s)
      | _ => none
    else none
  | (.fault _, _) => none

/-- The physical addresses of [va, va + n): none when one translation fails. -/
def State.rdmaRange (s : State) (job va : Nat) (wr : Bool) : Nat → Option (List Nat × State)
  | 0 => some ([], s)
  | n + 1 =>
    match s.rdmaRange job va wr n with
    | none => none
    | some (l, s) => (s.rdmaByte job (va + n) wr).map (fun r => (l ++ [r.1], r.2))

/-- Runs of consecutive addresses with the bytes for them. -/
def runs : List (Nat × Byte) → List (Nat × List Byte)
  | [] => []
  | (a, b) :: t =>
    match runs t with
    | (a', bs) :: rest => if a' = a + 1 then (a, b :: bs) :: rest else (a, [b]) :: (a', bs) :: rest
    | [] => [(a, [b])]

/-- Words of the doorbell region that a write of aligned words reaches: the queue and the offset, with the value. -/
def doorWrites (va : Nat) (b : List Byte) : List (Nat × Nat × Word) :=
  ((leWords (b.length / 4) b).zipIdx.map (fun p => ((va + 4 * p.2) / 64, (va + 4 * p.2) % 64, p.1)))

/-- The accepted doorbells of one queue. -/
def State.ring (s : State) (x : Nat × Nat × Word) : State :=
  let out := if x.2.1 = 0 then execDoorbellTail x.1 x.2.2 s else if x.2.1 = 8 then execDoorbellChead x.1 x.2.2 s else .next s
  match out with
  | .next s' => { s' with stalled := s.stalled }
  | _ => s

/-- A write of words of the bind window: w1 to w7 of each record first, then w0 (R342). -/
def State.bindWords (s : State) (off : Nat) (ws : List Word) : State :=
  let at_ := ws.zipIdx.map (fun p => ((off / 4 + p.2) / 8, (off / 4 + p.2) % 8, p.1))
  let put := fun (s : State) (x : Nat × Nat × Word) =>
    s.modCore (x.1 / 16) (fun c => { c with binds := c.binds.modify (x.1 % 16) (fun r => bindMask (r.set x.2.1 x.2.2)) })
  let free := fun (s : State) (x : Nat × Nat × Word) => !((s.groupsOn (x.1 / 16)).any (fun G => G.slot == x.1 % 16))
  let s := (at_.filter (fun x => x.2.1 != 0)).foldl (fun s x => if free s x then put s x else s) s
  (at_.filter (fun x => x.2.1 == 0)).foldl (fun s x =>
    let r := ((s.core (x.1 / 16)).binds.getD (x.1 % 16) [])
    let r := r.set 0 x.2.2
    if s.deviceMode 1 || s.bindsAsked r then s.bindWrite (x.1 / 16) (x.1 % 16) r else s) s

/-- The host may write bind records: in host-assisted mode, or while a binding that it was asked for is outstanding (R362). -/
def State.hostBinds (s : State) : Bool := s.deviceMode 1 || s.requests.any (fun r => match r.body with
  | .bind _ _ => true
  | _ => false)

/-- Bytes of the bind window. -/
def State.bindBytes (s : State) : List Byte :=
  (List.range 112).flatMap (fun c => (s.core c).binds.flatMap wordsBytes)

def State.nak (s : State) (port : Nat) : State := s.emit (.nak port)
def State.reply (s : State) (port : Nat) (b : List Byte) : State := s.emit (.readReply port b)

/-- HOST_RDMA_ACCESS: a READ or a WRITE of a host by key and address. An access to memory in a column that is not Ready
waits. -/
def execHostRdmaAccess (port : Nat) (key : BitVec 32) (va len : Nat) (wr : Option (List (BitVec 8))) (s : State) : Out' :=
  let n := match wr with
    | some b => b.length
    | none => len
  let dbase := (pairOf (s.cfgWord 16) (s.cfgWord 17)).toNat
  let bw := (pairOf (s.cfgWord 20) (s.cfgWord 21)).toNat
  if !s.up then idle s
  else if key = s.cfgWord 18 ∧ dbase ≤ va ∧ va + n ≤ dbase + 2048 * 64 then
    match wr with
    | none => .next (s.nak port)
    | some b => .next (if va % 4 = 0 ∧ b.length = 4 then (doorWrites (va - dbase) b).foldl State.ring s else s)
  else if key = s.cfgWord 19 ∧ bw ≤ va ∧ va + n ≤ bw + 112 * 512 then
    match wr with
    | none => .next (s.reply port ((s.bindBytes.drop (va - bw)).take n))
    | some b =>
      .next (if s.hostBinds && va % 4 == 0 && b.length % 4 == 0 then s.bindWords (va - bw) (leWords (b.length / 4) b) else s)
  else
    match s.jobs.findIdx? (fun J => J.live && J.key == key) with
    | none => .next (s.nak port)
    | some j =>
      match s.rdmaRange j va wr.isSome n with
      | none => .next (s.nak port)
      | some (l, s) =>
        if l.any (fun pa => !s.serves pa) then idle s
        else
          match wr with
          | none => .next (s.reply port ((l.map (fun pa => (s.peek pa 1).headD 0#8))))
          | some b => .next ((runs (l.zip b)).foldl (fun s r => s.poke r.1 r.2) s)

/-! ### The service protocol (R385 R387) -/

def svDenied : Nat := 1
def svBad : Nat := 2
def svBusy : Nat := 3
def svNotFound : Nat := 4
def svNoSpace : Nat := 5

/-- An earlier request of the port's queue pair is still to be answered: a JOB_DESTROY or a DARN_APPLY. Requests of one queue
pair are answered in their order (R387). -/
def State.owes (s : State) (port : Nat) : Bool :=
  s.jobs.any (fun J => (J.ending.map Prod.fst) == some port) || (s.darnReply.map Prod.fst) == some port

/-- The checks that every request shares: the answer that refuses it, or that it may be carried out. -/
def State.screen (s : State) (op sub port : Nat) (w0 : Word) (hd : ReqHead) (body : List Byte) : Option Nat :=
  if (s.cfgWord 1).getLsbD 0 && !s.secured.getD port false then some svDenied
  else if w0.toNat ≠ op + 256 * sub ∨ hd.w3 ≠ 0#32 ∨ hd.len.toNat ≠ body.length then some svBad
  else none

/-- Word w0 names an operation of Table 16.1 other than the one of an event: the request is that operation's own
(DESIGN CHOICE, assumption 50). -/
def otherOp (op sub : Nat) (w0 : Word) : Bool :=
  decide (w0.toNat < 512) && decide (1 ≤ w0.toNat % 256) && decide (w0.toNat % 256 ≤ 10) &&
    (decide (w0.toNat < 256) || [3, 4, 8, 9].contains (w0.toNat % 256)) && w0.toNat != op + 256 * sub

/-- A request and its answer: `act` gives the status and the body, and the new state where the status is OK. -/
def service (op sub port : Nat) (w0 : Word) (hd : ReqHead) (body : List Byte) (s : State) (act : State → Nat × List Byte × State) : Out' :=
  if !s.up || decide (1 < port) || s.owes port || otherOp op sub w0 then idle s
  else
    match s.screen op sub port w0 hd body with
    | some st => .next (s.serve port w0 hd.tag st [])
    | none =>
      match act s with
      | (0, b, s') => .next (s'.serve port w0 hd.tag 0 b)
      | (st, _, _) => .next (s.serve port w0 hd.tag st [])

/-- Word `n` of a body, and the 64-bit value at it. -/
def bodyW (b : List Byte) (n : Nat) : Nat := leNat ((b.drop (4 * n)).take 4)
def bodyD (b : List Byte) (n : Nat) : Nat := leNat ((b.drop (4 * n)).take 8)

/-! ### Jobs -/

/-- The job of an address-space tag. -/
def State.jobOf (s : State) (tag : Nat) : Option Nat := s.jobs.findIdx? (fun J => J.live && J.tag == tag)

/-- A free tag, from a free number on. -/
def State.freeTag (s : State) (n : Nat) : Option Nat :=
  ((List.range 4096).map (fun i => (n + i) % 4096)).find? (fun t => (s.jobOf t).isNone)

/-- A key that nothing else is reached by, from a free number on (R384). -/
def State.freeKey (s : State) (n : Nat) : Word :=
  (((List.range (s.jobs.length + 3)).map (fun i => BitVec.ofNat 32 (n + i))).find? (fun k =>
    k != s.cfgWord 18 && k != s.cfgWord 19 && s.jobs.all (fun J => !(J.live && J.key == k)))).getD 0#32

/-- The lowest queue numbers that belong to no job. -/
def State.freeQueues (s : State) : List Nat := (List.range 2048).filter (fun q => (s.queue? q).isNone)

/-- JOB_CREATE: the tag, the key and the frame of the die-table copy are firmware's choice; its queues have the lowest
free numbers (assumption 16). -/
def execJobCreate (port : Nat) (w0 : BitVec 32) (hd : ReqHead) (body : List (BitVec 8)) (s : State) : Out' :=
  service 1 0 port w0 hd body s fun s =>
    let q := bodyW body 6
    let wtab := bodyD body 2
    let free := s.freeQueues
    let (n, s1) := s.draw
    let (k, s1) := s1.draw
    let (f, s1) := s1.draw
    if body.length ≠ 48 ∨ bodyW body 7 ≠ 0 ∨ wtab % 32 ≠ 0 ∨ s.mix.gddr < wtab + 32 * 4096 ∨ free.length < q then (svBad, [], s)
    else
      match s.freeTag n with
      | none => (svNoSpace, [], s)
      | some t =>
        let frame := f % (s.mix.gddr / 16384) * 16384
        let key := s.freeKey k
        let j := s.jobs.length
        let J : Job :=
          { live := true, tag := t, root := bodyD body 0, wtab := wtab, qtab := bodyD body 4, qcount := q, saveb := bodyD body 8,
            savel := bodyD body 10, key := key, frame := frame, counter := 0#32, ending := none }
        let qs := (free.take q).zipIdx.map (fun p => { num := p.1, job := j, idx := p.2, taken := [], comps := [] : Queue })
        let s2 : State := { s1 with jobs := s1.jobs ++ [J], queues := s1.queues ++ qs }
        (0, leBytes 4 t ++ leBytes 4 key.toNat ++ leBytes 8 frame, s2.poke frame s2.dieTable)

/-- The end of a job: its tag is free once no cached translation of it is left, its allocations and queues are. -/
def State.endJob (s : State) (j : Nat) : State :=
  let s := s.tlbDrop (s.job j).tag 0 (2 ^ 64)
  { s with
    jobs := s.jobs.modify j (fun J => { J with live := false, ending := none })
    queues := s.queues.filter (fun x => x.job != j), colAllocs := s.colAllocs.filter (fun a => a.job != j)
    requests := s.requests.filter (fun r => r.job != j || r.body == .repair)
    cores := s.cores.map (fun c => { c with icache := c.icache.filter (fun l => l.tag != (s.job j).tag) }) }

/-- Everything of a job has ended, and its completions are written. -/
def State.jobOver (s : State) (j : Nat) : Bool :=
  !s.jobActive j && !s.inFlight j 0 (2 ^ 64) && s.queues.all (fun x => x.job != j || x.comps.isEmpty || s.qFull x)

/-- A request of a kind that is to be carried out. -/
def State.asked (s : State) (op sub port : Nat) (w0 : Word) (hd : ReqHead) (body : List Byte) : Bool :=
  s.up && decide (port < 2) && !s.owes port && (s.screen op sub port w0 hd body).isNone

/-- The job that a request of a port and a tag is to end. -/
def State.jobEnding (s : State) (port : Nat) (tag : Word) : Option Nat :=
  s.jobs.findIdx? (fun J => J.live && J.ending == some (port, tag))

/-- JOB_DESTROY: the job is cancelled, and the request is answered when that is done. With 2 added to the port, the event is that
answer, and no request (the model's own numbering; assumption 50). -/
def execJobDestroy (port : Nat) (w0 : BitVec 32) (hd : ReqHead) (body : List (BitVec 8)) (s : State) : Out' :=
  let refused := service 2 0 port w0 hd body s fun s => (if body.length ≠ 4 then svBad else svNotFound, [], s)
  if 2 ≤ port then
    match s.jobEnding (port - 2) hd.tag with
    | some j => if s.up && s.jobOver j then .next ((s.endJob j).serve (port - 2) 2#32 hd.tag 0 []) else idle s
    | none => idle s
  else
  match s.jobOf (bodyW body 0) with
  | none => refused
  | some j =>
    if s.asked 2 0 port w0 hd body && body.length == 4 && (s.job j).ending.isNone then
      .next ((s.cancelJob j none).modJob j (fun J => { J with ending := some (port, hd.tag) }))
    else refused

/-! ### The configuration block (R386) -/

/-- A word that CFG_WR may write, and its mask. -/
def cfgMask (n : Nat) : Option Word :=
  if n = 0 then some 0x1F#32
  else if n = 1 then some 1#32
  else if n = 2 then some 0xFFF#32
  else if n = 3 then some 0xF#32
  else if (4 ≤ n ∧ n ≤ 7) ∨ n = 22 ∨ (32 ≤ n ∧ n < 56) then some 0xFFFFFFFF#32
  else none

/-- A value is out of range for its word: PRIV above 12, a base or length that is not aligned. -/
def cfgBad (n : Nat) (v : Word) : Bool :=
  if 32 ≤ n ∧ n < 56 then (List.range 4).any (fun i => decide (12 < v.toNat / 2 ^ (8 * i) % 256))
  else if n = 4 then v.toNat % 64 != 0
  else if n = 6 ∨ n = 22 then v.toNat % 4096 != 0
  else (v &&& ~~~((cfgMask n).getD 0xFFFFFFFF#32)) != 0#32

def execCfgRd (port : Nat) (w0 : BitVec 32) (hd : ReqHead) (body : List (BitVec 8)) (s : State) : Out' :=
  service 3 0 port w0 hd body s fun s =>
    let a := bodyW body 0
    let n := bodyW body 1
    if body.length ≠ 8 ∨ n = 0 ∨ 1024 < n ∨ 1024 < a + n then (svBad, [], s)
    else (0, wordsBytes ((List.range n).map (fun i => s.cfgWord (a + i))), s)

/-- Cores whose PRIV a write changes: the core, the old and the new value. -/
def State.privChanges (s : State) (a : Nat) (ws : List Word) : List (Nat × Nat × Nat) :=
  (ws.zipIdx.flatMap (fun p =>
    if 32 ≤ a + p.2 ∧ a + p.2 < 56 then
      (List.range 4).map (fun i => (4 * (a + p.2 - 32) + i, s.priv (4 * (a + p.2 - 32) + i), p.1.toNat / 2 ^ (8 * i) % 256))
    else [])).filter (fun x => x.2.1 != x.2.2)

/-- The core holds an allocation, or a frame of the part of its column that would change kind is in use. -/
def State.privBusy (s : State) (x : Nat × Nat × Nat) : Bool :=
  s.colAllocs.any (fun al => al.core == x.1) ||
    s.frameUsed (colBase x.1 + min x.2.1 x.2.2 * unitSize) ((max x.2.1 x.2.2 - min x.2.1 x.2.2) * unitSize)

/-- The words after a write. -/
def State.cfgPut (s : State) (a : Nat) (ws : List Word) : State := ws.zipIdx.foldl (fun s p => s.cfgSet (a + p.2) p.1) s

/-- META_BASE and DSVCB are addresses of GDDR7. -/
def State.cfgBases (s : State) : Bool :=
  decide ((pairOf (s.cfgWord 4) (s.cfgWord 5)).toNat < s.mix.gddr) && decide ((pairOf (s.cfgWord 6) (s.cfgWord 7)).toNat < s.mix.gddr)

/-- CFG_WR. -/
def execCfgWr (port : Nat) (w0 : BitVec 32) (hd : ReqHead) (body : List (BitVec 8)) (s : State) : Out' :=
  service 3 1 port w0 hd body s fun s =>
    let a := bodyW body 0
    let n := bodyW body 1
    let ws := leWords n (body.drop 8)
    if body.length < 8 ∨ n = 0 ∨ 1024 < n ∨ 1024 < a + n ∨ body.length ≠ 8 + 4 * n then (svBad, [], s)
    else if (List.range n).any (fun i => (cfgMask (a + i)).isNone) then (svDenied, [], s)
    else if ws.zipIdx.any (fun p => cfgBad (a + p.2) p.1) || !(s.cfgPut a ws).cfgBases then (svBad, [], s)
    else if (s.privChanges a ws).any s.privBusy then (svBusy, [], s)
    else (0, [], s.cfgPut a ws)

/-! ### Debug windows -/

/-- Arguments of DBG_RD and DBG_WR: core, offset, length, and the status that refuses them. -/
def State.dbgArgs (s : State) (b : List Byte) : Nat × Nat × Nat × Nat :=
  let c := bodyW b 0
  let off := bodyW b 1
  let n := bodyW b 2
  (c, off, n, if n % 4 ≠ 0 ∨ 4096 < n ∨ off % 4 ≠ 0 ∨ 4096 < off + n then svBad else if s.corePresent c then 0 else svNotFound)

def execDbgRd (port : Nat) (w0 : BitVec 32) (hd : ReqHead) (body : List (BitVec 8)) (s : State) : Out' :=
  service 4 0 port w0 hd body s fun s =>
    let (c, off, n, st) := s.dbgArgs body
    if body.length ≠ 12 then (svBad, [], s)
    else (st, wordsBytes ((List.range (n / 4)).map (fun i => (s.core c).dbg.read (off + 4 * i))), s)

def execDbgWr (port : Nat) (w0 : BitVec 32) (hd : ReqHead) (body : List (BitVec 8)) (s : State) : Out' :=
  service 4 1 port w0 hd body s fun s =>
    let (c, off, n, st) := s.dbgArgs body
    if body.length < 12 ∨ body.length ≠ 12 + n then (svBad, [], s)
    else (st, [], (leWords (n / 4) (body.drop 12)).zipIdx.foldl (fun s p => s.debugWrite c (off + 4 * p.2) p.1) s)

/-! ### Power, errors, attestation -/

/-- The limit of the module (spec/00 R3, spec/14 R373). -/
def Mix.watts : Mix → Nat
  | .g1s4m2 => 1250
  | .g2s8m4 | .g0s8m4 => 2800

def execPowerLimit (port : Nat) (w0 : BitVec 32) (hd : ReqHead) (body : List (BitVec 8)) (s : State) : Out' :=
  service 5 0 port w0 hd body s fun s =>
    let w := bodyW body 0
    if body.length ≠ 4 ∨ w < 500 ∨ s.mix.watts < w then (svBad, [], s) else (0, leBytes 4 w, { s with powerLimit := w })

/-- A record of the error log (the manual gives no offsets: DESIGN CHOICE, assumption 29). -/
def ErrRec.image (e : ErrRec) : List Byte :=
  padTo 32 (leBytes 4 e.die ++ leBytes 4 e.unit ++ leBytes 8 e.addr ++ leBytes 8 e.time ++ leBytes 4 e.typ)

def execErrlog (port : Nat) (w0 : BitVec 32) (hd : ReqHead) (body : List (BitVec 8)) (s : State) : Out' :=
  service 6 0 port w0 hd body s fun s =>
    let d := bodyW body 0
    let n := bodyW body 1
    if body.length ≠ 8 ∨ n = 0 ∨ 1024 < n then (svBad, [], s)
    else if !s.diePresent d then (svNotFound, [], s)
    else
      let recs := (s.errRing.filter (fun e => e.die == d)).take n
      let rest := (s.errRing.filter (fun e => e.die == d)).drop n
      (0, leBytes 4 recs.length ++ leBytes 4 0 ++ recs.flatMap ErrRec.image,
        { s with errRing := s.errRing.filter (fun e => e.die != d) ++ rest })

/-- The darn record as bytes. -/
def State.darnBytes (s : State) : List Byte := s.darn.flatMap wordsBytes

def execAttest (port : Nat) (w0 : BitVec 32) (hd : ReqHead) (body : List (BitVec 8)) (s : State) : Out' :=
  service 7 0 port w0 hd body s fun s =>
    if body.length ≠ 64 then (svBad, [], s)
    else
      let r := body ++ sha3_512 s.fwImage ++ sha3_512 s.dieTable ++
        sha3_512 s.darnBytes ++ leBytes 8 s.now ++ List.replicate 56 0#8
      (0, r ++ (padTo sigBytes (Config.mldsaSign r)).take sigBytes, s)

/-! ### The darn record -/

def execDarnRd (port : Nat) (w0 : BitVec 32) (hd : ReqHead) (body : List (BitVec 8)) (s : State) : Out' :=
  service 8 0 port w0 hd body s fun s =>
    if body.length ≠ 0 then (svBad, [], s) else (0, padTo 16 (leBytes 4 s.darn.length) ++ s.darnBytes, s)

/-- Entries of four words. -/
def entriesOf (b : List Byte) : Nat → List (List Word)
  | 0 => []
  | n + 1 => leWords 4 (b.take 16) :: entriesOf (b.drop 16) n

/-- DARN_APPLY: the supplied record is applied, and the answer goes out once the replay is verified (COLUMN_READY). -/
def execDarnApply (port : Nat) (w0 : BitVec 32) (hd : ReqHead) (body : List (BitVec 8)) (s : State) : Out' :=
  let n := bodyW body 0
  if s.asked 8 1 port w0 hd body && decide (16 ≤ body.length) && body.length == 16 + 16 * n && decide (n ≤ 4096) &&
      ((body.drop 4).take 12).all (fun x => x == 0#8) && s.repairAsked then
    .next (State.replay { s with requests := s.requests.filter (fun r => r.body != .repair), darnReply := some (port, w0, hd.tag) }
      (entriesOf (body.drop 16) n))
  else
    service 8 1 port w0 hd body s fun s =>
      (if body.length < 16 ∨ body.length ≠ 16 + 16 * n ∨ 4096 < n ∨ ((body.drop 4).take 12).any (fun x => x != 0#8) then svBad
        else svBusy, [], s)

/-! ### Column allocations (spec/05 R154) -/

/-- The lowest free range of `n` units of the private area; R154 names none among several (DESIGN CHOICE, assumption 16). -/
def State.unitsFree (s : State) (core n : Nat) : Option Nat :=
  let used := (s.colAllocs.filter (fun a => a.core == core)).map (fun a => (a.base, a.units))
  (List.range 12).find? (fun b => rangeFree used b n (s.priv core))

/-- A number that no live allocation has. -/
def State.allocNumber (s : State) (n : Nat) : Nat :=
  (((List.range (s.colAllocs.length + 2)).map (fun i => (n + i) % 2 ^ 32)).find? (fun k =>
    k != 0xFFFFFFFF && s.colAllocs.all (fun a => a.num != k))).getD 0

def execColAlloc (port : Nat) (w0 : BitVec 32) (hd : ReqHead) (body : List (BitVec 8)) (s : State) : Out' :=
  service 9 0 port w0 hd body s fun s =>
    let c := bodyW body 1
    let n := bodyW body 2
    if body.length ≠ 12 ∨ n = 0 ∨ 12 < n then (svBad, [], s)
    else
      match s.jobOf (bodyW body 0) with
      | none => (svNotFound, [], s)
      | some j =>
        if !shading c || !s.corePresent c then (svNotFound, [], s)
        else
          match s.unitsFree c n with
          | none => (svNoSpace, [], s)
          | some b =>
            let (k, s1) := s.draw
            let num := s.allocNumber (k % 2 ^ 32)
            let lo := colBase c + b * unitSize
            let s1 := s1.drain lo (n * unitSize)
            let al : ColAlloc := { num := num, job := j, core := c, base := b, units := n }
            (0, leBytes 4 num, { s1 with
              mem := cellClear s1.mem lo (lo + n * unitSize), memP := unmark s1.memP lo (n * unitSize), colAllocs := s1.colAllocs ++ [al] })

/-- An allocation is in use: a launch that has not ended names it, or a group bound to it is saved. -/
def State.allocBusy (s : State) (a : ColAlloc) : Bool :=
  s.launches.any (fun L => !L.ended && L.csetNums.getD a.core 0xFFFFFFFF == a.num)

def execColFree (port : Nat) (w0 : BitVec 32) (hd : ReqHead) (body : List (BitVec 8)) (s : State) : Out' :=
  service 9 1 port w0 hd body s fun s =>
    if body.length ≠ 4 then (svBad, [], s)
    else
      match s.colAllocs.find? (fun a => a.num == bodyW body 0) with
      | none => (svNotFound, [], s)
      | some a => if s.allocBusy a then (svBusy, [], s) else (0, [], { s with colAllocs := s.colAllocs.filter (fun x => x.num != a.num) })

/-! ### RESET (R394) -/

def execResetService (port : Nat) (w0 : BitVec 32) (hd : ReqHead) (body : List (BitVec 8)) (s : State) : Out' :=
  service 10 0 port w0 hd body s fun s => if body.length ≠ 0 then (svBad, [], s) else (0, [], s.warmReset)

end Sys2Proof.Machine
end

