-- ==== Sys2Proof/Machine/Errors.lean ====
section
/-! DEFINITION. Errors of the links, and those that ECC finds in the memories of the device (spec/03 R78, spec/05 R146, spec/06 R180, spec/09 R254,
spec/16 R396). When and where they occur is the agenda's choice (assumption 3). -/

namespace Sys2Proof.Machine

/-- A word of a core's memory is poisoned: the event is logged. -/
def State.logPoison (s : State) (core kind addr : Nat) : State := s.errEvent (dieOf core) (unitNo kind core) addr 1

/-- A corrected error of a unit: it is logged, and firmware schedules a repair of the unit when it has had more than 1,024 of
them within a second (R396). -/
def State.correctedError (s : State) (die unit addr : Nat) : State :=
  let s := s.errEvent die unit addr 0
  let old := ((s.corrected.find? (fun x => x.1 == die && x.2.1 == unit)).map (fun x => x.2.2)).getD []
  let times := s.now :: old.filter (fun t => decide (s.now < t + 1000000000))
  { s with
    corrected := (die, unit, times) :: s.corrected.filter (fun x => !(x.1 == die && x.2.1 == unit))
    repairDue := if 1024 < times.length ∧ !s.repairDue.contains (die, unit) then s.repairDue ++ [(die, unit)] else s.repairDue }

/-- LINK_FLIT_ERROR: a flit that needed resending is a corrected error of its link; the eighth failure retrains the link; one
more delivers it poisoned: its word carries the mark (DEDUCED, assumption 29). -/
def execLinkFlitError (die unit addr failures : Nat) (s : State) : Out' :=
  if failures = 0 ∨ 2 ^ 16 ≤ unit ∨ !s.diePresent die then idle s
  else if failures < 8 then .next (s.correctedError die (unitNo kindLink unit) addr)
  else
    let s := s.errEvent die (unitNo kindLink unit) addr 2
    if failures = 8 then .next s else .next { (s.errEvent die (unitNo kindLink unit) addr 1) with memP := mark s.memP addr }

/-- An error that ECC finds: an uncorrectable one leaves its mark and is logged. -/
def State.upset (s : State) : Upset → State
  | .laneReg g w r lane =>
    match s.groups[g]?, s.wave? g w with
    | some G, some wv =>
      if decide (r < wv.v.length) && decide (lane < wv.width) then
        (s.modWave g w (fun wv => wv.vset r lane (wv.vget r lane) true)).logPoison G.core kindRegs r
      else s
    | _, _ => s
  | .uniReg g w r =>
    match s.groups[g]?, s.wave? g w with
    | some G, some wv =>
      if decide (0 < r) && decide (r < wv.s.length) then
        (s.modWave g w (fun wv => wv.sset r (wv.sget r) true)).logPoison G.core kindRegs r
      else s
    | _, _ => s
  | .clm core a => (s.modCore core (fun c => { c with clmP := mark c.clmP a })).logPoison core kindClm a
  | .scratch core a => (s.modCore core (fun c => { c with scrP := mark c.scrP a })).logPoison core kindHamper a
  | .phys a =>
    let s : State := { s with memP := mark s.memP a }
    match columnOf a with
    | some c => s.logPoison c kindColumn a
    | none => s.errEvent (s.homeDie a) (unitNo kindGddr (s.homeDie a)) a 1
  | .host peer a =>
    if (s.hostLine? peer (a / 128)).isNone then s
    else (s.hostMark peer a).errEvent (s.homeDie a) (unitNo kindLlc (s.homeDie a)) a 1
  | .copy core a =>
    if s.hcopies.any (fun h => h.core == core && h.line == a / 128) then
      State.logPoison { s with hcopies := s.hcopies.map (fun h =>
        if h.core = core ∧ h.line = a / 128 then { h with marks := mark h.marks a } else h) } core kindHamper a
    else s
  | .acm core row col =>
    if decide (row < 512) && decide (col < 128) then
      (s.modCore core (fun c =>
        let r := c.acmGet row
        c.acmSet { r with p := setFlag r.p col true })).logPoison core kindAcm row
    else s
  | .corrected die unit a => s.correctedError die unit a

end Sys2Proof.Machine
end

