-- ==== Sys2Proof/Machine/LocalMem.lean ====
section
/-! DEFINITION. Lane and uniform group 8: local memory (spec/05 R159 to R163). -/

namespace Sys2Proof.Machine

/-- Loads count in class 1, stores in class 2 (R159). -/
def locLoad (n : Nat) (sext : Bool) : MemSpec :=
  { glob := false, op := .load n sext, size := n, reads := 0, writes := (n + 3) / 4, cls := 1, kind := 0 }
def locStore (n : Nat) : MemSpec :=
  { glob := false, op := .store n, size := n, reads := (n + 3) / 4, writes := 0, cls := 2, kind := 1 }
/-- Atomics by function; `cas` reads its compare value from D + 1 (R162). -/
def locAtomic (f : Nat) : MemSpec :=
  { glob := false, op := .atomic f, size := 4, reads := if f = 19 then 2 else 1, writes := 1, cls := 1, kind := 2 }
def locElement : MemSpec :=
  { glob := false, op := .estore, size := 4, reads := 2, writes := 0, cls := 2, kind := 1 }

def execLdlN8 (u : Bool) (d a : BitVec 7) (o : BitVec 3) (n : BitVec 4) (s : State) : Out' :=
  memIssue (locLoad 1 false) u [ordBelow 2 o] false d a o n s
def execLdlI8 (u : Bool) (d a : BitVec 7) (o : BitVec 3) (n : BitVec 4) (s : State) : Out' :=
  memIssue (locLoad 1 true) u [ordBelow 2 o] false d a o n s
def execLdlN16 (u : Bool) (d a : BitVec 7) (o : BitVec 3) (n : BitVec 4) (s : State) : Out' :=
  memIssue (locLoad 2 false) u [ordBelow 2 o] false d a o n s
def execLdlI16 (u : Bool) (d a : BitVec 7) (o : BitVec 3) (n : BitVec 4) (s : State) : Out' :=
  memIssue (locLoad 2 true) u [ordBelow 2 o] false d a o n s
def execLdl32 (u : Bool) (d a : BitVec 7) (o : BitVec 3) (n : BitVec 4) (s : State) : Out' :=
  memIssue (locLoad 4 false) u [ordBelow 2 o] false d a o n s
def execLdl64 (u : Bool) (d a : BitVec 7) (o : BitVec 3) (n : BitVec 4) (s : State) : Out' :=
  memIssue (locLoad 8 false) u [multipleOf 2 d, ordBelow 2 o] false d a o n s
def execLdl128 (u : Bool) (d a : BitVec 7) (o : BitVec 3) (n : BitVec 4) (s : State) : Out' :=
  memIssue (locLoad 16 false) u [multipleOf 4 d, ordBelow 2 o] false d a o n s
def execStl8 (u : Bool) (d a : BitVec 7) (o : BitVec 3) (n : BitVec 4) (s : State) : Out' :=
  memIssue (locStore 1) u [ordBelow 2 o] false d a o n s
def execStl16 (u : Bool) (d a : BitVec 7) (o : BitVec 3) (n : BitVec 4) (s : State) : Out' :=
  memIssue (locStore 2) u [ordBelow 2 o] false d a o n s
def execStl32 (u : Bool) (d a : BitVec 7) (o : BitVec 3) (n : BitVec 4) (s : State) : Out' :=
  memIssue (locStore 4) u [ordBelow 2 o] false d a o n s
def execStl64 (u : Bool) (d a : BitVec 7) (o : BitVec 3) (n : BitVec 4) (s : State) : Out' :=
  memIssue (locStore 8) u [multipleOf 2 d, ordBelow 2 o] false d a o n s
def execStl128 (u : Bool) (d a : BitVec 7) (o : BitVec 3) (n : BitVec 4) (s : State) : Out' :=
  memIssue (locStore 16) u [multipleOf 4 d, ordBelow 2 o] false d a o n s
def execAtlAdd (u : Bool) (d a : BitVec 7) (o : BitVec 3) (n : BitVec 4) (s : State) : Out' :=
  memIssue (locAtomic 12) u [ordBelow 2 o] false d a o n s
def execAtlMinI (u : Bool) (d a : BitVec 7) (o : BitVec 3) (n : BitVec 4) (s : State) : Out' :=
  memIssue (locAtomic 13) u [ordBelow 2 o] false d a o n s
def execAtlMaxI (u : Bool) (d a : BitVec 7) (o : BitVec 3) (n : BitVec 4) (s : State) : Out' :=
  memIssue (locAtomic 14) u [ordBelow 2 o] false d a o n s
def execAtlAnd (u : Bool) (d a : BitVec 7) (o : BitVec 3) (n : BitVec 4) (s : State) : Out' :=
  memIssue (locAtomic 15) u [ordBelow 2 o] false d a o n s
def execAtlOr (u : Bool) (d a : BitVec 7) (o : BitVec 3) (n : BitVec 4) (s : State) : Out' :=
  memIssue (locAtomic 16) u [ordBelow 2 o] false d a o n s
def execAtlXor (u : Bool) (d a : BitVec 7) (o : BitVec 3) (n : BitVec 4) (s : State) : Out' :=
  memIssue (locAtomic 17) u [ordBelow 2 o] false d a o n s
def execAtlXchg (u : Bool) (d a : BitVec 7) (o : BitVec 3) (n : BitVec 4) (s : State) : Out' :=
  memIssue (locAtomic 18) u [ordBelow 2 o] false d a o n s
def execAtlCas (u : Bool) (d a : BitVec 7) (o : BitVec 3) (n : BitVec 4) (s : State) : Out' :=
  memIssue (locAtomic 19) u [multipleOf 2 d, ordBelow 2 o] false d a o n s
def execStlE4 (d a : BitVec 7) (o : BitVec 3) (n : BitVec 4) (s : State) : Out' :=
  memIssue locElement false [multipleOf 2 d, ordBelow 2 o] true d a o n s
def execStlE6 (d a : BitVec 7) (o : BitVec 3) (n : BitVec 4) (s : State) : Out' :=
  memIssue locElement false [multipleOf 2 d, ordBelow 2 o] false d a o n s

end Sys2Proof.Machine
end

