-- ==== Sys2Proof/Machine/Dispatch.lean ====
section
/-! DEFINITION. The one dispatcher: every constructor of `Instr` calls its meaning. -/

namespace Sys2Proof.Machine

def exec (i : Instr) (s : State) : Host.Outcome State Fault Refusal :=
  match i with
  | .powerOn => Sys2Proof.Machine.execPowerOn s
  | .bootReq => Sys2Proof.Machine.execBootReq s
  | .bootOffer host len store => Sys2Proof.Machine.execBootOffer host len store s
  | .bootData host offset bytes => Sys2Proof.Machine.execBootData host offset bytes s
  | .bootTransferTimeout => Sys2Proof.Machine.execBootTransferTimeout s
  | .watchdogExpiry => Sys2Proof.Machine.execWatchdogExpiry s
  | .columnReady core => Sys2Proof.Machine.execColumnReady core s
  | .backgroundTest core vault failed => Sys2Proof.Machine.execBackgroundTest core vault failed s
  | .linkFlitError die unit addr failures => Sys2Proof.Machine.execLinkFlitError die unit addr failures s
  | .ptpMessage port offset err rate locked => Sys2Proof.Machine.execPtpMessage port offset err rate locked s
  | .clockTargetUpdate region mhz => Sys2Proof.Machine.execClockTargetUpdate region mhz s
  | .powerMeasure watts => Sys2Proof.Machine.execPowerMeasure watts s
  | .tempSample core milliC => Sys2Proof.Machine.execTempSample core milliC s
  | .refreshClassFall core => Sys2Proof.Machine.execRefreshClassFall core s
  | .refreshBurst core vault => Sys2Proof.Machine.execRefreshBurst core vault s
  | .refreshCharge core => Sys2Proof.Machine.execRefreshCharge core s
  | .doorbellTail q tail => Sys2Proof.Machine.execDoorbellTail q tail s
  | .doorbellChead q chead => Sys2Proof.Machine.execDoorbellChead q chead s
  | .launchEntry q => Sys2Proof.Machine.execLaunchEntry q s
  | .graphEntry q => Sys2Proof.Machine.execGraphEntry q s
  | .graphNodeStart graph node => Sys2Proof.Machine.execGraphNodeStart graph node s
  | .waitEntry q => Sys2Proof.Machine.execWaitEntry q s
  | .waitReread q => Sys2Proof.Machine.execWaitReread q s
  | .waitTimeout q => Sys2Proof.Machine.execWaitTimeout q s
  | .cancelEntry q => Sys2Proof.Machine.execCancelEntry q s
  | .frameEntry q => Sys2Proof.Machine.execFrameEntry q s
  | .invalEntry q => Sys2Proof.Machine.execInvalEntry q s
  | .resumeEntry q => Sys2Proof.Machine.execResumeEntry q s
  | .completionWrite q pick => Sys2Proof.Machine.execCompletionWrite q pick s
  | .groupPlacement launch gidx core slot part clmb acmb nbb => Sys2Proof.Machine.execGroupPlacement launch gidx core slot part clmb acmb nbb s
  | .bindRecordWrite core slot words => Sys2Proof.Machine.execBindRecordWrite core slot words s
  | .waveRetire g w => Sys2Proof.Machine.execWaveRetire g w s
  | .groupSave g => Sys2Proof.Machine.execGroupSave g s
  | .groupRestore g core slot part clmb acmb nbb => Sys2Proof.Machine.execGroupRestore g core slot part clmb acmb nbb s
  | .bundleFetch g w sp => Sys2Proof.Machine.execBundleFetch g w sp s
  | .starvationPromote g w => Sys2Proof.Machine.execStarvationPromote g w s
  | .loadDataReturn g w p lane => Sys2Proof.Machine.execLoadDataReturn g w p lane s
  | .storeComplete g w p lane merge => Sys2Proof.Machine.execStoreComplete g w p lane merge s
  | .reductionApply idx => Sys2Proof.Machine.execReductionApply idx s
  | .faultServiceRequest g w => Sys2Proof.Machine.execFaultServiceRequest g w s
  | .faultServiceDone req done leaves => Sys2Proof.Machine.execFaultServiceDone req done leaves s
  | .sleepWake g w sp => Sys2Proof.Machine.execSleepWake g w sp s
  | .specialFunctionComplete g w p => Sys2Proof.Machine.execSpecialFunctionComplete g w p s
  | .barrReleasePerformed g nb idx => Sys2Proof.Machine.execBarrReleasePerformed g nb idx s
  | .phaseTreeComplete ctx => Sys2Proof.Machine.execPhaseTreeComplete ctx s
  | .copyCommandRun core q count => Sys2Proof.Machine.execCopyCommandRun core q count s
  | .copyFaultResume core q => Sys2Proof.Machine.execCopyFaultResume core q s
  | .copyCommandComplete core q => Sys2Proof.Machine.execCopyCommandComplete core q s
  | .qfenceComplete core q => Sys2Proof.Machine.execQfenceComplete core q s
  | .hpartComplete core => Sys2Proof.Machine.execHpartComplete core s
  | .cacheMaintComplete core => Sys2Proof.Machine.execCacheMaintComplete core s
  | .mangleReply g w p => Sys2Proof.Machine.execMangleReply g w p s
  | .mloadwStart core => Sys2Proof.Machine.execMloadwStart core s
  | .mloadwComplete core => Sys2Proof.Machine.execMloadwComplete core s
  | .mswapPerform core => Sys2Proof.Machine.execMswapPerform core s
  | .mstreamStart core => Sys2Proof.Machine.execMstreamStart core s
  | .mstreamComplete core => Sys2Proof.Machine.execMstreamComplete core s
  | .mdrainRun core => Sys2Proof.Machine.execMdrainRun core s
  | .mzeroRun core => Sys2Proof.Machine.execMzeroRun core s
  | .chainStep core => Sys2Proof.Machine.execChainStep core s
  | .gatherWindowExpiry core idx => Sys2Proof.Machine.execGatherWindowExpiry core idx s
  | .gatherTileForm core => Sys2Proof.Machine.execGatherTileForm core s
  | .gatherFetchComplete core => Sys2Proof.Machine.execGatherFetchComplete core s
  | .gatherScatter core row => Sys2Proof.Machine.execGatherScatter core row s
  | .rayTraversalStop core slot => Sys2Proof.Machine.execRayTraversalStop core slot s
  | .textureFetchComplete g w p lane => Sys2Proof.Machine.execTextureFetchComplete g w p lane s
  | .refitNodeProcess die node => Sys2Proof.Machine.execRefitNodeProcess die node s
  | .refitComplete die => Sys2Proof.Machine.execRefitComplete die s
  | .emitvpComplete gdie => Sys2Proof.Machine.execEmitvpComplete gdie s
  | .vcloseComplete gdie => Sys2Proof.Machine.execVcloseComplete gdie s
  | .packetArrival gdie sdie => Sys2Proof.Machine.execPacketArrival gdie sdie s
  | .tokenArrival gdie sdie => Sys2Proof.Machine.execTokenArrival gdie sdie s
  | .rasterise stream sdie => Sys2Proof.Machine.execRasterise stream sdie s
  | .reprojectionComplete stream sdie => Sys2Proof.Machine.execReprojectionComplete stream sdie s
  | .frameEnd stream => Sys2Proof.Machine.execFrameEnd stream s
  | .pcSample core => Sys2Proof.Machine.execPcSample core s
  | .breakBitStop g w sp => Sys2Proof.Machine.execBreakBitStop g w sp s
  | .watchpointStop g w sp => Sys2Proof.Machine.execWatchpointStop g w sp s
  | .dctlOwn core own allStop => Sys2Proof.Machine.execDctlOwn core own allStop s
  | .dctlHalt core mask => Sys2Proof.Machine.execDctlHalt core mask s
  | .dctlResume core mask => Sys2Proof.Machine.execDctlResume core mask s
  | .dctlIcinv core => Sys2Proof.Machine.execDctlIcinv core s
  | .dctlDump core mask => Sys2Proof.Machine.execDctlDump core mask s
  | .spop core v => Sys2Proof.Machine.execSpop core v s
  | .debugRegWrite core off v => Sys2Proof.Machine.execDebugRegWrite core off v s
  | .hostRdmaAccess port key va len wr => Sys2Proof.Machine.execHostRdmaAccess port key va len wr s
  | .jobCreate port w0 hd body => Sys2Proof.Machine.execJobCreate port w0 hd body s
  | .jobDestroy port w0 hd body => Sys2Proof.Machine.execJobDestroy port w0 hd body s
  | .cfgRd port w0 hd body => Sys2Proof.Machine.execCfgRd port w0 hd body s
  | .cfgWr port w0 hd body => Sys2Proof.Machine.execCfgWr port w0 hd body s
  | .dbgRd port w0 hd body => Sys2Proof.Machine.execDbgRd port w0 hd body s
  | .dbgWr port w0 hd body => Sys2Proof.Machine.execDbgWr port w0 hd body s
  | .powerLimit port w0 hd body => Sys2Proof.Machine.execPowerLimit port w0 hd body s
  | .errlog port w0 hd body => Sys2Proof.Machine.execErrlog port w0 hd body s
  | .attest port w0 hd body => Sys2Proof.Machine.execAttest port w0 hd body s
  | .darnRd port w0 hd body => Sys2Proof.Machine.execDarnRd port w0 hd body s
  | .darnApply port w0 hd body => Sys2Proof.Machine.execDarnApply port w0 hd body s
  | .colAlloc port w0 hd body => Sys2Proof.Machine.execColAlloc port w0 hd body s
  | .colFree port w0 hd body => Sys2Proof.Machine.execColFree port w0 hd body s
  | .resetService port w0 hd body => Sys2Proof.Machine.execResetService port w0 hd body s
  | .nop => Sys2Proof.Machine.execNop s
  | .iadd u d a b => Sys2Proof.Machine.execIadd u d a b s
  | .isub u d a b => Sys2Proof.Machine.execIsub u d a b s
  | .imul u d a b => Sys2Proof.Machine.execImul u d a b s
  | .imulhI u d a b => Sys2Proof.Machine.execImulhI u d a b s
  | .imulhN u d a b => Sys2Proof.Machine.execImulhN u d a b s
  | .imad u d a b => Sys2Proof.Machine.execImad u d a b s
  | .iand u d a b => Sys2Proof.Machine.execIand u d a b s
  | .ior u d a b => Sys2Proof.Machine.execIor u d a b s
  | .ixor u d a b => Sys2Proof.Machine.execIxor u d a b s
  | .iandn u d a b => Sys2Proof.Machine.execIandn u d a b s
  | .shl u d a b => Sys2Proof.Machine.execShl u d a b s
  | .shr u d a b => Sys2Proof.Machine.execShr u d a b s
  | .sar u d a b => Sys2Proof.Machine.execSar u d a b s
  | .iminI u d a b => Sys2Proof.Machine.execIminI u d a b s
  | .iminN u d a b => Sys2Proof.Machine.execIminN u d a b s
  | .imaxI u d a b => Sys2Proof.Machine.execImaxI u d a b s
  | .imaxN u d a b => Sys2Proof.Machine.execImaxN u d a b s
  | .iabs u d a => Sys2Proof.Machine.execIabs u d a s
  | .clz u d a => Sys2Proof.Machine.execClz u d a s
  | .popc u d a => Sys2Proof.Machine.execPopc u d a s
  | .brev u d a => Sys2Proof.Machine.execBrev u d a s
  | .bfxI u d a b => Sys2Proof.Machine.execBfxI u d a b s
  | .bfxN u d a b => Sys2Proof.Machine.execBfxN u d a b s
  | .bfi u d a b => Sys2Proof.Machine.execBfi u d a b s
  | .sel u n d a b => Sys2Proof.Machine.execSel u n d a b s
  | .iaddI u d a im => Sys2Proof.Machine.execIaddI u d a im s
  | .isubI u d a im => Sys2Proof.Machine.execIsubI u d a im s
  | .imulI u d a im => Sys2Proof.Machine.execImulI u d a im s
  | .imulhII u d a im => Sys2Proof.Machine.execImulhII u d a im s
  | .imulhNI u d a im => Sys2Proof.Machine.execImulhNI u d a im s
  | .imadI u d a im => Sys2Proof.Machine.execImadI u d a im s
  | .iandI u d a im => Sys2Proof.Machine.execIandI u d a im s
  | .iorI u d a im => Sys2Proof.Machine.execIorI u d a im s
  | .ixorI u d a im => Sys2Proof.Machine.execIxorI u d a im s
  | .iandnI u d a im => Sys2Proof.Machine.execIandnI u d a im s
  | .shlI u d a im => Sys2Proof.Machine.execShlI u d a im s
  | .shrI u d a im => Sys2Proof.Machine.execShrI u d a im s
  | .sarI u d a im => Sys2Proof.Machine.execSarI u d a im s
  | .iminII u d a im => Sys2Proof.Machine.execIminII u d a im s
  | .iminNI u d a im => Sys2Proof.Machine.execIminNI u d a im s
  | .imaxII u d a im => Sys2Proof.Machine.execImaxII u d a im s
  | .imaxNI u d a im => Sys2Proof.Machine.execImaxNI u d a im s
  | .bfxII u d a im => Sys2Proof.Machine.execBfxII u d a im s
  | .bfxNI u d a im => Sys2Proof.Machine.execBfxNI u d a im s
  | .bfiI u d a im => Sys2Proof.Machine.execBfiI u d a im s
  | .mov u d b => Sys2Proof.Machine.execMov u d b s
  | .movi u d im => Sys2Proof.Machine.execMovi u d im s
  | .iadd64 u d a b => Sys2Proof.Machine.execIadd64 u d a b s
  | .isub64 u d a b => Sys2Proof.Machine.execIsub64 u d a b s
  | .imulwI u d a b => Sys2Proof.Machine.execImulwI u d a b s
  | .imulwN u d a b => Sys2Proof.Machine.execImulwN u d a b s
  | .movls d a => Sys2Proof.Machine.execMovls d a s
  | .paddH2 d a b => Sys2Proof.Machine.execPaddH2 d a b s
  | .paddsH2 d a b => Sys2Proof.Machine.execPaddsH2 d a b s
  | .psubH2 d a b => Sys2Proof.Machine.execPsubH2 d a b s
  | .psubsH2 d a b => Sys2Proof.Machine.execPsubsH2 d a b s
  | .paddB4 d a b => Sys2Proof.Machine.execPaddB4 d a b s
  | .paddsB4 d a b => Sys2Proof.Machine.execPaddsB4 d a b s
  | .psubsB4 d a b => Sys2Proof.Machine.execPsubsB4 d a b s
  | .pmaddH2 d a b => Sys2Proof.Machine.execPmaddH2 d a b s
  | .pmaddB4 d a b => Sys2Proof.Machine.execPmaddB4 d a b s
  | .iadds d a b => Sys2Proof.Machine.execIadds d a b s
  | .isubs d a b => Sys2Proof.Machine.execIsubs d a b s
  | .shrr d a b => Sys2Proof.Machine.execShrr d a b s
  | .shrrsH2 d a b => Sys2Proof.Machine.execShrrsH2 d a b s
  | .packH2 d a b => Sys2Proof.Machine.execPackH2 d a b s
  | .packsH2 d a b => Sys2Proof.Machine.execPacksH2 d a b s
  | .pminH2 d a b => Sys2Proof.Machine.execPminH2 d a b s
  | .pmaxH2 d a b => Sys2Proof.Machine.execPmaxH2 d a b s
  | .paddH2I d a im => Sys2Proof.Machine.execPaddH2I d a im s
  | .paddsH2I d a im => Sys2Proof.Machine.execPaddsH2I d a im s
  | .psubH2I d a im => Sys2Proof.Machine.execPsubH2I d a im s
  | .psubsH2I d a im => Sys2Proof.Machine.execPsubsH2I d a im s
  | .paddB4I d a im => Sys2Proof.Machine.execPaddB4I d a im s
  | .paddsB4I d a im => Sys2Proof.Machine.execPaddsB4I d a im s
  | .psubsB4I d a im => Sys2Proof.Machine.execPsubsB4I d a im s
  | .pmaddH2I d a im => Sys2Proof.Machine.execPmaddH2I d a im s
  | .pmaddB4I d a im => Sys2Proof.Machine.execPmaddB4I d a im s
  | .iaddsI d a im => Sys2Proof.Machine.execIaddsI d a im s
  | .isubsI d a im => Sys2Proof.Machine.execIsubsI d a im s
  | .shrrI d a im => Sys2Proof.Machine.execShrrI d a im s
  | .shrrsH2I d a im => Sys2Proof.Machine.execShrrsH2I d a im s
  | .packH2I d a im => Sys2Proof.Machine.execPackH2I d a im s
  | .packsH2I d a im => Sys2Proof.Machine.execPacksH2I d a im s
  | .pminH2I d a im => Sys2Proof.Machine.execPminH2I d a im s
  | .pmaxH2I d a im => Sys2Proof.Machine.execPmaxH2I d a im s
  | .fadd u d a b => Sys2Proof.Machine.execFadd u d a b s
  | .fsub u d a b => Sys2Proof.Machine.execFsub u d a b s
  | .fmul u d a b => Sys2Proof.Machine.execFmul u d a b s
  | .ffma u d a b => Sys2Proof.Machine.execFfma u d a b s
  | .fmin u d a b => Sys2Proof.Machine.execFmin u d a b s
  | .fmax u d a b => Sys2Proof.Machine.execFmax u d a b s
  | .fabs u d a => Sys2Proof.Machine.execFabs u d a s
  | .fneg u d a => Sys2Proof.Machine.execFneg u d a s
  | .hadd2 d a b => Sys2Proof.Machine.execHadd2 d a b s
  | .hmul2 d a b => Sys2Proof.Machine.execHmul2 d a b s
  | .hfma2 d a b => Sys2Proof.Machine.execHfma2 d a b s
  | .bfma2 d a b => Sys2Proof.Machine.execBfma2 d a b s
  | .frnd d a r => Sys2Proof.Machine.execFrnd d a r s
  | .fclass d a => Sys2Proof.Machine.execFclass d a s
  | .dadd u d a b => Sys2Proof.Machine.execDadd u d a b s
  | .dsub u d a b => Sys2Proof.Machine.execDsub u d a b s
  | .dmul u d a b => Sys2Proof.Machine.execDmul u d a b s
  | .dfma u d a b => Sys2Proof.Machine.execDfma u d a b s
  | .dmin u d a b => Sys2Proof.Machine.execDmin u d a b s
  | .dmax u d a b => Sys2Proof.Machine.execDmax u d a b s
  | .dabs u d a => Sys2Proof.Machine.execDabs u d a s
  | .dneg u d a => Sys2Proof.Machine.execDneg u d a s
  | .drnd d a r => Sys2Proof.Machine.execDrnd d a r s
  | .dclass d a => Sys2Proof.Machine.execDclass d a s
  | .icmpIEq u d a b => Sys2Proof.Machine.execIcmpIEq u d a b s
  | .icmpINe u d a b => Sys2Proof.Machine.execIcmpINe u d a b s
  | .icmpILt u d a b => Sys2Proof.Machine.execIcmpILt u d a b s
  | .icmpILe u d a b => Sys2Proof.Machine.execIcmpILe u d a b s
  | .icmpIGt u d a b => Sys2Proof.Machine.execIcmpIGt u d a b s
  | .icmpIGe u d a b => Sys2Proof.Machine.execIcmpIGe u d a b s
  | .icmpNLt u d a b => Sys2Proof.Machine.execIcmpNLt u d a b s
  | .icmpNLe u d a b => Sys2Proof.Machine.execIcmpNLe u d a b s
  | .icmpNGt u d a b => Sys2Proof.Machine.execIcmpNGt u d a b s
  | .icmpNGe u d a b => Sys2Proof.Machine.execIcmpNGe u d a b s
  | .fcmpEq u d a b => Sys2Proof.Machine.execFcmpEq u d a b s
  | .fcmpNe u d a b => Sys2Proof.Machine.execFcmpNe u d a b s
  | .fcmpLt u d a b => Sys2Proof.Machine.execFcmpLt u d a b s
  | .fcmpLe u d a b => Sys2Proof.Machine.execFcmpLe u d a b s
  | .fcmpGt u d a b => Sys2Proof.Machine.execFcmpGt u d a b s
  | .fcmpGe u d a b => Sys2Proof.Machine.execFcmpGe u d a b s
  | .fcmpUn u d a b => Sys2Proof.Machine.execFcmpUn u d a b s
  | .fcmpOrd u d a b => Sys2Proof.Machine.execFcmpOrd u d a b s
  | .dcmpEq u d a b => Sys2Proof.Machine.execDcmpEq u d a b s
  | .dcmpNe u d a b => Sys2Proof.Machine.execDcmpNe u d a b s
  | .dcmpLt u d a b => Sys2Proof.Machine.execDcmpLt u d a b s
  | .dcmpLe u d a b => Sys2Proof.Machine.execDcmpLe u d a b s
  | .dcmpGt u d a b => Sys2Proof.Machine.execDcmpGt u d a b s
  | .dcmpGe u d a b => Sys2Proof.Machine.execDcmpGe u d a b s
  | .dcmpUn u d a b => Sys2Proof.Machine.execDcmpUn u d a b s
  | .dcmpOrd u d a b => Sys2Proof.Machine.execDcmpOrd u d a b s
  | .kand d a b => Sys2Proof.Machine.execKand d a b s
  | .kor d a b => Sys2Proof.Machine.execKor d a b s
  | .kxor d a b => Sys2Proof.Machine.execKxor d a b s
  | .kandn d a b => Sys2Proof.Machine.execKandn d a b s
  | .knot d a => Sys2Proof.Machine.execKnot d a s
  | .kmov d a => Sys2Proof.Machine.execKmov d a s
  | .ktov d a => Sys2Proof.Machine.execKtov d a s
  | .vtok d a => Sys2Proof.Machine.execVtok d a s
  | .cand d a b => Sys2Proof.Machine.execCand d a b s
  | .cor d a b => Sys2Proof.Machine.execCor d a b s
  | .cxor d a b => Sys2Proof.Machine.execCxor d a b s
  | .candn d a b => Sys2Proof.Machine.execCandn d a b s
  | .cnot d a => Sys2Proof.Machine.execCnot d a s
  | .cmov d a => Sys2Proof.Machine.execCmov d a s
  | .f2iI d a r => Sys2Proof.Machine.execF2iI d a r s
  | .f2iN d a r => Sys2Proof.Machine.execF2iN d a r s
  | .i2fI d a => Sys2Proof.Machine.execI2fI d a s
  | .i2fN d a => Sys2Proof.Machine.execI2fN d a s
  | .f2d d a => Sys2Proof.Machine.execF2d d a s
  | .d2f d a => Sys2Proof.Machine.execD2f d a s
  | .d2iI d a r => Sys2Proof.Machine.execD2iI d a r s
  | .i2dI d a => Sys2Proof.Machine.execI2dI d a s
  | .f2h2 d a b => Sys2Proof.Machine.execF2h2 d a b s
  | .h2fLo d a => Sys2Proof.Machine.execH2fLo d a s
  | .h2fHi d a => Sys2Proof.Machine.execH2fHi d a s
  | .f2bf2 d a b => Sys2Proof.Machine.execF2bf2 d a b s
  | .bf2fLo d a => Sys2Proof.Machine.execBf2fLo d a s
  | .bf2fHi d a => Sys2Proof.Machine.execBf2fHi d a s
  | .cvtn n d a => Sys2Proof.Machine.execCvtn n d a s
  | .cvtw n d a => Sys2Proof.Machine.execCvtw n d a s
  | .movs d a => Sys2Proof.Machine.execMovs d a s
  | .movsw a b => Sys2Proof.Machine.execMovsw a b s
  | .rdlane d a b => Sys2Proof.Machine.execRdlane d a b s
  | .wrlane d a b => Sys2Proof.Machine.execWrlane d a b s
  | .ktos d a h => Sys2Proof.Machine.execKtos d a h s
  | .stok d a h => Sys2Proof.Machine.execStok d a h s
  | .shfl d a b => Sys2Proof.Machine.execShfl d a b s
  | .shflx d a b => Sys2Proof.Machine.execShflx d a b s
  | .slideup d a b => Sys2Proof.Machine.execSlideup d a b s
  | .slidedn d a b => Sys2Proof.Machine.execSlidedn d a b s
  | .slideuph d a b => Sys2Proof.Machine.execSlideuph d a b s
  | .slidednh d a b => Sys2Proof.Machine.execSlidednh d a b s
  | .bcast d a b => Sys2Proof.Machine.execBcast d a b s
  | .vcompress d a b => Sys2Proof.Machine.execVcompress d a b s
  | .vcompressZ d a b => Sys2Proof.Machine.execVcompressZ d a b s
  | .vexpand d a b => Sys2Proof.Machine.execVexpand d a b s
  | .voteany d a => Sys2Proof.Machine.execVoteany d a s
  | .voteall d a => Sys2Proof.Machine.execVoteall d a s
  | .ballot d a => Sys2Proof.Machine.execBallot d a s
  | .rcp d a => Sys2Proof.Machine.execRcp d a s
  | .rsq d a => Sys2Proof.Machine.execRsq d a s
  | .sqrt d a => Sys2Proof.Machine.execSqrt d a s
  | .log2 d a => Sys2Proof.Machine.execLog2 d a s
  | .exp2 d a => Sys2Proof.Machine.execExp2 d a s
  | .sin d a => Sys2Proof.Machine.execSin d a s
  | .cos d a => Sys2Proof.Machine.execCos d a s
  | .tanh d a => Sys2Proof.Machine.execTanh d a s
  | .drcp d a => Sys2Proof.Machine.execDrcp d a s
  | .dsqrt d a => Sys2Proof.Machine.execDsqrt d a s
  | .ldlN8 u d a o n => Sys2Proof.Machine.execLdlN8 u d a o n s
  | .ldlI8 u d a o n => Sys2Proof.Machine.execLdlI8 u d a o n s
  | .ldlN16 u d a o n => Sys2Proof.Machine.execLdlN16 u d a o n s
  | .ldlI16 u d a o n => Sys2Proof.Machine.execLdlI16 u d a o n s
  | .ldl32 u d a o n => Sys2Proof.Machine.execLdl32 u d a o n s
  | .ldl64 u d a o n => Sys2Proof.Machine.execLdl64 u d a o n s
  | .ldl128 u d a o n => Sys2Proof.Machine.execLdl128 u d a o n s
  | .stl8 u d a o n => Sys2Proof.Machine.execStl8 u d a o n s
  | .stl16 u d a o n => Sys2Proof.Machine.execStl16 u d a o n s
  | .stl32 u d a o n => Sys2Proof.Machine.execStl32 u d a o n s
  | .stl64 u d a o n => Sys2Proof.Machine.execStl64 u d a o n s
  | .stl128 u d a o n => Sys2Proof.Machine.execStl128 u d a o n s
  | .atlAdd u d a o n => Sys2Proof.Machine.execAtlAdd u d a o n s
  | .atlMinI u d a o n => Sys2Proof.Machine.execAtlMinI u d a o n s
  | .atlMaxI u d a o n => Sys2Proof.Machine.execAtlMaxI u d a o n s
  | .atlAnd u d a o n => Sys2Proof.Machine.execAtlAnd u d a o n s
  | .atlOr u d a o n => Sys2Proof.Machine.execAtlOr u d a o n s
  | .atlXor u d a o n => Sys2Proof.Machine.execAtlXor u d a o n s
  | .atlXchg u d a o n => Sys2Proof.Machine.execAtlXchg u d a o n s
  | .atlCas u d a o n => Sys2Proof.Machine.execAtlCas u d a o n s
  | .stlE4 d a o n => Sys2Proof.Machine.execStlE4 d a o n s
  | .stlE6 d a o n => Sys2Proof.Machine.execStlE6 d a o n s
  | .ldgN8 u d a o n => Sys2Proof.Machine.execLdgN8 u d a o n s
  | .ldgI8 u d a o n => Sys2Proof.Machine.execLdgI8 u d a o n s
  | .ldgN16 u d a o n => Sys2Proof.Machine.execLdgN16 u d a o n s
  | .ldgI16 u d a o n => Sys2Proof.Machine.execLdgI16 u d a o n s
  | .ldg32 u d a o n => Sys2Proof.Machine.execLdg32 u d a o n s
  | .ldg64 u d a o n => Sys2Proof.Machine.execLdg64 u d a o n s
  | .ldg128 u d a o n => Sys2Proof.Machine.execLdg128 u d a o n s
  | .stg8 u d a o n => Sys2Proof.Machine.execStg8 u d a o n s
  | .stg16 u d a o n => Sys2Proof.Machine.execStg16 u d a o n s
  | .stg32 u d a o n => Sys2Proof.Machine.execStg32 u d a o n s
  | .stg64 u d a o n => Sys2Proof.Machine.execStg64 u d a o n s
  | .stg128 u d a o n => Sys2Proof.Machine.execStg128 u d a o n s
  | .atgAdd u d a o n => Sys2Proof.Machine.execAtgAdd u d a o n s
  | .atgMinI u d a o n => Sys2Proof.Machine.execAtgMinI u d a o n s
  | .atgMaxI u d a o n => Sys2Proof.Machine.execAtgMaxI u d a o n s
  | .atgAnd u d a o n => Sys2Proof.Machine.execAtgAnd u d a o n s
  | .atgOr u d a o n => Sys2Proof.Machine.execAtgOr u d a o n s
  | .atgXor u d a o n => Sys2Proof.Machine.execAtgXor u d a o n s
  | .atgXchg u d a o n => Sys2Proof.Machine.execAtgXchg u d a o n s
  | .atgCas u d a o n => Sys2Proof.Machine.execAtgCas u d a o n s
  | .stgE4 u d a o n => Sys2Proof.Machine.execStgE4 u d a o n s
  | .stgE6 u d a o n => Sys2Proof.Machine.execStgE6 u d a o n s
  | .atgCas64 u d a o n => Sys2Proof.Machine.execAtgCas64 u d a o n s
  | .atgFadd u d a o n => Sys2Proof.Machine.execAtgFadd u d a o n s
  | .redAdd u d a o n => Sys2Proof.Machine.execRedAdd u d a o n s
  | .redFadd u d a o n => Sys2Proof.Machine.execRedFadd u d a o n s
  | .redMinI u d a o n => Sys2Proof.Machine.execRedMinI u d a o n s
  | .redMaxI u d a o n => Sys2Proof.Machine.execRedMaxI u d a o n s
  | .ldrq32 d a o n => Sys2Proof.Machine.execLdrq32 d a o n s
  | .ldrq128 d a o n => Sys2Proof.Machine.execLdrq128 d a o n s
  | .cstore d a o n => Sys2Proof.Machine.execCstore d a o n s
  | .pref d a o n => Sys2Proof.Machine.execPref d a o n s
  | .tex2d d a b => Sys2Proof.Machine.execTex2d d a b s
  | .texfetch d a b => Sys2Proof.Machine.execTexfetch d a b s
  | .texrq d a b => Sys2Proof.Machine.execTexrq d a b s
  | .texlod d a b => Sys2Proof.Machine.execTexlod d a b s
  | .rayq d a b => Sys2Proof.Machine.execRayq d a b s
  | .rayq64 d a b => Sys2Proof.Machine.execRayq64 d a b s
  | .raycont d b => Sys2Proof.Machine.execRaycont d b s
  | .rayhit d => Sys2Proof.Machine.execRayhit d s
  | .raycommit d a b => Sys2Proof.Machine.execRaycommit d a b s
  | .rayabort => Sys2Proof.Machine.execRayabort s
  | .neval d a b => Sys2Proof.Machine.execNeval d a b s
  | .nevalH d a b => Sys2Proof.Machine.execNevalH d a b s
  | .xsortI d a b => Sys2Proof.Machine.execXsortI d a b s
  | .xsortN d a b => Sys2Proof.Machine.execXsortN d a b s
  | .xsortF d a b => Sys2Proof.Machine.execXsortF d a b s
  | .xscanAddI d a => Sys2Proof.Machine.execXscanAddI d a s
  | .xscanAddF d a => Sys2Proof.Machine.execXscanAddF d a s
  | .xscanMaxI d a => Sys2Proof.Machine.execXscanMaxI d a s
  | .xredAddI d a => Sys2Proof.Machine.execXredAddI d a s
  | .xredAddF d a => Sys2Proof.Machine.execXredAddF d a s
  | .xredMinI d a => Sys2Proof.Machine.execXredMinI d a s
  | .xredMaxI d a => Sys2Proof.Machine.execXredMaxI d a s
  | .xhist d a => Sys2Proof.Machine.execXhist d a s
  | .xrank d a => Sys2Proof.Machine.execXrank d a s
  | .xsearch d a b => Sys2Proof.Machine.execXsearch d a b s
  | .xmatch d a => Sys2Proof.Machine.execXmatch d a s
  | .cpy d a q => Sys2Proof.Machine.execCpy d a q s
  | .qfence q m => Sys2Proof.Machine.execQfence q m s
  | .qstat d q c => Sys2Proof.Machine.execQstat d q c s
  | .mloadw a => Sys2Proof.Machine.execMloadw a s
  | .mswap => Sys2Proof.Machine.execMswap s
  | .mstream a => Sys2Proof.Machine.execMstream a s
  | .mdrain a => Sys2Proof.Machine.execMdrain a s
  | .mzero a => Sys2Proof.Machine.execMzero a s
  | .mstat d => Sys2Proof.Machine.execMstat d s
  | .ttstep a => Sys2Proof.Machine.execTtstep a s
  | .ttrun d a => Sys2Proof.Machine.execTtrun d a s
  | .nflush => Sys2Proof.Machine.execNflush s
  | .ncfg a => Sys2Proof.Machine.execNcfg a s
  | .binit d a b => Sys2Proof.Machine.execBinit d a b s
  | .barr d a b => Sys2Proof.Machine.execBarr d a b s
  | .bwait a b => Sys2Proof.Machine.execBwait a b s
  | .bexpb a b => Sys2Proof.Machine.execBexpb a b s
  | .bphase d a => Sys2Proof.Machine.execBphase d a s
  | .bbind d a b => Sys2Proof.Machine.execBbind d a b s
  | .bdrop d a => Sys2Proof.Machine.execBdrop d a s
  | .fenceG => Sys2Proof.Machine.execFenceG s
  | .fenceD => Sys2Proof.Machine.execFenceD s
  | .fenceV => Sys2Proof.Machine.execFenceV s
  | .fenceS => Sys2Proof.Machine.execFenceS s
  | .phinit d a => Sys2Proof.Machine.execPhinit d a s
  | .pharr a b => Sys2Proof.Machine.execPharr a b s
  | .getwork d => Sys2Proof.Machine.execGetwork d s
  | .workdone a => Sys2Proof.Machine.execWorkdone a s
  | .cancel d a => Sys2Proof.Machine.execCancel d a s
  | .ccount d a => Sys2Proof.Machine.execCcount d a s
  | .enq d a b => Sys2Proof.Machine.execEnq d a b s
  | .emitvp d a => Sys2Proof.Machine.execEmitvp d a s
  | .vclose d a => Sys2Proof.Machine.execVclose d a s
  | .refit d a => Sys2Proof.Machine.execRefit d a s
  | .hpart d a => Sys2Proof.Machine.execHpart d a s
  | .cinv a => Sys2Proof.Machine.execCinv a s
  | .cflush a => Sys2Proof.Machine.execCflush a s
  | .bra o => Sys2Proof.Machine.execBra o s
  | .brt c o => Sys2Proof.Machine.execBrt c o s
  | .brf c o => Sys2Proof.Machine.execBrf c o s
  | .call o => Sys2Proof.Machine.execCall o s
  | .brd c o => Sys2Proof.Machine.execBrd c o s
  | .brdn c o => Sys2Proof.Machine.execBrdn c o s
  | .jmpr a => Sys2Proof.Machine.execJmpr a s
  | .ret => Sys2Proof.Machine.execRet s
  | .join a => Sys2Proof.Machine.execJoin a s
  | .waitc d n => Sys2Proof.Machine.execWaitc d n s
  | .yieldSplit => Sys2Proof.Machine.execYieldSplit s
  | .exitSplit => Sys2Proof.Machine.execExitSplit s
  | .repeatN n => Sys2Proof.Machine.execRepeatN n s
  | .trapSw c => Sys2Proof.Machine.execTrapSw c s
  | .sleep a => Sys2Proof.Machine.execSleep a s
  | .setpri p => Sys2Proof.Machine.execSetpri p s
  | .brk => Sys2Proof.Machine.execBrk s
  | .rett => Sys2Proof.Machine.execRett s
  | .tlbinv a => Sys2Proof.Machine.execTlbinv a s
  | .sysrd d n => Sys2Proof.Machine.execSysrd d n s
  | .syswr n b => Sys2Proof.Machine.execSyswr n b s
  | .parkres a => Sys2Proof.Machine.execParkres a s
  | .fltrec d a => Sys2Proof.Machine.execFltrec d a s
  | .powerOff => Sys2Proof.Machine.execPowerOff s
  | .firmwareUncorrectableError => Sys2Proof.Machine.execFirmwareUncorrectableError s
  | .ptpHoldover => Sys2Proof.Machine.execPtpHoldover s
  | .eviction line => Sys2Proof.Machine.execEviction line s
  | .frameRingFill core big frame => Sys2Proof.Machine.execFrameRingFill core big frame s
  | .coreRetirement core => Sys2Proof.Machine.execCoreRetirement core s
  | .congestionNotification qp rate => Sys2Proof.Machine.execCongestionNotification qp rate s
  | .mkaKeyAgreement port secured => Sys2Proof.Machine.execMkaKeyAgreement port secured s

end Sys2Proof.Machine
end

