-- ==== Sys2Proof/Machine/Run.lean ====
section
/-! DEFINITION. How the machine runs: time, the choice of a wave and a split at an issue opportunity (spec/03 R92 to R95),
and what happens when nothing is asked from outside. -/

namespace Sys2Proof.Machine

/-! ### The order of choice (R93 R94) -/

/-- A wave comes before another: one that was passed over 64 times first, then the higher level, then the older. -/
def before (a b : Nat × Nat × Wave) : Bool :=
  let x := a.2.2
  let y := b.2.2
  let sx := decide (64 ≤ x.passed)
  let sy := decide (64 ≤ y.passed)
  if sx != sy then sx
  else if !sx && x.prio != y.prio then decide (y.prio < x.prio)
  else decide (x.age < y.age)

/-- Insert a wave behind those that come before it or tie with it. Of waves of one age, which the manual leaves open, the first
in the order of `wavesOf` comes first (DESIGN CHOICE, assumption 3). -/
def insertWave (a : Nat × Nat × Wave) : List (Nat × Nat × Wave) → List (Nat × Nat × Wave)
  | [] => [a]
  | b :: t => if before a b then a :: b :: t else b :: insertWave a t

/-- The splits of a wave in the order in which they are examined. -/
def Wave.order (wv : Wave) : List Nat :=
  if wv.state == .trap then (if wv.issuable trapIdx then [trapIdx] else [])
  else
    let n := wv.splits.length
    ((List.range n).map (fun i => (wv.lastSplit + 1 + i) % n)).filter wv.issuable

/-- A group that stops at its next bundle boundary issues no slot 1. -/
def Group.mayStart (G : Group) (e : Split) : Bool := G.stopping.isNone || G.stopping == some .drain || decide (1 < e.slot)

/-- The waves of a partition with splits to examine, in order of choice. -/
def State.candidates (s : State) (core part : Nat) : List (Nat × Nat × List Nat) :=
  let ws := ((s.wavesOf core part).foldl (fun l x => insertWave x l) [])
  (ws.map (fun x => (x.1, x.2.1, x.2.2.order.filter (fun sp =>
    ((s.groups[x.1]?).map (fun G => G.mayStart (x.2.2.entry sp))).getD false)))).filter (fun x => !x.2.2.isEmpty)

/-! ### One issue opportunity -/

/-- Issue the instruction of a context: decode it and run its meaning. -/
noncomputable def State.issueOne (s : State) (c : Cur) : Out' :=
  let s : State := { s with cur := some c, stalled := none }
  match decode c.insn with
  | .ok i => exec i s
  | .error _ => .next (s.noInstruction.boundary c.g)

/-- What was found for a split in the present cycle of its core. The first finding for a wave stands, unless it was that
nothing held the split; an issue always stands. -/
def State.note (s : State) (g w sp code : Nat) : State :=
  let cycle := (s.core (((s.groups[g]?).map Group.core).getD 0)).ccycle.toNat
  s.modWave g w (fun wv =>
    let keep := code != 0 && wv.seen.any (fun x => x.2.2 == cycle && x.2.1 != 31)
    if keep then wv else { wv with seen := some (sp, code, cycle) })

/-- The result of trying splits in turn: an instruction issued, something else took the place of an issue (a stop that lands,
a literal passed over, a fetch fault), or none could issue. -/
inductive Tried where
  | stepped (g w sp : Nat) (out : Out')
  | landed (s : State)
  | none (s : State)

/-- Partition of a wave. -/
def State.partOf (s : State) (g w : Nat) : Nat := ((s.wave? g w).map (fun wv => wv.part)).getD 0

/-- A lane instruction of group 13. -/
def mangleWord (w : Word) : Bool := w.extractLsb' 27 5 == 13#5

/-- A split has a group 13 instruction that is ready to issue. -/
noncomputable def State.asksMangle (s : State) (g w sp : Nat) : Bool :=
  match s.before g w sp with
  | (.cur c, s) => mangleWord c.insn &&
      (match s.issueOne c with
      | .next s' => s'.stalled.isNone
      | _ => false)
  | _ => false

/-- The mangle takes a group 13 instruction of another partition first: one at or after its pointer, before the wave's own
(spec/08 R237). -/
noncomputable def State.mangleElse (s : State) (g w : Nat) : Bool :=
  let core := ((s.groups[g]?).map Group.core).getD 0
  let ptr := (s.core core).mangle
  (List.range ((s.partOf g w + 4 - ptr) % 4)).any (fun i =>
    (s.candidates core ((ptr + i) % 4)).any (fun x => x.2.2.any (fun sp => s.asksMangle x.1 x.2.1 sp)))

/-- Try the splits of a wave until one does not have to wait. -/
noncomputable def trySplits (g w : Nat) : State → List Nat → Tried
  | s, [] => .none s
  | s, sp :: rest =>
    match s.before g w sp with
    | (.done, s) => .landed s
    | (.wait why, s) => trySplits g w (s.note g w sp why) rest
    | (.cur c, s) =>
      if mangleWord c.insn && s.mangleElse g w then
        let why := match s.issueOne c with
          | .next s' => (s'.stalled.map (lowestOf 18)).getD 18
          | _ => 18
        trySplits g w (s.note g w sp why) rest
      else
        match s.issueOne c with
        | .next s' =>
          match s'.stalled with
          | some why => trySplits g w { (s'.note g w sp why) with cur := none, stalled := none } rest
          | none => .stepped g w sp (.next s')
        | out => .stepped g w sp out

/-- Try the waves of a partition in their order. -/
noncomputable def tryWaves : State → List (Nat × Nat × List Nat) → Tried
  | s, [] => .none s
  | s, (g, w, sps) :: rest =>
    match trySplits g w s sps with
    | .none s => tryWaves s rest
    | r => r

/-- The wave has a split that may issue now. -/
noncomputable def State.eligible (s : State) (x : Nat × Nat × List Nat) : Bool :=
  match trySplits x.1 x.2.1 s x.2.2 with
  | .stepped _ _ _ _ => true
  | .landed _ | .none _ => false

/-- The stall code of a Ready split of Table 15.3 that does not issue; none where nothing holds it (spec/15 R377). -/
noncomputable def State.stallOf (s : State) (g w sp : Nat) : Option Nat :=
  match trySplits g w (s.modWave g w (fun wv => { wv with seen := none, frozen := false })) [sp] with
  | .stepped _ _ _ _ => none
  | .landed _ => some 31
  | .none s => (((s.wave? g w).bind (fun wv => wv.seen)).map (fun x => x.2.1))

/-- After an opportunity of a partition: a wave that was eligible and passed over counts one more in a row, another one starts
again (R93). What held the split that R94 examines first is noted. -/
noncomputable def State.passOver (s' s : State) (cands : List (Nat × Nat × List Nat)) (x : Nat × Nat × Wave) : State :=
  match cands.find? (fun y => y.1 == x.1 && y.2.1 == x.2.1) with
  | none => s'.modWave x.1 x.2.1 (fun wv => { wv with passed := 0 })
  | some y =>
    let e := s.eligible y
    (s'.note x.1 x.2.1 (y.2.2.headD 0) ((s.stallOf x.1 x.2.1 (y.2.2.headD 0)).getD 1)).modWave x.1 x.2.1 (fun wv =>
      { wv with passed := if e then wv.passed + 1 else 0 })

/-- The chosen wave and split are remembered; the other waves of the partition were passed over or could not issue. `s` is the
state before the opportunity. -/
noncomputable def State.chosen (s' s : State) (cands : List (Nat × Nat × List Nat)) (g w sp : Nat) : State :=
  let e := ((s.wave? g w).map (fun wv => wv.entry sp)).getD Split.empty
  let s' := (s'.note g w sp 0).modWave g w (fun wv =>
    { wv with lastSplit := if sp = trapIdx then wv.lastSplit else sp, passed := 0, issuedAt := (e.pc, e.slot) })
  let core := ((s.groups[g]?).map Group.core).getD 0
  ((s.wavesOf core (s.partOf g w)).filter (fun x => !(x.1 == g && x.2.1 == w))).foldl (fun s' x => s'.passOver s cands x) s'

/-- One issue opportunity of a partition; none when no split may issue, or the core's clock is held (spec/14 R369). -/
noncomputable def State.opportunity (s : State) (core part : Nat) : Option Out' × State :=
  let cands := if (s.core core).held then [] else s.candidates core part
  match tryWaves s cands with
  | .none s =>
    (none, (s.wavesOf core part).foldl (fun s x => s.modWave x.1 x.2.1 (fun wv => { wv with passed := 0 })) s)
  | .landed s' => (some (.next { s' with cur := none, stalled := none }), s)
  | .stepped g w sp (.next s') => (some (.next { (s'.chosen s cands g w sp) with cur := none, stalled := none }), s)
  | .stepped _ _ _ out => (some out, s)

/-! ### Time (assumption 7) -/

/-- What holds the waves of a core in a cycle of which nothing has been noted yet, for a sample of that cycle (spec/15
R377). -/
noncomputable def State.fillNotes (s : State) (core cycle : Nat) : State :=
  ((List.range 4).flatMap (s.wavesOf core)).foldl (fun s x =>
    match (s.wave? x.1 x.2.1).bind (fun wv => wv.firstReady) with
    | some sp =>
      if x.2.2.seen.any (fun y => y.2.2 == cycle) then s
      else s.modWave x.1 x.2.1 (fun wv => { wv with seen := some (sp, (s.stallOf x.1 x.2.1 sp).getD 31, cycle) })
    | none => s) s

/-- The samples of a core in the cycles from the present one on to before `n` cycles from now (spec/15 R376). -/
noncomputable def State.samples (s : State) (core n : Nat) : State :=
  let k := (s.core core).dbg.interval
  let now := (s.core core).ccycle.toNat
  if k = 0 then s
  else
    let lo := (now + k - 1) / k
    (List.range ((now + n + k - 1) / k - lo)).foldl (fun s i => (s.fillNotes core (k * (lo + i))).sample core (k * (lo + i))) s

/-- Cores that take samples. -/
def State.sampling (s : State) : List Nat := (List.range s.cores.length).filter (fun c => (s.core c).dbg.interval != 0)

/-- Time goes on for a group: a sleep lasts at most 1,000 ns longer than asked (spec/03 R104); it does not go on while the
group is suspended (spec/15 R380). Splits that a barrier object woke 2 cycles ago become Ready (spec/07 R209). -/
def Group.elapse (G : Group) (ns now : Nat) (ccycle : DWord) : Group :=
  let G :=
    if G.state != .resident then G
    else if G.suspended then
      { G with first := G.first.map (· + ns)
               waves := G.waves.map (fun (wv : Wave) => wv.mapEntries (fun e => { e with wake := e.wake + ns })) }
    else
      { G with waves := G.waves.map (fun (wv : Wave) => wv.mapEntries (fun e =>
          if e.st == .sleep && decide (e.wake + 1000 ≤ now) then { e with st := .ready } else e)) }
  if G.bars.any (fun b => b.obs != 0#16) then G.observeAt ccycle else G

/-- Time passes: ns of device time, cycles of every core whose clock is not held (spec/14 R369). -/
noncomputable def State.elapse (s : State) (ns : Nat) (cycles : Nat → Nat) : State :=
  let adv := fun (k : Core) (c : Nat) => if k.held then 0 else cycles c
  let s := s.sampling.foldl (fun s c => s.samples c (adv (s.core c) c)) s
  let asleep := fun (g : Nat) => ((s.groups[g]?).map Group.suspended).getD false
  let s : State := { s with
    dtime := s.dtime + BitVec.ofNat 64 ns
    cores := s.cores.zipIdx.map (fun c => { c.1 with
      ccycle := c.1.ccycle + BitVec.ofNat 64 (adv c.1 c.2)
      pool := c.1.pool.map (fun r => if asleep r.group then { r with entry := r.entry + adv c.1 c.2 } else r) }) }
  let s : State := { s with groups := s.groups.map (fun G => G.elapse ns s.now (s.core G.core).ccycle) }
  s.sampling.foldl (fun s c => if (s.core c).ccycle.toNat % (s.core c).dbg.interval = 0 then s.fillNotes c (s.core c).ccycle.toNat else s) s

/-- One clock of every core, at the least, and the device time of it. -/
noncomputable def State.clock (s : State) : State :=
  { s.elapse (Config.elapsedNs s.tick) (fun c => 1 + Config.elapsedCycles (112 * s.tick + c)) with tick := s.tick + 1 }

/-! ### When the agenda is empty (assumption 3) -/

/-- Partitions that hold waves. -/
def State.partitions (s : State) : List (Nat × Nat) :=
  (s.groups.flatMap (fun G => if G.state == .resident then G.waves.map (fun wv => (G.core, wv.part)) else [])).eraseDups

/-- The first partition that can issue. -/
noncomputable def tryParts : State → List (Nat × Nat) → Option Out' × State
  | s, [] => (none, s)
  | s, (c, p) :: rest =>
    match s.opportunity c p with
    | (some out, s) => (some out, s)
    | (none, s) => tryParts s rest

/-- Pending instructions: the events that perform an access or complete them. -/
def pendEvents (g w : Nat) (p : Pend) : List Instr :=
  match p.kind with
  | .mem (.load _ _) | .mem (.atomic _) | .mem (.ldrq _) => p.accs.map (fun a => .loadDataReturn g w p.id a.lane)
  | .mem _ => p.accs.map (fun a => .storeComplete g w p.id a.lane false)
  | .special _ => [.specialFunctionComplete g w p.id]
  | .mangle => [.mangleReply g w p.id]
  | .texture _ => ((List.range 64).filter p.lanes.getLsbD).map (fun l => .textureFetchComplete g w p.id l)
  | .neval | .ray | .engine => []

/-- The events that a wave can bring about. -/
def waveEvents (g w : Nat) (wv : Wave) : List Instr :=
  wv.pend.flatMap (pendEvents g w) ++ [.waveRetire g w, .faultServiceRequest g w] ++
    (List.range wv.splits.length).map (fun sp => .sleepWake g w sp)

/-- The events that a group can bring about, wave by wave. -/
def groupEvents (x : Group × Nat) : List (List Instr) :=
  if x.1.state == .resident || x.1.state == .saved then
    x.1.waves.zipIdx.map (fun y => waveEvents x.2 y.2 y.1) ++
      [(List.range x.1.barRel.length).map (fun i => .barrReleasePerformed x.2 0 i) ++ [.groupSave x.2]]
  else []

/-- The events of a core's queues and engines. -/
def State.coreEvents (s : State) (core : Nat) : List Instr :=
  let c := s.core core
  (List.range 4).flatMap (fun q => [.copyFaultResume core q, .copyCommandComplete core q, .copyCommandRun core q 1, .qfenceComplete core q]) ++
    [.qfenceComplete core 4, .mloadwStart core, .mloadwComplete core, .mswapPerform core, .mstreamStart core,
     .mstreamComplete core, .mdrainRun core, .mzeroRun core, .chainStep core, .hpartComplete core, .cacheMaintComplete core,
     .gatherFetchComplete core, .gatherTileForm core, .gatherScatter core 0] ++
    (List.range c.pool.length).map (fun i => .gatherWindowExpiry core i) ++
    c.rays.map (fun r => .rayTraversalStop core (if r.spilled then 2048 else r.idx))

/-- The events of the refit engines, the packet units and the frames. -/
def State.dieEvents (s : State) : List Instr :=
  (s.refits.flatMap (fun x => .refitComplete x.die :: (x.ready ++ [x.next]).map (fun n => .refitNodeProcess x.die n))) ++
    s.gcmds.flatMap (fun x => [.vcloseComplete x.gdie, .emitvpComplete x.gdie]) ++
    s.xbar.flatMap (fun m => [.packetArrival m.gdie m.sdie, .tokenArrival m.gdie m.sdie]) ++
    (s.streams.zipIdx.filter (fun x => x.1.isOpen)).flatMap (fun x =>
      .frameEnd x.2 :: s.shadingDies.flatMap (fun d => [.reprojectionComplete x.2 d, .rasterise x.2 d]))

/-- The events of a queue. -/
def queueEvents (x : Queue) : List Instr :=
  let q := x.num
  [.completionWrite q 0, .launchEntry q, .graphEntry q, .waitEntry q, .waitReread q, .waitTimeout q, .cancelEntry q,
   .frameEntry q, .invalEntry q, .resumeEntry q]

/-- A group's placement by firmware: where it finds room, else a request for room. -/
def State.placeEvents (s : State) (l : Nat) : List Instr :=
  let L := s.launch l
  let at_ := fun (k : Nat → Nat → Nat → Nat → Nat → Nat → Instr) (p : Option Place) =>
    match p with
    | some p => k p.core p.slot p.part p.clmb p.acmb p.nbb
    | none => k 0 0 0 0 0 0
  let back := (s.groups.zipIdx.filter (fun x => x.1.launch == l && x.1.state == .saved)).map (fun x => at_ (.groupRestore x.2) (s.findRestore x.2 ((s.fellows x.2).length + 1)))
  if L.ended then []
  else back ++ ((L.pending.head?).map (fun g => at_ (.groupPlacement l g) (s.findPlace L L.together))).toList

/-- The next nodes of a graph to start. -/
def graphEvents (x : Graph × Nat) : List Instr :=
  if x.1.ended then [] else ((List.range x.1.nodes).filter (fun n => x.1.states.getD n .ok == .waiting)).map (fun n => .graphNodeStart x.2 n)

/-- A job that is to end, as its request asked. -/
def jobEvents (J : Job) : List Instr :=
  match J.ending with
  | some (port, tag) => [.jobDestroy (port + 2) 2#32 { tag := tag, len := 4#32, w3 := 0#32 } (leBytes 4 J.tag)]
  | none => []

/-- Events of the machine's own, agent by agent. -/
def State.internal (s : State) : List (List Instr) :=
  (if s.romRuns then [[.powerOn]] else []) ++ s.groups.zipIdx.flatMap groupEvents ++
    ((s.groups.map Group.core).eraseDups).map s.coreEvents ++ [s.dieEvents, (List.range 8).map .phaseTreeComplete,
      (List.range (s.redQueue.length + s.hostReds.length)).map .reductionApply] ++ s.queues.map queueEvents ++
    [(List.range s.launches.length).flatMap s.placeEvents] ++ s.graphs.zipIdx.map graphEvents ++
    [((List.range 96).filter (fun c => s.columns.getD c .ready == .replaying)).map .columnReady, s.jobs.flatMap jobEvents]

/-- The first event that may take place. -/
def firstEvent (s : State) : List Instr → Option Out'
  | [] => none
  | i :: rest =>
    match exec i s with
    | .next s' => if s'.stalled.isSome then firstEvent s rest else some (.next s')
    | .fault _ | .refused _ => firstEvent s rest

/-- The first event of the machine's own that may take place, from another agent on at every step, so that each has its
turn. -/
def State.ownEvent (s : State) : Option Out' :=
  let l := s.internal
  let k := (if s.tick % 16 = 0 then s.tick / 16 else s.tick) % (l.length + 1)
  firstEvent s (l.drop k ++ l.take k).flatten

/-- The partitions from another one on at every step, so that each has its turn (R95). -/
def State.rota (s : State) : List (Nat × Nat) :=
  let l := s.partitions
  let k := (s.tick - s.tick / 16) % l.length
  l.drop k ++ l.take k

/-- A step without a turn: the next partition that can issue, else the machine's own events, else time. Every sixteenth
step the machine's own events come first. -/
noncomputable def State.unasked (s : State) : Out' :=
  if s.tick % 16 = 0 then
    match s.ownEvent with
    | some out => out
    | none => ((tryParts s s.rota).1).getD (.next s)
  else
    match tryParts s s.rota with
    | (some out, _) => out
    | (none, s) => (s.ownEvent).getD (.next s)

/-- One step: the next turn of the agenda, or the machine's own choice. -/
noncomputable def State.turn (s : State) : Out' :=
  let s : State := { s with cur := none, stalled := none }
  match s.agenda with
  | [] => s.clock.unasked
  | .event i :: rest => exec i { s with agenda := rest }
  | .elapse ns cycles :: rest => .next (State.elapse { s with agenda := rest } ns (fun _ => cycles))
  | .upset u :: rest => .next (State.upset { s with agenda := rest } u)
  | .hostWrites peer addr bytes :: rest => .next (State.hostPut { s with agenda := rest } peer addr bytes)
  | .share core pa :: rest =>
    .next (if shading core && s.corePresent core then State.shareLine { s with agenda := rest } core pa else { s with agenda := rest })
  | .repair typ die unit failed :: rest => .next (State.repair { s with agenda := rest } typ die unit failed)
  | .replayFails die :: rest => .next (State.replayFails { s with agenda := rest } die)
  | .remoteNak core q :: rest => .next (State.remoteNak { s with agenda := rest } core q)
  | .issue core part :: rest =>
    let s := State.clock { s with agenda := rest }
    match s.opportunity core part with
    | (some out, _) => out
    | (none, s) => .next s

end Sys2Proof.Machine
end

