-- ==== Sys2Proof/Machine/Step.lean ====
section
/-! DEFINITION. The step of the machine, and the state that fetches a given word next. -/

namespace Sys2Proof.Machine

/-- One step. -/
noncomputable def step (s : State) : Host.Outcome State Fault Refusal := s.turn

/-- `s` with a program of one word loaded where the next step fetches (assumption 4): a job whose tables map one page, a
launch of one group of one 16-lane wave, and a bundle with the word in slot 1. -/
def State.withFetchWord (s : State) (nbits w : Nat) : State := s.loadWord (BitVec.ofNat 32 (w % 2 ^ nbits))

end Sys2Proof.Machine
end

