-- ==== Sys2Proof/Laws/Decode.lean ====
section
/-! SUPPORT. The parts of an instruction word, put together and taken apart again. -/

namespace Sys2Proof.Laws

theorem getLsbD_word (s : Bool) (g : BitVec 4) (f : BitVec 6) (d a b : BitVec 7) (i : Nat) :
    (word s g f d a b).getLsbD i =
      if i < 7 then b.getLsbD i
      else if i < 14 then a.getLsbD (i - 7)
      else if i < 21 then d.getLsbD (i - 14)
      else if i < 27 then f.getLsbD (i - 21)
      else if i < 31 then g.getLsbD (i - 27)
      else decide (i = 31) && s := by
  simp only [word, BitVec.getLsbD_append, BitVec.getLsbD_ofBool]
  have e1 : i - 7 - 7 = i - 14 := by omega
  have e2 : i - 14 - 7 = i - 21 := by omega
  have e3 : i - 21 - 6 = i - 27 := by omega
  have e4 : i - 27 - 4 = i - 31 := by omega
  rw [e1, e2, e3, e4]
  split_ifs <;> first | rfl | omega | skip
  congr 1; rw [decide_eq_decide]; omega

/-- The parts of a word that was put together from them. -/
theorem decode_word (s : Bool) (g : BitVec 4) (f : BitVec 6) (d a b : BitVec 7) :
    decode (word s g f d a b) = decodeParts s g f d a b := by
  have h1 : (word s g f d a b).getLsbD 31 = s := by rw [getLsbD_word]; simp
  have h2 : (word s g f d a b).extractLsb' 27 4 = g := by
    apply BitVec.eq_of_getLsbD_eq; intro i hi
    rw [BitVec.getLsbD_extractLsb', getLsbD_word]
    simp [hi, show ¬ 27 + i < 7 by omega, show ¬ 27 + i < 14 by omega, show ¬ 27 + i < 21 by omega, show 27 + i < 31 by omega]
  have h3 : (word s g f d a b).extractLsb' 21 6 = f := by
    apply BitVec.eq_of_getLsbD_eq; intro i hi
    rw [BitVec.getLsbD_extractLsb', getLsbD_word]
    simp [hi, show ¬ 21 + i < 7 by omega, show ¬ 21 + i < 14 by omega, show 21 + i < 27 by omega]
  have h4 : (word s g f d a b).extractLsb' 14 7 = d := by
    apply BitVec.eq_of_getLsbD_eq; intro i hi
    rw [BitVec.getLsbD_extractLsb', getLsbD_word]
    simp [hi, show ¬ 14 + i < 7 by omega, show 14 + i < 21 by omega]
  have h5 : (word s g f d a b).extractLsb' 7 7 = a := by
    apply BitVec.eq_of_getLsbD_eq; intro i hi
    rw [BitVec.getLsbD_extractLsb', getLsbD_word]
    simp [hi, show 7 + i < 14 by omega]
  have h6 : (word s g f d a b).extractLsb' 0 7 = b := by
    apply BitVec.eq_of_getLsbD_eq; intro i hi
    rw [BitVec.getLsbD_extractLsb', getLsbD_word]
    simp [hi]
  rw [decode, h1, h2, h3, h4, h5, h6]

/-- A word is put together from its parts. -/
theorem word_parts (w : Word) :
    word (w.getLsbD 31) (w.extractLsb' 27 4) (w.extractLsb' 21 6) (w.extractLsb' 14 7) (w.extractLsb' 7 7)
      (w.extractLsb' 0 7) = w := by
  apply BitVec.eq_of_getLsbD_eq; intro i hi
  rw [getLsbD_word]
  simp only [BitVec.getLsbD_extractLsb']
  split_ifs with h1 h2 h3 h4 h5
  · simp [h1]
  · simp [show i - 7 < 7 by omega, show 7 + (i - 7) = i by omega]
  · simp [show i - 14 < 7 by omega, show 14 + (i - 14) = i by omega]
  · simp [show i - 21 < 6 by omega, show 21 + (i - 21) = i by omega]
  · simp [show i - 27 < 4 by omega, show 27 + (i - 27) = i by omega]
  · simp [show i = 31 by omega]

/-- ORD and base index of form M, out of the B field. -/
theorem ord_append (o : BitVec 3) (n : BitVec 4) : (o ++ n).extractLsb' 4 3 = o := by
  apply BitVec.eq_of_getLsbD_eq; intro i hi
  rw [BitVec.getLsbD_extractLsb', BitVec.getLsbD_append, if_neg (by omega), Nat.add_sub_cancel_left]
  simp [hi]

theorem base_append (o : BitVec 3) (n : BitVec 4) : (o ++ n).extractLsb' 0 4 = n := by
  apply BitVec.eq_of_getLsbD_eq; intro i hi
  rw [BitVec.getLsbD_extractLsb', BitVec.getLsbD_append, Nat.zero_add, if_pos hi]
  simp [hi]

end Sys2Proof.Laws
end

