-- ==== Sys2Proof/Laws/PerInstr.lean ====
section
/-! SUPPORT. Statements about every instruction as syntax, one lemma per constructor of `Instr`. -/

namespace Sys2Proof.Laws.RoundTrip

/-- The decoder reads the word that encodes the instruction as the instruction, with every field as it was (spec/01 R21
to R28 R38 R39, spec/04 R107); an event has no word. -/
def Statement (i : Instr) : Prop := ∀ w, encode i = some w → decode w = .ok i

/-- The eight values of a small field. -/
theorem field3 (n : BitVec 3) : n = 0#3 ∨ n = 1#3 ∨ n = 2#3 ∨ n = 3#3 ∨ n = 4#3 ∨ n = 5#3 ∨ n = 6#3 ∨ n = 7#3 := by
  revert n; decide

theorem imm14 (i : BitVec 14) : i.extractLsb' 7 7 ++ i.extractLsb' 0 7 = i := by
  apply BitVec.eq_of_getLsbD_eq; intro k hk
  simp only [BitVec.getLsbD_append, BitVec.getLsbD_extractLsb']
  split_ifs with h
  · simp [h]
  · simp [show k - 7 < 7 by omega, show 7 + (k - 7) = k by omega]

theorem off21 (o : BitVec 21) : o.extractLsb' 14 7 ++ o.extractLsb' 7 7 ++ o.extractLsb' 0 7 = o := by
  apply BitVec.eq_of_getLsbD_eq; intro k hk
  simp only [BitVec.getLsbD_append, BitVec.getLsbD_extractLsb']
  split_ifs with h h'
  · simp [h]
  · simp [h', show 7 + (k - 7) = k by omega]
  · simp [show k - 7 - 7 < 7 by omega, show 14 + (k - 7 - 7) = k by omega]

theorem count12 (n : BitVec 12) : (0#2 ++ n.extractLsb' 7 5).extractLsb' 0 5 ++ n.extractLsb' 0 7 = n := by
  apply BitVec.eq_of_getLsbD_eq; intro k hk
  simp only [BitVec.getLsbD_append, BitVec.getLsbD_extractLsb']
  split_ifs with h h'
  · simp [h]
  · simp [show k - 7 < 5 by omega, show 7 + (k - 7) = k by omega]
  · omega

theorem count12_top (n : BitVec 12) : (0#2 ++ n.extractLsb' 7 5).extractLsb' 5 2 = 0#2 := by
  apply BitVec.eq_of_getLsbD_eq; intro k hk
  rw [BitVec.getLsbD_extractLsb', BitVec.getLsbD_append, if_neg (by omega)]
  simp

/-- The three low bits of a function field. -/
theorem low3 (h c : BitVec 3) : (h ++ c).extractLsb' 0 3 = c := by
  apply BitVec.eq_of_getLsbD_eq; intro k hk
  rw [BitVec.getLsbD_extractLsb', BitVec.getLsbD_append, Nat.zero_add, if_pos hk]
  simp [hk]

theorem high3 (h c : BitVec 3) : (h ++ c).extractLsb' 3 3 = h := by
  apply BitVec.eq_of_getLsbD_eq; intro k hk
  rw [BitVec.getLsbD_extractLsb', BitVec.getLsbD_append, if_neg (by omega), Nat.add_sub_cancel_left]
  simp [hk]


theorem powerOn : Statement (.powerOn) := by
  intro w h; cases h

theorem bootReq : Statement (.bootReq) := by
  intro w h; cases h

theorem bootOffer (host len : Nat) (store : Bool) : Statement (.bootOffer host len store) := by
  intro w h; cases h

theorem bootData (host offset : Nat) (bytes : List (BitVec 8)) : Statement (.bootData host offset bytes) := by
  intro w h; cases h

theorem bootTransferTimeout : Statement (.bootTransferTimeout) := by
  intro w h; cases h

theorem watchdogExpiry : Statement (.watchdogExpiry) := by
  intro w h; cases h

theorem columnReady (core : Nat) : Statement (.columnReady core) := by
  intro w h; cases h

theorem backgroundTest (core vault : Nat) (failed : Option (Nat × Nat)) : Statement (.backgroundTest core vault failed) := by
  intro w h; cases h

theorem linkFlitError (die unit addr failures : Nat) : Statement (.linkFlitError die unit addr failures) := by
  intro w h; cases h

theorem ptpMessage (port : Nat) (offset : BitVec 64) (err rate : BitVec 32) (locked : Bool) : Statement (.ptpMessage port offset err rate locked) := by
  intro w h; cases h

theorem clockTargetUpdate (region mhz : Nat) : Statement (.clockTargetUpdate region mhz) := by
  intro w h; cases h

theorem powerMeasure (watts : Nat) : Statement (.powerMeasure watts) := by
  intro w h; cases h

theorem tempSample (core : Nat) (milliC : Int) : Statement (.tempSample core milliC) := by
  intro w h; cases h

theorem refreshClassFall (core : Nat) : Statement (.refreshClassFall core) := by
  intro w h; cases h

theorem refreshBurst (core vault : Nat) : Statement (.refreshBurst core vault) := by
  intro w h; cases h

theorem refreshCharge (core : Nat) : Statement (.refreshCharge core) := by
  intro w h; cases h

theorem doorbellTail (q : Nat) (tail : BitVec 32) : Statement (.doorbellTail q tail) := by
  intro w h; cases h

theorem doorbellChead (q : Nat) (chead : BitVec 32) : Statement (.doorbellChead q chead) := by
  intro w h; cases h

theorem launchEntry (q : Nat) : Statement (.launchEntry q) := by
  intro w h; cases h

theorem graphEntry (q : Nat) : Statement (.graphEntry q) := by
  intro w h; cases h

theorem graphNodeStart (graph node : Nat) : Statement (.graphNodeStart graph node) := by
  intro w h; cases h

theorem waitEntry (q : Nat) : Statement (.waitEntry q) := by
  intro w h; cases h

theorem waitReread (q : Nat) : Statement (.waitReread q) := by
  intro w h; cases h

theorem waitTimeout (q : Nat) : Statement (.waitTimeout q) := by
  intro w h; cases h

theorem cancelEntry (q : Nat) : Statement (.cancelEntry q) := by
  intro w h; cases h

theorem frameEntry (q : Nat) : Statement (.frameEntry q) := by
  intro w h; cases h

theorem invalEntry (q : Nat) : Statement (.invalEntry q) := by
  intro w h; cases h

theorem resumeEntry (q : Nat) : Statement (.resumeEntry q) := by
  intro w h; cases h

theorem completionWrite (q pick : Nat) : Statement (.completionWrite q pick) := by
  intro w h; cases h

theorem groupPlacement (launch gidx core slot part clmb acmb nbb : Nat) : Statement (.groupPlacement launch gidx core slot part clmb acmb nbb) := by
  intro w h; cases h

theorem bindRecordWrite (core slot : Nat) (words : List (BitVec 32)) : Statement (.bindRecordWrite core slot words) := by
  intro w h; cases h

theorem waveRetire (g w : Nat) : Statement (.waveRetire g w) := by
  intro w h; cases h

theorem groupSave (g : Nat) : Statement (.groupSave g) := by
  intro w h; cases h

theorem groupRestore (g core slot part clmb acmb nbb : Nat) : Statement (.groupRestore g core slot part clmb acmb nbb) := by
  intro w h; cases h

theorem bundleFetch (g w sp : Nat) : Statement (.bundleFetch g w sp) := by
  intro w h; cases h

theorem starvationPromote (g w : Nat) : Statement (.starvationPromote g w) := by
  intro w h; cases h

theorem loadDataReturn (g w p lane : Nat) : Statement (.loadDataReturn g w p lane) := by
  intro w h; cases h

theorem storeComplete (g w p lane : Nat) (merge : Bool) : Statement (.storeComplete g w p lane merge) := by
  intro w h; cases h

theorem reductionApply (idx : Nat) : Statement (.reductionApply idx) := by
  intro w h; cases h

theorem faultServiceRequest (g w : Nat) : Statement (.faultServiceRequest g w) := by
  intro w h; cases h

theorem faultServiceDone (req : Nat) (done : Bool) (leaves : List (Nat × BitVec 64)) : Statement (.faultServiceDone req done leaves) := by
  intro w h; cases h

theorem sleepWake (g w sp : Nat) : Statement (.sleepWake g w sp) := by
  intro w h; cases h

theorem specialFunctionComplete (g w p : Nat) : Statement (.specialFunctionComplete g w p) := by
  intro w h; cases h

theorem barrReleasePerformed (g nb idx : Nat) : Statement (.barrReleasePerformed g nb idx) := by
  intro w h; cases h

theorem phaseTreeComplete (ctx : Nat) : Statement (.phaseTreeComplete ctx) := by
  intro w h; cases h

theorem copyCommandRun (core q count : Nat) : Statement (.copyCommandRun core q count) := by
  intro w h; cases h

theorem copyFaultResume (core q : Nat) : Statement (.copyFaultResume core q) := by
  intro w h; cases h

theorem copyCommandComplete (core q : Nat) : Statement (.copyCommandComplete core q) := by
  intro w h; cases h

theorem qfenceComplete (core q : Nat) : Statement (.qfenceComplete core q) := by
  intro w h; cases h

theorem hpartComplete (core : Nat) : Statement (.hpartComplete core) := by
  intro w h; cases h

theorem cacheMaintComplete (core : Nat) : Statement (.cacheMaintComplete core) := by
  intro w h; cases h

theorem mangleReply (g w p : Nat) : Statement (.mangleReply g w p) := by
  intro w h; cases h

theorem mloadwStart (core : Nat) : Statement (.mloadwStart core) := by
  intro w h; cases h

theorem mloadwComplete (core : Nat) : Statement (.mloadwComplete core) := by
  intro w h; cases h

theorem mswapPerform (core : Nat) : Statement (.mswapPerform core) := by
  intro w h; cases h

theorem mstreamStart (core : Nat) : Statement (.mstreamStart core) := by
  intro w h; cases h

theorem mstreamComplete (core : Nat) : Statement (.mstreamComplete core) := by
  intro w h; cases h

theorem mdrainRun (core : Nat) : Statement (.mdrainRun core) := by
  intro w h; cases h

theorem mzeroRun (core : Nat) : Statement (.mzeroRun core) := by
  intro w h; cases h

theorem chainStep (core : Nat) : Statement (.chainStep core) := by
  intro w h; cases h

theorem gatherWindowExpiry (core idx : Nat) : Statement (.gatherWindowExpiry core idx) := by
  intro w h; cases h

theorem gatherTileForm (core : Nat) : Statement (.gatherTileForm core) := by
  intro w h; cases h

theorem gatherFetchComplete (core : Nat) : Statement (.gatherFetchComplete core) := by
  intro w h; cases h

theorem gatherScatter (core row : Nat) : Statement (.gatherScatter core row) := by
  intro w h; cases h

theorem rayTraversalStop (core slot : Nat) : Statement (.rayTraversalStop core slot) := by
  intro w h; cases h

theorem textureFetchComplete (g w p lane : Nat) : Statement (.textureFetchComplete g w p lane) := by
  intro w h; cases h

theorem refitNodeProcess (die node : Nat) : Statement (.refitNodeProcess die node) := by
  intro w h; cases h

theorem refitComplete (die : Nat) : Statement (.refitComplete die) := by
  intro w h; cases h

theorem emitvpComplete (gdie : Nat) : Statement (.emitvpComplete gdie) := by
  intro w h; cases h

theorem vcloseComplete (gdie : Nat) : Statement (.vcloseComplete gdie) := by
  intro w h; cases h

theorem packetArrival (gdie sdie : Nat) : Statement (.packetArrival gdie sdie) := by
  intro w h; cases h

theorem tokenArrival (gdie sdie : Nat) : Statement (.tokenArrival gdie sdie) := by
  intro w h; cases h

theorem rasterise (stream sdie : Nat) : Statement (.rasterise stream sdie) := by
  intro w h; cases h

theorem reprojectionComplete (stream sdie : Nat) : Statement (.reprojectionComplete stream sdie) := by
  intro w h; cases h

theorem frameEnd (stream : Nat) : Statement (.frameEnd stream) := by
  intro w h; cases h

theorem pcSample (core : Nat) : Statement (.pcSample core) := by
  intro w h; cases h

theorem breakBitStop (g w sp : Nat) : Statement (.breakBitStop g w sp) := by
  intro w h; cases h

theorem watchpointStop (g w sp : Nat) : Statement (.watchpointStop g w sp) := by
  intro w h; cases h

theorem dctlOwn (core : Nat) (own allStop : Bool) : Statement (.dctlOwn core own allStop) := by
  intro w h; cases h

theorem dctlHalt (core : Nat) (mask : BitVec 4) : Statement (.dctlHalt core mask) := by
  intro w h; cases h

theorem dctlResume (core : Nat) (mask : BitVec 4) : Statement (.dctlResume core mask) := by
  intro w h; cases h

theorem dctlIcinv (core : Nat) : Statement (.dctlIcinv core) := by
  intro w h; cases h

theorem dctlDump (core : Nat) (mask : BitVec 4) : Statement (.dctlDump core mask) := by
  intro w h; cases h

theorem spop (core : Nat) (v : BitVec 32) : Statement (.spop core v) := by
  intro w h; cases h

theorem debugRegWrite (core off : Nat) (v : BitVec 32) : Statement (.debugRegWrite core off v) := by
  intro w h; cases h

theorem hostRdmaAccess (port : Nat) (key : BitVec 32) (va len : Nat) (wr : Option (List (BitVec 8))) : Statement (.hostRdmaAccess port key va len wr) := by
  intro w h; cases h

theorem jobCreate (port : Nat) (w0 : BitVec 32) (hd : ReqHead) (body : List (BitVec 8)) : Statement (.jobCreate port w0 hd body) := by
  intro w h; cases h

theorem jobDestroy (port : Nat) (w0 : BitVec 32) (hd : ReqHead) (body : List (BitVec 8)) : Statement (.jobDestroy port w0 hd body) := by
  intro w h; cases h

theorem cfgRd (port : Nat) (w0 : BitVec 32) (hd : ReqHead) (body : List (BitVec 8)) : Statement (.cfgRd port w0 hd body) := by
  intro w h; cases h

theorem cfgWr (port : Nat) (w0 : BitVec 32) (hd : ReqHead) (body : List (BitVec 8)) : Statement (.cfgWr port w0 hd body) := by
  intro w h; cases h

theorem dbgRd (port : Nat) (w0 : BitVec 32) (hd : ReqHead) (body : List (BitVec 8)) : Statement (.dbgRd port w0 hd body) := by
  intro w h; cases h

theorem dbgWr (port : Nat) (w0 : BitVec 32) (hd : ReqHead) (body : List (BitVec 8)) : Statement (.dbgWr port w0 hd body) := by
  intro w h; cases h

theorem powerLimit (port : Nat) (w0 : BitVec 32) (hd : ReqHead) (body : List (BitVec 8)) : Statement (.powerLimit port w0 hd body) := by
  intro w h; cases h

theorem errlog (port : Nat) (w0 : BitVec 32) (hd : ReqHead) (body : List (BitVec 8)) : Statement (.errlog port w0 hd body) := by
  intro w h; cases h

theorem attest (port : Nat) (w0 : BitVec 32) (hd : ReqHead) (body : List (BitVec 8)) : Statement (.attest port w0 hd body) := by
  intro w h; cases h

theorem darnRd (port : Nat) (w0 : BitVec 32) (hd : ReqHead) (body : List (BitVec 8)) : Statement (.darnRd port w0 hd body) := by
  intro w h; cases h

theorem darnApply (port : Nat) (w0 : BitVec 32) (hd : ReqHead) (body : List (BitVec 8)) : Statement (.darnApply port w0 hd body) := by
  intro w h; cases h

theorem colAlloc (port : Nat) (w0 : BitVec 32) (hd : ReqHead) (body : List (BitVec 8)) : Statement (.colAlloc port w0 hd body) := by
  intro w h; cases h

theorem colFree (port : Nat) (w0 : BitVec 32) (hd : ReqHead) (body : List (BitVec 8)) : Statement (.colFree port w0 hd body) := by
  intro w h; cases h

theorem resetService (port : Nat) (w0 : BitVec 32) (hd : ReqHead) (body : List (BitVec 8)) : Statement (.resetService port w0 hd body) := by
  intro w h; cases h

theorem nop : Statement (.nop) := by
  intro w h; cases h; rw [decode_word]; rfl

theorem iadd (u : Bool) (d : BitVec 7) (a : BitVec 7) (b : BitVec 7) : Statement (.iadd u d a b) := by
  intro w h; cases h; rw [decode_word]; cases u <;> rfl

theorem isub (u : Bool) (d : BitVec 7) (a : BitVec 7) (b : BitVec 7) : Statement (.isub u d a b) := by
  intro w h; cases h; rw [decode_word]; cases u <;> rfl

theorem imul (u : Bool) (d : BitVec 7) (a : BitVec 7) (b : BitVec 7) : Statement (.imul u d a b) := by
  intro w h; cases h; rw [decode_word]; cases u <;> rfl

theorem imulhI (u : Bool) (d : BitVec 7) (a : BitVec 7) (b : BitVec 7) : Statement (.imulhI u d a b) := by
  intro w h; cases h; rw [decode_word]; cases u <;> rfl

theorem imulhN (u : Bool) (d : BitVec 7) (a : BitVec 7) (b : BitVec 7) : Statement (.imulhN u d a b) := by
  intro w h; cases h; rw [decode_word]; cases u <;> rfl

theorem imad (u : Bool) (d : BitVec 7) (a : BitVec 7) (b : BitVec 7) : Statement (.imad u d a b) := by
  intro w h; cases h; rw [decode_word]; cases u <;> rfl

theorem iand (u : Bool) (d : BitVec 7) (a : BitVec 7) (b : BitVec 7) : Statement (.iand u d a b) := by
  intro w h; cases h; rw [decode_word]; cases u <;> rfl

theorem ior (u : Bool) (d : BitVec 7) (a : BitVec 7) (b : BitVec 7) : Statement (.ior u d a b) := by
  intro w h; cases h; rw [decode_word]; cases u <;> rfl

theorem ixor (u : Bool) (d : BitVec 7) (a : BitVec 7) (b : BitVec 7) : Statement (.ixor u d a b) := by
  intro w h; cases h; rw [decode_word]; cases u <;> rfl

theorem iandn (u : Bool) (d : BitVec 7) (a : BitVec 7) (b : BitVec 7) : Statement (.iandn u d a b) := by
  intro w h; cases h; rw [decode_word]; cases u <;> rfl

theorem shl (u : Bool) (d : BitVec 7) (a : BitVec 7) (b : BitVec 7) : Statement (.shl u d a b) := by
  intro w h; cases h; rw [decode_word]; cases u <;> rfl

theorem shr (u : Bool) (d : BitVec 7) (a : BitVec 7) (b : BitVec 7) : Statement (.shr u d a b) := by
  intro w h; cases h; rw [decode_word]; cases u <;> rfl

theorem sar (u : Bool) (d : BitVec 7) (a : BitVec 7) (b : BitVec 7) : Statement (.sar u d a b) := by
  intro w h; cases h; rw [decode_word]; cases u <;> rfl

theorem iminI (u : Bool) (d : BitVec 7) (a : BitVec 7) (b : BitVec 7) : Statement (.iminI u d a b) := by
  intro w h; cases h; rw [decode_word]; cases u <;> rfl

theorem iminN (u : Bool) (d : BitVec 7) (a : BitVec 7) (b : BitVec 7) : Statement (.iminN u d a b) := by
  intro w h; cases h; rw [decode_word]; cases u <;> rfl

theorem imaxI (u : Bool) (d : BitVec 7) (a : BitVec 7) (b : BitVec 7) : Statement (.imaxI u d a b) := by
  intro w h; cases h; rw [decode_word]; cases u <;> rfl

theorem imaxN (u : Bool) (d : BitVec 7) (a : BitVec 7) (b : BitVec 7) : Statement (.imaxN u d a b) := by
  intro w h; cases h; rw [decode_word]; cases u <;> rfl

theorem iabs (u : Bool) (d : BitVec 7) (a : BitVec 7) : Statement (.iabs u d a) := by
  intro w h; cases h; rw [decode_word]; cases u <;> rfl

theorem clz (u : Bool) (d : BitVec 7) (a : BitVec 7) : Statement (.clz u d a) := by
  intro w h; cases h; rw [decode_word]; cases u <;> rfl

theorem popc (u : Bool) (d : BitVec 7) (a : BitVec 7) : Statement (.popc u d a) := by
  intro w h; cases h; rw [decode_word]; cases u <;> rfl

theorem brev (u : Bool) (d : BitVec 7) (a : BitVec 7) : Statement (.brev u d a) := by
  intro w h; cases h; rw [decode_word]; cases u <;> rfl

theorem bfxI (u : Bool) (d : BitVec 7) (a : BitVec 7) (b : BitVec 7) : Statement (.bfxI u d a b) := by
  intro w h; cases h; rw [decode_word]; cases u <;> rfl

theorem bfxN (u : Bool) (d : BitVec 7) (a : BitVec 7) (b : BitVec 7) : Statement (.bfxN u d a b) := by
  intro w h; cases h; rw [decode_word]; cases u <;> rfl

theorem bfi (u : Bool) (d : BitVec 7) (a : BitVec 7) (b : BitVec 7) : Statement (.bfi u d a b) := by
  intro w h; cases h; rw [decode_word]; cases u <;> rfl

theorem sel (u : Bool) (n : BitVec 3) (d : BitVec 7) (a : BitVec 7) (b : BitVec 7) : Statement (.sel u n d a b) := by
  intro w h; cases h; rw [decode_word]; rcases field3 n with rfl | rfl | rfl | rfl | rfl | rfl | rfl | rfl <;> cases u <;> rfl

theorem iaddI (u : Bool) (d : BitVec 7) (a : BitVec 7) (i : BitVec 7) : Statement (.iaddI u d a i) := by
  intro w h; cases h; rw [decode_word]; cases u <;> rfl

theorem isubI (u : Bool) (d : BitVec 7) (a : BitVec 7) (i : BitVec 7) : Statement (.isubI u d a i) := by
  intro w h; cases h; rw [decode_word]; cases u <;> rfl

theorem imulI (u : Bool) (d : BitVec 7) (a : BitVec 7) (i : BitVec 7) : Statement (.imulI u d a i) := by
  intro w h; cases h; rw [decode_word]; cases u <;> rfl

theorem imulhII (u : Bool) (d : BitVec 7) (a : BitVec 7) (i : BitVec 7) : Statement (.imulhII u d a i) := by
  intro w h; cases h; rw [decode_word]; cases u <;> rfl

theorem imulhNI (u : Bool) (d : BitVec 7) (a : BitVec 7) (i : BitVec 7) : Statement (.imulhNI u d a i) := by
  intro w h; cases h; rw [decode_word]; cases u <;> rfl

theorem imadI (u : Bool) (d : BitVec 7) (a : BitVec 7) (i : BitVec 7) : Statement (.imadI u d a i) := by
  intro w h; cases h; rw [decode_word]; cases u <;> rfl

theorem iandI (u : Bool) (d : BitVec 7) (a : BitVec 7) (i : BitVec 7) : Statement (.iandI u d a i) := by
  intro w h; cases h; rw [decode_word]; cases u <;> rfl

theorem iorI (u : Bool) (d : BitVec 7) (a : BitVec 7) (i : BitVec 7) : Statement (.iorI u d a i) := by
  intro w h; cases h; rw [decode_word]; cases u <;> rfl

theorem ixorI (u : Bool) (d : BitVec 7) (a : BitVec 7) (i : BitVec 7) : Statement (.ixorI u d a i) := by
  intro w h; cases h; rw [decode_word]; cases u <;> rfl

theorem iandnI (u : Bool) (d : BitVec 7) (a : BitVec 7) (i : BitVec 7) : Statement (.iandnI u d a i) := by
  intro w h; cases h; rw [decode_word]; cases u <;> rfl

theorem shlI (u : Bool) (d : BitVec 7) (a : BitVec 7) (i : BitVec 7) : Statement (.shlI u d a i) := by
  intro w h; cases h; rw [decode_word]; cases u <;> rfl

theorem shrI (u : Bool) (d : BitVec 7) (a : BitVec 7) (i : BitVec 7) : Statement (.shrI u d a i) := by
  intro w h; cases h; rw [decode_word]; cases u <;> rfl

theorem sarI (u : Bool) (d : BitVec 7) (a : BitVec 7) (i : BitVec 7) : Statement (.sarI u d a i) := by
  intro w h; cases h; rw [decode_word]; cases u <;> rfl

theorem iminII (u : Bool) (d : BitVec 7) (a : BitVec 7) (i : BitVec 7) : Statement (.iminII u d a i) := by
  intro w h; cases h; rw [decode_word]; cases u <;> rfl

theorem iminNI (u : Bool) (d : BitVec 7) (a : BitVec 7) (i : BitVec 7) : Statement (.iminNI u d a i) := by
  intro w h; cases h; rw [decode_word]; cases u <;> rfl

theorem imaxII (u : Bool) (d : BitVec 7) (a : BitVec 7) (i : BitVec 7) : Statement (.imaxII u d a i) := by
  intro w h; cases h; rw [decode_word]; cases u <;> rfl

theorem imaxNI (u : Bool) (d : BitVec 7) (a : BitVec 7) (i : BitVec 7) : Statement (.imaxNI u d a i) := by
  intro w h; cases h; rw [decode_word]; cases u <;> rfl

theorem bfxII (u : Bool) (d : BitVec 7) (a : BitVec 7) (i : BitVec 7) : Statement (.bfxII u d a i) := by
  intro w h; cases h; rw [decode_word]; cases u <;> rfl

theorem bfxNI (u : Bool) (d : BitVec 7) (a : BitVec 7) (i : BitVec 7) : Statement (.bfxNI u d a i) := by
  intro w h; cases h; rw [decode_word]; cases u <;> rfl

theorem bfiI (u : Bool) (d : BitVec 7) (a : BitVec 7) (i : BitVec 7) : Statement (.bfiI u d a i) := by
  intro w h; cases h; rw [decode_word]; cases u <;> rfl

theorem mov (u : Bool) (d : BitVec 7) (b : BitVec 7) : Statement (.mov u d b) := by
  intro w h; cases h; rw [decode_word]; cases u <;> rfl

theorem movi (u : Bool) (d : BitVec 7) (i : BitVec 14) : Statement (.movi u d i) := by
  intro w h; cases h; rw [decode_word]; cases u <;> exact congrArg Except.ok (by rw [imm14])

theorem iadd64 (u : Bool) (d : BitVec 7) (a : BitVec 7) (b : BitVec 7) : Statement (.iadd64 u d a b) := by
  intro w h; cases h; rw [decode_word]; cases u <;> rfl

theorem isub64 (u : Bool) (d : BitVec 7) (a : BitVec 7) (b : BitVec 7) : Statement (.isub64 u d a b) := by
  intro w h; cases h; rw [decode_word]; cases u <;> rfl

theorem imulwI (u : Bool) (d : BitVec 7) (a : BitVec 7) (b : BitVec 7) : Statement (.imulwI u d a b) := by
  intro w h; cases h; rw [decode_word]; cases u <;> rfl

theorem imulwN (u : Bool) (d : BitVec 7) (a : BitVec 7) (b : BitVec 7) : Statement (.imulwN u d a b) := by
  intro w h; cases h; rw [decode_word]; cases u <;> rfl

theorem movls (d : BitVec 7) (a : BitVec 7) : Statement (.movls d a) := by
  intro w h; cases h; rw [decode_word]; rfl

theorem paddH2 (d : BitVec 7) (a : BitVec 7) (b : BitVec 7) : Statement (.paddH2 d a b) := by
  intro w h; cases h; rw [decode_word]; rfl

theorem paddsH2 (d : BitVec 7) (a : BitVec 7) (b : BitVec 7) : Statement (.paddsH2 d a b) := by
  intro w h; cases h; rw [decode_word]; rfl

theorem psubH2 (d : BitVec 7) (a : BitVec 7) (b : BitVec 7) : Statement (.psubH2 d a b) := by
  intro w h; cases h; rw [decode_word]; rfl

theorem psubsH2 (d : BitVec 7) (a : BitVec 7) (b : BitVec 7) : Statement (.psubsH2 d a b) := by
  intro w h; cases h; rw [decode_word]; rfl

theorem paddB4 (d : BitVec 7) (a : BitVec 7) (b : BitVec 7) : Statement (.paddB4 d a b) := by
  intro w h; cases h; rw [decode_word]; rfl

theorem paddsB4 (d : BitVec 7) (a : BitVec 7) (b : BitVec 7) : Statement (.paddsB4 d a b) := by
  intro w h; cases h; rw [decode_word]; rfl

theorem psubsB4 (d : BitVec 7) (a : BitVec 7) (b : BitVec 7) : Statement (.psubsB4 d a b) := by
  intro w h; cases h; rw [decode_word]; rfl

theorem pmaddH2 (d : BitVec 7) (a : BitVec 7) (b : BitVec 7) : Statement (.pmaddH2 d a b) := by
  intro w h; cases h; rw [decode_word]; rfl

theorem pmaddB4 (d : BitVec 7) (a : BitVec 7) (b : BitVec 7) : Statement (.pmaddB4 d a b) := by
  intro w h; cases h; rw [decode_word]; rfl

theorem iadds (d : BitVec 7) (a : BitVec 7) (b : BitVec 7) : Statement (.iadds d a b) := by
  intro w h; cases h; rw [decode_word]; rfl

theorem isubs (d : BitVec 7) (a : BitVec 7) (b : BitVec 7) : Statement (.isubs d a b) := by
  intro w h; cases h; rw [decode_word]; rfl

theorem shrr (d : BitVec 7) (a : BitVec 7) (b : BitVec 7) : Statement (.shrr d a b) := by
  intro w h; cases h; rw [decode_word]; rfl

theorem shrrsH2 (d : BitVec 7) (a : BitVec 7) (b : BitVec 7) : Statement (.shrrsH2 d a b) := by
  intro w h; cases h; rw [decode_word]; rfl

theorem packH2 (d : BitVec 7) (a : BitVec 7) (b : BitVec 7) : Statement (.packH2 d a b) := by
  intro w h; cases h; rw [decode_word]; rfl

theorem packsH2 (d : BitVec 7) (a : BitVec 7) (b : BitVec 7) : Statement (.packsH2 d a b) := by
  intro w h; cases h; rw [decode_word]; rfl

theorem pminH2 (d : BitVec 7) (a : BitVec 7) (b : BitVec 7) : Statement (.pminH2 d a b) := by
  intro w h; cases h; rw [decode_word]; rfl

theorem pmaxH2 (d : BitVec 7) (a : BitVec 7) (b : BitVec 7) : Statement (.pmaxH2 d a b) := by
  intro w h; cases h; rw [decode_word]; rfl

theorem paddH2I (d : BitVec 7) (a : BitVec 7) (i : BitVec 7) : Statement (.paddH2I d a i) := by
  intro w h; cases h; rw [decode_word]; rfl

theorem paddsH2I (d : BitVec 7) (a : BitVec 7) (i : BitVec 7) : Statement (.paddsH2I d a i) := by
  intro w h; cases h; rw [decode_word]; rfl

theorem psubH2I (d : BitVec 7) (a : BitVec 7) (i : BitVec 7) : Statement (.psubH2I d a i) := by
  intro w h; cases h; rw [decode_word]; rfl

theorem psubsH2I (d : BitVec 7) (a : BitVec 7) (i : BitVec 7) : Statement (.psubsH2I d a i) := by
  intro w h; cases h; rw [decode_word]; rfl

theorem paddB4I (d : BitVec 7) (a : BitVec 7) (i : BitVec 7) : Statement (.paddB4I d a i) := by
  intro w h; cases h; rw [decode_word]; rfl

theorem paddsB4I (d : BitVec 7) (a : BitVec 7) (i : BitVec 7) : Statement (.paddsB4I d a i) := by
  intro w h; cases h; rw [decode_word]; rfl

theorem psubsB4I (d : BitVec 7) (a : BitVec 7) (i : BitVec 7) : Statement (.psubsB4I d a i) := by
  intro w h; cases h; rw [decode_word]; rfl

theorem pmaddH2I (d : BitVec 7) (a : BitVec 7) (i : BitVec 7) : Statement (.pmaddH2I d a i) := by
  intro w h; cases h; rw [decode_word]; rfl

theorem pmaddB4I (d : BitVec 7) (a : BitVec 7) (i : BitVec 7) : Statement (.pmaddB4I d a i) := by
  intro w h; cases h; rw [decode_word]; rfl

theorem iaddsI (d : BitVec 7) (a : BitVec 7) (i : BitVec 7) : Statement (.iaddsI d a i) := by
  intro w h; cases h; rw [decode_word]; rfl

theorem isubsI (d : BitVec 7) (a : BitVec 7) (i : BitVec 7) : Statement (.isubsI d a i) := by
  intro w h; cases h; rw [decode_word]; rfl

theorem shrrI (d : BitVec 7) (a : BitVec 7) (i : BitVec 7) : Statement (.shrrI d a i) := by
  intro w h; cases h; rw [decode_word]; rfl

theorem shrrsH2I (d : BitVec 7) (a : BitVec 7) (i : BitVec 7) : Statement (.shrrsH2I d a i) := by
  intro w h; cases h; rw [decode_word]; rfl

theorem packH2I (d : BitVec 7) (a : BitVec 7) (i : BitVec 7) : Statement (.packH2I d a i) := by
  intro w h; cases h; rw [decode_word]; rfl

theorem packsH2I (d : BitVec 7) (a : BitVec 7) (i : BitVec 7) : Statement (.packsH2I d a i) := by
  intro w h; cases h; rw [decode_word]; rfl

theorem pminH2I (d : BitVec 7) (a : BitVec 7) (i : BitVec 7) : Statement (.pminH2I d a i) := by
  intro w h; cases h; rw [decode_word]; rfl

theorem pmaxH2I (d : BitVec 7) (a : BitVec 7) (i : BitVec 7) : Statement (.pmaxH2I d a i) := by
  intro w h; cases h; rw [decode_word]; rfl

theorem fadd (u : Bool) (d : BitVec 7) (a : BitVec 7) (b : BitVec 7) : Statement (.fadd u d a b) := by
  intro w h; cases h; rw [decode_word]; cases u <;> rfl

theorem fsub (u : Bool) (d : BitVec 7) (a : BitVec 7) (b : BitVec 7) : Statement (.fsub u d a b) := by
  intro w h; cases h; rw [decode_word]; cases u <;> rfl

theorem fmul (u : Bool) (d : BitVec 7) (a : BitVec 7) (b : BitVec 7) : Statement (.fmul u d a b) := by
  intro w h; cases h; rw [decode_word]; cases u <;> rfl

theorem ffma (u : Bool) (d : BitVec 7) (a : BitVec 7) (b : BitVec 7) : Statement (.ffma u d a b) := by
  intro w h; cases h; rw [decode_word]; cases u <;> rfl

theorem fmin (u : Bool) (d : BitVec 7) (a : BitVec 7) (b : BitVec 7) : Statement (.fmin u d a b) := by
  intro w h; cases h; rw [decode_word]; cases u <;> rfl

theorem fmax (u : Bool) (d : BitVec 7) (a : BitVec 7) (b : BitVec 7) : Statement (.fmax u d a b) := by
  intro w h; cases h; rw [decode_word]; cases u <;> rfl

theorem fabs (u : Bool) (d : BitVec 7) (a : BitVec 7) : Statement (.fabs u d a) := by
  intro w h; cases h; rw [decode_word]; cases u <;> rfl

theorem fneg (u : Bool) (d : BitVec 7) (a : BitVec 7) : Statement (.fneg u d a) := by
  intro w h; cases h; rw [decode_word]; cases u <;> rfl

theorem hadd2 (d : BitVec 7) (a : BitVec 7) (b : BitVec 7) : Statement (.hadd2 d a b) := by
  intro w h; cases h; rw [decode_word]; rfl

theorem hmul2 (d : BitVec 7) (a : BitVec 7) (b : BitVec 7) : Statement (.hmul2 d a b) := by
  intro w h; cases h; rw [decode_word]; rfl

theorem hfma2 (d : BitVec 7) (a : BitVec 7) (b : BitVec 7) : Statement (.hfma2 d a b) := by
  intro w h; cases h; rw [decode_word]; rfl

theorem bfma2 (d : BitVec 7) (a : BitVec 7) (b : BitVec 7) : Statement (.bfma2 d a b) := by
  intro w h; cases h; rw [decode_word]; rfl

theorem frnd (d : BitVec 7) (a : BitVec 7) (r : BitVec 7) : Statement (.frnd d a r) := by
  intro w h; cases h; rw [decode_word]; rfl

theorem fclass (d : BitVec 7) (a : BitVec 7) : Statement (.fclass d a) := by
  intro w h; cases h; rw [decode_word]; rfl

theorem dadd (u : Bool) (d : BitVec 7) (a : BitVec 7) (b : BitVec 7) : Statement (.dadd u d a b) := by
  intro w h; cases h; rw [decode_word]; cases u <;> rfl

theorem dsub (u : Bool) (d : BitVec 7) (a : BitVec 7) (b : BitVec 7) : Statement (.dsub u d a b) := by
  intro w h; cases h; rw [decode_word]; cases u <;> rfl

theorem dmul (u : Bool) (d : BitVec 7) (a : BitVec 7) (b : BitVec 7) : Statement (.dmul u d a b) := by
  intro w h; cases h; rw [decode_word]; cases u <;> rfl

theorem dfma (u : Bool) (d : BitVec 7) (a : BitVec 7) (b : BitVec 7) : Statement (.dfma u d a b) := by
  intro w h; cases h; rw [decode_word]; cases u <;> rfl

theorem dmin (u : Bool) (d : BitVec 7) (a : BitVec 7) (b : BitVec 7) : Statement (.dmin u d a b) := by
  intro w h; cases h; rw [decode_word]; cases u <;> rfl

theorem dmax (u : Bool) (d : BitVec 7) (a : BitVec 7) (b : BitVec 7) : Statement (.dmax u d a b) := by
  intro w h; cases h; rw [decode_word]; cases u <;> rfl

theorem dabs (u : Bool) (d : BitVec 7) (a : BitVec 7) : Statement (.dabs u d a) := by
  intro w h; cases h; rw [decode_word]; cases u <;> rfl

theorem dneg (u : Bool) (d : BitVec 7) (a : BitVec 7) : Statement (.dneg u d a) := by
  intro w h; cases h; rw [decode_word]; cases u <;> rfl

theorem drnd (d : BitVec 7) (a : BitVec 7) (r : BitVec 7) : Statement (.drnd d a r) := by
  intro w h; cases h; rw [decode_word]; rfl

theorem dclass (d : BitVec 7) (a : BitVec 7) : Statement (.dclass d a) := by
  intro w h; cases h; rw [decode_word]; rfl

theorem icmpIEq (u : Bool) (d : BitVec 7) (a : BitVec 7) (b : BitVec 7) : Statement (.icmpIEq u d a b) := by
  intro w h; cases h; rw [decode_word]; cases u <;> rfl

theorem icmpINe (u : Bool) (d : BitVec 7) (a : BitVec 7) (b : BitVec 7) : Statement (.icmpINe u d a b) := by
  intro w h; cases h; rw [decode_word]; cases u <;> rfl

theorem icmpILt (u : Bool) (d : BitVec 7) (a : BitVec 7) (b : BitVec 7) : Statement (.icmpILt u d a b) := by
  intro w h; cases h; rw [decode_word]; cases u <;> rfl

theorem icmpILe (u : Bool) (d : BitVec 7) (a : BitVec 7) (b : BitVec 7) : Statement (.icmpILe u d a b) := by
  intro w h; cases h; rw [decode_word]; cases u <;> rfl

theorem icmpIGt (u : Bool) (d : BitVec 7) (a : BitVec 7) (b : BitVec 7) : Statement (.icmpIGt u d a b) := by
  intro w h; cases h; rw [decode_word]; cases u <;> rfl

theorem icmpIGe (u : Bool) (d : BitVec 7) (a : BitVec 7) (b : BitVec 7) : Statement (.icmpIGe u d a b) := by
  intro w h; cases h; rw [decode_word]; cases u <;> rfl

theorem icmpNLt (u : Bool) (d : BitVec 7) (a : BitVec 7) (b : BitVec 7) : Statement (.icmpNLt u d a b) := by
  intro w h; cases h; rw [decode_word]; cases u <;> rfl

theorem icmpNLe (u : Bool) (d : BitVec 7) (a : BitVec 7) (b : BitVec 7) : Statement (.icmpNLe u d a b) := by
  intro w h; cases h; rw [decode_word]; cases u <;> rfl

theorem icmpNGt (u : Bool) (d : BitVec 7) (a : BitVec 7) (b : BitVec 7) : Statement (.icmpNGt u d a b) := by
  intro w h; cases h; rw [decode_word]; cases u <;> rfl

theorem icmpNGe (u : Bool) (d : BitVec 7) (a : BitVec 7) (b : BitVec 7) : Statement (.icmpNGe u d a b) := by
  intro w h; cases h; rw [decode_word]; cases u <;> rfl

theorem fcmpEq (u : Bool) (d : BitVec 7) (a : BitVec 7) (b : BitVec 7) : Statement (.fcmpEq u d a b) := by
  intro w h; cases h; rw [decode_word]; cases u <;> rfl

theorem fcmpNe (u : Bool) (d : BitVec 7) (a : BitVec 7) (b : BitVec 7) : Statement (.fcmpNe u d a b) := by
  intro w h; cases h; rw [decode_word]; cases u <;> rfl

theorem fcmpLt (u : Bool) (d : BitVec 7) (a : BitVec 7) (b : BitVec 7) : Statement (.fcmpLt u d a b) := by
  intro w h; cases h; rw [decode_word]; cases u <;> rfl

theorem fcmpLe (u : Bool) (d : BitVec 7) (a : BitVec 7) (b : BitVec 7) : Statement (.fcmpLe u d a b) := by
  intro w h; cases h; rw [decode_word]; cases u <;> rfl

theorem fcmpGt (u : Bool) (d : BitVec 7) (a : BitVec 7) (b : BitVec 7) : Statement (.fcmpGt u d a b) := by
  intro w h; cases h; rw [decode_word]; cases u <;> rfl

theorem fcmpGe (u : Bool) (d : BitVec 7) (a : BitVec 7) (b : BitVec 7) : Statement (.fcmpGe u d a b) := by
  intro w h; cases h; rw [decode_word]; cases u <;> rfl

theorem fcmpUn (u : Bool) (d : BitVec 7) (a : BitVec 7) (b : BitVec 7) : Statement (.fcmpUn u d a b) := by
  intro w h; cases h; rw [decode_word]; cases u <;> rfl

theorem fcmpOrd (u : Bool) (d : BitVec 7) (a : BitVec 7) (b : BitVec 7) : Statement (.fcmpOrd u d a b) := by
  intro w h; cases h; rw [decode_word]; cases u <;> rfl

theorem dcmpEq (u : Bool) (d : BitVec 7) (a : BitVec 7) (b : BitVec 7) : Statement (.dcmpEq u d a b) := by
  intro w h; cases h; rw [decode_word]; cases u <;> rfl

theorem dcmpNe (u : Bool) (d : BitVec 7) (a : BitVec 7) (b : BitVec 7) : Statement (.dcmpNe u d a b) := by
  intro w h; cases h; rw [decode_word]; cases u <;> rfl

theorem dcmpLt (u : Bool) (d : BitVec 7) (a : BitVec 7) (b : BitVec 7) : Statement (.dcmpLt u d a b) := by
  intro w h; cases h; rw [decode_word]; cases u <;> rfl

theorem dcmpLe (u : Bool) (d : BitVec 7) (a : BitVec 7) (b : BitVec 7) : Statement (.dcmpLe u d a b) := by
  intro w h; cases h; rw [decode_word]; cases u <;> rfl

theorem dcmpGt (u : Bool) (d : BitVec 7) (a : BitVec 7) (b : BitVec 7) : Statement (.dcmpGt u d a b) := by
  intro w h; cases h; rw [decode_word]; cases u <;> rfl

theorem dcmpGe (u : Bool) (d : BitVec 7) (a : BitVec 7) (b : BitVec 7) : Statement (.dcmpGe u d a b) := by
  intro w h; cases h; rw [decode_word]; cases u <;> rfl

theorem dcmpUn (u : Bool) (d : BitVec 7) (a : BitVec 7) (b : BitVec 7) : Statement (.dcmpUn u d a b) := by
  intro w h; cases h; rw [decode_word]; cases u <;> rfl

theorem dcmpOrd (u : Bool) (d : BitVec 7) (a : BitVec 7) (b : BitVec 7) : Statement (.dcmpOrd u d a b) := by
  intro w h; cases h; rw [decode_word]; cases u <;> rfl

theorem kand (d : BitVec 7) (a : BitVec 7) (b : BitVec 7) : Statement (.kand d a b) := by
  intro w h; cases h; rw [decode_word]; rfl

theorem kor (d : BitVec 7) (a : BitVec 7) (b : BitVec 7) : Statement (.kor d a b) := by
  intro w h; cases h; rw [decode_word]; rfl

theorem kxor (d : BitVec 7) (a : BitVec 7) (b : BitVec 7) : Statement (.kxor d a b) := by
  intro w h; cases h; rw [decode_word]; rfl

theorem kandn (d : BitVec 7) (a : BitVec 7) (b : BitVec 7) : Statement (.kandn d a b) := by
  intro w h; cases h; rw [decode_word]; rfl

theorem knot (d : BitVec 7) (a : BitVec 7) : Statement (.knot d a) := by
  intro w h; cases h; rw [decode_word]; rfl

theorem kmov (d : BitVec 7) (a : BitVec 7) : Statement (.kmov d a) := by
  intro w h; cases h; rw [decode_word]; rfl

theorem ktov (d : BitVec 7) (a : BitVec 7) : Statement (.ktov d a) := by
  intro w h; cases h; rw [decode_word]; rfl

theorem vtok (d : BitVec 7) (a : BitVec 7) : Statement (.vtok d a) := by
  intro w h; cases h; rw [decode_word]; rfl

theorem cand (d : BitVec 7) (a : BitVec 7) (b : BitVec 7) : Statement (.cand d a b) := by
  intro w h; cases h; rw [decode_word]; rfl

theorem cor (d : BitVec 7) (a : BitVec 7) (b : BitVec 7) : Statement (.cor d a b) := by
  intro w h; cases h; rw [decode_word]; rfl

theorem cxor (d : BitVec 7) (a : BitVec 7) (b : BitVec 7) : Statement (.cxor d a b) := by
  intro w h; cases h; rw [decode_word]; rfl

theorem candn (d : BitVec 7) (a : BitVec 7) (b : BitVec 7) : Statement (.candn d a b) := by
  intro w h; cases h; rw [decode_word]; rfl

theorem cnot (d : BitVec 7) (a : BitVec 7) : Statement (.cnot d a) := by
  intro w h; cases h; rw [decode_word]; rfl

theorem cmov (d : BitVec 7) (a : BitVec 7) : Statement (.cmov d a) := by
  intro w h; cases h; rw [decode_word]; rfl

theorem f2iI (d : BitVec 7) (a : BitVec 7) (r : BitVec 7) : Statement (.f2iI d a r) := by
  intro w h; cases h; rw [decode_word]; rfl

theorem f2iN (d : BitVec 7) (a : BitVec 7) (r : BitVec 7) : Statement (.f2iN d a r) := by
  intro w h; cases h; rw [decode_word]; rfl

theorem i2fI (d : BitVec 7) (a : BitVec 7) : Statement (.i2fI d a) := by
  intro w h; cases h; rw [decode_word]; rfl

theorem i2fN (d : BitVec 7) (a : BitVec 7) : Statement (.i2fN d a) := by
  intro w h; cases h; rw [decode_word]; rfl

theorem f2d (d : BitVec 7) (a : BitVec 7) : Statement (.f2d d a) := by
  intro w h; cases h; rw [decode_word]; rfl

theorem d2f (d : BitVec 7) (a : BitVec 7) : Statement (.d2f d a) := by
  intro w h; cases h; rw [decode_word]; rfl

theorem d2iI (d : BitVec 7) (a : BitVec 7) (r : BitVec 7) : Statement (.d2iI d a r) := by
  intro w h; cases h; rw [decode_word]; rfl

theorem i2dI (d : BitVec 7) (a : BitVec 7) : Statement (.i2dI d a) := by
  intro w h; cases h; rw [decode_word]; rfl

theorem f2h2 (d : BitVec 7) (a : BitVec 7) (b : BitVec 7) : Statement (.f2h2 d a b) := by
  intro w h; cases h; rw [decode_word]; rfl

theorem h2fLo (d : BitVec 7) (a : BitVec 7) : Statement (.h2fLo d a) := by
  intro w h; cases h; rw [decode_word]; rfl

theorem h2fHi (d : BitVec 7) (a : BitVec 7) : Statement (.h2fHi d a) := by
  intro w h; cases h; rw [decode_word]; rfl

theorem f2bf2 (d : BitVec 7) (a : BitVec 7) (b : BitVec 7) : Statement (.f2bf2 d a b) := by
  intro w h; cases h; rw [decode_word]; rfl

theorem bf2fLo (d : BitVec 7) (a : BitVec 7) : Statement (.bf2fLo d a) := by
  intro w h; cases h; rw [decode_word]; rfl

theorem bf2fHi (d : BitVec 7) (a : BitVec 7) : Statement (.bf2fHi d a) := by
  intro w h; cases h; rw [decode_word]; rfl

theorem cvtn (n : BitVec 3) (d : BitVec 7) (a : BitVec 7) : Statement (.cvtn n d a) := by
  intro w h; cases h; rw [decode_word]; rcases field3 n with rfl | rfl | rfl | rfl | rfl | rfl | rfl | rfl <;> rfl

theorem cvtw (n : BitVec 3) (d : BitVec 7) (a : BitVec 7) : Statement (.cvtw n d a) := by
  intro w h; cases h; rw [decode_word]; rcases field3 n with rfl | rfl | rfl | rfl | rfl | rfl | rfl | rfl <;> rfl

theorem movs (d : BitVec 7) (a : BitVec 7) : Statement (.movs d a) := by
  intro w h; cases h; rw [decode_word]; rfl

theorem movsw (a : BitVec 7) (b : BitVec 7) : Statement (.movsw a b) := by
  intro w h; cases h; rw [decode_word]; rfl

theorem rdlane (d : BitVec 7) (a : BitVec 7) (b : BitVec 7) : Statement (.rdlane d a b) := by
  intro w h; cases h; rw [decode_word]; rfl

theorem wrlane (d : BitVec 7) (a : BitVec 7) (b : BitVec 7) : Statement (.wrlane d a b) := by
  intro w h; cases h; rw [decode_word]; rfl

theorem ktos (d : BitVec 7) (a : BitVec 7) (h : BitVec 7) : Statement (.ktos d a h) := by
  intro w h; cases h; rw [decode_word]; rfl

theorem stok (d : BitVec 7) (a : BitVec 7) (h : BitVec 7) : Statement (.stok d a h) := by
  intro w h; cases h; rw [decode_word]; rfl

theorem shfl (d : BitVec 7) (a : BitVec 7) (b : BitVec 7) : Statement (.shfl d a b) := by
  intro w h; cases h; rw [decode_word]; rfl

theorem shflx (d : BitVec 7) (a : BitVec 7) (b : BitVec 7) : Statement (.shflx d a b) := by
  intro w h; cases h; rw [decode_word]; rfl

theorem slideup (d : BitVec 7) (a : BitVec 7) (b : BitVec 7) : Statement (.slideup d a b) := by
  intro w h; cases h; rw [decode_word]; rfl

theorem slidedn (d : BitVec 7) (a : BitVec 7) (b : BitVec 7) : Statement (.slidedn d a b) := by
  intro w h; cases h; rw [decode_word]; rfl

theorem slideuph (d : BitVec 7) (a : BitVec 7) (b : BitVec 7) : Statement (.slideuph d a b) := by
  intro w h; cases h; rw [decode_word]; rfl

theorem slidednh (d : BitVec 7) (a : BitVec 7) (b : BitVec 7) : Statement (.slidednh d a b) := by
  intro w h; cases h; rw [decode_word]; rfl

theorem bcast (d : BitVec 7) (a : BitVec 7) (b : BitVec 7) : Statement (.bcast d a b) := by
  intro w h; cases h; rw [decode_word]; rfl

theorem vcompress (d : BitVec 7) (a : BitVec 7) (b : BitVec 7) : Statement (.vcompress d a b) := by
  intro w h; cases h; rw [decode_word]; rfl

theorem vcompressZ (d : BitVec 7) (a : BitVec 7) (b : BitVec 7) : Statement (.vcompressZ d a b) := by
  intro w h; cases h; rw [decode_word]; rfl

theorem vexpand (d : BitVec 7) (a : BitVec 7) (b : BitVec 7) : Statement (.vexpand d a b) := by
  intro w h; cases h; rw [decode_word]; rfl

theorem voteany (d : BitVec 7) (a : BitVec 7) : Statement (.voteany d a) := by
  intro w h; cases h; rw [decode_word]; rfl

theorem voteall (d : BitVec 7) (a : BitVec 7) : Statement (.voteall d a) := by
  intro w h; cases h; rw [decode_word]; rfl

theorem ballot (d : BitVec 7) (a : BitVec 7) : Statement (.ballot d a) := by
  intro w h; cases h; rw [decode_word]; rfl

theorem rcp (d : BitVec 7) (a : BitVec 7) : Statement (.rcp d a) := by
  intro w h; cases h; rw [decode_word]; rfl

theorem rsq (d : BitVec 7) (a : BitVec 7) : Statement (.rsq d a) := by
  intro w h; cases h; rw [decode_word]; rfl

theorem sqrt (d : BitVec 7) (a : BitVec 7) : Statement (.sqrt d a) := by
  intro w h; cases h; rw [decode_word]; rfl

theorem log2 (d : BitVec 7) (a : BitVec 7) : Statement (.log2 d a) := by
  intro w h; cases h; rw [decode_word]; rfl

theorem exp2 (d : BitVec 7) (a : BitVec 7) : Statement (.exp2 d a) := by
  intro w h; cases h; rw [decode_word]; rfl

theorem sin (d : BitVec 7) (a : BitVec 7) : Statement (.sin d a) := by
  intro w h; cases h; rw [decode_word]; rfl

theorem cos (d : BitVec 7) (a : BitVec 7) : Statement (.cos d a) := by
  intro w h; cases h; rw [decode_word]; rfl

theorem tanh (d : BitVec 7) (a : BitVec 7) : Statement (.tanh d a) := by
  intro w h; cases h; rw [decode_word]; rfl

theorem drcp (d : BitVec 7) (a : BitVec 7) : Statement (.drcp d a) := by
  intro w h; cases h; rw [decode_word]; rfl

theorem dsqrt (d : BitVec 7) (a : BitVec 7) : Statement (.dsqrt d a) := by
  intro w h; cases h; rw [decode_word]; rfl

theorem ldlN8 (u : Bool) (d : BitVec 7) (a : BitVec 7) (o : BitVec 3) (n : BitVec 4) : Statement (.ldlN8 u d a o n) := by
  intro w h; cases h; rw [decode_word]; cases u
  · exact congrArg Except.ok (by rw [ord_append, base_append])
  · exact congrArg Except.ok (by rw [ord_append, base_append])

theorem ldlI8 (u : Bool) (d : BitVec 7) (a : BitVec 7) (o : BitVec 3) (n : BitVec 4) : Statement (.ldlI8 u d a o n) := by
  intro w h; cases h; rw [decode_word]; cases u
  · exact congrArg Except.ok (by rw [ord_append, base_append])
  · exact congrArg Except.ok (by rw [ord_append, base_append])

theorem ldlN16 (u : Bool) (d : BitVec 7) (a : BitVec 7) (o : BitVec 3) (n : BitVec 4) : Statement (.ldlN16 u d a o n) := by
  intro w h; cases h; rw [decode_word]; cases u
  · exact congrArg Except.ok (by rw [ord_append, base_append])
  · exact congrArg Except.ok (by rw [ord_append, base_append])

theorem ldlI16 (u : Bool) (d : BitVec 7) (a : BitVec 7) (o : BitVec 3) (n : BitVec 4) : Statement (.ldlI16 u d a o n) := by
  intro w h; cases h; rw [decode_word]; cases u
  · exact congrArg Except.ok (by rw [ord_append, base_append])
  · exact congrArg Except.ok (by rw [ord_append, base_append])

theorem ldl32 (u : Bool) (d : BitVec 7) (a : BitVec 7) (o : BitVec 3) (n : BitVec 4) : Statement (.ldl32 u d a o n) := by
  intro w h; cases h; rw [decode_word]; cases u
  · exact congrArg Except.ok (by rw [ord_append, base_append])
  · exact congrArg Except.ok (by rw [ord_append, base_append])

theorem ldl64 (u : Bool) (d : BitVec 7) (a : BitVec 7) (o : BitVec 3) (n : BitVec 4) : Statement (.ldl64 u d a o n) := by
  intro w h; cases h; rw [decode_word]; cases u
  · exact congrArg Except.ok (by rw [ord_append, base_append])
  · exact congrArg Except.ok (by rw [ord_append, base_append])

theorem ldl128 (u : Bool) (d : BitVec 7) (a : BitVec 7) (o : BitVec 3) (n : BitVec 4) : Statement (.ldl128 u d a o n) := by
  intro w h; cases h; rw [decode_word]; cases u
  · exact congrArg Except.ok (by rw [ord_append, base_append])
  · exact congrArg Except.ok (by rw [ord_append, base_append])

theorem stl8 (u : Bool) (d : BitVec 7) (a : BitVec 7) (o : BitVec 3) (n : BitVec 4) : Statement (.stl8 u d a o n) := by
  intro w h; cases h; rw [decode_word]; cases u
  · exact congrArg Except.ok (by rw [ord_append, base_append])
  · exact congrArg Except.ok (by rw [ord_append, base_append])

theorem stl16 (u : Bool) (d : BitVec 7) (a : BitVec 7) (o : BitVec 3) (n : BitVec 4) : Statement (.stl16 u d a o n) := by
  intro w h; cases h; rw [decode_word]; cases u
  · exact congrArg Except.ok (by rw [ord_append, base_append])
  · exact congrArg Except.ok (by rw [ord_append, base_append])

theorem stl32 (u : Bool) (d : BitVec 7) (a : BitVec 7) (o : BitVec 3) (n : BitVec 4) : Statement (.stl32 u d a o n) := by
  intro w h; cases h; rw [decode_word]; cases u
  · exact congrArg Except.ok (by rw [ord_append, base_append])
  · exact congrArg Except.ok (by rw [ord_append, base_append])

theorem stl64 (u : Bool) (d : BitVec 7) (a : BitVec 7) (o : BitVec 3) (n : BitVec 4) : Statement (.stl64 u d a o n) := by
  intro w h; cases h; rw [decode_word]; cases u
  · exact congrArg Except.ok (by rw [ord_append, base_append])
  · exact congrArg Except.ok (by rw [ord_append, base_append])

theorem stl128 (u : Bool) (d : BitVec 7) (a : BitVec 7) (o : BitVec 3) (n : BitVec 4) : Statement (.stl128 u d a o n) := by
  intro w h; cases h; rw [decode_word]; cases u
  · exact congrArg Except.ok (by rw [ord_append, base_append])
  · exact congrArg Except.ok (by rw [ord_append, base_append])

theorem atlAdd (u : Bool) (d : BitVec 7) (a : BitVec 7) (o : BitVec 3) (n : BitVec 4) : Statement (.atlAdd u d a o n) := by
  intro w h; cases h; rw [decode_word]; cases u
  · exact congrArg Except.ok (by rw [ord_append, base_append])
  · exact congrArg Except.ok (by rw [ord_append, base_append])

theorem atlMinI (u : Bool) (d : BitVec 7) (a : BitVec 7) (o : BitVec 3) (n : BitVec 4) : Statement (.atlMinI u d a o n) := by
  intro w h; cases h; rw [decode_word]; cases u
  · exact congrArg Except.ok (by rw [ord_append, base_append])
  · exact congrArg Except.ok (by rw [ord_append, base_append])

theorem atlMaxI (u : Bool) (d : BitVec 7) (a : BitVec 7) (o : BitVec 3) (n : BitVec 4) : Statement (.atlMaxI u d a o n) := by
  intro w h; cases h; rw [decode_word]; cases u
  · exact congrArg Except.ok (by rw [ord_append, base_append])
  · exact congrArg Except.ok (by rw [ord_append, base_append])

theorem atlAnd (u : Bool) (d : BitVec 7) (a : BitVec 7) (o : BitVec 3) (n : BitVec 4) : Statement (.atlAnd u d a o n) := by
  intro w h; cases h; rw [decode_word]; cases u
  · exact congrArg Except.ok (by rw [ord_append, base_append])
  · exact congrArg Except.ok (by rw [ord_append, base_append])

theorem atlOr (u : Bool) (d : BitVec 7) (a : BitVec 7) (o : BitVec 3) (n : BitVec 4) : Statement (.atlOr u d a o n) := by
  intro w h; cases h; rw [decode_word]; cases u
  · exact congrArg Except.ok (by rw [ord_append, base_append])
  · exact congrArg Except.ok (by rw [ord_append, base_append])

theorem atlXor (u : Bool) (d : BitVec 7) (a : BitVec 7) (o : BitVec 3) (n : BitVec 4) : Statement (.atlXor u d a o n) := by
  intro w h; cases h; rw [decode_word]; cases u
  · exact congrArg Except.ok (by rw [ord_append, base_append])
  · exact congrArg Except.ok (by rw [ord_append, base_append])

theorem atlXchg (u : Bool) (d : BitVec 7) (a : BitVec 7) (o : BitVec 3) (n : BitVec 4) : Statement (.atlXchg u d a o n) := by
  intro w h; cases h; rw [decode_word]; cases u
  · exact congrArg Except.ok (by rw [ord_append, base_append])
  · exact congrArg Except.ok (by rw [ord_append, base_append])

theorem atlCas (u : Bool) (d : BitVec 7) (a : BitVec 7) (o : BitVec 3) (n : BitVec 4) : Statement (.atlCas u d a o n) := by
  intro w h; cases h; rw [decode_word]; cases u
  · exact congrArg Except.ok (by rw [ord_append, base_append])
  · exact congrArg Except.ok (by rw [ord_append, base_append])

theorem stlE4 (d : BitVec 7) (a : BitVec 7) (o : BitVec 3) (n : BitVec 4) : Statement (.stlE4 d a o n) := by
  intro w h; cases h; rw [decode_word]; exact congrArg Except.ok (by rw [ord_append, base_append])

theorem stlE6 (d : BitVec 7) (a : BitVec 7) (o : BitVec 3) (n : BitVec 4) : Statement (.stlE6 d a o n) := by
  intro w h; cases h; rw [decode_word]; exact congrArg Except.ok (by rw [ord_append, base_append])

theorem ldgN8 (u : Bool) (d : BitVec 7) (a : BitVec 7) (o : BitVec 3) (n : BitVec 4) : Statement (.ldgN8 u d a o n) := by
  intro w h; cases h; rw [decode_word]; cases u
  · exact congrArg Except.ok (by rw [ord_append, base_append])
  · exact congrArg Except.ok (by rw [ord_append, base_append])

theorem ldgI8 (u : Bool) (d : BitVec 7) (a : BitVec 7) (o : BitVec 3) (n : BitVec 4) : Statement (.ldgI8 u d a o n) := by
  intro w h; cases h; rw [decode_word]; cases u
  · exact congrArg Except.ok (by rw [ord_append, base_append])
  · exact congrArg Except.ok (by rw [ord_append, base_append])

theorem ldgN16 (u : Bool) (d : BitVec 7) (a : BitVec 7) (o : BitVec 3) (n : BitVec 4) : Statement (.ldgN16 u d a o n) := by
  intro w h; cases h; rw [decode_word]; cases u
  · exact congrArg Except.ok (by rw [ord_append, base_append])
  · exact congrArg Except.ok (by rw [ord_append, base_append])

theorem ldgI16 (u : Bool) (d : BitVec 7) (a : BitVec 7) (o : BitVec 3) (n : BitVec 4) : Statement (.ldgI16 u d a o n) := by
  intro w h; cases h; rw [decode_word]; cases u
  · exact congrArg Except.ok (by rw [ord_append, base_append])
  · exact congrArg Except.ok (by rw [ord_append, base_append])

theorem ldg32 (u : Bool) (d : BitVec 7) (a : BitVec 7) (o : BitVec 3) (n : BitVec 4) : Statement (.ldg32 u d a o n) := by
  intro w h; cases h; rw [decode_word]; cases u
  · exact congrArg Except.ok (by rw [ord_append, base_append])
  · exact congrArg Except.ok (by rw [ord_append, base_append])

theorem ldg64 (u : Bool) (d : BitVec 7) (a : BitVec 7) (o : BitVec 3) (n : BitVec 4) : Statement (.ldg64 u d a o n) := by
  intro w h; cases h; rw [decode_word]; cases u
  · exact congrArg Except.ok (by rw [ord_append, base_append])
  · exact congrArg Except.ok (by rw [ord_append, base_append])

theorem ldg128 (u : Bool) (d : BitVec 7) (a : BitVec 7) (o : BitVec 3) (n : BitVec 4) : Statement (.ldg128 u d a o n) := by
  intro w h; cases h; rw [decode_word]; cases u
  · exact congrArg Except.ok (by rw [ord_append, base_append])
  · exact congrArg Except.ok (by rw [ord_append, base_append])

theorem stg8 (u : Bool) (d : BitVec 7) (a : BitVec 7) (o : BitVec 3) (n : BitVec 4) : Statement (.stg8 u d a o n) := by
  intro w h; cases h; rw [decode_word]; cases u
  · exact congrArg Except.ok (by rw [ord_append, base_append])
  · exact congrArg Except.ok (by rw [ord_append, base_append])

theorem stg16 (u : Bool) (d : BitVec 7) (a : BitVec 7) (o : BitVec 3) (n : BitVec 4) : Statement (.stg16 u d a o n) := by
  intro w h; cases h; rw [decode_word]; cases u
  · exact congrArg Except.ok (by rw [ord_append, base_append])
  · exact congrArg Except.ok (by rw [ord_append, base_append])

theorem stg32 (u : Bool) (d : BitVec 7) (a : BitVec 7) (o : BitVec 3) (n : BitVec 4) : Statement (.stg32 u d a o n) := by
  intro w h; cases h; rw [decode_word]; cases u
  · exact congrArg Except.ok (by rw [ord_append, base_append])
  · exact congrArg Except.ok (by rw [ord_append, base_append])

theorem stg64 (u : Bool) (d : BitVec 7) (a : BitVec 7) (o : BitVec 3) (n : BitVec 4) : Statement (.stg64 u d a o n) := by
  intro w h; cases h; rw [decode_word]; cases u
  · exact congrArg Except.ok (by rw [ord_append, base_append])
  · exact congrArg Except.ok (by rw [ord_append, base_append])

theorem stg128 (u : Bool) (d : BitVec 7) (a : BitVec 7) (o : BitVec 3) (n : BitVec 4) : Statement (.stg128 u d a o n) := by
  intro w h; cases h; rw [decode_word]; cases u
  · exact congrArg Except.ok (by rw [ord_append, base_append])
  · exact congrArg Except.ok (by rw [ord_append, base_append])

theorem atgAdd (u : Bool) (d : BitVec 7) (a : BitVec 7) (o : BitVec 3) (n : BitVec 4) : Statement (.atgAdd u d a o n) := by
  intro w h; cases h; rw [decode_word]; cases u
  · exact congrArg Except.ok (by rw [ord_append, base_append])
  · exact congrArg Except.ok (by rw [ord_append, base_append])

theorem atgMinI (u : Bool) (d : BitVec 7) (a : BitVec 7) (o : BitVec 3) (n : BitVec 4) : Statement (.atgMinI u d a o n) := by
  intro w h; cases h; rw [decode_word]; cases u
  · exact congrArg Except.ok (by rw [ord_append, base_append])
  · exact congrArg Except.ok (by rw [ord_append, base_append])

theorem atgMaxI (u : Bool) (d : BitVec 7) (a : BitVec 7) (o : BitVec 3) (n : BitVec 4) : Statement (.atgMaxI u d a o n) := by
  intro w h; cases h; rw [decode_word]; cases u
  · exact congrArg Except.ok (by rw [ord_append, base_append])
  · exact congrArg Except.ok (by rw [ord_append, base_append])

theorem atgAnd (u : Bool) (d : BitVec 7) (a : BitVec 7) (o : BitVec 3) (n : BitVec 4) : Statement (.atgAnd u d a o n) := by
  intro w h; cases h; rw [decode_word]; cases u
  · exact congrArg Except.ok (by rw [ord_append, base_append])
  · exact congrArg Except.ok (by rw [ord_append, base_append])

theorem atgOr (u : Bool) (d : BitVec 7) (a : BitVec 7) (o : BitVec 3) (n : BitVec 4) : Statement (.atgOr u d a o n) := by
  intro w h; cases h; rw [decode_word]; cases u
  · exact congrArg Except.ok (by rw [ord_append, base_append])
  · exact congrArg Except.ok (by rw [ord_append, base_append])

theorem atgXor (u : Bool) (d : BitVec 7) (a : BitVec 7) (o : BitVec 3) (n : BitVec 4) : Statement (.atgXor u d a o n) := by
  intro w h; cases h; rw [decode_word]; cases u
  · exact congrArg Except.ok (by rw [ord_append, base_append])
  · exact congrArg Except.ok (by rw [ord_append, base_append])

theorem atgXchg (u : Bool) (d : BitVec 7) (a : BitVec 7) (o : BitVec 3) (n : BitVec 4) : Statement (.atgXchg u d a o n) := by
  intro w h; cases h; rw [decode_word]; cases u
  · exact congrArg Except.ok (by rw [ord_append, base_append])
  · exact congrArg Except.ok (by rw [ord_append, base_append])

theorem atgCas (u : Bool) (d : BitVec 7) (a : BitVec 7) (o : BitVec 3) (n : BitVec 4) : Statement (.atgCas u d a o n) := by
  intro w h; cases h; rw [decode_word]; cases u
  · exact congrArg Except.ok (by rw [ord_append, base_append])
  · exact congrArg Except.ok (by rw [ord_append, base_append])

theorem stgE4 (u : Bool) (d : BitVec 7) (a : BitVec 7) (o : BitVec 3) (n : BitVec 4) : Statement (.stgE4 u d a o n) := by
  intro w h; cases h; rw [decode_word]; cases u
  · exact congrArg Except.ok (by rw [ord_append, base_append])
  · exact congrArg Except.ok (by rw [ord_append, base_append])

theorem stgE6 (u : Bool) (d : BitVec 7) (a : BitVec 7) (o : BitVec 3) (n : BitVec 4) : Statement (.stgE6 u d a o n) := by
  intro w h; cases h; rw [decode_word]; cases u
  · exact congrArg Except.ok (by rw [ord_append, base_append])
  · exact congrArg Except.ok (by rw [ord_append, base_append])

theorem atgCas64 (u : Bool) (d : BitVec 7) (a : BitVec 7) (o : BitVec 3) (n : BitVec 4) : Statement (.atgCas64 u d a o n) := by
  intro w h; cases h; rw [decode_word]; cases u
  · exact congrArg Except.ok (by rw [ord_append, base_append])
  · exact congrArg Except.ok (by rw [ord_append, base_append])

theorem atgFadd (u : Bool) (d : BitVec 7) (a : BitVec 7) (o : BitVec 3) (n : BitVec 4) : Statement (.atgFadd u d a o n) := by
  intro w h; cases h; rw [decode_word]; cases u
  · exact congrArg Except.ok (by rw [ord_append, base_append])
  · exact congrArg Except.ok (by rw [ord_append, base_append])

theorem redAdd (u : Bool) (d : BitVec 7) (a : BitVec 7) (o : BitVec 3) (n : BitVec 4) : Statement (.redAdd u d a o n) := by
  intro w h; cases h; rw [decode_word]; cases u
  · exact congrArg Except.ok (by rw [ord_append, base_append])
  · exact congrArg Except.ok (by rw [ord_append, base_append])

theorem redFadd (u : Bool) (d : BitVec 7) (a : BitVec 7) (o : BitVec 3) (n : BitVec 4) : Statement (.redFadd u d a o n) := by
  intro w h; cases h; rw [decode_word]; cases u
  · exact congrArg Except.ok (by rw [ord_append, base_append])
  · exact congrArg Except.ok (by rw [ord_append, base_append])

theorem redMinI (u : Bool) (d : BitVec 7) (a : BitVec 7) (o : BitVec 3) (n : BitVec 4) : Statement (.redMinI u d a o n) := by
  intro w h; cases h; rw [decode_word]; cases u
  · exact congrArg Except.ok (by rw [ord_append, base_append])
  · exact congrArg Except.ok (by rw [ord_append, base_append])

theorem redMaxI (u : Bool) (d : BitVec 7) (a : BitVec 7) (o : BitVec 3) (n : BitVec 4) : Statement (.redMaxI u d a o n) := by
  intro w h; cases h; rw [decode_word]; cases u
  · exact congrArg Except.ok (by rw [ord_append, base_append])
  · exact congrArg Except.ok (by rw [ord_append, base_append])

theorem ldrq32 (d : BitVec 7) (a : BitVec 7) (o : BitVec 3) (n : BitVec 4) : Statement (.ldrq32 d a o n) := by
  intro w h; cases h; rw [decode_word]; exact congrArg Except.ok (by rw [ord_append, base_append])

theorem ldrq128 (d : BitVec 7) (a : BitVec 7) (o : BitVec 3) (n : BitVec 4) : Statement (.ldrq128 d a o n) := by
  intro w h; cases h; rw [decode_word]; exact congrArg Except.ok (by rw [ord_append, base_append])

theorem cstore (d : BitVec 7) (a : BitVec 7) (o : BitVec 3) (n : BitVec 4) : Statement (.cstore d a o n) := by
  intro w h; cases h; rw [decode_word]; exact congrArg Except.ok (by rw [ord_append, base_append])

theorem pref (d : BitVec 7) (a : BitVec 7) (o : BitVec 3) (n : BitVec 4) : Statement (.pref d a o n) := by
  intro w h; cases h; rw [decode_word]; exact congrArg Except.ok (by rw [ord_append, base_append])

theorem tex2d (d : BitVec 7) (a : BitVec 7) (b : BitVec 7) : Statement (.tex2d d a b) := by
  intro w h; cases h; rw [decode_word]; rfl

theorem texfetch (d : BitVec 7) (a : BitVec 7) (b : BitVec 7) : Statement (.texfetch d a b) := by
  intro w h; cases h; rw [decode_word]; rfl

theorem texrq (d : BitVec 7) (a : BitVec 7) (b : BitVec 7) : Statement (.texrq d a b) := by
  intro w h; cases h; rw [decode_word]; rfl

theorem texlod (d : BitVec 7) (a : BitVec 7) (b : BitVec 7) : Statement (.texlod d a b) := by
  intro w h; cases h; rw [decode_word]; rfl

theorem rayq (d : BitVec 7) (a : BitVec 7) (b : BitVec 7) : Statement (.rayq d a b) := by
  intro w h; cases h; rw [decode_word]; rfl

theorem rayq64 (d : BitVec 7) (a : BitVec 7) (b : BitVec 7) : Statement (.rayq64 d a b) := by
  intro w h; cases h; rw [decode_word]; rfl

theorem raycont (d : BitVec 7) (b : BitVec 7) : Statement (.raycont d b) := by
  intro w h; cases h; rw [decode_word]; rfl

theorem rayhit (d : BitVec 7) : Statement (.rayhit d) := by
  intro w h; cases h; rw [decode_word]; rfl

theorem raycommit (d : BitVec 7) (a : BitVec 7) (b : BitVec 7) : Statement (.raycommit d a b) := by
  intro w h; cases h; rw [decode_word]; rfl

theorem rayabort : Statement (.rayabort) := by
  intro w h; cases h; rw [decode_word]; rfl

theorem neval (d : BitVec 7) (a : BitVec 7) (b : BitVec 7) : Statement (.neval d a b) := by
  intro w h; cases h; rw [decode_word]; rfl

theorem nevalH (d : BitVec 7) (a : BitVec 7) (b : BitVec 7) : Statement (.nevalH d a b) := by
  intro w h; cases h; rw [decode_word]; rfl

theorem xsortI (d : BitVec 7) (a : BitVec 7) (b : BitVec 7) : Statement (.xsortI d a b) := by
  intro w h; cases h; rw [decode_word]; rfl

theorem xsortN (d : BitVec 7) (a : BitVec 7) (b : BitVec 7) : Statement (.xsortN d a b) := by
  intro w h; cases h; rw [decode_word]; rfl

theorem xsortF (d : BitVec 7) (a : BitVec 7) (b : BitVec 7) : Statement (.xsortF d a b) := by
  intro w h; cases h; rw [decode_word]; rfl

theorem xscanAddI (d : BitVec 7) (a : BitVec 7) : Statement (.xscanAddI d a) := by
  intro w h; cases h; rw [decode_word]; rfl

theorem xscanAddF (d : BitVec 7) (a : BitVec 7) : Statement (.xscanAddF d a) := by
  intro w h; cases h; rw [decode_word]; rfl

theorem xscanMaxI (d : BitVec 7) (a : BitVec 7) : Statement (.xscanMaxI d a) := by
  intro w h; cases h; rw [decode_word]; rfl

theorem xredAddI (d : BitVec 7) (a : BitVec 7) : Statement (.xredAddI d a) := by
  intro w h; cases h; rw [decode_word]; rfl

theorem xredAddF (d : BitVec 7) (a : BitVec 7) : Statement (.xredAddF d a) := by
  intro w h; cases h; rw [decode_word]; rfl

theorem xredMinI (d : BitVec 7) (a : BitVec 7) : Statement (.xredMinI d a) := by
  intro w h; cases h; rw [decode_word]; rfl

theorem xredMaxI (d : BitVec 7) (a : BitVec 7) : Statement (.xredMaxI d a) := by
  intro w h; cases h; rw [decode_word]; rfl

theorem xhist (d : BitVec 7) (a : BitVec 7) : Statement (.xhist d a) := by
  intro w h; cases h; rw [decode_word]; rfl

theorem xrank (d : BitVec 7) (a : BitVec 7) : Statement (.xrank d a) := by
  intro w h; cases h; rw [decode_word]; rfl

theorem xsearch (d : BitVec 7) (a : BitVec 7) (b : BitVec 7) : Statement (.xsearch d a b) := by
  intro w h; cases h; rw [decode_word]; rfl

theorem xmatch (d : BitVec 7) (a : BitVec 7) : Statement (.xmatch d a) := by
  intro w h; cases h; rw [decode_word]; rfl

theorem cpy (d : BitVec 7) (a : BitVec 7) (q : BitVec 7) : Statement (.cpy d a q) := by
  intro w h; cases h; rw [decode_word]; rfl

theorem qfence (q : BitVec 7) (m : BitVec 7) : Statement (.qfence q m) := by
  intro w h; cases h; rw [decode_word]; rfl

theorem qstat (d : BitVec 7) (q : BitVec 7) (c : BitVec 7) : Statement (.qstat d q c) := by
  intro w h; cases h; rw [decode_word]; rfl

theorem mloadw (a : BitVec 7) : Statement (.mloadw a) := by
  intro w h; cases h; rw [decode_word]; rfl

theorem mswap : Statement (.mswap) := by
  intro w h; cases h; rw [decode_word]; rfl

theorem mstream (a : BitVec 7) : Statement (.mstream a) := by
  intro w h; cases h; rw [decode_word]; rfl

theorem mdrain (a : BitVec 7) : Statement (.mdrain a) := by
  intro w h; cases h; rw [decode_word]; rfl

theorem mzero (a : BitVec 7) : Statement (.mzero a) := by
  intro w h; cases h; rw [decode_word]; rfl

theorem mstat (d : BitVec 7) : Statement (.mstat d) := by
  intro w h; cases h; rw [decode_word]; rfl

theorem ttstep (a : BitVec 7) : Statement (.ttstep a) := by
  intro w h; cases h; rw [decode_word]; rfl

theorem ttrun (d : BitVec 7) (a : BitVec 7) : Statement (.ttrun d a) := by
  intro w h; cases h; rw [decode_word]; rfl

theorem nflush : Statement (.nflush) := by
  intro w h; cases h; rw [decode_word]; rfl

theorem ncfg (a : BitVec 7) : Statement (.ncfg a) := by
  intro w h; cases h; rw [decode_word]; rfl

theorem binit (d : BitVec 7) (a : BitVec 7) (b : BitVec 7) : Statement (.binit d a b) := by
  intro w h; cases h; rw [decode_word]; rfl

theorem barr (d : BitVec 7) (a : BitVec 7) (b : BitVec 7) : Statement (.barr d a b) := by
  intro w h; cases h; rw [decode_word]; rfl

theorem bwait (a : BitVec 7) (b : BitVec 7) : Statement (.bwait a b) := by
  intro w h; cases h; rw [decode_word]; rfl

theorem bexpb (a : BitVec 7) (b : BitVec 7) : Statement (.bexpb a b) := by
  intro w h; cases h; rw [decode_word]; rfl

theorem bphase (d : BitVec 7) (a : BitVec 7) : Statement (.bphase d a) := by
  intro w h; cases h; rw [decode_word]; rfl

theorem bbind (d : BitVec 7) (a : BitVec 7) (b : BitVec 7) : Statement (.bbind d a b) := by
  intro w h; cases h; rw [decode_word]; rfl

theorem bdrop (d : BitVec 7) (a : BitVec 7) : Statement (.bdrop d a) := by
  intro w h; cases h; rw [decode_word]; rfl

theorem fenceG : Statement (.fenceG) := by
  intro w h; cases h; rw [decode_word]; rfl

theorem fenceD : Statement (.fenceD) := by
  intro w h; cases h; rw [decode_word]; rfl

theorem fenceV : Statement (.fenceV) := by
  intro w h; cases h; rw [decode_word]; rfl

theorem fenceS : Statement (.fenceS) := by
  intro w h; cases h; rw [decode_word]; rfl

theorem phinit (d : BitVec 7) (a : BitVec 7) : Statement (.phinit d a) := by
  intro w h; cases h; rw [decode_word]; rfl

theorem pharr (a : BitVec 7) (b : BitVec 7) : Statement (.pharr a b) := by
  intro w h; cases h; rw [decode_word]; rfl

theorem getwork (d : BitVec 7) : Statement (.getwork d) := by
  intro w h; cases h; rw [decode_word]; rfl

theorem workdone (a : BitVec 7) : Statement (.workdone a) := by
  intro w h; cases h; rw [decode_word]; rfl

theorem cancel (d : BitVec 7) (a : BitVec 7) : Statement (.cancel d a) := by
  intro w h; cases h; rw [decode_word]; rfl

theorem ccount (d : BitVec 7) (a : BitVec 7) : Statement (.ccount d a) := by
  intro w h; cases h; rw [decode_word]; rfl

theorem enq (d : BitVec 7) (a : BitVec 7) (b : BitVec 7) : Statement (.enq d a b) := by
  intro w h; cases h; rw [decode_word]; rfl

theorem emitvp (d : BitVec 7) (a : BitVec 7) : Statement (.emitvp d a) := by
  intro w h; cases h; rw [decode_word]; rfl

theorem vclose (d : BitVec 7) (a : BitVec 7) : Statement (.vclose d a) := by
  intro w h; cases h; rw [decode_word]; rfl

theorem refit (d : BitVec 7) (a : BitVec 7) : Statement (.refit d a) := by
  intro w h; cases h; rw [decode_word]; rfl

theorem hpart (d : BitVec 7) (a : BitVec 7) : Statement (.hpart d a) := by
  intro w h; cases h; rw [decode_word]; rfl

theorem cinv (a : BitVec 7) : Statement (.cinv a) := by
  intro w h; cases h; rw [decode_word]; rfl

theorem cflush (a : BitVec 7) : Statement (.cflush a) := by
  intro w h; cases h; rw [decode_word]; rfl

theorem bra (o : BitVec 21) : Statement (.bra o) := by
  intro w h; cases h; rw [decode_word]; exact congrArg Except.ok (by rw [off21])

theorem brt (c : BitVec 3) (o : BitVec 21) : Statement (.brt c o) := by
  intro w h; cases h; rw [decode_word]; simp only [decodeParts, uniG12, high3, low3, off21]; rfl

theorem brf (c : BitVec 3) (o : BitVec 21) : Statement (.brf c o) := by
  intro w h; cases h; rw [decode_word]; simp only [decodeParts, uniG12, high3, low3, off21]; rfl

theorem call (o : BitVec 21) : Statement (.call o) := by
  intro w h; cases h; rw [decode_word]; exact congrArg Except.ok (by rw [off21])

theorem brd (c : BitVec 3) (o : BitVec 21) : Statement (.brd c o) := by
  intro w h; cases h; rw [decode_word]; simp only [decodeParts, uniG12, high3, low3, off21]; rfl

theorem brdn (c : BitVec 3) (o : BitVec 21) : Statement (.brdn c o) := by
  intro w h; cases h; rw [decode_word]; simp only [decodeParts, uniG12, high3, low3, off21]; rfl

theorem jmpr (a : BitVec 7) : Statement (.jmpr a) := by
  intro w h; cases h; rw [decode_word]; rfl

theorem ret : Statement (.ret) := by
  intro w h; cases h; rw [decode_word]; rfl

theorem join (a : BitVec 7) : Statement (.join a) := by
  intro w h; cases h; rw [decode_word]; rfl

theorem waitc (d : BitVec 7) (n : BitVec 7) : Statement (.waitc d n) := by
  intro w h; cases h; rw [decode_word]; rfl

theorem yieldSplit : Statement (.yieldSplit) := by
  intro w h; cases h; rw [decode_word]; rfl

theorem exitSplit : Statement (.exitSplit) := by
  intro w h; cases h; rw [decode_word]; rfl

theorem repeatN (n : BitVec 12) : Statement (.repeatN n) := by
  intro w h; cases h; rw [decode_word]
  simp only [decodeParts, uniG13, BitVec.toNat_ofNat, zeroed, count12_top, count12]; rfl

theorem trapSw (c : BitVec 7) : Statement (.trapSw c) := by
  intro w h; cases h; rw [decode_word]; rfl

theorem sleep (a : BitVec 7) : Statement (.sleep a) := by
  intro w h; cases h; rw [decode_word]; rfl

theorem setpri (p : BitVec 7) : Statement (.setpri p) := by
  intro w h; cases h; rw [decode_word]; rfl

theorem brk : Statement (.brk) := by
  intro w h; cases h; rw [decode_word]; rfl

theorem rett : Statement (.rett) := by
  intro w h; cases h; rw [decode_word]; rfl

theorem tlbinv (a : BitVec 7) : Statement (.tlbinv a) := by
  intro w h; cases h; rw [decode_word]; rfl

theorem sysrd (d : BitVec 7) (n : BitVec 7) : Statement (.sysrd d n) := by
  intro w h; cases h; rw [decode_word]; rfl

theorem syswr (n : BitVec 7) (b : BitVec 7) : Statement (.syswr n b) := by
  intro w h; cases h; rw [decode_word]; rfl

theorem parkres (a : BitVec 7) : Statement (.parkres a) := by
  intro w h; cases h; rw [decode_word]; rfl

theorem fltrec (d : BitVec 7) (a : BitVec 7) : Statement (.fltrec d a) := by
  intro w h; cases h; rw [decode_word]; rfl

theorem powerOff : Statement (.powerOff) := by
  intro w h; cases h

theorem firmwareUncorrectableError : Statement (.firmwareUncorrectableError) := by
  intro w h; cases h

theorem ptpHoldover : Statement (.ptpHoldover) := by
  intro w h; cases h

theorem eviction (line : Nat) : Statement (.eviction line) := by
  intro w h; cases h

theorem frameRingFill (core : Nat) (big : Bool) (frame : Nat) : Statement (.frameRingFill core big frame) := by
  intro w h; cases h

theorem coreRetirement (core : Nat) : Statement (.coreRetirement core) := by
  intro w h; cases h

theorem congestionNotification (qp rate : Nat) : Statement (.congestionNotification qp rate) := by
  intro w h; cases h

theorem mkaKeyAgreement (port : Nat) (secured : Bool) : Statement (.mkaKeyAgreement port secured) := by
  intro w h; cases h

end Sys2Proof.Laws.RoundTrip
end

