-- ==== Sys2Proof/Safety.lean ====
section
/-! DEFINITION. What counts as a safe state and a safe run, in the terms the statements use. -/

namespace Sys2Proof.Safety

open Sys2Proof.Machine

/-- Every byte store has the canonical form, addresses strictly rising and no byte that an unlisted address reads as
(assumption 1): physical memory, and the CLM and the scratch memory of every core. -/
structure Canonical (s : State) : Prop where
  mem : Memory.wf s.mem = true
  clm : ∀ c ∈ s.cores, Memory.wf c.clm = true
  scr : ∀ c ∈ s.cores, Memory.wf c.scr = true

/-- The parts of the device whose number the manual fixes: 112 core numbers and 32 die entries (spec/00 R2 R6, spec/16
R390), 1,024 words of the configuration block (R386), 96 columns (spec/05 R154), 8 phase-tree contexts (spec/07 R215),
16 packet streams (spec/12 R309). -/
structure Shaped (s : State) : Prop where
  cores : s.cores.length = 112
  dies : s.dies.length = 32
  cfg : s.cfg.length = 1024
  columns : s.columns.length = 96
  trees : s.trees.length = 8
  streams : s.streams.length = 16

/-- A step goes on: it neither faults nor is refused. -/
def Goes (o : Host.Outcome State Fault Refusal) : Prop := ∃ s, o = .next s

/-- `n` steps go on. -/
def SafeFor (n : Nat) (s : State) : Prop := Goes (Sys2Proof.core.run n s)

/-! ### An instruction that runs to its end -/

/-- The registers an instruction uses, without operand B when a literal stands for it (spec/01 R29). -/
def used (c : Ctx) (uses : List Use) : List Use := if c.cur.lit.isSome then uses.filter (fun x => !x.isB) else uses

/-- A register use that issue accepts: in the wave's allocation (spec/01 R32 R33), no pending destination (spec/03 R99),
and, if it is read, no poison mark in an active lane (spec/03 R78). -/
def usable (c : Ctx) (x : Use) : Bool :=
  x.inRange c.lau.lregs c.lau.sregs && c.wave.pend.all (fun p => !(p.uni == x.uni && p.regs.any x.has)) &&
    (x.wr ||
      if x.uni then (List.range x.cnt).all (fun k => !c.wave.spoison (x.reg + k))
      else c.lanes.all (fun i => (List.range x.cnt).all (fun k => !c.wave.vpoison (x.reg + k) i)))

/-- Nothing keeps an instruction with these register uses and this B field from running to its end: no lookahead window
is open, a literal stands where it may, and every use is accepted. -/
def clear (c : Ctx) (b : BitVec 7) (uses : List Use) : Bool :=
  c.ent.windows.isEmpty && (c.cur.lit.isNone || b == 0#7) && (used c uses).all (usable c)

/-- An element of another lane that issue accepts: no pending destination, and no poison mark if it is read (spec/04 R130
R136). -/
def elemUsable (c : Ctx) (wr : Bool) (p : Nat × Nat) : Bool :=
  c.wave.pend.all (fun q => q.uni || !(q.regs.contains p.1 && q.lanes.getLsbD p.2)) && (wr || !c.wave.vpoison p.1 p.2)

/-- Registers named whole that lie in the wave's allocation. -/
def inAlloc (c : Ctx) (uses : List Use) : Bool := uses.all (Use.inRange c.lau.lregs c.lau.sregs)

/-- What issue does to the state before the effect: no stall is noted, the open windows of the split are counted (spec/03
R97 R98). -/
def started (s : State) (c : Ctx) : State :=
  State.modWave { s with stalled := none } c.cur.g c.cur.w (fun wv => c.countWindows wv)

/-- The slot is reached: no stall is noted, and its break bit may stop the split again (spec/15 R378). -/
def reached (s : State) (c : Ctx) : State := State.modWave { s with stalled := none } c.cur.g c.cur.w (fun wv => wv.reached c.cur.sp)

/-- A word that traps at issue, before any effect (spec/01 R43). -/
def atIssue (s : State) (c : Ctx) (recs : List Rec) : State :=
  ((reached s c).takeTrap c.cur.g c.cur.w (c.cur.sp == trapIdx) recs).boundary c.cur.g

/-- The state after an instruction of class S that has the effect `e` and goes on to the next slot. -/
def after (s : State) (c : Ctx) (e : State → State) : State :=
  ((e (started s c)).finish c { uni := false } .next).boundary c.cur.g

/-- The same for an instruction of class L, which opens the window of its LA field; `instant` are destinations that it
writes at once. -/
def afterLong (s : State) (c : Ctx) (u : Bool) (e : State → State) (instant : List Nat := []) : State :=
  ((e (started s c)).finish c { uni := u, long := true, instant := instant } .next).boundary c.cur.g

/-- A class S instruction with effect `e` that transfers control to a bundle: slot 1 of it, no repetition (spec/03 R85
R105). -/
def jumped (s : State) (c : Ctx) (e : State → State) (pc : DWord) : State :=
  ((e (started s c)).finish c { uni := true } (.jump pc)).boundary c.cur.g

/-- A class S instruction after which the split does not issue a next slot by itself. -/
def stayed (s : State) (c : Ctx) (e : State → State) : State :=
  ((e (started s c)).finish c { uni := true } .stay).boundary c.cur.g

/-- A class S instruction whose effect is to take a trap with these records. -/
def trapped (s : State) (c : Ctx) (e : State → State) (recs : List Rec) : State :=
  ((e (started s c)).finish c { uni := true } (.trap false recs)).boundary c.cur.g

/-- The effect of an instruction on its own wave. -/
def onWave (c : Ctx) (f : Wave → Wave) (s : State) : State := s.modWave c.cur.g c.cur.w f

/-- The results `f i` go to the registers from `d`: of every active lane, or of the uniform file (spec/04 R108); the
flags become sticky (R139). -/
def results (c : Ctx) (u : Bool) (d : BitVec 7) (f : Nat → List Word × Flags) (wv : Wave) : Wave :=
  if u then (wv.setSticky (f 0).2.bits).ssets d.toNat (f 0).1
  else c.lanes.foldl (fun wv i => wv.vsets d.toNat i (f i).1)
    (wv.setSticky (Flags.unions (c.lanes.map (fun i => (f i).2))).bits)

/-- No lane raises a flag that sr.fpmode enables (spec/04 R140). -/
def noTrap (c : Ctx) (u : Bool) (f : Nat → List Word × Flags) : Bool :=
  (if u then [0] else c.lanes).all (fun i => !(f i).2.traps c.wave.sr.fpmode)

/-- The results `f i` go to mask kd, in the bits of the active lanes, or to condition bit cd (spec/04 R123). -/
def maskResults (c : Ctx) (u : Bool) (d : BitVec 7) (f : Nat → Bool × Flags) (wv : Wave) : Wave :=
  if u then (wv.setSticky (f 0).2.bits).cset d.toNat (f 0).1
  else (wv.setSticky (Flags.unions (c.lanes.map (fun i => (f i).2))).bits).kput (Mask.ofLanes c.lanes) d.toNat
    (Mask.ofLanes (c.lanes.filter (fun i => (f i).1)))

/-- No lane of a compare raises a flag that sr.fpmode enables. -/
def noTrapM (c : Ctx) (u : Bool) (f : Nat → Bool × Flags) : Bool :=
  (if u then [0] else c.lanes).all (fun i => !(f i).2.traps c.wave.sr.fpmode)

/-- One result register without flags. -/
def pure1 (f : Nat → Word) (i : Nat) : List Word × Flags := ([f i], Flags.none)

/-- A pair of result registers without flags. -/
def pure2 (f : Nat → DWord) (i : Nat) : List Word × Flags := ([lo32 (f i), hi32 (f i)], Flags.none)

/-! ### Causes found at issue -/

/-- A register that the use names is one of these, in a lane of the instruction. -/
def meets (c : Ctx) (x : Use) (uni : Bool) (regs : List Nat) (lanes : Mask) : Prop :=
  x.uni = uni ∧ regs.any x.has = true ∧ (uni = true ∨ c.act &&& lanes ≠ 0#64)

/-- The instruction is held by nothing, in a split that may have windows open: a literal stands where it may, every use lies in
the allocation (spec/01 R29 R32 R33), no window has run out on a pending instruction (spec/03 R97), and pending
destinations are met in open windows alone (R99 R100). -/
structure Unheld (s : State) (c : Ctx) (b : BitVec 7) (uses : List Use) : Prop where
  ctx : s.ctx? = some c
  lit : c.cur.lit = none ∨ b = 0#7
  inside : inAlloc c (used c uses) = true
  windows : ∀ x ∈ c.ent.windows, x.left = 0 → c.wave.pend? x.pend = none
  pending : ∀ p ∈ c.wave.pend, (∃ x ∈ c.ent.windows, x.pend = p.id ∧ 0 < x.left) ∨
    ∀ x ∈ used c uses, ¬ meets c x p.uni p.regs p.lanes

/-- A use meets a destination of an open window. -/
def Breach (c : Ctx) (uses : List Use) : Prop :=
  ∃ x ∈ c.ent.windows, 0 < x.left ∧ ∃ y ∈ used c uses, meets c y x.uni x.regs x.lanes

/-- A register that is read carries a poison mark, as a lane sees it (spec/03 R78). -/
def poisoned (c : Ctx) (uses : List Use) (i : Nat) : Bool :=
  (used c uses).any (fun x => !x.wr && (List.range x.cnt).any (fun k =>
    if x.uni then c.wave.spoison (x.reg + k) else c.wave.vpoison (x.reg + k) i))

end Sys2Proof.Safety
end

