-- ==== Sys2Proof/Certificates/Slice0/Obligations.lean ====
section
/-! DEFINITION. The statements for the provers, and the tables and hypotheses they are written with. -/

namespace Sys2Proof.Claims

open Sys2Proof.Machine Sys2Proof.Safety

/-- The instruction issues from `c`, nothing holds it back: B field and register uses. -/
def Runs (s : State) (c : Ctx) (b : BitVec 7) (uses : List Use) : Prop := s.ctx? = some c ∧ clear c b uses = true

/-! ### Tables: an instruction and the function it computes -/

/-- Group 0, d = f a b (spec/04 R111 R112 R113). -/
noncomputable def intFns : List ((Bool → BitVec 7 → BitVec 7 → BitVec 7 → Instr) × (Word → Word → Word)) :=
  [(.iadd, fun x y => x + y), (.isub, fun x y => x - y), (.imul, fun x y => x * y),
   (.imulhI, fun x y => hi32 (x.signExtend 64 * y.signExtend 64)), (.imulhN, fun x y => hi32 (x.setWidth 64 * y.setWidth 64)),
   (.iand, fun x y => x &&& y), (.ior, fun x y => x ||| y), (.ixor, fun x y => x ^^^ y), (.iandn, fun x y => x &&& ~~~y),
   (.shl, fun x y => x <<< (y.extractLsb' 0 8).toNat), (.shr, fun x y => x >>> (y.extractLsb' 0 8).toNat),
   (.sar, fun x y => x.sshiftRight (y.extractLsb' 0 8).toNat),
   (.iminI, fun x y => if y.slt x then y else x), (.iminN, fun x y => if y < x then y else x),
   (.imaxI, fun x y => if x.slt y then y else x), (.imaxN, fun x y => if x < y then y else x),
   (.bfxI, bfxS), (.bfxN, bfxU)]

/-- Group 0, d = f d a b (spec/04 R114). -/
noncomputable def intFns3 : List ((Bool → BitVec 7 → BitVec 7 → BitVec 7 → Instr) × (Word → Word → Word → Word)) :=
  [(.imad, fun z x y => z + x * y), (.bfi, bfiW)]

/-- Group 0, d = f a (spec/04 R111). -/
noncomputable def intFns1 : List ((Bool → BitVec 7 → BitVec 7 → Instr) × (Word → Word)) :=
  [(.iabs, fun x => if x.getLsbD 31 then 0#32 - x else x), (.clz, clzW), (.popc, popcW), (.brev, BitVec.reverse)]

/-- Form I of group 0. -/
noncomputable def immFns : List ((Bool → BitVec 7 → BitVec 7 → BitVec 7 → Instr) × (Word → Word → Word)) :=
  [(.iaddI, fun x y => x + y), (.isubI, fun x y => x - y), (.imulI, fun x y => x * y),
   (.imulhII, fun x y => hi32 (x.signExtend 64 * y.signExtend 64)), (.imulhNI, fun x y => hi32 (x.setWidth 64 * y.setWidth 64)),
   (.iandI, fun x y => x &&& y), (.iorI, fun x y => x ||| y), (.ixorI, fun x y => x ^^^ y), (.iandnI, fun x y => x &&& ~~~y),
   (.shlI, fun x y => x <<< (y.extractLsb' 0 8).toNat), (.shrI, fun x y => x >>> (y.extractLsb' 0 8).toNat),
   (.sarI, fun x y => x.sshiftRight (y.extractLsb' 0 8).toNat),
   (.iminII, fun x y => if y.slt x then y else x), (.iminNI, fun x y => if y < x then y else x),
   (.imaxII, fun x y => if x.slt y then y else x), (.imaxNI, fun x y => if x < y then y else x),
   (.bfxII, bfxS), (.bfxNI, bfxU)]

noncomputable def immFns3 : List ((Bool → BitVec 7 → BitVec 7 → BitVec 7 → Instr) × (Word → Word → Word → Word)) :=
  [(.imadI, fun z x y => z + x * y), (.bfiI, bfiW)]

/-- Group 1, d = f d a b on the lane side, and whether it reads d (spec/04 R115 R116); the flag is that of SAT. -/
noncomputable def packFns : List ((BitVec 7 → BitVec 7 → BitVec 7 → Instr) × Bool × (Word → Word → Word → List Word × Flags)) :=
  [(.paddH2, false, fPaddH2), (.paddsH2, false, fPaddsH2), (.psubH2, false, fPsubH2), (.psubsH2, false, fPsubsH2), (.paddB4, false, fPaddB4), (.paddsB4, false, fPaddsB4),
   (.psubsB4, false, fPsubsB4), (.pmaddH2, true, fPmaddH2), (.pmaddB4, true, fPmaddB4), (.iadds, false, fIadds), (.isubs, false, fIsubs), (.shrr, false, fShrr),
   (.shrrsH2, false, fShrrsH2), (.packH2, false, fPackH2), (.packsH2, false, fPacksH2), (.pminH2, false, fPminH2), (.pmaxH2, false, fPmaxH2)]

/-- Form I of group 1, with the operand that the immediate makes (spec/01 R24). -/
noncomputable def packImmFns : List ((BitVec 7 → BitVec 7 → BitVec 7 → Instr) × (BitVec 7 → Word) × Bool ×
    (Word → Word → Word → List Word × Flags)) :=
  [(.paddH2I, immH2, false, fPaddH2), (.paddsH2I, immH2, false, fPaddsH2), (.psubH2I, immH2, false, fPsubH2), (.psubsH2I, immH2, false, fPsubsH2),
   (.paddB4I, immB4, false, fPaddB4), (.paddsB4I, immB4, false, fPaddsB4), (.psubsB4I, immB4, false, fPsubsB4), (.pmaddH2I, immH2, true, fPmaddH2),
   (.pmaddB4I, immB4, true, fPmaddB4), (.iaddsI, imm32, false, fIadds), (.isubsI, imm32, false, fIsubs), (.shrrI, imm32, false, fShrr),
   (.shrrsH2I, immH2, false, fShrrsH2), (.packH2I, immH2, false, fPackH2), (.packsH2I, imm32, false, fPacksH2), (.pminH2I, immH2, false, fPminH2),
   (.pmaxH2I, immH2, false, fPmaxH2)]

/-- Group 2, d = f rm d a b in binary32, and whether it reads d (spec/04 R117 R118). -/
noncomputable def floatFns : List ((Bool → BitVec 7 → BitVec 7 → BitVec 7 → Instr) × Bool × (Rnd → Nat → Nat → Nat → Nat × Flags)) :=
  [(.fadd, false, fun rm _ x y => f32.add rm x y), (.fsub, false, fun rm _ x y => f32.sub rm x y), (.fmul, false, fun rm _ x y => f32.mul rm x y),
   (.ffma, true, fun rm z x y => f32.fma rm x y z), (.fmin, false, fun _ _ x y => f32.minmax false x y),
   (.fmax, false, fun _ _ x y => f32.minmax true x y)]

/-- Group 3, the same in binary64. -/
noncomputable def doubleFns : List ((Bool → BitVec 7 → BitVec 7 → BitVec 7 → Instr) × Bool × (Rnd → Nat → Nat → Nat → Nat × Flags)) :=
  [(.dadd, false, fun rm _ x y => f64.add rm x y), (.dsub, false, fun rm _ x y => f64.sub rm x y), (.dmul, false, fun rm _ x y => f64.mul rm x y),
   (.dfma, true, fun rm z x y => f64.fma rm x y z), (.dmin, false, fun _ _ x y => f64.minmax false x y),
   (.dmax, false, fun _ _ x y => f64.minmax true x y)]

/-- Packed halves of group 2 (spec/04 R120). -/
noncomputable def halfFns : List ((BitVec 7 → BitVec 7 → BitVec 7 → Instr) × Bool × (Rnd → Nat → Nat → Nat → Nat × Flags)) :=
  [(.hadd2, false, fun rm _ x y => f16.add rm x y), (.hmul2, false, fun rm _ x y => f16.mul rm x y), (.hfma2, true, fun rm z x y => f16.fma rm x y z),
   (.bfma2, true, fun rm z x y => bf16.fma rm x y z)]

/-- Integer compares (spec/04 R123). -/
noncomputable def icmpFns : List ((Bool → BitVec 7 → BitVec 7 → BitVec 7 → Instr) × (Word → Word → Bool)) :=
  [(.icmpIEq, fun x y => x == y), (.icmpINe, fun x y => x != y), (.icmpILt, fun x y => x.slt y), (.icmpILe, fun x y => !y.slt x),
   (.icmpIGt, fun x y => y.slt x), (.icmpIGe, fun x y => !x.slt y), (.icmpNLt, fun x y => x.ult y), (.icmpNLe, fun x y => !y.ult x),
   (.icmpNGt, fun x y => y.ult x), (.icmpNGe, fun x y => !x.ult y)]

noncomputable def fcmpFns : List ((Bool → BitVec 7 → BitVec 7 → BitVec 7 → Instr) × FRel) :=
  [(.fcmpEq, .eq), (.fcmpNe, .ne), (.fcmpLt, .lt), (.fcmpLe, .le), (.fcmpGt, .gt), (.fcmpGe, .ge), (.fcmpUn, .un), (.fcmpOrd, .ord)]

noncomputable def dcmpFns : List ((Bool → BitVec 7 → BitVec 7 → BitVec 7 → Instr) × FRel) :=
  [(.dcmpEq, .eq), (.dcmpNe, .ne), (.dcmpLt, .lt), (.dcmpLe, .le), (.dcmpGt, .gt), (.dcmpGe, .ge), (.dcmpUn, .un), (.dcmpOrd, .ord)]

/-- Mask logic on k registers, condition logic on c bits (spec/04 R125). -/
noncomputable def maskFns : List ((BitVec 7 → BitVec 7 → BitVec 7 → Instr) × (Mask → Mask → Mask)) :=
  [(.kand, fun x y => x &&& y), (.kor, fun x y => x ||| y), (.kxor, fun x y => x ^^^ y), (.kandn, fun x y => x &&& ~~~y)]

noncomputable def condFns : List ((BitVec 7 → BitVec 7 → BitVec 7 → Instr) × (Bool → Bool → Bool)) :=
  [(.cand, fun x y => x && y), (.cor, fun x y => x || y), (.cxor, fun x y => x != y), (.candn, fun x y => x && !y)]


/-- Conversions of group 5 that take a rounding code (spec/04 R121 R126 R127): 32-bit sources. -/
noncomputable def cvtCodeFns : List ((BitVec 7 → BitVec 7 → BitVec 7 → Instr) × (Rnd → Nat → List Word × Flags)) :=
  [(.f2iI, fun rm x => int32Out (f32.toInt rm (-(2 ^ 31)) (2 ^ 31 - 1) x)),
   (.f2iN, fun rm x => int32Out (f32.toInt rm 0 (2 ^ 32 - 1) x))]

/-- Conversions of one register to one register under the mode of sr.fpmode (spec/04 R126 R128). -/
noncomputable def cvtFns : List ((BitVec 7 → BitVec 7 → Instr) × (Rnd → Nat → Nat × Flags)) :=
  [(.i2fI, fun rm x => f32.ofInt rm (BitVec.ofNat 32 x).toInt), (.i2fN, fun rm x => f32.ofInt rm x),
   (.h2fLo, fun _ x => f16.convert f32 .rne (half (BitVec.ofNat 32 x) 0)),
   (.h2fHi, fun _ x => f16.convert f32 .rne (half (BitVec.ofNat 32 x) 1)),
   (.bf2fLo, fun _ x => bf16.convert f32 .rne (half (BitVec.ofNat 32 x) 0)),
   (.bf2fHi, fun _ x => bf16.convert f32 .rne (half (BitVec.ofNat 32 x) 1))]

/-- Two binary32 values to the halves of a register. -/
noncomputable def narrowFns : List ((BitVec 7 → BitVec 7 → BitVec 7 → Instr) × Fmt) := [(.f2h2, f16), (.f2bf2, bf16)]

/-- Where a lane of group 6 takes its element from (spec/04 R130). -/
noncomputable def shuffleFns : List ((BitVec 7 → BitVec 7 → BitVec 7 → Instr) × (Ctx → BitVec 7 → Nat → Nat)) :=
  [(.shfl, fun c b i => (c.B false b i).toNat % c.wave.width), (.shflx, fun c b i => i ^^^ ((c.B false b i).toNat % c.wave.width))]

/-- Slides: elements in a lane, and which element of which register comes to element e (spec/04 R131). -/
noncomputable def slideFns : List ((BitVec 7 → BitVec 7 → BitVec 7 → Instr) × Nat × (Nat → Nat → Nat → Bool × Nat)) :=
  [(.slideup, 1, upSource), (.slidedn, 1, downSource), (.slideuph, 2, upSource), (.slidednh, 2, downSource)]

/-- Votes: bits written and sr.last, from the active mask and the mask of the lanes whose operand is not 0 (spec/04 R133). -/
noncomputable def voteFns : List ((BitVec 7 → BitVec 7 → Instr) × (Mask → Mask → Mask × DWord)) :=
  [(.voteany, fun _ p => if p = 0#64 then (0#64, 0#64) else (~~~0#64, 1#64)),
   (.voteall, fun act p => if p = act then (~~~0#64, 1#64) else (0#64, 0#64)), (.ballot, fun _ p => (p, p))]

/-- Special functions of lane group 7 on one register (spec/04 R134). -/
noncomputable def specialFns : List ((BitVec 7 → BitVec 7 → Instr) × (Rnd → Nat → Nat × Flags)) :=
  [(.rcp, fun _ x => specialFn 0 x), (.rsq, fun _ x => specialFn 1 x), (.sqrt, fun rm x => f32.sqrt rm x),
   (.log2, fun _ x => specialFn 3 x), (.exp2, fun _ x => specialFn 4 x), (.sin, fun _ x => specialFn 5 x),
   (.cos, fun _ x => specialFn 6 x), (.tanh, fun _ x => specialFn 7 x)]

/-- On pairs (spec/04 R135). -/
noncomputable def specialFns64 : List ((BitVec 7 → BitVec 7 → Instr) × (Rnd → Nat → Nat × Flags)) :=
  [(.drcp, fun _ x => Sys2Proof.Machine.drcp x), (.dsqrt, fun rm x => f64.sqrt rm x)]

/-- One-source functions of the mangle with a result in every position (spec/08 R239 R241). -/
noncomputable def mangleFns : List ((BitVec 7 → BitVec 7 → Instr) × (List Nat → List Word → List Word)) :=
  [(.xscanAddI, fun _ xs => scanList (· + ·) xs), (.xscanAddF, fun _ xs => scanList addF xs),
   (.xscanMaxI, fun _ xs => scanList maxS xs),
   (.xredAddI, fun _ xs => xs.map (fun _ => redList (· + ·) xs)), (.xredAddF, fun _ xs => xs.map (fun _ => treeSum 6 xs)),
   (.xredMinI, fun _ xs => xs.map (fun _ => redList minS xs)), (.xredMaxI, fun _ xs => xs.map (fun _ => redList maxS xs)),
   (.xhist, fun ls xs => ls.map (fun j => BitVec.ofNat 32 (xs.filter (fun x => x.toNat == j)).length)),
   (.xrank, fun _ xs => xs.zipIdx.map (fun q => BitVec.ofNat 32
     ((xs.filter (fun x => decide (x.toNat < q.1.toNat))).length + ((xs.take q.2).filter (fun x => x == q.1)).length)))]

/-- Sorts by a key (spec/08 R240). -/
noncomputable def sortFns : List ((BitVec 7 → BitVec 7 → BitVec 7 → Instr) × (Word → Nat)) :=
  [(.xsortI, keySigned), (.xsortN, BitVec.toNat), (.xsortF, keyFloat)]

/-- What an operation of the mangle leaves behind: the round-robin pointer past its partition and the pending results,
poisoned when one of its inputs is (spec/08 R237 R238). -/
def mangled (c : Ctx) (d : BitVec 7) (k : Nat) (bad : Bool) (rows : List (List Word)) (s : State) : State :=
  (s.modCore c.grp.core (fun n => { n with mangle := (c.wave.part + 1) % 4 })).addPend c 4 false
    ((List.range k).map (fun j => d.toNat + j)) c.act c.act .mangle false false []
    ((c.lanes.zip rows).flatMap (fun p =>
      p.2.zipIdx.map (fun x => { lane := p.1, reg := d.toNat + x.2, val := x.1, poison := bad : Wr })))

/-- A register use whose poison mark does not matter. -/
def marked (x : Use) : Use := { x with wr := true }

/-- The bit of the class table for a sign, an exponent field, a fraction, the exponent of all ones and the first quiet fraction (spec/04
R122). -/
def classBit (neg : Bool) (e m ones quiet : Nat) : Nat :=
  if e = ones then (if m = 0 then (if neg then 0 else 7) else if m < quiet then 8 else 9)
  else if e = 0 then (if m = 0 then (if neg then 3 else 4) else if neg then 2 else 5)
  else if neg then 1 else 6
/-- Loads, stores, atomics and reductions of groups 8 and 9: space, operation, bytes, data registers from D, destination
registers at D, counter class and ORD kind; then the multiple that D must be, the number of ORD codes, and whether an
enable bit stands for four bits (spec/05 R159 to R162, spec/06 R182 to R184, spec/01 R26). -/
noncomputable def memFns : List ((Bool → BitVec 7 → BitVec 7 → BitVec 3 → BitVec 4 → Instr) × MemSpec × Nat × Nat × Bool) :=
  let spec := fun g op size reads writes cls kind =>
    ({ glob := g, op := op, size := size, reads := reads, writes := writes, cls := cls, kind := kind } : MemSpec)
  [(.ldlN8, spec false (.load 1 false) 1 0 1 1 0, 1, 2, false),
   (.ldlI8, spec false (.load 1 true) 1 0 1 1 0, 1, 2, false),
   (.ldlN16, spec false (.load 2 false) 2 0 1 1 0, 1, 2, false),
   (.ldlI16, spec false (.load 2 true) 2 0 1 1 0, 1, 2, false),
   (.ldl32, spec false (.load 4 false) 4 0 1 1 0, 1, 2, false),
   (.ldl64, spec false (.load 8 false) 8 0 2 1 0, 2, 2, false),
   (.ldl128, spec false (.load 16 false) 16 0 4 1 0, 4, 2, false),
   (.stl8, spec false (.store 1) 1 1 0 2 1, 1, 2, false),
   (.stl16, spec false (.store 2) 2 1 0 2 1, 1, 2, false),
   (.stl32, spec false (.store 4) 4 1 0 2 1, 1, 2, false),
   (.stl64, spec false (.store 8) 8 2 0 2 1, 2, 2, false),
   (.stl128, spec false (.store 16) 16 4 0 2 1, 4, 2, false),
   (.atlAdd, spec false (.atomic 12) 4 1 1 1 2, 1, 2, false),
   (.atlMinI, spec false (.atomic 13) 4 1 1 1 2, 1, 2, false),
   (.atlMaxI, spec false (.atomic 14) 4 1 1 1 2, 1, 2, false),
   (.atlAnd, spec false (.atomic 15) 4 1 1 1 2, 1, 2, false),
   (.atlOr, spec false (.atomic 16) 4 1 1 1 2, 1, 2, false),
   (.atlXor, spec false (.atomic 17) 4 1 1 1 2, 1, 2, false),
   (.atlXchg, spec false (.atomic 18) 4 1 1 1 2, 1, 2, false),
   (.atlCas, spec false (.atomic 19) 4 2 1 1 2, 2, 2, false),
   (.ldgN8, spec true (.load 1 false) 1 0 1 0 0, 1, 5, false),
   (.ldgI8, spec true (.load 1 true) 1 0 1 0 0, 1, 5, false),
   (.ldgN16, spec true (.load 2 false) 2 0 1 0 0, 1, 5, false),
   (.ldgI16, spec true (.load 2 true) 2 0 1 0 0, 1, 5, false),
   (.ldg32, spec true (.load 4 false) 4 0 1 0 0, 1, 5, false),
   (.ldg64, spec true (.load 8 false) 8 0 2 0 0, 2, 5, false),
   (.ldg128, spec true (.load 16 false) 16 0 4 0 0, 4, 5, false),
   (.stg8, spec true (.store 1) 1 1 0 2 1, 1, 5, false),
   (.stg16, spec true (.store 2) 2 1 0 2 1, 1, 5, false),
   (.stg32, spec true (.store 4) 4 1 0 2 1, 1, 5, false),
   (.stg64, spec true (.store 8) 8 2 0 2 1, 2, 5, false),
   (.stg128, spec true (.store 16) 16 4 0 2 1, 4, 5, false),
   (.atgAdd, spec true (.atomic 12) 4 1 1 0 2, 1, 7, false),
   (.atgMinI, spec true (.atomic 13) 4 1 1 0 2, 1, 7, false),
   (.atgMaxI, spec true (.atomic 14) 4 1 1 0 2, 1, 7, false),
   (.atgAnd, spec true (.atomic 15) 4 1 1 0 2, 1, 7, false),
   (.atgOr, spec true (.atomic 16) 4 1 1 0 2, 1, 7, false),
   (.atgXor, spec true (.atomic 17) 4 1 1 0 2, 1, 7, false),
   (.atgXchg, spec true (.atomic 18) 4 1 1 0 2, 1, 7, false),
   (.atgCas, spec true (.atomic 19) 4 2 1 0 2, 2, 7, false),
   (.stgE4, spec true (.estore) 4 2 0 2 1, 2, 5, true),
   (.stgE6, spec true (.estore) 4 2 0 2 1, 2, 5, false),
   (.atgCas64, spec true (.atomic 22) 8 4 2 0 2, 4, 7, false),
   (.atgFadd, spec true (.atomic 23) 4 1 1 0 2, 1, 7, false),
   (.redAdd, spec true (.red 24) 4 1 0 2 2, 1, 7, false),
   (.redFadd, spec true (.red 25) 4 1 0 2 2, 1, 7, false),
   (.redMinI, spec true (.red 26) 4 1 0 2 2, 1, 7, false),
   (.redMaxI, spec true (.red 27) 4 1 0 2 2, 1, 7, false)]

/-- The element stores of lane group 8 (spec/05 R161). -/
noncomputable def elemFns : List ((BitVec 7 → BitVec 7 → BitVec 3 → BitVec 4 → Instr) × Bool) :=
  [(.stlE4, true), (.stlE6, false)]

def elemSpec : MemSpec := { glob := false, op := .estore, size := 4, reads := 2, writes := 0, cls := 2, kind := 1 }

/-- Registers of a memory instruction: the address, its base pair, its data, its destination. -/
def memUses (m : MemSpec) (u : Bool) (d a : BitVec 7) (n : BitVec 4) : List Use :=
  [rdR u a] ++ baseUse n ++ (if m.reads = 0 then [] else [rdR u d m.reads]) ++ (if m.writes = 0 then [] else [wrR u d m.writes])

/-- Nothing that only memory instructions wait for holds it: an outstanding counter below 63, no fence of the split, no
repartition of the scratch that it names, and for an atomic no marked word that an earlier instruction of a lane has still to
write (spec/03 R101, spec/07 R202, spec/05 R146 R152). -/
def MemReady (m : MemSpec) (u : Bool) (a : BitVec 7) (n : BitVec 4) (s : State) (c : Ctx) : Prop :=
  c.wave.counters.getD m.cls 0 < 63 ∧ fenced c = false ∧ memHold m u a n s = false

/-- The addresses of the lanes. -/
def wanted (u : Bool) (a : BitVec 7) (n : BitVec 4) (c : Ctx) : List (Nat × DWord) :=
  (if u then [0] else c.lanes).map (fun i => (i, c.addr u a n i))

/-- What the checks of every lane find, and the state they leave (spec/03 R421). -/
def checked (m : MemSpec) (u : Bool) (a : BitVec 7) (n : BitVec 4) (s : State) (c : Ctx) : Checked × State :=
  checkLanes (fun s _ va => State.memCheck c m s va) (started s c) (wanted u a n c)

/-- The instruction left pending with one access for each lane of a list. -/
def leftPending (m : MemSpec) (u e4 : Bool) (d : BitVec 7) (o : BitVec 3) (c : Ctx) (good : List (Nat × DWord × Loc))
    (s : State) : State :=
  let done := if u then c.act else Mask.ofLanes (good.map (fun x => x.1))
  s.addPend c m.cls u ((List.range m.writes).map (fun j => d.toNat + j)) (if u then 1#64 else done) done (.mem m.op)
    (ordOf m.kind o).1 (ordOf m.kind o).2
    (good.map (fun x => { lane := x.1, va := x.2.1, loc := x.2.2, data := memData m c u d x.1 e4, live := true : Acc })) []

/-- Watchpoints see the accesses of these lanes. -/
def seenByWatch (m : MemSpec) (c : Ctx) (good : List (Nat × DWord × Loc)) (s : State) : State :=
  s.noteWatch c (s.watched c m.glob m.wr m.rd m.size (good.map (fun x => (x.1, x.2.1))))

/-- The instruction left pending with one access for each lane that has a location. -/
def pendingAccess (m : MemSpec) (u e4 : Bool) (d : BitVec 7) (o : BitVec 3) (c : Ctx) (good : List (Nat × DWord × Loc))
    (s : State) : State :=
  seenByWatch m c good (leftPending m u e4 d o c good s)

/-- Where lanes of a memory instruction fault: a cause that is not serviceable, or any at trap level, traps the wave before any
effect, with one record for each faulting lane; else the faulting lanes park and the accesses of the others go on; a lane of an
atomic on a poisoned word performs nothing, and its record traps the wave after the instruction (spec/03 R90 R421, spec/05
R146). -/
def FaultsTaken (i : Instr) (m : MemSpec) (u e4 : Bool) (d a : BitVec 7) (o : BitVec 3) (n : BitVec 4) (s : State) (c : Ctx) : Prop :=
  let r := checked m u a n s c
  let recs := c.faults u m.wr r.1
  let good := r.1.good
  let bad := c.spoiled m r.2 good
  ((recs.any (fun x => !x.svc) = true ∨ (recs ≠ [] ∧ c.cur.sp = trapIdx)) →
    exec i s = .next ((r.2.finish c { uni := u, long := true } (.trap false recs)).boundary c.cur.g)) ∧
  (recs ≠ [] → recs.all (fun x => x.svc) = true → c.cur.sp ≠ trapIdx → bad = [] →
    let s' := r.2.modWave c.cur.g c.cur.w (fun wv =>
      wv.park c (if u then c.act else Mask.ofLanes (recs.map (fun x => x.lane))) recs)
    exec i s = .next (if good.isEmpty || u then (s'.finish c { uni := u, long := true } .stay).boundary c.cur.g
      else ((pendingAccess m u e4 d o c good s').finish c { uni := u, long := true } .next).boundary c.cur.g)) ∧
  (recs = [] → bad ≠ [] →
    let kept := good.filter (fun x => !bad.contains x)
    let s' := seenByWatch m c good (if kept.isEmpty then r.2 else leftPending m u e4 d o c kept r.2)
    exec i s = .next ((s'.finish c { uni := u, long := true }
      (.trap true (bad.map (fun x => mkRec c.cur c.ent.rpti (if u then 0 else x.1) u m.wr (Flt.plain cPoison x.2.1))))).boundary
        c.cur.g))

/-- Access `a` of pending instruction `q` may be performed now. -/
structure Performable (s : State) (g w p lane : Nat) (G : Group) (wv : Wave) (q : Pend) (a : Acc) : Prop where
  group : s.groups[g]? = some G
  wave : G.waves[w]? = some wv
  pend : wv.pend? p = some q
  acc : q.accs.find? (fun a => a.live && a.lane == lane) = some a
  may : s.mayPerform g w G wv q a = true

/-- Where an access of an acquire begins, its lanes read no older copy from then on (spec/07 R194). -/
def begun (q : Pend) (G : Group) (a : Acc) (s : State) : State := if q.acq then s.acquiredBy G.core (q.reader G a) else s

/-- The access is done: its elements receive the words with their poison marks, its lane is no longer pending, the faults that it
met are noted, and an instruction with nothing left to perform leaves its counter. -/
def accessDone (g w p lane : Nat) (q : Pend) (a : Acc) (out : List (Word × Bool)) (s : State) (faults : List LaneFlt := []) : State :=
  (s.modWave g w (fun wv => (wv.writeAll q.uni (q.elements a out)).modPend p (fun x => { x with
    accs := x.accs.map (fun b => if b.lane == lane then { b with live := false } else b)
    lanes := x.lanesAfter a
    recs := x.recs ++ faults.map (fun f => q.record f.lane f.uni (!q.isLoad) f.flt) }))).memDone g w p

/-- An access that meets a poison mark at the memory: `POISON`, and nothing is written (spec/05 R146). -/
def poisonMet (q : Pend) (a : Acc) : List LaneFlt := [q.laneFlt a (Flt.plain cPoison a.va)]

/-- What a load of `n` bytes gives: one register, sign- or zero-extended, or whole registers (spec/05 R159). -/
def loadWords (n : Nat) (sext : Bool) (b : List Byte) : List Word :=
  if n < 4 then
    let x := BitVec.ofNat (8 * n) (leNat b)
    [if sext then x.signExtend 32 else x.setWidth 32]
  else leWords (n / 4) b

/-- The sizes of loads. -/
def loadSizes : List (Nat × Bool) := [(1, false), (1, true), (2, false), (2, true), (4, false), (8, false), (16, false)]

/-- The functions of 4-byte atomics: old value, operand, compare value (spec/05 R162, spec/06 R184). -/
def atomicFns : List (Nat × (Word → Word → Word → Word)) :=
  [(12, fun o x _ => o + x), (13, fun o x _ => if x.slt o then x else o), (14, fun o x _ => if o.slt x then x else o),
   (15, fun o x _ => o &&& x), (16, fun o x _ => o ||| x), (17, fun o x _ => o ^^^ x), (18, fun _ x _ => x),
   (19, fun o x y => if o = y then x else o)]

/-- The CLM of a core with bytes stored. -/
def storeClm (core x : Nat) (b : List Byte) (s : State) : State :=
  s.modCore core (fun c => { c with clm := cellWrites c.clm x b, clmP := Sys2Proof.Machine.unmark c.clmP x b.length })

/-- The local memory of a core that a location names: its bytes, its marks, and the address in it; and a store to it (spec/05 R142
R147). -/
def localBytes (core : Core) : Loc → List Host.Cell
  | .clm _ => core.clm
  | _ => core.scr
def localMarks (core : Core) : Loc → List Nat
  | .clm _ => core.clmP
  | _ => core.scrP
def localAddr (G : Group) : Loc → Nat
  | .clm x => G.clmb * 1024 + x
  | .scratch x => x
  | _ => 0
def storeLocal (G : Group) (l : Loc) (b : List Byte) (s : State) : State :=
  match l with
  | .clm _ => storeClm G.core (localAddr G l) b s
  | _ => s.modCore G.core (fun c =>
      { c with scr := cellWrites c.scr (localAddr G l) b, scrP := Sys2Proof.Machine.unmark c.scrP (localAddr G l) b.length })

/-- A line of a host window that the LLC holds: its 128 bytes, with no reduction queued for it. -/
structure HeldLine (s : State) (i : Nat) (l : HostLine) : Prop where
  at_ : s.llcHost[i]? = some l
  held : s.hostLine? l.peer l.line = some l
  peer : peerQp l.peer = l.peer
  bytes : l.bytes.map Prod.fst = (List.range 128).map (fun k => 128 * l.line + k)
  settled : ∀ e ∈ s.hostReds, e.onLines l.peer (128 * l.line) 1 = false

/-! ### Enabled floating-point flags -/

/-- Some lane raises a flag that sr.fpmode enables: it keeps its destination, the others receive their results, the flags of
all become sticky, and the wave traps after the instruction with one record for each such lane (spec/04 R140 R141). -/
def fpTrapped (s : State) (c : Ctx) (u : Bool) (d : BitVec 7) (f : Nat → List Word × Flags) (e : State → State := id) : State :=
  let lanes := if u then [0] else c.lanes
  let bad := fun i => (f i).2.traps c.wave.sr.fpmode
  ((onWave c (fun wv => (lanes.filter (fun i => !bad i)).foldl
      (fun wv i => if u then wv.ssets d.toNat (f i).1 else wv.vsets d.toNat i (f i).1)
      (wv.setSticky (Flags.unions (lanes.map (fun i => (f i).2))).bits)) (e (started s c))).finish c { uni := u }
    (.trap true ((lanes.filter bad).map (fun i => c.fpRec u i (f i).2)))).boundary c.cur.g

/-- The same for a compare: such a lane leaves its bit as it was, or the condition bit. -/
def fpTrappedM (s : State) (c : Ctx) (u : Bool) (d : BitVec 7) (f : Nat → Bool × Flags) : State :=
  let lanes := if u then [0] else c.lanes
  let bad := fun i => (f i).2.traps c.wave.sr.fpmode
  let good := lanes.filter (fun i => !bad i)
  ((onWave c (fun wv =>
      let wv := wv.setSticky (Flags.unions (lanes.map (fun i => (f i).2))).bits
      if u then good.foldl (fun wv i => wv.cset d.toNat (f i).1) wv
      else wv.kput (Mask.ofLanes good) d.toNat (Mask.ofLanes (good.filter (fun i => (f i).1)))) (started s c)).finish c { uni := u }
    (.trap true ((lanes.filter bad).map (fun i => c.fpRec u i (f i).2)))).boundary c.cur.g

/-! ### Units of a core -/

/-- Texture instructions: function, operand registers, destination registers, the plan of a lane (spec/12 R326 to R330). -/
noncomputable def texFns : List ((BitVec 7 → BitVec 7 → BitVec 7 → Instr) × Nat × Nat × Nat ×
    (BitVec 7 → Ctx → TexDesc → Nat → (Nat → Nat) → Plan)) :=
  let x := fun (a : BitVec 7) (c : Ctx) (i k : Nat) => c.wave.vget (a.toNat + k) i
  [(.tex2d, 0, 6, 5, fun a c t i fr => t.plan (quiet (x a c i 0)) (quiet (x a c i 1))
      (t.lod [(x a c i 2).toNat, (x a c i 3).toNat, (x a c i 4).toNat, (x a c i 5).toNat]) fr),
   (.texfetch, 1, 3, 5, fun a c t i _ => t.fetchPlan (x a c i 0).toInt (x a c i 1).toInt (x a c i 2).toNat),
   (.texrq, 2, 3, 2, fun a c t i fr => t.plan (quiet (x a c i 0)) (quiet (x a c i 1)) (x a c i 2).toNat fr),
   (.texlod, 3, 3, 5, fun a c t i fr => t.plan (quiet (x a c i 0)) (quiet (x a c i 1)) (x a c i 2).toNat fr)]

/-- Registers from d. -/
def regsFrom (d : BitVec 7) (n : Nat) : List Nat := (List.range n).map (fun j => d.toNat + j)

/-- The ray that a lane's registers hold: origin, interval, direction, header, flags and context (spec/11 R299). -/
def rayOf (c : Ctx) (wide : Bool) (a b : BitVec 7) (i : Nat) : Ray :=
  let x := fun (r : BitVec 7) (k : Nat) => c.wave.vget (r.toNat + k) i
  { org := if wide then [pairOf (x a 0) (x a 1), pairOf (x a 2) (x a 3), pairOf (x a 4) (x a 5)]
      else [x a 0, x a 1, x a 2].map (fun o => BitVec.ofNat 64 (f32to64 o.toNat))
    dir := if wide then [x a 7, x a 8, x a 9] else [x a 4, x a 5, x a 6]
    tmin := if wide then x a 6 else x a 3
    tmax := if wide then x a 10 else x a 7
    hdr := pairOf (x b 0) (x b 1), flags := x b 2, ctx := x b 3 }

/-- A lane's ray takes a slot of its core. -/
def placeRay (c : Ctx) (d : BitVec 7) (ray : Nat → Ray) (s : State) (i : Nat) : State :=
  match s.takeSlot c.grp.core c.ownRay with
  | none => s
  | some (n, s) => s.modCore c.grp.core (fun k => { k with rays := k.rays ++
      [{ idx := n, st := .traversing, group := c.cur.g, wave := c.cur.w, lane := i, pend := c.wave.nextPend, dreg := d.toNat,
         ray := ray i, hit := none, cand := none, stack := [.header], term := false, spilled := false, lastUse := s.tick,
         request := none }] })

/-- A ray instruction of these lanes is left pending in class 6. -/
def pendRay (c : Ctx) (d : BitVec 7) (s : State) : State :=
  if c.lanes.isEmpty then s
  else s.addPend c 6 false (regsFrom d 8) (Mask.ofLanes c.lanes) (Mask.ofLanes c.lanes) .ray false false [] []

/-- Candidates of the active lanes (spec/11 R299). -/
def Candidates (c : Ctx) (s : State) (cand : Nat → RaySlot × Hit × Bool) : Prop :=
  ∀ i ∈ c.lanes, c.candidate s i = some (cand i)

/-- As many elements of a drain as a free number says, at least one and the end of the drain when it is reached (spec/07 R200,
log entries 6 and 40). -/
def drained (core : Nat) (x : Cmd) (s : State) : State :=
  ({ s with free := s.free + 1 } : State).drainRun core x.ord (2 + Config.freeNat s.free % (x.drainCount + 1))

/-- An engine command may enter its queue: class 3 below 63, no fence of the split (spec/03 R101, spec/07 R202). -/
def EngineReady (c : Ctx) : Prop := c.wave.counters.getD 3 0 < 63 ∧ fenced c = false

/-- Intervals of a matrix command for the tests that hold it back. -/
def matrixIvs (check : Ctx → State → List Word → Nat ⊕ List Iv) (c : Ctx) (s : State) (ws : List Word) : List Iv :=
  match check c s.anyScratch ws with
  | .inl _ => []
  | .inr l => l

/-- The matrix queue has room, and so has the scoreboard; no repartition of the scratch that the command names. -/
def MatrixRoom (check : Ctx → State → List Word → Nat ⊕ List Iv) (c : Ctx) (s : State) (ws : List Word) : Prop :=
  s.queueFull c.grp.core selMatrix = false ∧
    (matrixIvs check c s ws = [] ∨ s.scoreFull c.grp.core = false) ∧ scratchBusy s (matrixIvs check c s ws) = false

/-- Matrix and chain commands that name a descriptor block: operation, words of the block, its alignment, whether the
bond registers go with it, and the checks at issue (spec/09 R247 to R259, spec/10 R282). -/
noncomputable def matrixFns : List ((BitVec 7 → Instr) × CmdOp × Nat × Nat × Bool × (Ctx → State → List Word → Nat ⊕ List Iv)) :=
  [(.mloadw, .mloadw, 2, 2, false, checkLoad), (.mstream, .mstream, 8, 8, false, checkStream),
   (.mdrain, .mdrain, 4, 4, false, checkDrain), (.ttstep, .ttstep, 8, 8, true, checkTtstep)]

/-- The words a matrix command keeps: its block, and the bond registers. -/
def matrixWords (c : Ctx) (a : BitVec 7) (n : Nat) (bd : Bool) : List Word :=
  c.wave.sblock a.toNat n ++ (if bd then c.wave.sr.bd.map (fun x => x.setWidth 32) else [])

/-- A command of the matrix queue enters it; `done` steps and `rows` rows are where it begins. -/
def entered (c : Ctx) (op : CmdOp) (ws : List Word) (ivs : List Iv) (dreg : Option Nat) (done rows : Nat) (s : State) : State :=
  let s := s.pushCmd c selMatrix op ws (ivs.filter (fun v => decide (v.lo < v.hi))) dreg rows c.wave.sr.seed
  s.modCmd c.grp.core selMatrix ((s.core c.grp.core).nextOrd - 1) (fun x => { x with done := done })

/-! ### Control -/

/-- The bundle at an offset from the present one (spec/01 R28). -/
def bundleAt (c : Ctx) (o : BitVec 21) : DWord := c.cur.pc + BitVec.ofInt 64 (16 * o.toInt)

/-- Change the issuing split. -/
def onSplit (c : Ctx) (f : Split → Split) (s : State) : State := s.modEntry c f

/-- The barrier object that an instruction names exists and counts, without a link (spec/07 R204 R206). -/
def Counts (c : Ctx) (a : BitVec 7) : Prop :=
  a.toNat < c.lau.bars ∧ (c.grp.bar a.toNat).st = .counting ∧ (c.grp.bar a.toNat).lnk = false

/-- Change barrier object `a` of the issuing group. -/
def onBar (c : Ctx) (a : BitVec 7) (f : Barrier → Barrier) (s : State) : State := s.modBar c.cur.g a.toNat f

/-- The splits of a wave that a complete join of split `e` merges (spec/03 R87). -/
def Merges (wv : Wave) (e : Split) (j : Nat) (x : Split) : Prop :=
  wv.splits[j]? = some x ∧ x.st = .join ∧ x.rja = e.rja ∧ x.mask &&& ~~~e.exp = 0#64

/-- What the merge at the join of split `e` makes of a wave: the lowest merged split has the lanes of all of them and is Ready at the
bundle after the join, with the fences of all; the others are free; no other split changes (spec/03 R87). -/
structure Merged (wv t : Wave) (e : Split) : Prop where
  rest : t = { wv with splits := t.splits }
  others : ∀ j, (∀ x, ¬ Merges wv e j x) → t.splits[j]? = wv.splits[j]?
  freed : ∀ j k x y, Merges wv e j x → Merges wv e k y → k < j → t.splits[j]? = some Split.empty
  kept : ∀ j x, Merges wv e j x → (∀ k y, Merges wv e k y → j ≤ k) → ∃ m f,
    t.splits[j]? = some { Split.empty with pc := e.rja + 16#64, slot := 1, st := .ready, mask := m, fence := f } ∧
    (∀ l, m.getLsbD l = true ↔ ∃ k y, Merges wv e k y ∧ y.mask.getLsbD l = true) ∧
    ∀ n, n ∈ f ↔ ∃ k y, Merges wv e k y ∧ n ∈ y.fence

/-! ### Queues -/

/-- A readable entry with words `ws` stands at HEAD of a queue that may take it (spec/13 R333). -/
structure AtHead (s : State) (q : Nat) (x : Queue) (ws : List Word) (t : State) : Prop where
  queue : s.queue? q = some x
  may : s.mayTake x = true
  read : s.headEntry x = (some ws, t)
  order : (ws.getD 0 0#32).getLsbD 8 = true → x.taken = []

/-- The kind byte of an entry. -/
def kindOf (ws : List Word) : Nat := ((ws.getD 0 0#32).extractLsb' 0 8).toNat

/-- The state when the entry has been taken: HEAD has moved, the entry is in progress. -/
def taken (s : State) (q : Nat) (x : Queue) (ws : List Word) (t : State) : State :=
  (t.advanceHead x).modQueue q (fun y => { y with taken := y.taken ++
    [{ index := (s.qw x 3).toNat, kind := kindOf ws, after := (ws.getD 0 0#32).getLsbD 8, words := ws, st := .started, ref := 0,
       deadline := 0 }] })

/-- A LAUNCH entry: a record that is admitted is listed as a launch, another one completes with its status. -/
def launchEffect (x : Queue) (q index : Nat) (ws : List Word) (s : State) : State :=
  if (s.enlist x.job ws q index none).1 = 0 then (s.enlist x.job ws q index none).2
  else (s.enlist x.job ws q index none).2.entryDone q index (s.enlist x.job ws q index none).1 (ws.getD 1 0#32)

/-- A GRAPH entry with header `h`. -/
def graphWith (x : Queue) (q index : Nat) (h : List Word) (s : State) : State :=
  if (h.getD 0 0#32).toNat = 0 ∨ 65535 < (h.getD 0 0#32).toNat then s.entryDone q index 5 (h.getD 4 0#32)
  else { s with graphs := s.graphs ++
    [{ job := x.job, queue := q, index := index, id := h.getD 4 0#32, nodes := (h.getD 0 0#32).toNat,
       base := pairOf (h.getD 2 0#32) (h.getD 3 0#32), states := List.replicate (h.getD 0 0#32).toNat .waiting, counter := 0#32,
       status := 0, ended := false }] }

/-- A GRAPH entry: its header names its nodes. -/
def graphEffect (x : Queue) (q index : Nat) (ws : List Word) (s : State) : State :=
  ((s.jobWords x.job (pairOf (ws.getD 2 0#32) (ws.getD 3 0#32)).toNat 16).map (fun h => graphWith x q index h s)).getD
    (s.entryDone q index 5 0#32)

/-- A WAIT entry: done when its word satisfies the condition, else it waits, with a deadline when one is given. -/
def waitEffect (x : Queue) (q index : Nat) (ws : List Word) (s : State) : State :=
  if s.waitHolds x.job ws then s.entryDone q index stOK 0#32
  else s.modTaken q index (fun t => { t with deadline :=
    if (ws.getD 6 0#32).toNat = 0 then 0 else s.now + 1000 * (ws.getD 6 0#32).toNat })

/-- A RESUME entry: the answer to a request that may be answered on this queue. -/
def resumeEffect (x : Queue) (q index : Nat) (ws : List Word) (s : State) : State :=
  ((s.request? (ws.getD 1 0#32).toNat).map (fun r =>
    if s.mayAnswer x r then
      (s.answer r ((ws.getD 2 0#32).getLsbD 0) ((ws.getD 2 0#32).extractLsb' 1 2).toNat).entryDone q index stOK (ws.getD 1 0#32)
    else s.entryDone q index stNotFound (ws.getD 1 0#32))).getD (s.entryDone q index stNotFound (ws.getD 1 0#32))

/-- The queue events that take an entry at HEAD, with the kind each takes and what the taken entry does. -/
noncomputable def takers : List ((Nat → Instr) × Nat × (Queue → Nat → Nat → List Word → State → State)) :=
  [(.launchEntry, 1, launchEffect), (.graphEntry, 2, graphEffect), (.waitEntry, 3, waitEffect),
   (.cancelEntry, 4, fun x _ index ws s => s.startCancel x index ws),
   (.invalEntry, 6, fun x _ _ ws s => s.tlbDrop (s.job x.job).tag (invalOf ws).1 (invalOf ws).2),
   (.resumeEntry, 7, resumeEffect)]

/-- Host services with the word that asks for each: operation + 256 × suboperation (spec/16 R385). -/
noncomputable def services : List ((Nat → BitVec 32 → ReqHead → List (BitVec 8) → Instr) × Nat) :=
  [(.jobCreate, 1), (.jobDestroy, 2), (.cfgRd, 3), (.cfgWr, 259), (.dbgRd, 4), (.dbgWr, 260), (.powerLimit, 5), (.errlog, 6), (.attest, 7),
   (.darnRd, 8), (.darnApply, 264), (.colAlloc, 9), (.colFree, 265), (.resetService, 10)]
/-! ### Frames -/

/-- The destination registers d to d + n - 1, on the side that `on` says. -/
def dest (on : Bool) (d : BitVec 7) (n : Nat) (r : Nat) : Bool := on && decide (d.toNat ≤ r) && decide (r < d.toNat + n)

/-- What an instruction leaves as it was that computes on registers of its own wave, with destination elements in lane
registers, uniform registers, masks, condition bits and generators: everything of the device but the groups, every other group and
wave, every other split, and of its own wave every register but its destinations in its active lanes. It may set bits of
sr.sticky and moves its split on, with what the end of a bundle changes (spec/01 R19, spec/03 R85). -/
structure Frame (s t : State) (c : Ctx) (lane uni mask cond : Nat → Bool) (rng : Nat → Bool := fun _ => false) : Prop where
  rest : t = { s with groups := t.groups, stalled := none }
  groups : ∀ g, g ≠ c.cur.g → t.groups[g]? = s.groups[g]?
  group : ∃ G, t.groups[c.cur.g]? = some G ∧
    G = { c.grp with waves := G.waves, first := G.first, progress := G.progress } ∧
    ∀ w, w ≠ c.cur.w → G.waves[w]? = c.grp.waves[w]?
  wave : ∃ x, t.wave? c.cur.g c.cur.w = some x ∧
    x = { c.wave with
          v := x.v, vp := x.vp, s := x.s, sp := x.sp, k := x.k, c := x.c, rng := x.rng, sr := { c.wave.sr with sticky := x.sr.sticky }
          splits := x.splits, trap := { c.wave.trap with entry := x.trap.entry }, age := x.age, passed := x.passed } ∧
    (∀ r i, (lane r && c.act.getLsbD i) = false → x.vget r i = c.wave.vget r i ∧ x.vpoison r i = c.wave.vpoison r i) ∧
    (∀ r, uni r = false → x.sget r = c.wave.sget r ∧ x.spoison r = c.wave.spoison r) ∧
    (∀ k i, (mask k && c.act.getLsbD i) = false → (x.k.getD k 0#64).getLsbD i = (c.wave.k.getD k 0#64).getLsbD i) ∧
    (∀ n, cond n = false → x.cget n = c.wave.cget n) ∧
    (∀ i, rng i = false → x.rng[i]? = c.wave.rng[i]?) ∧
    (∀ j, j ≠ c.cur.sp → x.entry j = c.wave.entry j) ∧
    ∀ i, c.wave.sr.sticky.getLsbD i = true → x.sr.sticky.getLsbD i = true

/-- The frame of results in lane or uniform registers. -/
def RegFrame (s t : State) (c : Ctx) (u : Bool) (d : BitVec 7) (n : Nat) : Prop :=
  Frame s t c (dest (!u) d n) (dest u d n) (fun _ => false) (fun _ => false)

/-- The frame of a mask or condition result. -/
def BitFrame (s t : State) (c : Ctx) (u : Bool) (d : BitVec 7) : Prop :=
  Frame s t c (fun _ => false) (fun _ => false) (dest (!u) d 1) (dest u d 1)

/-- The group of the instruction is not being ended at its next bundle boundary (spec/13 R341 R351). -/
def Steady (c : Ctx) : Prop := c.grp.stopping ≠ some .cancel ∧ c.grp.stopping ≠ some .flush

/-- The byte that the device reads at a physical address: the reductions queued for its line are applied first (spec/06
R178). -/
def byteAt (s : State) (x : Nat) : Byte := (s.peek x 1).headD 0#8

/-- A byte of the CLM of a core. -/
def clmAt (s : State) (core x : Nat) : Byte := cellRead (s.core core).clm x

/-- A byte of the scratch ways of a core. -/
def scrAt (s : State) (core x : Nat) : Byte := cellRead (s.core core).scr x

/-- No byte. -/
def nowhere (_ : Nat) : Prop := False

/-- The bytes that an access of a pending instruction may change, as offsets from its location: those that its operation
stores, for a `CSTORE` its INDEX and its elements, for a reduction its word when it is applied. -/
def stored (s : State) (G : Group) (q : Pend) (a : Acc) (k : Nat) : Prop :=
  match q.op? with
  | some (.store n) => k < n
  | some .estore | some (.red _) | some .workdone => k < 4
  | some (.atomic f) => k < if f = 22 then 8 else 4
  | some .cstore =>
    k < 4 ∨ ∃ y ∈ a.cells (s.queueHead G a.loc).1 (s.queueHead G a.loc).2, y.1 ≤ k ∧ k < y.1 + 4
  | some (.load _ _) | some (.ldrq _) | none => False

/-- Where the bytes begin that an access to device memory changes: a reduction reduces its aligned word. -/
def wordOf (q : Pend) (pa : Nat) : Nat :=
  match q.op? with
  | some (.red _) => 4 * (pa / 4)
  | _ => pa

/-- No outcome of the access is a fault: an atomic, an `LDRQ` and a `WORKDONE` meet no poison mark, a `CSTORE` passes its
checks. -/
def Unharmed (s : State) (G : Group) (q : Pend) (a : Acc) : Prop :=
  match q.op? with
  | some (.atomic f) => s.locPoison G a.loc (if f = 22 then 8 else 4) = false
  | some .workdone => s.locPoison G a.loc 4 = false
  | some (.ldrq w) => s.locPoison G a.loc (4 * w) = false ∧ ∀ h ∈ s.hcopies, h.core = G.core → h.marks = []
  | some .cstore => a.cstoreFaults (s.queueHead G a.loc).1 (s.queueHead G a.loc).2 = []
  | _ => True

/-- Every byte of device memory, of every CLM and of all scratch ways is as it was, but for some bytes of device memory and,
on the core of a group, of the CLM and of the scratch ways. -/
structure MemFrame (s t : State) (G : Group) (mem clm scr : Nat → Prop) : Prop where
  mem : ∀ x, ¬ mem x → byteAt t x = byteAt s x
  clm : ∀ core x, ¬ (core = G.core ∧ clm x) → clmAt t core x = clmAt s core x
  scr : ∀ core x, ¬ (core = G.core ∧ scr x) → scrAt t core x = scrAt s core x
/-- The node is appended to the list of flagged nodes (spec/11 R306). -/
def listed (x : Refit) (node : Nat) (flag : Prop) [Decidable flag] (s : State) : State :=
  if flag then s.appendWord x.die x.job x.list (BitVec.ofNat 32 node) else s

/-! ### Units -/

/-- Instructions of units that not every core has, the kind of core that has it, and their registers (spec/00 R4). -/
noncomputable def unitFns : List ((BitVec 7 → BitVec 7 → BitVec 7 → Instr) × Where ×
    (Ctx → BitVec 7 → BitVec 7 → BitVec 7 → List Use)) :=
  let net := fun (c : Ctx) (d a b : BitVec 7) =>
    [rdB false b] ++ ((c.grp.net).map (fun n => [rdV a n.2.1, wrV d n.2.2])).getD []
  [(.rayq, .shading, fun _ d a b => [rdV a 8, rdV b 4, wrV d 8]), (.rayq64, .shading, fun _ d a b => [rdV a 12, rdV b 4, wrV d 8]),
   (fun d _ b => .raycont d b, .shading, fun _ d _ b => [rdB false b, wrV d 8]), (fun d _ _ => .rayhit d, .shading, fun _ d _ _ => [wrV d 8]),
   (.raycommit, .shading, fun _ d a b => [rdV a, rdB false b, wrV d]), (fun _ _ _ => .rayabort, .shading, fun _ _ _ _ => []),
   (.neval, .shading, net), (.nevalH, .shading, net), (fun _ _ _ => .nflush, .shading, fun _ _ _ _ => []),
   (fun _ a _ => .ncfg a, .shading, fun _ _ a _ => [rdS a]), (fun d a _ => .hpart d a, .shading, fun _ d a _ => [rdS a, wrS d]),
   (fun _ a _ => .mloadw a, .shading, fun _ _ a _ => [rdS a 2]), (fun _ _ _ => .mswap, .shading, fun _ _ _ _ => []),
   (fun _ a _ => .mstream a, .shading, fun _ _ a _ => [rdS a 8]), (fun _ a _ => .mdrain a, .shading, fun _ _ a _ => [rdS a 4]),
   (fun _ a _ => .mzero a, .shading, fun _ _ a _ => [rdS a]), (fun d _ _ => .mstat d, .shading, fun _ d _ _ => [wrS d]),
   (fun _ a _ => .ttstep a, .shading, fun _ _ a _ => [rdS a 8]), (fun d a _ => .ttrun d a, .shading, fun _ d a _ => [rdS a 4, wrS d 2]),
   (fun d a _ => .emitvp d a, .geometry, fun _ d a _ => [rdS a 4, wrS d]), (fun d a _ => .vclose d a, .geometry, fun _ d a _ => [rdS a 2, wrS d])]

/-- The functions of trap level (spec/01 R40, spec/13 R356). -/
def trapLevelOnly : Instr → Bool
  | .sysrd _ _ | .syswr _ _ | .fltrec _ _ | .parkres _ | .rett | .tlbinv _ => true
  | _ => false

/-- Register instructions of groups 0 to 4: the function of a side and fields d, a and b, whether the uniform side has it too, and the
registers that it reads and writes (spec/04 R111 to R124). -/
noncomputable def sourceFns : List ((Bool → BitVec 7 → BitVec 7 → BitVec 7 → Instr) × Bool ×
    (Bool → BitVec 7 → BitVec 7 → BitVec 7 → List Use)) :=
  intFns.map (fun p => (p.1, true, fun u d a b => [rdR u a, rdB u b, wrR u d])) ++
  intFns3.map (fun p => (p.1, true, fun u d a b => [rdR u a, rdB u b, rdR u d, wrR u d])) ++
  packFns.map (fun p => (fun _ d a b => p.1 d a b, false, fun u d a b =>
    [rdR u a, rdB u b, wrR u d] ++ (if p.2.1 then [rdR u d] else []))) ++
  floatFns.map (fun p => (p.1, true, fun u d a b => [rdR u a, rdB u b, wrR u d] ++ (if p.2.1 then [rdR u d] else []))) ++
  doubleFns.map (fun p => (p.1, true, fun u d a b => [rdR u a 2, rdB u b 2, wrR u d 2] ++ (if p.2.1 then [rdR u d 2] else []))) ++
  halfFns.map (fun p => (fun _ d a b => p.1 d a b, false, fun u d a b =>
    [rdR u a, rdB u b, wrR u d] ++ (if p.2.1 then [rdR u d] else []))) ++
  icmpFns.map (fun p => (p.1, true, fun u _ a b => [rdR u a, rdB u b])) ++
  fcmpFns.map (fun p => (p.1, true, fun u _ a b => [rdR u a, rdB u b])) ++
  dcmpFns.map (fun p => (p.1, true, fun u _ a b => [rdR u a 2, rdB u b 2]))
end Sys2Proof.Claims

open Sys2Proof Sys2Proof.Machine Sys2Proof.Safety Sys2Proof.Claims

/-- Group 0 with register or literal operands and in form I, where the signed 7-bit immediate stands for B: every function
of the tables, `SEL`, `MOV`, `MOVI`, the 64-bit sums and differences and the exact products write their results to d and
move the split on; pairs are even-numbered, and a literal of a 64-bit function is sign-extended (spec/01 R24 R29, spec/04
R111 to R114). -/
def Obligations.IntegerResults : Prop :=
  (∀ p ∈ intFns, ∀ u d a b s c, Runs s c b [rdR u a, rdB u b, wrR u d] →
    exec (p.1 u d a b) s = .next (after s c (onWave c (results c u d (pure1 fun i => p.2 (c.A u a i) (c.B u b i)))))) ∧
  (∀ p ∈ intFns3, ∀ u d a b s c, Runs s c b [rdR u a, rdB u b, rdR u d, wrR u d] →
    exec (p.1 u d a b) s =
      .next (after s c (onWave c (results c u d (pure1 fun i => p.2 (c.A u d i) (c.A u a i) (c.B u b i)))))) ∧
  (∀ p ∈ intFns1, ∀ u d a s c, Runs s c 0#7 [rdR u a, wrR u d] →
    exec (p.1 u d a) s = .next (after s c (onWave c (results c u d (pure1 fun i => p.2 (c.A u a i)))))) ∧
  (∀ u n d a b s c, Runs s c b [rdR u a, rdB u b, wrR u d] →
    exec (.sel u n d a b) s = .next (after s c (onWave c (results c u d (pure1 fun i =>
      if (if u then c.wave.cget n.toNat else (c.wave.kget c.act n.toNat).getLsbD i) then c.A u a i else c.B u b i))))) ∧
  (∀ u d b s c, Runs s c b [rdB u b, wrR u d] →
    exec (.mov u d b) s = .next (after s c (onWave c (results c u d (pure1 fun i => c.B u b i))))) ∧
  (∀ u d i s c, Runs s c 0#7 [wrR u d] →
    exec (.movi u d i) s = .next (after s c (onWave c (results c u d (pure1 fun _ => i.signExtend 32))))) ∧
  (∀ u d a b s c, d.toNat % 2 = 0 → a.toNat % 2 = 0 → b.toNat % 2 = 0 → Runs s c b [rdR u a 2, rdB u b 2, wrR u d 2] →
    exec (.iadd64 u d a b) s =
      .next (after s c (onWave c (results c u d (pure2 fun i => c.A64 u a i + c.B64 u b i)))) ∧
    exec (.isub64 u d a b) s =
      .next (after s c (onWave c (results c u d (pure2 fun i => c.A64 u a i - c.B64 u b i))))) ∧
  (∀ u d a b s c, d.toNat % 2 = 0 → Runs s c b [rdR u a, rdB u b, wrR u d 2] →
    exec (.imulwI u d a b) s = .next (after s c (onWave c (results c u d
      (pure2 fun i => (c.A u a i).signExtend 64 * (c.B u b i).signExtend 64)))) ∧
    exec (.imulwN u d a b) s = .next (after s c (onWave c (results c u d
      (pure2 fun i => (c.A u a i).setWidth 64 * (c.B u b i).setWidth 64))))) ∧
  (∀ p ∈ immFns, ∀ u d a i s c, Runs s c 0#7 [rdR u a, wrR u d] →
    exec (p.1 u d a i) s =
      .next (after s c (onWave c (results c u d (pure1 fun l => p.2 (c.A u a l) (i.signExtend 32)))))) ∧
  (∀ p ∈ immFns3, ∀ u d a i s c, Runs s c 0#7 [rdR u a, rdR u d, wrR u d] →
    exec (p.1 u d a i) s =
      .next (after s c (onWave c (results c u d (pure1 fun l => p.2 (c.A u d l) (c.A u a l) (i.signExtend 32))))))

/-- Packed and saturating integers of group 1, in both forms; a clamped element sets SAT (spec/04 R115 R116). -/
def Obligations.PackedResults : Prop :=
  (∀ p ∈ packFns, ∀ d a b s c, Runs s c b ([rdV a, rdB false b, wrV d] ++ (if p.2.1 then [rdV d] else [])) →
    exec (p.1 d a b) s =
      .next (after s c (onWave c (results c false d fun i => p.2.2 (c.A false d i) (c.A false a i) (c.B false b i))))) ∧
  (∀ p ∈ packImmFns, ∀ d a i s c, Runs s c 0#7 ([rdV a, wrV d] ++ (if p.2.2.1 then [rdV d] else [])) →
    exec (p.1 d a i) s =
      .next (after s c (onWave c (results c false d fun l => p.2.2.2 (c.A false d l) (c.A false a l) (p.2.1 i)))))

/-- Binary32, binary64 and packed half arithmetic under the mode of sr.fpmode: where no lane raises an enabled flag,
results go to d and the flags to sr.sticky; a lane that raises one keeps its destination, the others receive theirs, and the
wave traps after the instruction with one record for each such lane (spec/04 R117 to R120 R139 R140 R141). -/
def Obligations.FloatResults : Prop :=
  (∀ p ∈ floatFns, ∀ u d a b s c, Runs s c b ([rdR u a, rdB u b, wrR u d] ++ (if p.2.1 then [rdR u d] else [])) →
    let r := fun i => out32 (p.2.2 c.wave.rm (c.A u d i).toNat (c.A u a i).toNat (c.B u b i).toNat)
    (noTrap c u r = true → exec (p.1 u d a b) s = .next (after s c (onWave c (results c u d r)))) ∧
    (noTrap c u r = false → exec (p.1 u d a b) s = .next (fpTrapped s c u d r))) ∧
  (∀ p ∈ doubleFns, ∀ u d a b s c, d.toNat % 2 = 0 → a.toNat % 2 = 0 → b.toNat % 2 = 0 →
    Runs s c b ([rdR u a 2, rdB u b 2, wrR u d 2] ++ (if p.2.1 then [rdR u d 2] else [])) →
    let r := fun i => out64 (p.2.2 c.wave.rm (c.A64 u d i).toNat (c.A64 u a i).toNat (c.BD u b i).toNat)
    (noTrap c u r = true → exec (p.1 u d a b) s = .next (after s c (onWave c (results c u d r)))) ∧
    (noTrap c u r = false → exec (p.1 u d a b) s = .next (fpTrapped s c u d r))) ∧
  (∀ p ∈ halfFns, ∀ d a b s c, Runs s c b ([rdV a, rdB false b, wrV d] ++ (if p.2.1 then [rdV d] else [])) →
    let r := fun i => halves (fun h =>
      p.2.2 c.wave.rm (half (c.A false d i) h) (half (c.A false a i) h) (half (c.B false b i) h))
    (noTrap c false r = true → exec (p.1 d a b) s = .next (after s c (onWave c (results c false d r)))) ∧
    (noTrap c false r = false → exec (p.1 d a b) s = .next (fpTrapped s c false d r)))

/-- Sign operations, classes and rounding to an integer: absolute value and negation change the sign bit alone and raise no
flag; `FCLASS` and `DCLASS` write the one bit of the class table that the sign, the exponent and the fraction of their source
name, and set no flag (spec/04 R117 R118 R121 R122). -/
def Obligations.FloatUnaryResults : Prop :=
  (∀ u d a s c, Runs s c 0#7 [rdR u a, wrR u d] →
    exec (.fabs u d a) s =
      .next (after s c (onWave c (results c u d (pure1 fun i => c.A u a i &&& 0x7FFFFFFF#32)))) ∧
    exec (.fneg u d a) s =
      .next (after s c (onWave c (results c u d (pure1 fun i => c.A u a i ^^^ 0x80000000#32))))) ∧
  (∀ u d a s c, d.toNat % 2 = 0 → a.toNat % 2 = 0 → Runs s c 0#7 [rdR u a 2, wrR u d 2] →
    exec (.dabs u d a) s =
      .next (after s c (onWave c (results c u d (pure2 fun i => c.A64 u a i &&& 0x7FFFFFFFFFFFFFFF#64)))) ∧
    exec (.dneg u d a) s =
      .next (after s c (onWave c (results c u d (pure2 fun i => c.A64 u a i ^^^ 0x8000000000000000#64))))) ∧
  (∀ d a s c, Runs s c 0#7 [rdV a, wrV d] →
    exec (.fclass d a) s = .next (after s c (onWave c (results c false d
      (pure1 fun i => let x := c.A false a i
        BitVec.ofNat 32 (2 ^ classBit (x.getLsbD 31) (x.extractLsb' 23 8).toNat (x.extractLsb' 0 23).toNat 255 (2 ^ 22))))))) ∧
  (∀ d a s c, a.toNat % 2 = 0 → Runs s c 0#7 [rdV a 2, wrV d] →
    exec (.dclass d a) s = .next (after s c (onWave c (results c false d
      (pure1 fun i => let x := c.A64 false a i
        BitVec.ofNat 32 (2 ^ classBit (x.getLsbD 63) (x.extractLsb' 52 11).toNat (x.extractLsb' 0 52).toNat 2047 (2 ^ 51))))))) ∧
  (∀ d a r s c, r.toNat < 5 → Runs s c 0#7 [rdV a, wrV d] →
    let f := fun i => out32 (f32.integral (c.code r) (c.A false a i).toNat)
    (noTrap c false f = true → exec (.frnd d a r) s = .next (after s c (onWave c (results c false d f)))) ∧
    (noTrap c false f = false → exec (.frnd d a r) s = .next (fpTrapped s c false d f))) ∧
  (∀ d a r s c, d.toNat % 2 = 0 → a.toNat % 2 = 0 → r.toNat < 5 → Runs s c 0#7 [rdV a 2, wrV d 2] →
    let f := fun i => out64 (f64.integral (c.code r) (c.A64 false a i).toNat)
    (noTrap c false f = true → exec (.drnd d a r) s = .next (after s c (onWave c (results c false d f)))) ∧
    (noTrap c false f = false → exec (.drnd d a r) s = .next (fpTrapped s c false d f)))

/-- Compares write one bit for each active lane to kd, or the condition bit cd; a compare of numbers without an invalid
operand raises no flag, and a lane that raises an enabled one leaves its bit and traps (spec/04 R123 R124 R140 R141). -/
def Obligations.CompareResults : Prop :=
  (∀ p ∈ icmpFns, ∀ u d a b s c, d.toNat < 8 → Runs s c b [rdR u a, rdB u b] →
    exec (p.1 u d a b) s =
      .next (after s c (onWave c (maskResults c u d fun i => (p.2 (c.A u a i) (c.B u b i), Flags.none))))) ∧
  (∀ p ∈ fcmpFns, ∀ u d a b s c, d.toNat < 8 → Runs s c b [rdR u a, rdB u b] →
    let f := fun i => f32.compare p.2 (c.A u a i).toNat (c.B u b i).toNat
    (noTrapM c u f = true → exec (p.1 u d a b) s = .next (after s c (onWave c (maskResults c u d f)))) ∧
    (noTrapM c u f = false → exec (p.1 u d a b) s = .next (fpTrappedM s c u d f))) ∧
  (∀ p ∈ dcmpFns, ∀ u d a b s c, d.toNat < 8 → a.toNat % 2 = 0 → b.toNat % 2 = 0 → Runs s c b [rdR u a 2, rdB u b 2] →
    let f := fun i => f64.compare p.2 (c.A64 u a i).toNat (c.BD u b i).toNat
    (noTrapM c u f = true → exec (p.1 u d a b) s = .next (after s c (onWave c (maskResults c u d f)))) ∧
    (noTrapM c u f = false → exec (p.1 u d a b) s = .next (fpTrappedM s c u d f)))

/-- Mask and condition logic, and moves between masks and lane registers; k0 reads as the active mask, a mask write
changes the bits of active lanes only (spec/01 R32, spec/04 R125). -/
def Obligations.MaskResults : Prop :=
  (∀ p ∈ maskFns, ∀ d a b s c, d.toNat < 8 → a.toNat < 8 → b.toNat < 8 → Runs s c 0#7 [] →
    exec (p.1 d a b) s = .next (after s c (onWave c fun wv =>
      wv.kput c.act d.toNat (p.2 (wv.kget c.act a.toNat) (wv.kget c.act b.toNat))))) ∧
  (∀ p ∈ condFns, ∀ d a b s c, d.toNat < 8 → a.toNat < 8 → b.toNat < 8 → Runs s c 0#7 [] →
    exec (p.1 d a b) s = .next (after s c (onWave c fun wv => wv.cset d.toNat (p.2 (wv.cget a.toNat) (wv.cget b.toNat))))) ∧
  (∀ d a s c, d.toNat < 8 → a.toNat < 8 → Runs s c 0#7 [] →
    exec (.knot d a) s = .next (after s c (onWave c fun wv => wv.kput c.act d.toNat (~~~(wv.kget c.act a.toNat)))) ∧
    exec (.kmov d a) s = .next (after s c (onWave c fun wv => wv.kput c.act d.toNat (wv.kget c.act a.toNat))) ∧
    exec (.cnot d a) s = .next (after s c (onWave c fun wv => wv.cset d.toNat (!wv.cget a.toNat))) ∧
    exec (.cmov d a) s = .next (after s c (onWave c fun wv => wv.cset d.toNat (wv.cget a.toNat)))) ∧
  (∀ d a s c, a.toNat < 8 → Runs s c 0#7 [wrV d] →
    exec (.ktov d a) s = .next (after s c (onWave c (results c false d (pure1 fun i =>
      if (c.wave.kget c.act a.toNat).getLsbD i then 1#32 else 0#32))))) ∧
  (∀ d a s c, d.toNat < 8 → Runs s c 0#7 [rdV a] →
    exec (.vtok d a) s =
      .next (after s c (onWave c (maskResults c false d fun i => (c.A false a i != 0#32, Flags.none)))))

/-- Conversions: integers, binary32, binary64, halves, and the formats of the launch's slots; where no lane raises an
enabled flag the results go to d; a lane that raises one keeps its destination and traps (spec/04 R126 to R129 R140 R141). -/
def Obligations.ConversionResults : Prop :=
  (∀ p ∈ cvtCodeFns, ∀ d a r s c, r.toNat < 5 → Runs s c 0#7 [rdV a, wrV d] →
    let f := fun i => p.2 (c.code r) (c.A false a i).toNat
    (noTrap c false f = true → exec (p.1 d a r) s = .next (after s c (onWave c (results c false d f)))) ∧
    (noTrap c false f = false → exec (p.1 d a r) s = .next (fpTrapped s c false d f))) ∧
  (∀ p ∈ cvtFns, ∀ d a s c, Runs s c 0#7 [rdV a, wrV d] →
    let f := fun i => out32 (p.2 c.wave.rm (c.A false a i).toNat)
    (noTrap c false f = true → exec (p.1 d a) s = .next (after s c (onWave c (results c false d f)))) ∧
    (noTrap c false f = false → exec (p.1 d a) s = .next (fpTrapped s c false d f))) ∧
  (∀ p ∈ narrowFns, ∀ d a b s c, Runs s c b [rdV a, rdB false b, wrV d] →
    let f := fun i => halves (fun h =>
      f32.convert p.2 c.wave.rm (if h = 0 then c.A false a i else c.B false b i).toNat)
    (noTrap c false f = true → exec (p.1 d a b) s = .next (after s c (onWave c (results c false d f)))) ∧
    (noTrap c false f = false → exec (p.1 d a b) s = .next (fpTrapped s c false d f))) ∧
  (∀ d a s c, d.toNat % 2 = 0 → Runs s c 0#7 [rdV a, wrV d 2] →
    let f := fun i => out64 (f32.convert f64 .rne (c.A false a i).toNat)
    let g := fun i => out64 (f64.ofInt .rne (c.A false a i).toInt)
    ((noTrap c false f = true → exec (.f2d d a) s = .next (after s c (onWave c (results c false d f)))) ∧
    (noTrap c false f = false → exec (.f2d d a) s = .next (fpTrapped s c false d f))) ∧
    (noTrap c false g = true → exec (.i2dI d a) s = .next (after s c (onWave c (results c false d g))))) ∧
  (∀ d a s c, a.toNat % 2 = 0 → Runs s c 0#7 [rdV a 2, wrV d] →
    let f := fun i => out32 (f64.convert f32 c.wave.rm (c.A64 false a i).toNat)
    (noTrap c false f = true → exec (.d2f d a) s = .next (after s c (onWave c (results c false d f)))) ∧
    (noTrap c false f = false → exec (.d2f d a) s = .next (fpTrapped s c false d f))) ∧
  (∀ d a r s c, a.toNat % 2 = 0 → r.toNat < 5 → Runs s c 0#7 [rdV a 2, wrV d] →
    let f := fun i => int32Out (f64.toInt (c.code r) (-(2 ^ 31)) (2 ^ 31 - 1) (c.A64 false a i).toNat)
    (noTrap c false f = true → exec (.d2iI d a r) s = .next (after s c (onWave c (results c false d f)))) ∧
    (noTrap c false f = false → exec (.d2iI d a r) s = .next (fpTrapped s c false d f))) ∧
  (∀ n d a s c, let t := c.lau.slot n.toNat
    laneCount t ≠ 0 → d.toNat % laneCount t = 0 → Runs s c 0#7 [rdV a, wrV d (laneCount t)] →
    let f := fun i =>
      let r := (List.range (laneCount t)).map (fun j =>
        widenLane t ((c.A false a i).toNat / 2 ^ (t.bits * j) % 2 ^ t.bits))
      (r.map Prod.fst, Flags.unions (r.map Prod.snd))
    (noTrap c false f = true → exec (.cvtw n d a) s = .next (after s c (onWave c (results c false d f)))) ∧
    (noTrap c false f = false → exec (.cvtw n d a) s = .next (fpTrapped s c false d f))) ∧
  (∀ n d a s c, let t := c.lau.slot n.toNat
    laneCount t ≠ 0 → a.toNat % laneCount t = 0 → Runs s c 0#7 [rdV a (laneCount t), wrV d] →
    let r := fun i => narrowList t (c.wave.rng.getD i 0#32)
      ((List.range (laneCount t)).map (fun j => (c.wave.vget (a.toNat + j) i).toNat))
    let f := fun i => ([BitVec.ofNat 32 (packBits t.bits (r i).1)], (r i).2.1)
    noTrap c false f = true →
    exec (.cvtn n d a) s = .next (after s c fun s => onWave c (results c false d f) (onWave c (fun wv =>
      { wv with rng := wv.rng.zipIdx.map (fun p => if c.act.getLsbD p.2 then (r p.2).2.2 else p.1) }) s))) ∧
  (∀ n d a s c, let t := c.lau.slot n.toNat
    laneCount t ≠ 0 → a.toNat % laneCount t = 0 → Runs s c 0#7 [rdV a (laneCount t), wrV d] →
    let r := fun i => narrowList t (c.wave.rng.getD i 0#32)
      ((List.range (laneCount t)).map (fun j => (c.wave.vget (a.toNat + j) i).toNat))
    let f := fun i => ([BitVec.ofNat 32 (packBits t.bits (r i).1)], (r i).2.1)
    noTrap c false f = false →
    exec (.cvtn n d a) s = .next (fpTrapped s c false d f (onWave c (fun wv =>
      { wv with rng := wv.rng.zipIdx.map (fun p => if c.act.getLsbD p.2 then (r p.2).2.2 else p.1) }))))

/-- Moves between the register files: special registers with their holding register, single lanes, halves of masks
(spec/01 R34, spec/04 R136 to R138). `WRLANE` writes its lane though it is inactive. Where the
manual leaves a point open it follows the model (log entry 33). -/
def Obligations.UniformMoveResults : Prop :=
  (∀ d a s c, readableSr a.toNat = true → stickyWaits s a = false → Runs s c 0#7 [wrS d] →
    exec (.movs d a) s = .next (after s c fun s =>
      onWave c (results c true d (pure1 fun _ => srRead c s a.toNat 0)) (s.srHold c a.toNat))) ∧
  (∀ d a s c, (readableSr a.toNat || a.toNat == 0x30) = true → stickyWaits s a = false → Runs s c 0#7 [wrV d] →
    exec (.movls d a) s = .next (after s c fun s =>
      onWave c (results c false d (pure1 fun i => srRead c s a.toNat i)) (s.srHold c a.toNat))) ∧
  (∀ a b s c, writableSr a.toNat = true → stickyWaits s a = false → Runs s c b [rdB true b] →
    exec (.movsw a b) s = .next (after s c (onWave c fun wv => wv.srWrite a.toNat (c.B true b 0)))) ∧
  (∀ d a b s c, let l := (c.B true b 0).toNat % c.wave.width
    inAlloc c [rdV a] = true → elemUsable c false (a.toNat, l) = true → Runs s c b [rdB true b, wrS d] →
    exec (.rdlane d a b) s =
      .next (after s c (onWave c (results c true d (pure1 fun _ => c.wave.vget a.toNat l))))) ∧
  (∀ d a b s c, let l := (c.B true b 0).toNat % c.wave.width
    inAlloc c [wrV d] = true → elemUsable c true (d.toNat, l) = true → Runs s c b [rdS a, rdB true b] →
    exec (.wrlane d a b) s = .next (after s c (onWave c fun wv => wv.vset d.toNat l (c.A true a 0) false))) ∧
  (∀ d a h s c, a.toNat < 8 → h.toNat < 2 → Runs s c 0#7 [wrS d] →
    let m := c.wave.kget c.act a.toNat
    exec (.ktos d a h) s =
      .next (after s c (onWave c (results c true d (pure1 fun _ => if h = 0#7 then lo32 m else hi32 m))))) ∧
  (∀ d a h s c, d.toNat < 8 → h.toNat < 2 → Runs s c 0#7 [rdS a] →
    let x := c.A true a 0
    exec (.stok d a h) s = .next (after s c (onWave c fun wv =>
      if h = 0#7 then wv.kput (c.act &&& 0xFFFFFFFF#64) d.toNat (pairOf x 0#32)
      else wv.kput (c.act &&& 0xFFFFFFFF00000000#64) d.toNat (pairOf 0#32 x)))) ∧
  (∀ (wv : Wave) act m k i, 0 < k → k < wv.k.length → ((wv.kput act k m).k.getD k 0#64).getLsbD i =
    if act.getLsbD i then m.getLsbD i else (wv.k.getD k 0#64).getLsbD i) ∧
  (∀ (wv : Wave) act m, wv.kput act 0 m = wv)

/-- Cross-lane operations: shuffles, slides and broadcast take elements of other lanes, compress and expand move the
selected lanes, votes write a mask; the last two set sr.last (spec/04 R130 to R133). -/
def Obligations.CrossLaneResults : Prop :=
  (∀ p ∈ shuffleFns, ∀ d a b s c, inAlloc c [rdV a] = true →
    (∀ i ∈ c.lanes, elemUsable c false (a.toNat, p.2 c b i) = true) → Runs s c b [rdB false b, wrV d] →
    exec (p.1 d a b) s =
      .next (after s c (onWave c (results c false d (pure1 fun i => c.wave.vget a.toNat (p.2 c b i)))))) ∧
  (∀ p ∈ slideFns, ∀ d a b s c,
    let h := p.2.1
    let n := (c.cur.lit.map BitVec.toNat).getD 1
    let T := h * c.wave.width
    let at_ := fun e => if (p.2.2 T n e).1 then (b.toNat, (p.2.2 T n e).2) else (a.toNat, (p.2.2 T n e).2)
    n ≤ T → inAlloc c [rdV a, rdV b] = true →
    (∀ i ∈ c.lanes, ∀ x < h, elemUsable c false ((at_ (h * i + x)).1, (at_ (h * i + x)).2 / h) = true) → Runs s c 0#7 [wrV d] →
    exec (p.1 d a b) s = .next (after s c (onWave c (results c false d (pure1 fun i =>
      BitVec.ofNat 32 (packBits (32 / h) ((List.range h).map (fun x =>
        (c.wave.vget (at_ (h * i + x)).1 ((at_ (h * i + x)).2 / h)).toNat / 2 ^ (32 / h * ((at_ (h * i + x)).2 % h)))))))))) ∧
  (∀ d a b s c, let l := (c.cur.lit.getD (c.wave.sget b.toNat)).toNat % c.wave.width
    inAlloc c [rdV a] = true → elemUsable c false (a.toNat, l) = true → Runs s c b [rdB true b, wrV d] →
    exec (.bcast d a b) s =
      .next (after s c (onWave c (results c false d (pure1 fun _ => c.wave.vget a.toNat l))))) ∧
  (∀ d a b s c, b.toNat < 8 → inAlloc c [rdV a] = true → Runs s c 0#7 [wrV d] →
    let sel := c.selected b
    let count := BitVec.ofNat 64 sel.length
    ((∀ p ∈ c.lanes.zip sel, elemUsable c false (a.toNat, p.2) = true) →
      exec (.vcompress d a b) s =
        .next (after s c fun s => (moveLanes d a (c.lanes.zip sel) [] c s).setLast c count) ∧
      exec (.vcompressZ d a b) s =
        .next (after s c fun s => (moveLanes d a (c.lanes.zip sel) (c.lanes.drop sel.length) c s).setLast c count)) ∧
    ((∀ p ∈ sel.zip c.lanes, elemUsable c false (a.toNat, p.2) = true) →
      exec (.vexpand d a b) s =
        .next (after s c fun s => (moveLanes d a (sel.zip c.lanes) [] c s).setLast c count))) ∧
  (∀ p ∈ voteFns, ∀ d a s c, d.toNat < 8 → Runs s c 0#7 [rdV a] →
    let r := p.2 c.act (Mask.ofLanes (c.lanes.filter (fun i => c.A false a i != 0#32)))
    exec (p.1 d a) s =
      .next (after s c fun s => (onWave c (fun wv => wv.kput c.act d.toNat r.1) s).setLast c r.2))

/-- Special functions and operations of the mangle issue and leave their results pending: a special function outside the
counters, a mangle operation in class 4 (spec/03 R101, spec/04 R134 R135, spec/08 R237 to R241). Where the
manual leaves a point open it follows the model (log entries 5 and 7). -/
def Obligations.PendingResultIssue : Prop :=
  (∀ p ∈ specialFns, ∀ d a s c, Runs s c 0#7 [rdV a, wrV d] →
    exec (p.1 d a) s = .next (afterLong s c false fun s =>
      (pendSpecial d.toNat 1 (fun i => out32 (p.2 c.wave.rm (c.A false a i).toNat)) c s).1)) ∧
  (∀ p ∈ specialFns64, ∀ d a s c, d.toNat % 2 = 0 → a.toNat % 2 = 0 → Runs s c 0#7 [rdV a 2, wrV d 2] →
    exec (p.1 d a) s = .next (afterLong s c false fun s =>
      (pendSpecial d.toNat 2 (fun i => out64 (p.2 c.wave.rm (c.A64 false a i).toNat)) c s).1)) ∧
  (∀ p ∈ mangleFns, ∀ d a s c, c.wave.counters.getD 4 0 < 63 → Runs s c 0#7 ([rdV a, wrV d].map marked) →
    let xs := c.lanes.map (fun i => c.A false a i)
    let bad := c.lanes.any (fun i => c.wave.vpoison a.toNat i)
    exec (p.1 d a) s = .next (afterLong s c false (mangled c d 1 bad ((p.2 c.lanes xs).map (fun x => [x]))))) ∧
  (∀ d a s c, d.toNat % 2 = 0 → c.wave.counters.getD 4 0 < 63 → Runs s c 0#7 ([rdV a, wrV d 2].map marked) →
    let xs := c.lanes.map (fun i => c.A false a i)
    let bad := c.lanes.any (fun i => c.wave.vpoison a.toNat i)
    let same := fun x => Mask.ofLanes (((c.lanes.zip xs).filter (fun p => p.2 == x)).map Prod.fst)
    exec (.xmatch d a) s =
      .next (afterLong s c false (mangled c d 2 bad (xs.map (fun x => [lo32 (same x), hi32 (same x)]))))) ∧
  (∀ p ∈ sortFns, ∀ d a b s c, d.toNat % 2 = 0 → c.wave.counters.getD 4 0 < 63 →
    Runs s c b ([rdV a, wrV d 2, rdB false b].map marked) →
    let xs := c.lanes.map (fun i => c.A false a i)
    let ys := c.lanes.map (fun i => c.B false b i)
    let bad := c.lanes.any (fun i => c.wave.vpoison a.toNat i || (c.cur.lit.isNone && c.wave.vpoison b.toNat i))
    exec (p.1 d a b) s = .next (afterLong s c false (mangled c d 2 bad
      ((sortKeys ((xs.zip ys).map (fun q => (p.2 q.1, q.1, q.2)))).map (fun x => [x.2.1, x.2.2]))))) ∧
  (∀ d a b s c, c.wave.counters.getD 4 0 < 63 → Runs s c b ([rdV a, wrV d, rdB false b].map marked) →
    let xs := c.lanes.map (fun i => c.A false a i)
    let ys := c.lanes.map (fun i => c.B false b i)
    let bad := c.lanes.any (fun i => c.wave.vpoison a.toNat i || (c.cur.lit.isNone && c.wave.vpoison b.toNat i))
    exec (.xsearch d a b) s = .next (afterLong s c false (mangled c d 1 bad
      (xs.map (fun x => [BitVec.ofNat 32 (ys.filter (fun y => decide (y.toNat ≤ x.toNat))).length])))))

/-- Loads, stores, atomics and reductions whose lanes all have a location issue: each leaves one access pending for every
active lane, or one for a uniform instruction, with its data read at issue, and counts in its class (spec/03 R96 R101,
spec/05 R159 to R162, spec/06 R182 to R184). -/
def Obligations.MemoryIssue : Prop :=
  (∀ p ∈ memFns, ∀ u d a o n s c, let m := p.2.1
    d.toNat % p.2.2.1 = 0 → o.toNat < p.2.2.2.1 → Runs s c 0#7 (memUses m u d a n) → MemReady m u a n s c →
    ∀ loc : Nat → Loc, (checked m u a n s c).1 = (wanted u a n c).map (fun x => (x.1, x.2, .loc (loc x.1))) →
    c.spoiled m (checked m u a n s c).2 (checked m u a n s c).1.good = [] →
    exec (p.1 u d a o n) s = .next (afterLong s c u fun _ =>
      pendingAccess m u p.2.2.2.2 d o c ((wanted u a n c).map (fun x => (x.1, x.2, loc x.1))) (checked m u a n s c).2)) ∧
  (∀ p ∈ elemFns, ∀ d a o n s c,
    d.toNat % 2 = 0 → o.toNat < 2 → Runs s c 0#7 (memUses elemSpec false d a n) → MemReady elemSpec false a n s c →
    ∀ loc : Nat → Loc, (checked elemSpec false a n s c).1 = (wanted false a n c).map (fun x => (x.1, x.2, .loc (loc x.1))) →
    exec (p.1 d a o n) s = .next (afterLong s c false fun _ =>
      pendingAccess elemSpec false p.2 d o c ((wanted false a n c).map (fun x => (x.1, x.2, loc x.1)))
        (checked elemSpec false a n s c).2))

/-- Where a lane of a memory instruction faults: a cause that is not serviceable traps the wave before any effect, with
one record for each faulting lane; where every fault is a page fault or a column that is not ready, outside trap level,
the faulting lanes park and the others' accesses go on; a lane of an atomic that meets a poisoned word performs nothing, and
its record traps the wave after the instruction; so do the element stores of lane group 8 (spec/03 R90 R421, spec/05 R146 R161).
Where the manual leaves a point open it follows the model (log entries 12, 30 and 55). -/
def Obligations.MemoryFaults : Prop :=
  (∀ p ∈ memFns, ∀ u d a o n s c, d.toNat % p.2.2.1 = 0 → o.toNat < p.2.2.2.1 → Runs s c 0#7 (memUses p.2.1 u d a n) →
    MemReady p.2.1 u a n s c → FaultsTaken (p.1 u d a o n) p.2.1 u p.2.2.2.2 d a o n s c) ∧
  (∀ p ∈ elemFns, ∀ d a o n s c, d.toNat % 2 = 0 → o.toNat < 2 → Runs s c 0#7 (memUses elemSpec false d a n) →
    MemReady elemSpec false a n s c → FaultsTaken (p.1 d a o n) elemSpec false p.2 d a o n s c)

/-- Local accesses as they are performed in CLM or in the scratch ways of the hamper: a load returns the bytes, extended as its
function says, with the marks of their words; a store writes exactly its bytes; an atomic on a word without mark returns the old
value and stores the function of it, one on a word with a mark changes nothing and meets POISON; an element store changes the
enabled bits (spec/05 R142 R146 R147 R159 to R162). Where a mark that is met then sends the split is the model's choice (log entry
12). -/
def Obligations.LocalAccessPerformed : Prop :=
  ∀ s g w p lane G wv q a, Performable s g w p lane G wv q a → ((∃ x, a.loc = .clm x) ∨ ∃ x, a.loc = .scratch x) →
    let y := localAddr G a.loc
    let core := s.cores.getD G.core Core.reset
    let mem := localBytes core a.loc
    let marks := localMarks core a.loc
    let s₁ := begun q G a s
    (∀ z ∈ loadSizes, q.kind = .mem (.load z.1 z.2) →
      exec (.loadDataReturn g w p lane) s = .next (accessDone g w p lane q a
        ((loadWords z.1 z.2 (cellBytes mem y z.1)).zipIdx.map (fun v =>
          (v.1, Machine.marked marks (y + 4 * v.2) (min z.1 4)))) s₁)) ∧
    (∀ n m, q.kind = .mem (.store n) →
      exec (.storeComplete g w p lane m) s =
        .next (accessDone g w p lane q a [] (storeLocal G a.loc ((wordsBytes a.data).take n) s₁))) ∧
    (∀ z ∈ atomicFns, q.kind = .mem (.atomic z.1) →
      let old := BitVec.ofNat 32 (leNat (cellBytes mem y 4))
      (Machine.marked marks y 4 = false → exec (.loadDataReturn g w p lane) s = .next (accessDone g w p lane q a [(old, false)]
        (storeLocal G a.loc (leBytes 4 (z.2 old (a.data.getD 0 0#32) (a.data.getD 1 0#32)).toNat) s₁))) ∧
      (Machine.marked marks y 4 = true → exec (.loadDataReturn g w p lane) s =
        .next (accessDone g w p lane q a [] s₁ (poisonMet q a)))) ∧
    (∀ m, q.kind = .mem .estore →
      let old := BitVec.ofNat 32 (leNat (cellBytes mem y 4))
      let en := a.data.getD 1 0#32
      exec (.storeComplete g w p lane m) s = .next (accessDone g w p lane q a []
        (if en = 0#32 then s₁
         else storeLocal G a.loc (leBytes 4 ((old &&& ~~~en) ||| (a.data.getD 0 0#32 &&& en)).toNat) s₁)))

/-- Global accesses as they are performed in device memory, outside the buffers of an Open frame: the queued reductions
of the line are applied first; a load returns the bytes, or those of the copy that the hamper of its core holds and does not hide
from its lane; a store writes exactly its bytes and drops the copies of the line; an atomic on a word without mark returns the old
value, one on a word with a mark changes nothing and meets POISON; `LDRQ` returns the bytes with the state 0, or zeros with the
state 3; `CSTORE` writes the elements below CAP and adds their number to INDEX, or meets the faults of its header; `WORKDONE` adds
1; a reduction joins the write queue of its line; an acquire first hides the copies of its core from its lanes. Behind a host window
the same is done in the line that the LLC holds (spec/06 R169 R176 to R180 R182 to R187, spec/07 R191 R194 R195, spec/12 R322,
spec/13 R346). Where the manual leaves a point open it follows the model (log entries 9, 12, 32 and 57). -/
def Obligations.GlobalAccessPerformed : Prop :=
  (∀ s g w p lane G wv q a pa, Performable s g w p lane G wv q a → a.loc = .phys pa → s.frameLine G a.va.toNat = false →
    let s₁ := begun q G a s
    let rd := q.reader G a
    let copy := s₁.hcopies.find? (fun h => h.core == G.core && h.line == pa / 128 && !h.hides rd)
    (∀ z ∈ loadSizes, q.kind = .mem (.load z.1 z.2) → (q.insn.extractLsb' 27 4 = 9#4 → s.foreignLine G a.va.toNat = false → copy = none) →
      exec (.loadDataReturn g w p lane) s = .next (accessDone g w p lane q a
        ((loadWords z.1 z.2 (cellBytes (s.drain pa z.1).mem pa z.1)).zipIdx.map (fun v =>
          (v.1, Machine.marked s.memP (pa + 4 * v.2) (min z.1 4)))) (s₁.drain pa z.1))) ∧
    (∀ z ∈ loadSizes, ∀ h, q.kind = .mem (.load z.1 z.2) → q.insn.extractLsb' 27 4 = 9#4 → s.foreignLine G a.va.toNat = false →
      copy = some h → h.frame = false → q.acq = false →
      exec (.loadDataReturn g w p lane) s = .next (accessDone g w p lane q a
        ((loadWords z.1 z.2 ((h.bytes.drop (pa % 128)).take z.1)).zipIdx.map (fun v =>
          (v.1, Machine.marked h.marks (pa + 4 * v.2) (min z.1 4)))) (s₁.drain pa z.1))) ∧
    (∀ n m, q.kind = .mem (.store n) → n ≤ 4 * a.data.length →
      let t := (s₁.claim true G rd pa n).drain pa n
      exec (.storeComplete g w p lane m) s = .next (accessDone g w p lane q a []
        { t with mem := cellWrites t.mem pa ((wordsBytes a.data).take n), memP := Machine.unmark t.memP pa n })) ∧
    (∀ z ∈ atomicFns, q.kind = .mem (.atomic z.1) → Machine.marked s.memP pa 4 = false →
      let old := BitVec.ofNat 32 (leNat (cellBytes (s.drain pa 4).mem pa 4))
      exec (.loadDataReturn g w p lane) s = .next (accessDone g w p lane q a [(old, false)]
        (((s₁.drain pa 4).claim false G rd pa 4).poke32 pa (z.2 old (a.data.getD 0 0#32) (a.data.getD 1 0#32))))) ∧
    (q.kind = .mem (.atomic 23) → Machine.marked s.memP pa 4 = false →
      let old := BitVec.ofNat 32 (leNat (cellBytes (s.drain pa 4).mem pa 4))
      exec (.loadDataReturn g w p lane) s = .next (accessDone g w p lane q a [(old, false)]
        (((s₁.drain pa 4).claim false G rd pa 4).poke32 pa (BitVec.ofNat 32 (fadd32 old.toNat (a.data.getD 0 0#32).toNat))))) ∧
    (q.kind = .mem (.atomic 22) → Machine.marked s.memP pa 8 = false →
      let old := leWords 2 (cellBytes (s.drain pa 8).mem pa 8)
      let t := s₁.drain pa 8
      exec (.loadDataReturn g w p lane) s = .next (accessDone g w p lane q a (old.map (fun x => (x, false)))
        (if old = [a.data.getD 2 0#32, a.data.getD 3 0#32]
          then (t.claim false G rd pa 8).pokeWords pa [a.data.getD 0 0#32, a.data.getD 1 0#32] else t.ownSeen G.core rd pa 8))) ∧
    (∀ f, q.kind = .mem (.atomic f) → Machine.marked s.memP pa (if f = 22 then 8 else 4) = true →
      exec (.loadDataReturn g w p lane) s = .next (accessDone g w p lane q a [] s₁ (poisonMet q a))) ∧
    (∀ n, q.kind = .mem (.ldrq n) → s.foreignLine G a.va.toNat = true ∨ copy = none →
      let bad := (List.range n).any (fun j => Machine.marked s.memP (pa + 4 * j) 4)
      let st := if bad then 3#32 else 0#32
      let data := if bad then List.replicate n 0#32 else leWords n (cellBytes (s.drain pa (4 * n)).mem pa (4 * n))
      exec (.loadDataReturn g w p lane) s = .next (accessDone g w p lane q a
        ((data ++ (if n = 1 then [st] else [0#32, st])).map (fun x => (x, false))) (s₁.drain pa (4 * n))
        (if bad then [q.laneFlt a { cause := cPoison, va := a.va, pst := 3, lvl := 0 }] else []))) ∧
    (∀ m, q.kind = .mem .cstore → s.cellsWatched G q a = none →
      let old := leNat (cellBytes (s.drain pa 8).mem pa 4)
      let cap := leNat (cellBytes (s.drain pa 8).mem (pa + 4) 4)
      let k := a.values.length
      let t := (a.cells old cap).foldl (fun t x => t.laneWrite true G rd (.phys (pa + x.1)) (leBytes 4 x.2.2.toNat)) (s₁.drain pa 8)
      (a.cstoreFaults old cap = [] → exec (.storeComplete g w p lane m) s = .next (accessDone g w p lane q a [(BitVec.ofNat 32 old, false)]
        (if k = 0 then t.ownSeen G.core rd pa 8 else t.laneWrite true G rd (.phys pa) (leBytes 4 ((old + k) % 2 ^ 32))))) ∧
      (a.cstoreFaults old cap ≠ [] → exec (.storeComplete g w p lane m) s =
        .next (accessDone g w p lane q a [] s₁ (a.cstoreFaults old cap)))) ∧
    (∀ m, q.kind = .mem .workdone →
      let old := BitVec.ofNat 32 (leNat (cellBytes (s.drain pa 4).mem pa 4))
      (Machine.marked s.memP pa 4 = false → exec (.storeComplete g w p lane m) s = .next (accessDone g w p lane q a []
        (((s₁.drain pa 4).claim false G rd pa 4).poke32 pa (old + a.data.getD 0 0#32)))) ∧
      (Machine.marked s.memP pa 4 = true → exec (.storeComplete g w p lane m) s =
        .next (accessDone g w p lane q a [] s₁ (poisonMet q a)))) ∧
    (∀ m, q.kind = .mem .estore →
      let old := BitVec.ofNat 32 (leNat (cellBytes (s.drain pa 4).mem pa 4))
      let en := a.data.getD 1 0#32
      exec (.storeComplete g w p lane m) s = .next (accessDone g w p lane q a [] (if en = 0#32 then s₁
        else ((s₁.drain pa 4).claim true G rd pa 4).poke32 pa ((old &&& ~~~en) ||| (a.data.getD 0 0#32 &&& en))))) ∧
    (∀ m f, q.kind = .mem (.red f) →
      exec (.storeComplete g w p lane m) s =
        .next (accessDone g w p lane q a [] ((s₁.claim false G rd pa 4).arriveRed g f pa (a.data.headD 0#32) m)))) ∧
  (∀ s g w p lane G wv q a x y, Performable s g w p lane G wv q a → a.loc = .host x y →
    let s₁ := begun q G a s
    let bytes := fun (n : Nat) => s₁.hostRead x y n
    let held := fun (n : Nat) => s₁.hostFills x y n
    let old := BitVec.ofNat 32 (leNat (bytes 4))
    (∀ z ∈ loadSizes, q.kind = .mem (.load z.1 z.2) →
      exec (.loadDataReturn g w p lane) s = .next (accessDone g w p lane q a
        ((loadWords z.1 z.2 (bytes z.1)).zipIdx.map (fun v =>
          (v.1, (s₁.hostFills x (y + 4 * v.2) (min z.1 4)).hostMarked x (y + 4 * v.2) (min z.1 4)))) (held z.1))) ∧
    (∀ n m, q.kind = .mem (.store n) → exec (.storeComplete g w p lane m) s =
      .next (accessDone g w p lane q a [] (s₁.hostStore x y ((wordsBytes a.data).take n)))) ∧
    (∀ z ∈ atomicFns, q.kind = .mem (.atomic z.1) → (held 4).hostMarked x y 4 = false →
      exec (.loadDataReturn g w p lane) s = .next (accessDone g w p lane q a [(old, false)]
        ((held 4).hostStore x y (leBytes 4 (z.2 old (a.data.getD 0 0#32) (a.data.getD 1 0#32)).toNat)))) ∧
    (∀ f, q.kind = .mem (.atomic f) → (held (if f = 22 then 8 else 4)).hostMarked x y (if f = 22 then 8 else 4) = true →
      exec (.loadDataReturn g w p lane) s = .next (accessDone g w p lane q a [] s₁ (poisonMet q a))) ∧
    (∀ m, q.kind = .mem .estore →
      let en := a.data.getD 1 0#32
      exec (.storeComplete g w p lane m) s = .next (accessDone g w p lane q a [] (if en = 0#32 then s₁
        else (held 4).hostStore x y (leBytes 4 ((old &&& ~~~en) ||| (a.data.getD 0 0#32 &&& en)).toNat)))) ∧
    (∀ m f, q.kind = .mem (.red f) → exec (.storeComplete g w p lane m) s =
      .next (accessDone g w p lane q a [] (s₁.arriveHostRed g f x y (a.data.headD 0#32) m))))

/-- REDUCTION_APPLY applies the oldest queued reduction of the line of the entry that it names: the word becomes the function
of its old value, or the reduction is discarded and counted where the word is poisoned; entries of host-window lines stand
after those of device memory, and are applied in the line that the LLC holds. EVICTION of a host-window line writes its dirty
bytes to host memory, each run of them as one RDMA WRITE on the queue pair of its window, and drops the line, a word with a poison mark staying marked at its home; device memory
and the groups stay as they were (spec/06 R176 R178 R179 R180, spec/16 R394). That each run of dirty bytes is one RDMA WRITE is the
model's choice (log entry 37); where the manual leaves another point open it follows the model (log entry 3). -/
def Obligations.ReductionAndEviction : Prop :=
  (∀ s i j e x, s.redQueue[i]? = some e → s.redQueue[j]? = some x → x.line = e.line →
    (∀ k < j, ∀ y, s.redQueue[k]? = some y → y.line ≠ e.line) →
    let new := atomicFn x.f (BitVec.ofNat 32 (leNat (cellBytes s.mem x.addr 4))) x.data 0#32
    let t := if Machine.marked s.memP x.addr 4 = true then s.errEvent (s.homeDie x.addr) 0 x.addr 1
      else { s with mem := cellWrites s.mem x.addr (leBytes 4 new.toNat) }
    exec (.reductionApply i) s = .next { t with redQueue := s.redQueue.eraseIdx j }) ∧
  (∀ s i j e x l, s.hostReds[i]? = some e → s.hostReds[j]? = some x → x.onLines e.peer (4 * e.word) 4 = true →
    (∀ k < j, ∀ y, s.hostReds[k]? = some y → y.onLines e.peer (4 * e.word) 4 = false) →
    let b := 4 * x.word
    let s' := s.hostFill x.peer (x.word / 32)
    s'.hostLine? x.peer (x.word / 32) = some l →
    let old := BitVec.ofNat 32 (leNat ((List.range 4).map (fun k => l.byteAt (b + k))))
    let t := if Machine.marked l.marks b 4 = true then s'.errEvent (s'.homeDie b) 0 b 1
      else s'.modHostLine x.peer (x.word / 32) (fun l => l.put b (leBytes 4 (atomicFn x.f old x.data 0#32).toNat))
    exec (.reductionApply (s.redQueue.length + i)) s = .next { t with hostReds := s.hostReds.eraseIdx j }) ∧
  (∀ s i l, s.llcHost[i]? = some l → ∃ t, exec (.eviction i) s = .next t ∧
    (∀ x ∈ t.llcHost, ¬(x.peer = l.peer ∧ x.line = l.line)) ∧ t.mem = s.mem ∧ t.groups = s.groups) ∧
  (∀ s i l, HeldLine s i l → ∃ t, exec (.eviction i) s = .next t ∧
    t.llcHost = s.llcHost.filter (fun x => !(x.peer == l.peer && x.line == l.line)) ∧
    (∀ a, t.hostByte l.peer a = ((l.bytes.find? (fun b => b.1 == a && b.2.2)).map (fun b => b.2.1)).getD (s.hostByte l.peer a)) ∧
    (∀ p a, peerQp p ≠ l.peer → t.hostByte p a = s.hostByte p a) ∧
    (∀ m ∈ l.marks, m ∈ l.dirtyWords → (l.peer, m) ∈ t.hostMemP) ∧
    t.outbox = s.outbox ++ (dirtyRuns l.bytes).map (fun r => .write (l.peer % 4096) (l.peer / 4096) l.key r.1 r.2))

/-- `LDRQ`, `CSTORE` and `PREF` issue: a lane of `LDRQ` whose page is not resident receives zero and the state at once and
is recorded, the others leave an access pending; `CSTORE` leaves one access to its header, with the values of the
selected lanes, and a fault of its header's translation is one of the whole split; `PREF` requests the lines of its lanes and has
no other effect (spec/03 R100 R421, spec/06 R185 R186 R187 R188). Where the manual leaves a point open it follows the model (log entries 8, 32, 55 and 57). -/
def Obligations.QueryStoreIssue : Prop :=
  (∀ d a o n s c w, let k := if w = 1 then 2 else 6
    (w = 1 ∧ d.toNat % 2 = 0) ∨ (w = 4 ∧ d.toNat % 4 = 0) → o = 0#3 → Runs s c 0#7 ([rdV a] ++ baseUse n ++ [wrV d k]) →
    c.wave.counters.getD 0 0 < 63 → fenced c = false →
    let r := ldrqLanes c (4 * w) (started s c) (wanted false a n c)
    let gone := r.1.filterMap (fun x => x.2.2.st?.map (fun st => (x.1, x.2.1, st)))
    let accs := r.1.filterMap (fun x => x.2.2.loc?.map (fun l =>
      { lane := x.1, va := x.2.1, loc := l, data := [], live := true : Acc }))
    r.1.filterMap (fun x => x.2.2.flt?) = [] →
    exec (if w = 1 then .ldrq32 d a o n else .ldrq128 d a o n) s = .next (afterLong s c false (instant := regsFrom d k) fun _ =>
      let t := onWave c (fun wv => gone.foldl (fun wv x =>
        wv.vsets d.toNat x.1 (List.replicate (k - 1) 0#32 ++ [BitVec.ofNat 32 x.2.2])) wv) r.2
      let t := t.feedbacks c.grp c.lau (gone.map (fun x => fbEntry x.2.1 x.2.2 0 0))
      let lanes := Mask.ofLanes (accs.map (fun x => x.lane))
      let t := if accs.isEmpty then t
        else t.addPend c 0 false (regsFrom d k) lanes lanes (.mem (.ldrq w)) false false accs []
      t.noteWatch c (t.watched c true false true (4 * w) (wanted false a n c)))) ∧
  (∀ d a o n s c, d.toNat % 2 = 0 → o.toNat < 7 → a.toNat < 8 →
    Runs s c 0#7 (baseUse n ++ [rdV d, wrV (d + 1#7)]) →
    c.wave.counters.getD 2 0 < 63 → fenced c = false → headerHold n s = false →
    let P := c.header n
    let q := coreReq c.grp.core c.grp.job true false
    (∀ l s', (started s c).xaccess q P 8 64 = (.loc l, s') →
      let e := BitVec.ofNat 64 (s'.pageEnd q P)
      let r := BitVec.ofNat 64 (s'.rangeEnd q P l)
      let sel := Mask.ofLanes (c.selected a)
      let x : Acc := { lane := 0, va := P, loc := l, live := true, data := [lo32 e, hi32 e, lo32 r, hi32 r, lo32 sel, hi32 sel,
        BitVec.ofNat 32 (s'.pageLevel q P)] ++ (c.selected a).map (fun i => c.wave.vget d.toNat i) }
      exec (.cstore d a o n) s = .next (afterLong s c false fun _ =>
        let t := s'.addPend c 2 false [d.toNat + 1] c.act c.act (.mem .cstore) false false [x] []
        t.noteWatch c (t.watched c true true true 8 [((c.lanes.head?).getD 0, P)]))) ∧
    (∀ f s', (started s c).xaccess q P 8 64 = (.fault f, s') →
      let x := mkRec c.cur c.ent.rpti 0 true true f
      exec (.cstore d a o n) s = .next (
        if serviceable f.cause ∧ c.cur.sp ≠ trapIdx
        then ((s'.modWave c.cur.g c.cur.w (fun wv => wv.park c c.act [x])).finish c { uni := false, long := true } .stay).boundary c.cur.g
        else (s'.finish c { uni := false, long := true } (.trap false [x])).boundary c.cur.g))) ∧
  (∀ d a o n s c, d.toNat < 2 → o = 0#3 → Runs s c 0#7 ([rdV a] ++ baseUse n) →
    exec (.pref d a o n) s = .next (afterLong s c false fun s => (c.lanes.map (c.addr false a n)).foldl (State.prefLane c d) s))

/-- Texture instructions whose lanes all name a good descriptor and readable tiles issue in class 7: residency words are
known at issue, texels are fetched by the lane's completion, which writes the blended colour of the texels and retires
the lane; where no access of the instruction is left, a fence that waits for it acquires (spec/07 R197, spec/12 R326 to R330). Where the
manual leaves a point open it follows the model (log entries 21 and 44). -/
def Obligations.TextureResults : Prop :=
  (∀ p ∈ texFns, ∀ d a b s c, Runs s c b [rdV a p.2.2.1, rdB false b, wrV d p.2.2.2.1] →
    c.wave.counters.getD 7 0 < 63 → fenced c = false → texHold b s = false →
    let r := texLanes c (p.2.2.2.2 a c) (p.2.1 == 2) b (started s c) c.lanes
    c.lanes ≠ [] → (∀ x ∈ r.1, x.2.served = true) → 
    exec (p.1 d a b) s = .next (afterLong s c false fun _ =>
      (r.2.feedbacks c.grp c.lau (r.1.flatMap (fun x => x.2.pages))).addPend c 7 false (regsFrom d p.2.2.2.1)
        (Mask.ofLanes c.lanes) (Mask.ofLanes c.lanes) (.texture p.2.1) false false (r.1.flatMap (fun x => x.2.accs))
        (r.1.flatMap (fun x => x.2.words d.toNat x.1)))) ∧
  (∀ s g w p lane G wv q fn, s.groups[g]? = some G → G.waves[w]? = some wv → wv.pend? p = some q → q.kind = .texture fn →
    q.lanes.getLsbD lane = true →
    let mine := q.accs.filter (fun a => a.lane == lane)
    (s.core G.core).held = false → (∀ a ∈ mine, a.live = true → s.mayPerform g w G wv q a = true) →
    let t := s.texels G (G.reader w (Mask.bit lane)) mine
    let raw := ((mine.head?).map (fun a => a.data.getD 4 0#32 != 0#32)).getD true
    let f8 := ((mine.head?).map (fun a => (a.data.getD 5 0#32).toNat)).getD 0
    let colour := if fn = 2 then [] else (blend raw f8 t.1.1).zipIdx.map (fun x =>
      { lane := lane, reg := q.regs.headD 0 + x.2, val := BitVec.ofNat 32 x.1, poison := t.1.2 : Wr })
    let s' := if q.accs.any (fun a => a.lane != lane && a.live) then t.2 else t.2.fencePassed g w p
    exec (.textureFetchComplete g w p lane) s = .next (s'.modWave g w (fun wv =>
      ((wv.writeAll false (colour ++ q.wrs.filter (fun x => x.lane == lane))).modPend p (fun q => { q with
        accs := q.accs.filter (fun a => a.lane != lane) })).shedLanes p (Mask.bit lane))))

/-- Ray instructions on a shading core: `RAYQ` places one ray for every active lane that holds none, `RAYCONT` goes on
from the candidates with each lane's decision, `RAYHIT` writes the committed hit or a miss, `RAYCOMMIT` commits a hit in
front of the committed one, `RAYABORT` ends the rays, each with an ABORTED block but for a ray with a candidate (spec/11 R296 to
R299, R303). Where the manual leaves a point open it follows the model (log entry 43). -/
def Obligations.RayInstructions : Prop :=
  (∀ d a b s c wide, b.toNat % 4 = 0 → (wide = true → a.toNat % 2 = 0) →
    Runs s c 0#7 [rdV a (if wide then 11 else 8), rdV b 4, wrV d 8] → inAlloc c [rdV a (if wide then 12 else 8)] = true →
    shading c.grp.core = true → c.wave.counters.getD 6 0 < 63 → fenced c = false → spillHold s = false →
    c.lanes.length ≤ s.rayRoom c.grp.core → (∀ i ∈ c.lanes, c.wave.rays.getLsbD i = false) →
    exec (if wide then .rayq64 d a b else .rayq d a b) s = .next (afterLong s c false fun t =>
      pendRay c d (onWave c (fun wv => { wv with rays := wv.rays ||| Mask.ofLanes c.lanes })
        (c.lanes.foldl (placeRay c d (rayOf c wide a b)) (t.unspillAll c))))) ∧
  (∀ d b s c cand, Runs s c b [rdB false b, wrV d 8] → shading c.grp.core = true → c.wave.counters.getD 6 0 < 63 →
    spillHold s = false → Candidates c ((started s c).unspillAll c) cand → (∀ i ∈ c.lanes, (c.B false b i).toNat ≤ 2) →
    exec (.raycont d b) s = .next (afterLong s c false fun t => pendRay c d (c.lanes.foldl (fun t i =>
      match c.candidate t i with
      | none => t
      | some (_, h, proc) => t.modCore c.grp.core (fun k => k.modRay c.cur.g c.cur.w i (fun r =>
          r.resume h proc (c.B false b i).toNat c.wave.nextPend d.toNat t.tick))) (t.unspillAll c)))) ∧
  (∀ d s c cand, Runs s c 0#7 [wrV d 8] → shading c.grp.core = true → c.wave.counters.getD 6 0 < 63 →
    spillHold s = false → Candidates c ((started s c).unspillAll c) cand →
    exec (.rayhit d) s = .next (afterLong s c false (fun t => c.lanes.foldl (fun t i =>
      onWave c (fun wv => wv.vsets d.toNat i (endBlock (cand i).1 false)) (t.useRay c i id)) (t.unspillAll c)) (regsFrom d 8))) ∧
  (∀ d a b s c cand, Runs s c b [rdV a, rdB false b, wrV d] → shading c.grp.core = true → c.wave.counters.getD 6 0 < 63 →
    spillHold s = false → Candidates c ((started s c).unspillAll c) cand → (∀ i ∈ c.lanes, (cand i).2.2 = true) →
    exec (.raycommit d a b) s = .next (afterLong s c false (fun t => c.lanes.foldl (fun t i =>
      let x := c.A false a i
      let yes := accepts (cand i).1.ray (cand i).1.hit (f32v x)
      let h : Hit := { (cand i).2.1 with t := x, u := 0#32, v := 0#32, front := false, hk := (c.B false b i).setWidth 8 }
      onWave c (fun wv => wv.vset d.toNat i (if yes then 1#32 else 0#32) false)
        (t.useRay c i (fun r => if yes then { r with hit := some h } else r))) (t.unspillAll c)) [d.toNat])) ∧
  (∀ s c, Runs s c 0#7 [] → shading c.grp.core = true → c.wave.counters.getD 6 0 < 63 →
    exec .rayabort s = .next (afterLong s c false fun t => c.lanes.foldl (fun t i =>
      match (t.core c.grp.core).rayOf c.cur.g c.cur.w i with
      | none => t
      | some r => (if r.st == .candidate then t else t.writeBlock r (plainBlock 4 false r.ray.ctx)).freeRay
          c.grp.core c.cur.g c.cur.w i) t))

/-- A traversal stops: a ray whose structures are all visited, or that terminates, ends with its block; else its next
element is visited, which leaves it going on, a candidate, ended with a code, or faulting (spec/11 R294 to R301). Where the
manual leaves a point open it follows the model (log entries 21 and 43). -/
def Obligations.RayTraversal : Prop :=
  ∀ s core slot r, (s.core core).placed.find? (fun x => x.idx == slot) = some r → r.st = .traversing →
    s.rayHeld r = false → (s.core core).held = false →
    let job := ((s.groups[r.group]?).map (fun G => G.job)).getD 0
    let fin := fun (t : State) (x : RaySlot) => t.endRay core r (endBlock x x.term)
    let put := fun (t : State) (x : RaySlot) => t.modCore core (fun c => c.modRay r.group r.wave r.lane (fun _ => x))
    ((r.term = true ∨ r.stack = []) → exec (.rayTraversalStop core slot) s = .next (fin s r)) ∧
    (r.term = false → r.stack ≠ [] → ∀ t,
      (∀ x, s.visit core job r = (.go x, t) → exec (.rayTraversalStop core slot) s =
        .next (if x.term || x.stack.isEmpty then fin t x else put t x)) ∧
      (∀ x h proc, s.visit core job r = (.candidate x, t) → x.cand = some (h, proc) →
        exec (.rayTraversalStop core slot) s =
          .next ((put t { x with lastUse := t.tick }).writeBlock r (hitBlock (if proc then 3 else 2) false h r.ray.ctx))) ∧
      (∀ code, s.visit core job r = (.done code, t) →
        exec (.rayTraversalStop core slot) s = .next (t.endRay core r (plainBlock code false r.ray.ctx))) ∧
      (∀ f, s.visit core job r = (.fault f, t) → exec (.rayTraversalStop core slot) s = .next (t.rayFault core job r f)))

/-- Copy commands that pass their checks enter their queue and count in class 3; `CPY` writes its ticket, `QFENCE` keeps
what it waits for, `QSTAT` reads the group's status of a queue and clears it when asked (spec/08 R219 to R222 R233). -/
def Obligations.CopyCommandIssue : Prop :=
  (∀ d a q s c ivs, a.toNat % 8 = 0 → a.toNat ≠ 0 → q.toNat < 4 → Runs s c 0#7 [rdS a 8, wrS d] → EngineReady c →
    s.queueFull c.grp.core q.toNat = false → s.scoreFull c.grp.core = false → scratchBusy s (copyIvs a s) = false →
    let ws := c.wave.sblock a.toNat 8
    (CopyDesc.ofWords ws).check c (started s c) = .inr ivs →
    exec (.cpy d a q) s = .next (afterLong s c true fun t =>
      (t.pushCmd c q.toNat .copy ws ivs none 0 (srInit c.wave.sr.seed (64 + q.toNat))).setUni c d
        (BitVec.ofNat 32 ((s.core c.grp.core).seqs.getD q.toNat 0 % 2 ^ 16 + 2 ^ 16 * q.toNat)))) ∧
  (∀ q m s c, q.toNat < 4 → m.toNat < 16 → Runs s c 0#7 [] → EngineReady c → s.queueFull c.grp.core q.toNat = false →
    exec (.qfence q m) s = .next (afterLong s c true fun t =>
      t.pushCmd c q.toNat (.qfence (if m.toNat = 2 ^ q.toNat then [] else (List.range 4).flatMap (fun i =>
        if m.getLsbD i then (t.entriesOf c.grp.core i).map Cmd.name else []))) [] [] none 0 0#32)) ∧
  (∀ d q k s c, q.toNat < 6 → k.toNat < 2 → d ≠ 0#7 → Runs s c 0#7 [wrS d] →
    exec (.qstat d q k) s = .next (afterLong s c true (fun t =>
      (if k = 1#7 then t.modCore c.grp.core (fun n => { n with
          qstat := n.qstat.filter (fun x => !(x.group == c.cur.g && x.sel == q.toNat)) }) else t).setUni c d
        ((s.core c.grp.core).qstatWord c.cur.g q.toNat)) [d.toNat]))

/-- Matrix and chain commands that pass their checks on a shading core enter the matrix queue, `TTRUN` with its two
destinations pending; `MSTAT` reads the state of the planes (spec/09 R247 R249 R260, spec/10 R282). -/
def Obligations.MatrixCommandIssue : Prop :=
  (∀ p ∈ matrixFns, ∀ a s c ivs, a.toNat % p.2.2.2.1 = 0 → a.toNat ≠ 0 → Runs s c 0#7 [rdS a p.2.2.1] → EngineReady c →
    shading c.grp.core = true →
    let ws := matrixWords c a p.2.2.1 p.2.2.2.2.1
    MatrixRoom p.2.2.2.2.2 c s ws → p.2.2.2.2.2 c (started s c) ws = .inr ivs →
    exec (p.1 a) s = .next (afterLong s c true (entered c p.2.1 ws ivs none 0 0))) ∧
  (∀ a s c ivs, Runs s c 0#7 [rdS a 1] → EngineReady c → shading c.grp.core = true →
    let ws := matrixWords c a 1 false
    MatrixRoom checkZero c s ws → checkZero c (started s c) ws = .inr ivs →
    exec (.mzero a) s = .next (afterLong s c true (entered c .mzero ws ivs none 0 0))) ∧
  (∀ s c, c.lau.acm ≠ 0 → Runs s c 0#7 [] → EngineReady c → shading c.grp.core = true → MatrixRoom checkSwap c s [] →
    exec .mswap s = .next (afterLong s c true (entered c .mswap [] [] none 0 0))) ∧
  (∀ d a s c ivs, d.toNat % 2 = 0 → a.toNat % 4 = 0 → a.toNat ≠ 0 → Runs s c 0#7 [rdS a 4, wrS d 2] → EngineReady c →
    shading c.grp.core = true →
    let ws := matrixWords c a 4 true
    MatrixRoom checkTtrun c s ws → checkTtrun c (started s c) ws = .inr ivs →
    exec (.ttrun d a) s = .next (afterLong s c true fun t => onWave c
      (fun wv => wv.modPend c.wave.nextPend (fun p => { p with regs := p.regs ++ p.regs.map (fun r => r + 1) }))
      (entered c .ttrun ws ivs (some d.toNat) ((ws.getD 1 0#32).extractLsb' 16 16).toNat (ws.getD 2 0#32).toNat t))) ∧
  (∀ d s c, d ≠ 0#7 → Runs s c 0#7 [wrS d] → shading c.grp.core = true →
    exec (.mstat d) s = .next (afterLong s c true (fun t => t.setUni c d (mstatWord s c)) [d.toNat]))

/-- The hamper commands enter the hamper control: `HPART` with its destination pending, `CINV` and `CFLUSH` with their
block (spec/05 R151 R153). -/
def Obligations.HamperCommandIssue : Prop :=
  (∀ d a s c, d ≠ 0#7 → Runs s c 0#7 [rdS a, wrS d] → EngineReady c → shading c.grp.core = true →
    exec (.hpart d a) s = .next (afterLong s c true fun t =>
      t.pushCmd c selHamper .hpart [c.wave.sget a.toNat] [] (some d.toNat) 0 0#32)) ∧
  (∀ a s c, a.toNat % 4 = 0 → a.toNat ≠ 0 → Runs s c 0#7 [rdS a 4] → EngineReady c →
    exec (.cinv a) s = .next (afterLong s c true fun t =>
      t.pushCmd c selHamper .cinv (c.wave.sblock a.toNat 4) [] none 0 0#32) ∧
    exec (.cflush a) s = .next (afterLong s c true fun t =>
      t.pushCmd c selHamper .cflush (c.wave.sblock a.toNat 4) [] none 0 0#32))

/-- Branches and jumps: `BRA` always, `BRT` and `BRF` by a condition bit, `CALL` with the next bundle's address in
s126:s127, `JMPR` and `RET` to a bundle address from registers, with a trap where those hold none (spec/03 R85 R102). -/
def Obligations.BranchResults : Prop :=
  (∀ o s c, Runs s c 0#7 [] → exec (.bra o) s = .next (jumped s c id (bundleAt c o))) ∧
  (∀ k o s c, Runs s c 0#7 [] →
    (c.wave.cget k.toNat = true → exec (.brt k o) s = .next (jumped s c id (bundleAt c o)) ∧
      exec (.brf k o) s = .next (after s c id)) ∧
    (c.wave.cget k.toNat = false → exec (.brt k o) s = .next (after s c id) ∧
      exec (.brf k o) s = .next (jumped s c id (bundleAt c o)))) ∧
  (∀ o s c, Runs s c 0#7 [wrS 126#7 2] →
    exec (.call o) s = .next (jumped s c (onWave c fun wv =>
      (wv.sset 126 (lo32 (c.cur.pc + 16#64)) false).sset 127 (hi32 (c.cur.pc + 16#64)) false) (bundleAt c o))) ∧
  (∀ a s c, a.toNat % 2 = 0 → Runs s c 0#7 [rdS a 2] → (c.wave.spair a.toNat).extractLsb' 0 4 = 0#4 →
    exec (.jmpr a) s = .next (jumped s c id (c.wave.spair a.toNat))) ∧
  (∀ s c, Runs s c 0#7 [rdS 126#7 2] → (c.wave.spair 126).extractLsb' 0 4 = 0#4 →
    exec .ret s = .next (jumped s c id (c.wave.spair 126))) ∧
  (∀ a s c, a.toNat % 2 = 0 → Runs s c 0#7 [rdS a 2] → (c.wave.spair a.toNat).extractLsb' 0 4 ≠ 0#4 →
    exec (.jmpr a) s = .next (trapped s c id [c.splitRec cMisalignedTarget])) ∧
  (∀ s c, Runs s c 0#7 [rdS 126#7 2] → (c.wave.spair 126).extractLsb' 0 4 ≠ 0#4 →
    exec .ret s = .next (trapped s c id [c.splitRec cMisalignedTarget]))

/-- Divergence: `BRD` sends the active lanes set in a mask register to the target, `BRDN` the others; no such lane goes
on, all of them jump, some of them leave in the lowest free split, which inherits the open windows; `JOIN` waits at the bundle
after it for the expected live lanes; a complete join merges its splits into the lowest of them, and none is left complete; where
all splits wait in vain the lowest is released alone and JBRK is set. `BRD`, `BRDN` and `JOIN` trap as `ILLEGAL_INSN` at
trap level (spec/03 R85 to R88 R98, spec/13 R356). Where the manual leaves a point open it follows the model (log entry 35). -/
def Obligations.DivergenceResults : Prop :=
  (∀ k o s c, Unheld s c 0#7 [] → c.wave.trapLevel c.cur.sp = false →
    let m := c.wave.kget c.act k.toNat
    ∀ i t, (i = .brd k o ∧ t = c.act &&& m) ∨ (i = .brdn k o ∧ t = c.act &&& ~~~m) →
      (t = 0#64 → exec i s = .next (after s c id)) ∧
      (t ≠ 0#64 → t = c.act → exec i s = .next (jumped s c id (bundleAt c o))) ∧
      (t ≠ 0#64 → t ≠ c.act → exec i s = .next (after s c (onWave c fun wv =>
        match wv.freeEntry with
        | none => wv
        | some n =>
          let e := wv.entry c.cur.sp
          (wv.setEntry c.cur.sp { e with mask := e.mask &&& ~~~t }).setEntry n { Split.empty with
            pc := bundleAt c o, slot := 1, mask := t, st := .ready, windows := e.windows, fence := e.fence })))) ∧
  (∀ a s c, a.toNat < 8 → Runs s c 0#7 [] → c.wave.trapLevel c.cur.sp = false → c.ent.rpta = false → joinWaits s = false →
    exec (.join a) s = .next (stayed s c fun t => (onWave c (fun wv =>
      (wv.modEntry c.cur.sp (fun e => { e with
        pc := c.cur.pc + 16#64, slot := 1, rptn := 0, rpti := 0, rpta := false, rptNext := none,
        st := .join, rja := c.cur.pc, exp := (wv.kget c.act a.toNat ||| e.mask) &&& wv.live, windows := [] })).noteService) t).yld c)) ∧
  (∀ (wv : Wave) i e, wv.splits.length ≤ 64 → wv.splits[i]? = some e → e.mask &&& ~~~e.exp = 0#64 → wv.joinDone i = true →
    Merged wv (wv.merge i) e) ∧
  (∀ wv : Wave, wv.splits.length ≤ 64 → (∀ e ∈ wv.splits, e.st = .join → e.mask &&& ~~~e.exp = 0#64) →
    ∀ i e, (wv.joins 65).splits[i]? = some e → (wv.joins 65).joinDone i = false) ∧
  (∀ (wv : Wave) i e rest, wv.splits.length ≤ 64 → wv.state = .resident → wv.valid = (i, e) :: rest →
    (∀ x ∈ wv.valid, x.2.st = .join ∧ wv.joinDone x.1 = false) →
    let free := { e with
      pc := e.rja + 16#64, slot := 1, rptn := 0, rpti := 0, rpta := false, rptNext := none, st := .ready, exp := 0#64, rja := 0#64 }
    wv.settle 65 = ((wv.setEntry i free).setSticky stickyJBRK, 1)) ∧
  (∀ i k o s c, (i = .brd k o ∨ i = .brdn k o ∨ ∃ a, i = .join a) → s.ctx? = some c → c.wave.trapLevel c.cur.sp = true →
    exec i s = .next (atIssue s c [c.splitRec cIllegalInsn]))

/-- Waits, repetition, priority and the end of a split: `WAITC`, `SLEEP`, `YIELD`, `REPEAT`, `SETPRI`, `EXIT`, `BREAK`
under a debugger, `NOP` (spec/03 R80 R93 R103 to R106, spec/01 R20). -/
def Obligations.SplitControlResults : Prop :=
  (∀ d n s c, d.toNat < 8 → Runs s c 0#7 [] →
    exec (.waitc d n) s = .next (after s c (if c.wave.counters.getD d.toNat 0 ≤ n.toNat then id
      else onSplit c (fun e => { e with st := .counter, wcls := d.toNat, wn := n.toNat })))) ∧
  (∀ a s c, Runs s c 0#7 [rdS a] →
    let n := (c.wave.sget a.toNat).toNat
    exec (.sleep a) s = .next (after s c (if n = 0 then onWave c (fun wv => { wv with age := s.tick + 1, passed := 0 })
      else onSplit c (fun e => { e with st := .sleep, wake := s.dtime.toNat + n })))) ∧
  (∀ s c, Runs s c 0#7 [] →
    exec .yieldSplit s = .next (after s c (onWave c fun wv => { wv with age := s.tick + 1, passed := 0 }))) ∧
  (∀ n s c, Runs s c 0#7 [] → c.ent.rpta = false → (∀ w ∈ c.cur.words.drop (c.cur.slot + 1), w = nopWord) →
    exec (.repeatN n) s = .next (after s c (onSplit c fun e => { e with rptNext := some n.toNat }))) ∧
  (∀ p s c, p.toNat < 4 → Runs s c 0#7 [] →
    exec (.setpri p) s = .next (after s c (onWave c fun wv => { wv with prio := p.toNat }))) ∧
  (∀ s c, Runs s c 0#7 [] →
    let lanes := if c.cur.sp = 64 then c.wave.live else c.act
    exec .exitSplit s = .next (stayed s c fun t =>
      ((onWave c (fun wv => (wv.kill lanes).noteService) (t.dropRays c.grp.core c.cur.g c.cur.w lanes)).modGroup
        c.cur.g Group.refreshWaits).yld c)) ∧
  (∀ s c, Runs s c 0#7 [] → (s.core c.grp.core).dbg.own = true →
    exec .brk s = .next (after s c (onSplit c fun e => { e with stopNext := some (2, 0, e.mask) }))) ∧
  (∀ s c, s.ctx? = some c →
    exec .nop s = .next ((State.finish (reached s c) c { uni := true, nop := true } .next).boundary c.cur.g))

/-- The software trap and the breakpoint: `TRAP` takes the trap SOFTWARE_TRAP with its code and resumes at the bundle after
it; `BREAK` without a debugger takes BREAKPOINT at its own slot (spec/03 R106, spec/13 R356 R357). -/
def Obligations.SoftwareTraps : Prop :=
  (∀ k s c, Runs s c 0#7 [] →
    exec (.trapSw k) s = .next (trapped s c (fun t => (onSplit c (fun e => e.at (c.cur.pc + 16#64)) t).yld c)
      [{ c.splitRec cSwTrap with code := k.toNat }])) ∧
  (∀ s c, Runs s c 0#7 [] → (s.core c.grp.core).dbg.own = false →
    exec .brk s = .next (trapped s c id [c.splitRec cBreakpoint]))

/-- The functions of trap level: `SYSRD`, `SYSWR`, `FLTREC`, `TLBINV`, `PARKRES` on an entry whose service was refused, and
the return `RETT`, which traps where TPC was written and is no bundle address; where `PARKRES` ends the last live lanes the
handler has nothing more to issue; outside trap level each takes the trap `PRIVILEGE` (spec/01 R40, spec/13 R356 to R361). Where the
manual leaves a point open it follows the model (log entry 25). -/
def Obligations.TrapLevelResults : Prop :=
  (∀ s c, s.ctx? = some c → c.wave.trapLevel c.cur.sp = true →
    (∀ d n, n.toNat < 8 → Runs s c 0#7 [wrS d] → exec (.sysrd d n) s = .next (after s c (onWave c fun wv =>
      wv.sset d.toNat (match n.toNat with
        | 0 => lo32 c.wave.trap.tpc
        | 1 => hi32 c.wave.trap.tpc
        | 2 => BitVec.ofNat 32 (c.wave.trap.tslot % 4)
        | 3 => BitVec.ofNat 32 c.wave.trap.recs.length
        | 4 => BitVec.ofNat 32 c.wave.trap.tsplit
        | 5 => 1#32
        | 6 => c.wave.trap.tscr0
        | _ => c.wave.trap.tscr1) false))) ∧
    (∀ n b, n.toNat < 8 → Runs s c 0#7 [rdS b] → exec (.syswr n b) s = .next (after s c (onWave c fun wv =>
      let x := c.wave.sget b.toNat
      let t := wv.trap
      { wv with trap := match n.toNat with
        | 0 => { t with tpc := pairOf x (hi32 t.tpc), wrote := true }
        | 1 => { t with tpc := pairOf (lo32 t.tpc) x, wrote := true }
        | 2 => { t with tslot := x.toNat % 4, wrote := true }
        | 6 => { t with tscr0 := x }
        | 7 => { t with tscr1 := x }
        | _ => t }))) ∧
    (∀ d a, d.toNat % 8 = 0 → Runs s c 0#7 [rdS a, wrS d 8] → exec (.fltrec d a) s = .next (after s c (onWave c fun wv =>
      wv.ssets d.toNat (match c.wave.trap.recs[(c.wave.sget a.toNat).toNat]? with
        | some r => r.words
        | none => List.replicate 8 0#32)))) ∧
    (∀ a, a.toNat % 4 = 0 → a.toNat ≠ 0 → Runs s c 0#7 [rdS a 4] → c.wave.sget (a.toNat + 3) = 0#32 → invalHolds a s = false →
      let r := invalRange (c.wave.spair a.toNat) ((c.wave.sget (a.toNat + 2)).setWidth 64)
      exec (.tlbinv a) s = .next (after s c fun t => t.tlbDrop (s.job c.grp.job).tag r.1 r.2)) ∧
    (∀ a, a.toNat % 2 = 0 → Runs s c 0#7 [rdS a 2] →
      let i := (c.wave.sget a.toNat).toNat
      let o := (c.wave.sget (a.toNat + 1)).toNat % 4
      let e := c.wave.splits.getD i Split.empty
      ((e.st ≠ .parked ∨ e.refused = false ∨ o = 3) → exec (.parkres a) s = .next (after s c id)) ∧
      (e.st = .parked → e.refused = true → o < 2 →
        exec (.parkres a) s = .next (after s c (onWave c fun wv => wv.parkres i o))) ∧
      (e.st = .parked → e.refused = true → o = 2 →
        let ended := fun (t : State) => (onWave c (fun wv => wv.parkEnd i)
          (t.dropRays c.grp.core c.cur.g c.cur.w e.mask)).modGroup c.cur.g Group.refreshWaits
        exec (.parkres a) s = .next (if (c.wave.live &&& ~~~e.mask) = 0#64 then stayed s c ended else after s c ended))) ∧
    (Runs s c 0#7 [] → (c.wave.trap.wrote = false ∨ c.wave.trap.tpc.extractLsb' 0 4 = 0#4) →
      exec .rett s = .next (stayed s c fun t => onWave c (fun wv => wv.returnTrap c.lau.traph) (t.yld c))) ∧
    (Runs s c 0#7 [] → c.wave.trap.wrote = true → c.wave.trap.tpc.extractLsb' 0 4 ≠ 0#4 →
      exec .rett s = .next (trapped s c id [c.splitRec cMisalignedTarget]))) ∧
  (∀ i s c, (i = .rett ∨ (∃ a, i = .tlbinv a) ∨ (∃ d n, i = .sysrd d n) ∨ (∃ n b, i = .syswr n b) ∨ (∃ a, i = .parkres a) ∨
      ∃ d a, i = .fltrec d a) → s.ctx? = some c → c.wave.trapLevel c.cur.sp = false →
    exec i s = .next (atIssue s c [c.splitRec cPriv]))

/-- Barrier instructions on an existing object: `BINIT` starts an idle object, `BARR` arrives with the phase as its token,
`BWAIT` passes, with an acquire, or waits, `BEXPB` adds expected bytes, `BPHASE` reads a snapshot, `BBIND` and `BDROP` bind and unbind;
where the object does not allow it the condition bit is 0 and nothing else changes (spec/07 R205 to R213). Three clauses hold
the model's choice: a waiting `BWAIT` keeps its place (log entry 36), a passing one hides the older copies of its core from its
lanes (log entry 9), and `BARR` checks its phase at once (log entry 59). -/
def Obligations.BarrierResults : Prop :=
  (∀ d a b s c, d.toNat < 8 → b.toNat % 2 = 0 → Runs s c 0#7 [rdS b 2] → a.toNat < c.lau.bars →
    let w := c.wave.sget b.toNat
    let n := (c.wave.sget (b.toNat + 1)).toNat
    let o := c.grp.bar a.toNat
    let scope := (w.extractLsb' 16 3).toNat
    let other := c.grp.bars.zipIdx.any (fun p => p.1.lnk && p.2 != a.toNat)
    let ok := (o.st ≠ .counting ∨ (o.arr = 0 ∧ o.bytes = 0 ∧ o.wait = 0#16 ∧ o.obs = 0#16)) ∧ w.extractLsb' 20 12 = 0#12 ∧
      w.extractLsb' 12 4 = 0#4 ∧ 1 ≤ scope ∧ scope ≤ 4 ∧ (if w.getLsbD 19 then other = false else w.extractLsb' 0 12 ≠ 0#12)
    let init := fun (phase : BitVec 16) (o : Barrier) => { o with
      expa := (w.extractLsb' 0 12).toNat, scope := scope, lnk := w.getLsbD 19, baseb := n, expb := n, arr := 0, bytes := 0,
      prel := 0, bnd := false, st := .counting, phase := phase }
    (w.getLsbD 19 = false → ok → exec (.binit d a b) s =
      .next (after s c fun t => onWave c (fun wv => wv.cset d.toNat true) (onBar c a (fun o => init o.phase o) t))) ∧
    (∀ t, w.getLsbD 19 = true → c.tree s = some t → ok → exec (.binit d a b) s =
      .next (after s c fun t' => onWave c (fun wv => wv.cset d.toNat true) (onBar c a (init t.tph) t'))) ∧
    ((w.getLsbD 19 = false ∨ (c.tree s).isSome) → ¬ok →
      exec (.binit d a b) s = .next (after s c (onWave c fun wv => wv.cset d.toNat false))) ∧
    (w.getLsbD 19 = true → c.tree s = none → exec (.binit d a b) s = .next (trapped s c id [c.splitRec cBarrier]))) ∧
  (∀ d a b s c, b.toNat < 8 → Runs s c 0#7 [wrS d] → Counts c a →
    let o := c.grp.bar a.toNat
    ((o.obs ≠ 0#16 ∨ o.arr = o.expa) → exec (.barr d a b) s = .next (after s c (onWave c fun wv => wv.cset b.toNat false))) ∧
    (o.obs = 0#16 → o.arr ≠ o.expa →
      let rel := releases c o
      exec (.barr d a b) s = .next (after s c fun t => (onWave c (fun wv => wv.cset b.toNat true) (onWave c (fun wv =>
        wv.sset d.toNat (o.phase.setWidth 32) false) (t.modGroup c.cur.g (fun G =>
          let G := G.modBar a.toNat (fun o => { o with arr := o.arr + 1, prel := o.prel + (if rel.isEmpty then 0 else 1) })
          if rel.isEmpty then G else { G with barRel := G.barRel ++ [{ nb := a.toNat, wave := c.cur.w, pends := rel }] })))).barCheck
            c.cur.g a.toNat))) ∧
  (∀ a b s c, a.toNat < c.lau.bars → Runs s c 0#7 [rdS b] → (c.grp.bar a.toNat).st = .counting →
    let v := (c.wave.sget b.toNat).setWidth 16
    let d := ((c.grp.bar a.toNat).phase - v).toNat
    (1 ≤ d ∧ d ≤ 32767 → exec (.bwait a b) s = .next (after s c fun t => t.acquiredBy c.grp.core c.reader)) ∧
    (¬(1 ≤ d ∧ d ≤ 32767) → exec (.bwait a b) s = .next (after s c fun t =>
      (onSplit c (fun e => { e with st := .barrier, bobj := a.toNat, bval := v, origin := some c.origin }) t).modGroup c.cur.g
        (fun G => G.modBar a.toNat (fun o => { o with wait := G.waiters a.toNat }))))) ∧
  (∀ a b s c, Runs s c 0#7 [rdS b] → Counts c a →
    exec (.bexpb a b) s = .next (after s c fun t =>
      (onBar c a (fun o => { o with expb := o.expb + (c.wave.sget b.toNat).toNat }) t).barCheck c.cur.g a.toNat)) ∧
  (∀ d a s c, d ≠ 0#7 → Runs s c 0#7 [wrS d] → a.toNat < c.lau.bars →
    exec (.bphase d a) s = .next (after s c (onWave c fun wv => wv.sset d.toNat (c.grp.bar a.toNat).snapshot false))) ∧
  (∀ o : Barrier, o.snapshot.extractLsb' 0 16 = o.phase ∧ o.snapshot.extractLsb' 16 12 = BitVec.ofNat 12 o.arr ∧
    o.snapshot.extractLsb' 28 2 = (match o.st with | .uninit => 0#2 | .counting => 1#2 | .fault => 2#2) ∧
    o.snapshot.getLsbD 30 = o.lnk ∧ o.snapshot.getLsbD 31 = o.bnd) ∧
  (∀ d a b s c, d.toNat < 8 → b.toNat % 4 = 0 → Runs s c 0#7 [rdS b 4] → a.toNat < c.lau.bars →
    let rl := c.wave.sget (b.toNat + 2)
    let w := c.wave.sget (b.toNat + 3)
    exec (.bbind d a b) s = .next (after s c
      (if (c.grp.bar a.toNat).bindable ∧ rl ≠ 0#32 ∧ w.extractLsb' 1 31 = 0#31 then fun t => onWave c (fun wv => wv.cset d.toNat true)
        (onBar c a (fun o => { o with bnd := true, rb := c.wave.spair b.toNat, rl := rl, rsp := w.getLsbD 0 }) t)
      else onWave c fun wv => wv.cset d.toNat false))) ∧
  (∀ d a s c, d.toNat < 8 → Runs s c 0#7 [] → a.toNat < c.lau.bars →
    exec (.bdrop d a) s = .next (after s c
      (if (c.grp.bar a.toNat).bindable then fun t => onWave c (fun wv => wv.cset d.toNat true)
        (onBar c a (fun o => { o with bnd := false, rb := 0#64, rl := 0#32, rsp := false }) t)
      else onWave c fun wv => wv.cset d.toNat false)))

/-- Fences and the phase tree: a fence holds the split's later accesses until its open ones are performed, and acquires; `PHINIT` arms
the launch's tree from its header; `PHARR` takes arrivals from a core's counter of the present parity, what exceeds it
counting in that core's OVARR; a complete tree counts one phase; a performed release leaves PREL (spec/07 R202 R208
R215 to R218). That an
acquire hides the older copies of its core from the issuing lanes is the model's choice (log entry 9); where the manual leaves
another point open it follows the model (log entries 36 and 58). -/
def Obligations.FenceAndTreeResults : Prop :=
  (∀ i ∈ [Instr.fenceG, .fenceD, .fenceV, .fenceS], ∀ s c, Runs s c 0#7 [] →
    exec i s = .next (after s c fun t => (onSplit c (fun e => { e with fence := c.openAccesses }) t).acquiredBy c.grp.core c.reader)) ∧
  (∀ d a s c ti t l, d.toNat < 8 → a.toNat % 2 = 0 → Runs s c 0#7 [rdS a 2] → c.openAccesses = [] →
    headerEngineHold a s = false → c.lau.tree = some ti → s.trees[ti]? = some t → s.laccess c.cur.g c.grp c.lau (c.wave.spair a.toNat) 256 64 = .loc l →
    s.locPoison c.grp l 256 = false →
    let h := (started s c).locRead c.grp l 256
    let rld := (List.range 112).map (halfAt h)
    let ok := (t.quiet || !t.armed) && (h.drop 224).all (fun x => x == 0#8) && rld.any (fun n => n != 0) &&
      (rld.zipIdx.all (fun p => p.1 == 0 || s.corePresent p.2))
    exec (.phinit d a) s = .next (after s c fun s' =>
      let s' := s'.locTouch l 256
      if ok then onWave c (fun wv => wv.cset d.toNat true) { s' with trees := s'.trees.modify ti (fun t =>
        { t with armed := true, rld := rld, cnt0 := rld, cnt1 := rld }) }
      else onWave c (fun wv => wv.cset d.toNat false) s')) ∧
  (∀ a b s c ti t o, Runs s c 0#7 [rdS a, rdS b] → c.openAccesses = [] → c.lau.tree = some ti → s.trees[ti]? = some t →
    c.grp.bars.find? (fun o => o.lnk) = some o → t.armed = true →
    let dst := (c.wave.sget a.toNat).toNat
    let n := (c.wave.sget b.toNat).toNat % 65536
    dst < 112 → s.corePresent dst = true →
    let q := o.phase.getLsbD 0
    let old := (t.cnt q).getD dst 0
    exec (.pharr a b) s = .next (after s c fun s' => State.modCore { s' with
      trees := s'.trees.modify ti (fun t => t.setCnt q ((t.cnt q).set dst (old - n))) } dst
        (fun k => { k with dbg := { k.dbg with ovarr := satAdd k.dbg.ovarr (n - old) } }))) ∧
  (∀ ti s t, s.trees[ti]? = some t → t.complete = true →
    ∃ s', exec (.phaseTreeComplete ti) s = .next s' ∧
      s'.trees = s.trees.set ti { (t.setCnt (t.tph.getLsbD 0) t.rld) with tph := t.tph + 1#16 } ∧ s'.mem = s.mem) ∧
  (∀ g nb idx s G r, s.groups[g]? = some G → G.barRel[idx]? = some r → (G.state = .resident ∨ G.state = .saved) →
    (∀ wv, G.waves[r.wave]? = some wv → ∀ id ∈ r.pends, ∀ p, wv.pend? id = some p → p.open = false) →
    exec (.barrReleasePerformed g nb idx) s = .next ((s.modGroup g (fun G =>
      { (G.modBar r.nb (fun b => { b with prel := b.prel - 1 })) with barRel := G.barRel.eraseIdx idx })).barCheck g r.nb))

/-- Work instructions: `GETWORK` hands out the group's items in order and then zeros, `WORKDONE` leaves the addition of 1 to
the tile's fix-up word pending, `CANCEL` ends by its level, `CCOUNT` reads the completion counter of its level and acquires from the
completions that it counts, `ENQ` appends the entry at its address to a queue of the job (spec/13 R340 R345 to R350). That an
acquire hides the older copies of its core from the issuing lanes is the model's choice (log entry 9); where the manual leaves
another point open it follows the model (log entries 26 and 53). -/
def Obligations.WorkResults : Prop :=
  (∀ d s c, d.toNat % 4 = 0 → Runs s c 0#7 [wrS d 4] → c.lau.pers = true →
    (c.grp.items = [] → exec (.getwork d) s = .next (afterLong s c true
      (onWave c fun wv => wv.ssets d.toNat [0#32, 0#32, 0#32, 0#32]) (regsFrom d 4))) ∧
    (∀ t kb ke fl rest, c.grp.items = (t, kb, ke, fl) :: rest → exec (.getwork d) s = .next (afterLong s c true (fun s' =>
      onWave c (fun wv => wv.ssets d.toNat [BitVec.ofNat 32 t, BitVec.ofNat 32 kb, BitVec.ofNat 32 ke, fl])
        (s'.modGroup c.cur.g (fun G => { G with
          items := rest, shared := if fl.getLsbD 1 && !fl.getLsbD 2 then G.shared ++ [t] else G.shared }))) (regsFrom d 4)))) ∧
  (∀ a s c l s', Runs s c 0#7 [rdS a] → c.wave.counters.getD 2 0 < 63 → fenced c = false →
    let t := (c.wave.sget a.toNat).toNat
    let va := c.lau.fixb + BitVec.ofNat 64 (4 * t)
    t ∈ c.grp.shared → (started s c).xaccess (coreReq c.grp.core c.grp.job true false) va 4 4 = (.loc l, s') →
    exec (.workdone a) s = .next (afterLong s c true fun _ =>
      (s'.modGroup c.cur.g (fun G => { G with shared := G.shared.erase t })).addPend c 2 true [] 0#64 c.act (.mem .workdone)
        false true [{ lane := 0, va := va, loc := l, data := [1#32], live := true }] [])) ∧
  (∀ d a s c, a.toNat % 2 = 0 → Runs s c 0#7 [rdS a 2, wrS d] → (c.wave.sget a.toNat).toNat < 4 →
    exec (.cancel d a) s = .next (afterLong s c true (fun t =>
      let r := t.waveCancel c (c.wave.sget a.toNat).toNat (c.wave.sget (a.toNat + 1))
      match r.2 with
      | some st => r.1.setUni c d st
      | none => r.1) [d.toNat])) ∧
  (∀ d a s c, d ≠ 0#7 → Runs s c 0#7 [rdS a, wrS d] → (c.wave.sget a.toNat).toNat < 4 →
    exec (.ccount d a) s = .next (afterLong s c true (fun t => (t.setUni c d (match (c.wave.sget a.toNat).toNat with
      | 0 => BitVec.ofNat 32 c.grp.retired
      | 1 => c.lau.completed
      | 2 => ((c.lau.graph.bind (fun x => s.graphs[x.1]?)).map Graph.counter).getD 0#32
      | _ => (s.job c.grp.job).counter)).acquiredBy c.grp.core c.reader) [d.toNat])) ∧
  (∀ d a b s c l s', d ≠ 0#7 → a.toNat % 2 = 0 → Runs s c 0#7 [rdS a 2, rdS b, wrS d] → EngineReady c →
    c.openAccesses = [] → enqWaits a s = false →
    let va := c.wave.spair a.toNat
    (started s c).xaccess (coreReq c.grp.core c.grp.job false false) va 256 256 = (.loc l, s') →
    let e := (s'.seenAt c.grp c.reader l 256).laneRead c.grp c.reader true true va l 256
    let r := e.s.append c (c.wave.sget b.toNat).toNat e.bytes ((List.range 32).filter (fun i => e.bad.getD (2 * i) false))
    exec (.enq d a b) s = .next (afterLong s c true (fun _ => r.2.setUni c d (BitVec.ofNat 32 r.1)) [d.toNat]))

/-- Gather instructions on a shading core: `NEVAL` and `NEVAL.H` put one request of each active lane into the pool, when it has room for
all of them, and leave the results pending in class 5; without a network, or with a handle outside the table, the lane traps; `NFLUSH` makes the
keys of the group's requests eligible; `NCFG` sets the group's window (spec/10 R269 R270 R271 R277). Where the manual leaves a
point open it follows the model (log entry 42). -/
def Obligations.GatherIssue : Prop :=
  (∀ p ∈ [(Instr.neval, false), (Instr.nevalH, true)], ∀ d a b s c n iw ow, c.grp.net = some (n, iw, ow) →
    Runs s c b [marked (rdB false b), marked (rdV a iw), wrV d ow] → shading c.grp.core = true →
    c.wave.counters.getD 5 0 < 63 → (s.core c.grp.core).pooled + c.lanes.length ≤ 512 →
    (c.cur.lit = none → ∀ i ∈ c.lanes, c.wave.vpoison b.toNat i = false) →
    let core := s.core c.grp.core
    let request := fun (i : Nat) =>
      { key := { tag := (s.job c.grp.job).tag, tbase := c.lau.ntab, handle := (c.B false b i).toNat }, group := c.cur.g,
        wave := c.cur.w, pend := c.wave.nextPend, lane := i, half := p.2,
        inputs := (List.range iw).map (fun j => c.wave.vget (a.toNat + j) i),
        poison := (List.range iw).any (fun j => c.wave.vpoison (a.toNat + j) i), dreg := d.toNat,
        entry := core.ccycle.toNat, window := c.grp.window, eligible := false, parked := false, request := none : NReq }
    let known := fun (i : Nat) => decide ((c.B false b i).toNat < n)
    let queued := fun (l : List Nat) (t : State) =>
      if l = [] then t else (t.modCore c.grp.core (fun k => { k with pool := k.pool ++ l.map request })).addPend c 5 false
        (regsFrom d ow) (Mask.ofLanes l) (Mask.ofLanes l) .neval false false [] []
    ((∀ i ∈ c.lanes, known i = true) → exec (p.1 d a b) s = .next (afterLong s c false (queued c.lanes))) ∧
    ((∃ i ∈ c.lanes, known i = false) → exec (p.1 d a b) s = .next
      (((queued (c.lanes.filter known) (started s c)).finish c { uni := false, long := true }
        (.trap true ((c.lanes.filter (fun i => !known i)).map (fun i => c.laneRec i false (Flt.plain cNeval 0#64))))).boundary
          c.cur.g))) ∧
  (∀ p ∈ [Instr.neval, Instr.nevalH], ∀ d a b s c, c.grp.net = none → Runs s c b [marked (rdB false b)] →
    shading c.grp.core = true → c.wave.counters.getD 5 0 < 63 → (s.core c.grp.core).pooled + c.lanes.length ≤ 512 → exec (p d a b) s = .next
      (((started s c).finish c { uni := false, long := true }
        (.trap true (c.lanes.map (fun i => c.laneRec i false (Flt.plain cNeval 0#64))))).boundary c.cur.g)) ∧
  (∀ s c, Runs s c 0#7 [] → shading c.grp.core = true →
    exec .nflush s = .next (afterLong s c true fun t => t.modCore c.grp.core (fun k => { k with pool := k.pool.map (fun r =>
      if (k.pool.any (fun x => x.group == c.cur.g && !x.parked && x.key == r.key)) && !r.parked then { r with eligible := true }
      else r) }))) ∧
  (∀ a s c, Runs s c 0#7 [rdS a] → shading c.grp.core = true →
    let n := (c.wave.sget a.toNat).toNat
    (16 ≤ n → n ≤ 4096 → exec (.ncfg a) s =
      .next (afterLong s c true fun t => t.modGroup c.cur.g (fun G => { G with window := n }))) ∧
    ((n < 16 ∨ 4096 < n) → exec (.ncfg a) s = .next (((started s c).finish c { uni := true, long := true }
      (.trap false [c.splitRec cBadDescriptor])).boundary c.cur.g)))

/-- The gather unit: a key whose oldest request has waited its window becomes eligible; the oldest eligible key forms a tile
of at most 128 requests when no tile is under way, and its descriptor is read; a tile whose bytes are there is evaluated,
and each result row goes to its lane, retiring that lane's share (spec/10 R271 to R275). Where the
manual leaves a point open it follows the model (log entry 42). -/
def Obligations.GatherEvents : Prop :=
  (∀ core idx s r, (s.core core).pool[idx]? = some r → r.parked = false → r.eligible = false →
    r.entry + r.window ≤ (s.core core).ccycle.toNat → ((s.core core).underKey r.key).head? = some r →
    exec (.gatherWindowExpiry core idx) s = .next (s.modCore core (fun c => { c with pool := c.pool.map (fun x =>
      if x.key = r.key ∧ x.parked = false then { x with eligible := true } else x) }))) ∧
  (∀ core s k, (s.core core).tile = none → (s.core core).nextKey = some k →
    let rows := ((s.core core).underKey k).take 128
    let job := ((rows.head?).bind (fun r => (s.groups[r.group]?).map (fun G => G.job))).getD 0
    let taken := fun (t : State) => t.modCore core (fun c => { c with
      pool := (c.pool.filter (fun x => !rows.contains x)).map (fun x => if x.key == k then { x with eligible := false } else x) })
    (∀ b t, s.netDesc core job k = (.ok b false, t) →
      let ws := leWords 32 b
      let u := (taken t).modCore core (fun c => c.cacheDesc k ws)
      (∀ r ∈ rows, (u.netFor r ws).isSome = true) → rows ≠ [] → exec (.gatherTileForm core) s = .next
        (u.modCore core (fun c => { c with
          tile := some { key := k, stage := .fetching, rows := rows, desc := ws, results := [] } }))) ∧
    (∀ f t, s.netDesc core job k = (.fault f, t) →
      exec (.gatherTileForm core) s = .next ((taken t).tileFault core f rows))) ∧
  (∀ core s t, (s.core core).held = false → (s.core core).tile = some t → t.stage = .fetching →
    let job := ((t.rows.head?).bind (fun r => (s.groups[r.group]?).map (fun G => G.job))).getD 0
    (∀ out s', s.evalRows core job t.desc t.rows = (.inr (some out), s') → out ≠ [] →
      exec (.gatherFetchComplete core) s =
        .next (s'.modCore core (fun c => { c with tile := some { t with stage := .scattering, results := out } }))) ∧
    (∀ f s', s.evalRows core job t.desc t.rows = (.inl f, s') →
      exec (.gatherFetchComplete core) s = .next (s'.tileFault core f t.rows))) ∧
  (∀ core row s t r out bad, (s.core core).held = false → (s.core core).tile = some t → t.stage = .scattering → t.results[row]? = some (r, out, bad) →
    let rest := t.results.eraseIdx row
    exec (.gatherScatter core row) s = .next ((s.modCore core (fun c => { c with
      tile := if rest = [] then none else some { t with results := rest } })).modWave r.group r.wave (fun wv =>
        (wv.writeAll false (out.zipIdx.map (fun x => { lane := r.lane, reg := r.dreg + x.2, val := x.1, poison := bad : Wr }))).shedLanes
          r.pend (Mask.bit r.lane))))

/-- The copy engine: a command moves its elements in flat order, one of PLAIN unchanged; a stopped command goes on at its
failed element when its service has been answered; a command ends when the box is moved or an error is noted, and is
discarded with status 11 under HALT; `QFENCE` ends when every entry that it waits for has completed, on whatever core it stands
and also while it is saved with its group (spec/08 R222 R226 R231 to R234). Where the
manual leaves a point open it follows the model (log entries 38 and 40). -/
def Obligations.CopyEvents : Prop :=
  (∀ core q n s x G t, q < 4 → s.copyHead core q = some (x, G) →
    let d := CopyDesc.ofWords x.desc
    x.done < d.count → (if d.compressed then s.copyBlock core q x G d else s.copyElement core q x G d) = some t →
    exec (.copyCommandRun core q (n + 1)) s = .next (t.copySteps core q n)) ∧
  (∀ d L g v, d.mode ≠ 1 → d.mode ≠ 2 → CopyDesc.element d L g v = (v, 0, g)) ∧
  (∀ core q s x, s.cmdHead core q = some x → x.op = .copy → x.stop.isSome = true → s.unanswered x = false →
    exec (.copyFaultResume core q) s = .next (s.modCmd core q x.ord (fun y => { y with stop := none }))) ∧
  (∀ core q s x, s.cmdHead core q = some x → x.op = .copy → x.stop = none →
    (s.halted core q x.group = true → x.started = false → x.status = 0 →
      exec (.copyCommandComplete core q) s = .next (s.finishCmd core q x 11 [])) ∧
    ((x.status ≠ 0 ∨ (CopyDesc.ofWords x.desc).count ≤ x.done) → (x.started = true ∨ s.halted core q x.group = false ∨ x.status ≠ 0) →
      exec (.copyCommandComplete core q) s = .next (s.finishCmd core q x 0 []))) ∧
  (∀ core q s x waits, s.cmdHead core q = some x → x.op = .qfence waits →
    (s.halted core q x.group = true → exec (.qfenceComplete core q) s = .next (s.finishCmd core q x 11 [])) ∧
    (s.halted core q x.group = false → (∀ p ∈ waits, s.fenceWaits p = false) →
      exec (.qfenceComplete core q) s = .next (s.finishCmd core q x 0 [])))

/-- The hamper control: an `HPART` of more than 12 ways answers 2, one while another group holds ways answers 1, else the
ways of the group change once none of its scratch accesses is under way, the bytes between the two sizes being cleared;
`CFLUSH` and `CINV` run over their range and answer 2 on a bad flag word (spec/05 R151 R153). -/
def Obligations.HamperEvents : Prop :=
  (∀ core s x G, s.cmdHead core selHamper = some x → s.groups[x.group]? = some G → x.op = .hpart →
    let k := s.core core
    let n := (x.desc.headD 0#32).toNat % 16
    let w := s.waysOf x.group core
    let done := fun (t : State) (status ways : Nat) => t.finishCmd core selHamper x 0 [BitVec.ofNat 32 (status + 256 * ways)]
    (12 < n → exec (.hpartComplete core) s = .next (done s 2 w)) ∧
    (n ≤ 12 → 0 < n → (∃ h, k.holder = some h ∧ h ≠ x.group) → exec (.hpartComplete core) s = .next (done s 1 w)) ∧
    (n ≤ 12 → (n = 0 ∨ k.holder = none ∨ k.holder = some x.group) → s.scratchInFlight x.group G = false →
      (n = w → exec (.hpartComplete core) s = .next (done s 0 n)) ∧
      (n ≠ w → exec (.hpartComplete core) s = .next (done (s.modCore core (fun k => { k with
        scr := cellClear k.scr (waySize * min n w) (waySize * max n w)
        scrP := k.scrP.filter (fun y => !(decide (waySize * min n w ≤ y * 8) && decide (y * 8 < waySize * max n w)))
        ways := n
        holder := if n = 0 then none else some x.group })) 0 n)))) ∧
  (∀ core s x G, s.cmdHead core selHamper = some x → s.groups[x.group]? = some G → (x.op = .cflush ∨ x.op = .cinv) →
    let w3 := x.desc.getD 3 0#32
    let bad := 8 ≤ w3.toNat ∨ (w3.getLsbD 2 = true ∧ w3.getLsbD 1 = true)
    (bad → exec (.cacheMaintComplete core) s = .next (s.finishCmd core selHamper x 2 [])) ∧
    (¬bad → exec (.cacheMaintComplete core) s =
      .next ((s.maintRun core G.job (x.op == .cflush) x.desc).finishCmd core selHamper x 0 [])))

/-- The matrix queue: a command starts when nothing before it holds it back, and is discarded with status 11 under HALT;
`MLOADW` fills the shadow plane from its image, `MSWAP` exchanges the planes, `MSTREAM` ends with 14, 15 or 13 when the
active plane does not fit and else adds its rows, `MDRAIN` writes its elements one after another, as many at an event as a
free number says, `MZERO` zeroes its ACM rows, a chain command
computes a step, whose outputs then land one after another, each alone, and goes on with the next when the last has landed (spec/07
R200, spec/09 R248 to R259, spec/10 R279 R283). Where the
manual leaves a point open it follows the model (log entries 6, 20, 40, 41 and 63). -/
def Obligations.MatrixEvents : Prop :=
  (∀ core s x G, s.mqStart core = some (x, G) →
    (s.halted core selMatrix x.group = true →
      let ended := Host.Outcome.next (s.finishCmd core selMatrix x 11 [])
      (x.op = .mloadw → exec (.mloadwStart core) s = ended) ∧ (x.op = .mswap → exec (.mswapPerform core) s = ended) ∧
      (x.op = .mstream → exec (.mstreamStart core) s = ended) ∧ (x.op = .mzero → exec (.mzeroRun core) s = ended)) ∧
    (s.halted core selMatrix x.group = false →
      (x.op = .mloadw → exec (.mloadwStart core) s = .next
        ((s.modCmd core selMatrix x.ord (fun y => { y with started := true })).modCore core (fun c => { c with
          shadow := { Plane.empty with st := .filling
                                       fs := (s.launch G.launch).slotRecord (LoadDesc.ofWords x.desc).slot
                                       kblk := (LoadDesc.ofWords x.desc).kblk } }))) ∧
      (x.op = .mswap → exec (.mswapPerform core) s = .next
        ((s.modCore core (fun c => { c with active := c.shadow, shadow := c.active })).finishCmd core selMatrix x 0 [])) ∧
      (x.op = .mstream →
        let d := StreamDesc.ofWords x.desc
        let p := (s.core core).active
        let end_ := fun (n : Nat) => exec (.mstreamStart core) s = .next (s.finishCmd core selMatrix x n [])
        let fits := pairAccepted ((s.launch G.launch).slot d.slot) (Slot.ofRecord p.fs)
        (p.st = .empty → end_ 14) ∧ (p.st ≠ .empty → p.kblk ≠ d.kblk → end_ 15) ∧
        (p.st ≠ .empty → p.kblk = d.kblk → fits = false → end_ 13) ∧
        (p.st ≠ .empty → p.kblk = d.kblk → fits = true → exec (.mstreamStart core) s = .next
          (s.modCmd core selMatrix x.ord (fun y => { y with started := true })))) ∧
      (x.op = .mzero →
        let w := x.desc.getD 0 0#32
        exec (.mzeroRun core) s = .next (((List.range ((w.toNat / 512) % 1024)).foldl (fun t i =>
          t.modCore core (fun c => c.acmSet (AcmRow.zero (G.acmb + w.toNat % 512 + i)))) s).finishCmd core selMatrix x 0 []))) ∧
    (s.halted core selMatrix x.group = false → s.mqRunning core .mdrain = none → x.op = .mdrain →
      (s.drainStep core x G).isSome = true → exec (.mdrainRun core) s =
        .next (drained core x (s.modCmd core selMatrix x.ord (fun y => { y with started := true }))))) ∧
  (∀ core s x G, s.mqRunning core .mloadw = some (x, G) → x.status = 0 →
    let d := LoadDesc.ofWords x.desc
    let fs := (s.launch G.launch).slotRecord d.slot
    let n := imageBytes (Slot.ofRecord fs) d.kblk
    ∀ p l, s.reachLocal x.group G d.l n = .at_ p l → exec (.mloadwComplete core) s =
      .next (((s.locTouch l n).modCore core (fun c => { c with
        shadow := s.loadPlane G (Slot.ofRecord fs) fs d.kblk l })).finishCmd core selMatrix x 0 [])) ∧
  (∀ core s x G, s.mqRunning core .mstream = some (x, G) → x.status = 0 →
    let d := StreamDesc.ofWords x.desc
    let t := (s.launch G.launch).slot d.slot
    let na := (d.m - 1) * d.astr + d.rowBytes t
    let ns := (d.m - 1) * d.sstr + d.scaleBytes t
    ∀ p q la ls, s.reachLocal x.group G d.a na = .at_ p la →
      (if t.smode = 0 then s.reachLocal x.group G d.a na else s.reachLocal x.group G d.s ns) = .at_ q ls →
      exec (.mstreamComplete core) s = .next (((List.range d.m).foldl (fun s m => s.streamStep core G d t la ls m)
        ((s.locTouch la na).locTouch ls ns)).finishCmd core selMatrix x 0 [])) ∧
  (∀ core s x G, s.mqRunning core .mdrain = some (x, G) →
    (x.status ≠ 0 ∨ x.drainCount ≤ x.done ∨ (s.drainStep core x G).isSome = true) →
    exec (.mdrainRun core) s = .next (drained core x s)) ∧
  (∀ core (s t : State) x G n, (s.cmds core selMatrix).find? (fun y => y.ord == x.ord) = some x → s.groups[x.group]? = some G →
    x.stop = none →
    (x.status ≠ 0 ∨ x.drainCount ≤ x.done → s.drainRun core x.ord (n + 1) = s.finishCmd core selMatrix x 0 []) ∧
    (x.status = 0 → x.done < x.drainCount → s.drainStep core x G = some t →
      s.drainRun core x.ord (n + 1) = t.drainRun core x.ord n)) ∧
  (∀ core s x G run, s.chainNext core = some (x, G, run) →
    (x.status ≠ 0 → exec (.chainStep core) s =
      .next (s.finishCmd core selMatrix x 0 [BitVec.ofNat 32 x.done, BitVec.ofNat 32 x.rows])) ∧
    (x.status = 0 → run = false → s.halted core selMatrix x.group = true →
      exec (.chainStep core) s = .next (s.finishCmd core selMatrix x 11 [])) ∧
    (x.status = 0 → (run = true ∨ s.halted core selMatrix x.group = false) →
      let s' := s.modCmd core selMatrix x.ord (fun y => { y with started := true })
      let begun := fun (e : Step) (out : List (Nat × Bool)) (t : State) => t.modCmd core selMatrix x.ord (fun y =>
        { y with ahead := out, dest := e.outa, rows := e.outRows, run := 0 })
      (x.op = .ttstep → x.ahead = [] → ∀ out t,
        let e := Step.ofWords x.desc (x.desc.getD 7 0#32).toNat 0#32 (x.desc.drop 8)
        s'.chainDo x.group G e = .done out t → out ≠ [] → exec (.chainStep core) s = .next (begun e out t)) ∧
      (x.op = .ttrun → x.ahead = [] → ∀ l out t, s'.localLoc x.group G (s'.launch G.launch) ((x.desc.getD 0 0#32).toNat + 32 * x.done) 32 = some l →
        let ws := leWords 8 (s'.locRead G l 32)
        let e := Step.ofWords ws x.rows (ws.getD 7 0#32) (x.desc.drop 4)
        e.check (s'.launch G.launch) (fun a n => n == 0 || (s'.localLoc x.group G (s'.launch G.launch) a n).isSome) = none →
        s'.chainDo x.group G e = .done out t → out ≠ [] → exec (.chainStep core) s = .next (begun e out t)) ∧
      (∀ y rest p l, x.ahead = y :: rest → s'.reachLocal x.group G x.dest 4 = .at_ p l →
        let run := runAfter y.2 false x.run 32
        let landed := ((s'.store G l (leBytes 4 y.1) y.2).cleanBehind G l 32 run).modCmd core selMatrix x.ord (fun z =>
          { z with ahead := z.ahead.drop 1, dest := z.dest + 4, run := run })
        let ended := landed.modCore core (fun c => { c with shadow := Plane.empty })
        let n := x.done + 1
        let cnt := (x.desc.getD 1 0#32).toNat % 65536
        exec (.chainStep core) s = .next (if rest ≠ [] then landed
          else if x.op = .ttstep then ended.finishCmd core selMatrix x 0 []
          else if cnt ≤ n then ended.finishCmd core selMatrix { x with done := n } 0 [BitVec.ofNat 32 n, BitVec.ofNat 32 x.rows]
          else ended.modCmd core selMatrix x.ord (fun z => { z with done := n, run := 0 })))))

/-- Packet and refit commands enter their units and leave their destination pending in class 3: `EMITVP` and `VCLOSE` on a
geometry core at the packet unit of its die, `REFIT` at the refit engine of the home die; a descriptor that breaks a rule
traps (spec/11 R305, spec/12 R313 R316). Where the
manual leaves a point open it follows the model (log entries 22 and 23). -/
def Obligations.PacketAndRefitIssue : Prop :=
  (∀ d a s c, d ≠ 0#7 → a.toNat % 4 = 0 → a.toNat ≠ 0 → Runs s c 0#7 [rdS a 4, wrS d] → EngineReady c →
    runsOn .geometry s c.grp.core = true → s.scoreFull c.grp.core = false →
    let ws := c.wave.sblock a.toNat 4
    let off := (ws.getD 0 0#32).toNat
    let odd := 16 ≤ (ws.getD 1 0#32).toNat ∨ ws.getD 3 0#32 ≠ 0#32
    let trapOn := fun (cause : Nat) => exec (.emitvp d a) s = .next
      (((started s c).finish c { uni := true, long := true } (.trap false [c.splitRec cause])).boundary c.cur.g)
    (odd → trapOn cBadDescriptor) ∧ (¬odd → off % 16 ≠ 0 → trapOn cMisaligned) ∧
    (¬odd → off % 16 = 0 → c.lau.localBytes < off + blockBytes → trapOn cLocalRange) ∧
    (¬odd → off % 16 = 0 → off + blockBytes ≤ c.lau.localBytes → exec (.emitvp d a) s = .next (afterLong s c true fun t =>
      t.pushPacket c d false ws [{ acm := false, lo := off, hi := off + blockBytes, wr := false }]))) ∧
  (∀ d a s c, d ≠ 0#7 → a.toNat % 2 = 0 → a.toNat ≠ 0 → Runs s c 0#7 [rdS a 2, wrS d] → EngineReady c →
    runsOn .geometry s c.grp.core = true →
    let ws := c.wave.sblock a.toNat 2
    ((ws.getD 1 0#32).toNat < 32 → exec (.vclose d a) s = .next (afterLong s c true fun t => t.pushPacket c d true ws [])) ∧
    (32 ≤ (ws.getD 1 0#32).toNat → exec (.vclose d a) s = .next (((started s c).finish c { uni := true, long := true }
      (.trap false [c.splitRec cBadDescriptor])).boundary c.cur.g))) ∧
  (∀ d a s c, d ≠ 0#7 → a.toNat % 8 = 0 → a.toNat ≠ 0 → Runs s c 0#7 [rdS a 8, wrS d] → EngineReady c →
    let ws := c.wave.sblock a.toNat 8
    let nbase := (pairOf (ws.getD 0 0#32) (ws.getD 1 0#32)).toNat
    exec (.refit d a) s = .next (afterLong s c true fun t => State.addPend { t with refits := t.refits ++
      [{ die := t.refitDie c.grp.job nbase, job := c.grp.job, group := c.cur.g, wave := c.cur.w, pend := c.wave.nextPend,
         dreg := d.toNat, words := ws, started := false, next := 0, ready := [], boxes := [], flagged := [],
         rootDone := false, status := 0, request := none }] } c 3 true [d.toNat] 1#64 c.act .engine false false [] []))

/-- The packet unit: a block is refused with its status or sent as one packet for every die that owns a region of a kept
triangle; `VCLOSE` moves the token of its die; on arrival a packet is held in its die's buffer, is written whole to the spill
area, or puts the stream in Fault, and a token moves the die's release point (spec/12 R314 to R319). Where the
manual leaves a point open it follows the model (log entries 23 and 46). -/
def Obligations.PacketEvents : Prop :=
  (∀ gdie s x, s.packetHead gdie = some x → x.close = false →
    (∀ y ∈ s.cmds (((s.groups[x.group]?).map (fun G => G.core)).getD 0) selPacket, Cmd.of x y = true →
      s.mayRun (((s.groups[x.group]?).map (fun G => G.core)).getD 0) y = true) →
    let k := Block.ofBytes (s.packetBlock x blockBytes)
    let n := (x.words.getD 1 0#32).toNat % 16
    (∀ r, s.emitRefusal x k = some r → exec (.emitvpComplete gdie) s =
      .next ((if r = 3 then s.modStream n (fun y => { y with late := y.late + 1 }) else s).finishPacket x r)) ∧
    (s.emitRefusal x k = none →
      let st := s.stream n
      let kept := ((List.range k.tcount).map (k.snapped st)).filterMap id
      let dests := (List.range 8).filter (fun d => kept.any (fun t => (t.owners st).contains d))
      let sent := dests.map (fun d =>
        let ts := kept.filter (fun t => (t.owners st).contains d)
        { stream := n, gdie := gdie, sdie := d,
          body := .packet { seq := (x.words.getD 2 0#32).toNat, mesh := k.mesh, gdie := gdie, tris := ts, bytes := packetBytes ts } : XMsg })
      let t := s.modStream n (fun y => { y with drop := y.drop + (k.tcount - kept.length) })
      exec (.emitvpComplete gdie) s = .next (State.finishPacket { t with xbar := t.xbar ++ sent } x
        (256 * kept.length + 65536 * (dests.map (fun d => 2 ^ d)).foldl (· + ·) 0)))) ∧
  (∀ gdie s, s.gcmds.find? (fun x => x.gdie == gdie && x.result.isSome) = none → ∀ x, s.packetHead gdie = some x →
    x.close = true →
    let w1 := x.words.getD 1 0#32
    let n := w1.toNat % 16
    let seq := (x.words.getD 0 0#32).toNat
    let st := s.stream n
    let ended := fun (t : State) (r : Nat) => exec (.vcloseComplete gdie) s = .next (t.finishPacket x r)
    let send := fun (v : Option Nat) =>
      let t := s.modStream n (fun y => { y with tokens := y.tokens.set gdie v })
      ({ t with xbar := t.xbar ++ t.shadingDies.map (fun d => { stream := n, gdie := gdie, sdie := d, body := .token v : XMsg }) } : State)
    (st.isOpen = false → ended s 1) ∧ (st.isOpen = true → st.tokens.getD gdie none = none → ended s 2) ∧
    (∀ t, st.isOpen = true → st.tokens.getD gdie none = some t →
      (w1.getLsbD 4 = true → exec (.vcloseComplete gdie) s = .next { send none with
        gcmds := s.gcmds.map (fun y => if y.same x then { y with final := true } else y) }) ∧
      (w1.getLsbD 4 = false → seq < t → ended s (if st.fault then 5 else 3)) ∧
      (w1.getLsbD 4 = false → t ≤ seq → ended (send (some seq)) (if st.fault then 5 else 0)))) ∧
  (∀ gdie s x r, s.gcmds.find? (fun x => x.gdie == gdie && x.result.isSome) = some x → x.result = some r →
    exec (.vcloseComplete gdie) s = .next (s.finishPacket x r)) ∧
  (∀ gdie sdie s i m p, s.pathHead gdie sdie = some (i, m) → m.body = .packet p →
    let t : State := { s with xbar := s.xbar.eraseIdx i }
    let st := t.stream m.stream
    let room := ((st.dies[sdie]?).map DieFrame.held).getD 0 + p.bytes ≤ onDie
    ((st.isOpen = false ∨ st.fault = true) → exec (.packetArrival gdie sdie) s = .next t) ∧
    (st.isOpen = true → st.fault = false →
      (room → exec (.packetArrival gdie sdie) s = .next (t.holdPacket m.stream sdie p)) ∧
      (¬room → st.spillAt p.bytes = none → exec (.packetArrival gdie sdie) s =
        .next (t.modStream m.stream (fun y => { y with fault := true }))) ∧
      (¬room → ∀ o, st.spillAt p.bytes = some o → exec (.packetArrival gdie sdie) s =
        .next ((t.unitWrite sdie st.job (st.addr 14 + o) (p.image m.stream sdie)).holdPacket m.stream sdie
          { p with spill := some o })))) ∧
  (∀ gdie sdie s i m v, s.pathHead gdie sdie = some (i, m) → m.body = .token v →
    exec (.tokenArrival gdie sdie) s = .next (State.modStream { s with xbar := s.xbar.eraseIdx i } m.stream (fun y =>
      { y with dies := y.dies.modify sdie (fun f => { f with tokens := f.tokens.set gdie v }) })))

/-- The refit engine: a descriptor that breaks a rule fails the command with 1; an entry whose children are still to come is
passed over; a node without children, or whose last child has arrived, is refitted, flagged where its cost has grown too
far, and counts as arrived at its parent, which then is ready, fails the command, or still waits; the root ends the scan.
The command then asks for a rebuild or rebuilds, writes its status word with the count of flagged nodes and leaves its
class (spec/11 R305 to R307). Where the manual leaves a point open it follows the model (log entries 21, 22 and 45). -/
def Obligations.RefitEvents : Prop :=
  (∀ die node s i x, s.refitHead die = some (i, x) → x.request = none → x.status = 0 → x.rootDone = false →
    (x.started = false → x.badDesc = true → exec (.refitNodeProcess die node) s =
      .next (s.modRefit i (fun x => { x with started := true, status := 1 }))) ∧
    ((x.started = true ∨ x.badDesc = false) → ∀ b t, s.refitRead x (x.rbase + 16 * node) 16 = (.ok b, t) →
      let ent := leWords 4 b
      let scan := { x with started := true, next := node + 1 }
      (node = x.next → node < x.ncount → x.ready.contains node = false →
        (badEnt ent = true → exec (.refitNodeProcess die node) s =
          .next (t.modRefit i (fun x => { x with started := true, status := 1 }))) ∧
        (badEnt ent = false → entExpect (ent.getD 1 0#32) ≠ 0 → exec (.refitNodeProcess die node) s =
          .next (t.modRefit i (fun _ => scan)))) ∧
      (badEnt ent = false → ∀ x', x' = (if x.ready.contains node = true
          then { x with started := true, ready := x.ready.erase node } else scan) →
        (x.ready.contains node = true ∨ (node = x.next ∧ node < x.ncount ∧ entExpect (ent.getD 1 0#32) = 0)) →
        ∀ old t1 pa t2 boxes t3 r, t.refitRead x (x.nbase + 128 * node) 128 = (.ok old, t1) →
        t1.refitPlace x (x.nbase + 128 * node) 128 = (.ok pa, t2) →
        t2.childBoxes x (Node.ofBytes old) (Node.ofBytes old).present = (.ok boxes, t3) →
        refitNode old (Node.ofBytes old) boxes = some r →
        let flag := x.list ≠ 0 ∧ tooCostly r.cost (ent.getD 2 0#32) x.thr = true
        let written := fun (t : State) => listed x node flag ((t.poke pa (r.bytes ++ old.drop 64)).modRefit i (fun _ => { x' with
          boxes := (node, r.nb) :: x'.boxes.filter (fun b => b.1 != node),
          flagged := x'.flagged ++ (if flag then [node] else []) }))
        let parent := (ent.getD 0 0#32).toNat
        (parent = 0xFFFFFFFF → exec (.refitNodeProcess die node) s =
          .next ((written t3).modRefit i (fun x => { x with rootDone := true }))) ∧
        (parent ≠ 0xFFFFFFFF → x.ncount ≤ parent → exec (.refitNodeProcess die node) s =
          .next (t3.modRefit i (fun x => { x with status := 1 }))) ∧
        (parent < x.ncount → parent ≠ 0xFFFFFFFF →
          ∀ pb t4 pp t5, t3.refitRead x (x.rbase + 16 * parent) 16 = (.ok pb, t4) →
          t4.refitPlace x (x.rbase + 16 * parent + 4) 4 = (.ok pp, t5) →
          (badEnt (leWords 4 pb) = true → exec (.refitNodeProcess die node) s =
            .next (t5.modRefit i (fun x => { x with status := 1 }))) ∧
          (badEnt (leWords 4 pb) = false →
            let w1 := (leWords 4 pb).getD 1 0#32
            let n := entArr w1 + 1
            let counted := (written t5).poke32 pp ((w1 &&& ~~~0xF000#32) ||| BitVec.ofNat 32 (4096 * (if n = entExpect w1 then 0 else n)))
            (entExpect w1 < n → exec (.refitNodeProcess die node) s =
              .next ((written t5).modRefit i (fun x => { x with status := 3 }))) ∧
            (n < entExpect w1 → exec (.refitNodeProcess die node) s = .next counted) ∧
            (n = entExpect w1 → exec (.refitNodeProcess die node) s =
              .next (counted.modRefit i (fun x => { x with ready := x.ready ++ [parent] })))))))) ∧
  (∀ die s i x, s.refitHead die = some (i, x) → x.request = none →
    (x.rootDone = true ∨ x.status ≠ 0 ∨ (x.started = true ∧ x.ncount ≤ x.next ∧ x.ready = [])) →
    let status := if x.status ≠ 0 then x.status else if x.rootDone = true then 0 else 3
    let n := x.flagged.length
    ∀ u, (n = 0 → u = s) →
      (n ≠ 0 → s.mode 3 = true → ∀ t, s.jobRequest 3 x.job (.refit die) 0 (wordsBytes [x.w 6, x.w 7, BitVec.ofNat 32 n,
        ((s.groups[x.group]?).map (fun G => (s.launch G.launch).id)).getD 0#32]) 0#32 0#32 = some t → u = t) →
      (n ≠ 0 → s.mode 3 = true → s.jobRequest 3 x.job (.refit die) 0 (wordsBytes [x.w 6, x.w 7, BitVec.ofNat 32 n,
        ((s.groups[x.group]?).map (fun G => (s.launch G.launch).id)).getD 0#32]) 0#32 0#32 = none → u = s) →
      (n ≠ 0 → s.mode 3 = false → u = x.flagged.foldl (fun s k => s.rebuildTree x k) s) →
      exec (.refitComplete die) s = .next ((State.modWave { u with refits := u.refits.eraseIdx i } x.group x.wave (fun wv =>
        (if (wv.pend? x.pend).isSome then wv.sset x.dreg (BitVec.ofNat 32 (status + 256 * n)) false else wv).retirePend
          x.pend)).groupCheck x.group))

/-- Frames: a die starts by clearing its samples or by reprojecting the old buffer, the last one writing RDONE and HOLES;
the released packet with the lowest key is rasterised one triangle at a time; at its end the hamper copies go, FSTAT is
written, final closes complete and so does the entry (spec/12 R309 R320 to R325). Where the
manual leaves a point open it follows the model (log entries 24 and 46). -/
def Obligations.FrameEvents : Prop :=
  (∀ n d s f, (s.stream n).isOpen = true → s.shadingDies.contains d = true → (s.stream n).dies[d]? = some f → f.ready = false →
    let st := s.stream n
    let ready := fun (t : State) => t.modStream n (fun x => { x with dies := x.dies.modify d (fun f => { f with ready := true }) })
    let cs := st.sent.getD (((List.range st.high).flatMap (fun y => (List.range st.wide).map (fun x => (x, y)))).filterMap
      (fun p => s.candidate st p.1 p.2))
    let sent := if st.sent.isSome then s else s.modStream n (fun x => { x with sent := some cs })
    let t := ready ((st.pixelsOf d).foldl (fun s p => s.landed n d cs p) sent)
    let all := t.shadingDies.all (fun d => (((t.stream n).dies[d]?).map DieFrame.ready).getD true)
    (st.repro = false → exec (.reprojectionComplete n d) s = .next (ready (s.clearDie st d))) ∧
    (st.repro = true →
      (all = false → exec (.reprojectionComplete n d) s = .next t) ∧
      (all = true → exec (.reprojectionComplete n d) s = .next ((t.unitWrite baseDie (t.stream n).job ((t.stream n).addr 18)
        (leBytes 4 1 ++ leBytes 4 (t.stream n).holes)).modStream n (fun x => { x with rdone := true }))))) ∧
  (∀ n d s f i p, (s.stream n).isOpen = true → (s.stream n).dies[d]? = some f → f.ready = true →
    lowestKey ((f.pkts.zipIdx.map (fun x => (x.2, x.1))).filter (fun x => s.released f x.2)) = some (i, p) →
    ∀ t rest, p.tris = t :: rest →
      exec (.rasterise n d) s = .next ((((s.stream n).samplesOf t d).foldl (fun u x => u.shadeSample (s.stream n) d p.mesh t x) s).modStream n
        (fun x => { x with dies := x.dies.set d (DieFrame.spill { f with
          pkts := if rest = [] then f.pkts.eraseIdx i else f.pkts.set i { p with tris := rest } }) }))) ∧
  (∀ n s, (s.stream n).isOpen = true → s.frameOver (s.stream n) = true →
    let st := s.stream n
    let a := st.addr 18
    let s1 := (State.unitWrite { s with hcopies := [] } baseDie st.job (a + 12) (leBytes 4 st.late ++ leBytes 4 st.drop)).unitWrite baseDie
      st.job (a + 8) (leBytes 4 (if st.fault then 2 else 1))
    let s2 : State := { s1 with gcmds := s1.gcmds.map (fun x =>
      if x.final && x.result.isNone && (x.words.getD 1 0#32).toNat % 16 == n then { x with result := some (if st.fault then 5 else 0) } else x) }
    exec (.frameEnd n) s = .next ((s2.modStream n (fun _ => Stream.idle)).completeEntry st.queue st.index stOK 0#32 0#32 0#32 0#32))

/-- Pending results arrive while the clock of the core runs: a special function writes its results, makes the flags of every lane for which it issued sticky and
traps the live lanes that raised an enabled flag, those that have died giving no record (the model's choice, log entry 56); a mangle operation writes every destination element at once (spec/04 R139 R141,
spec/08 R237, spec/14 R369). -/
def Obligations.PendingResults : Prop :=
  (∀ g w p s wv q flags, s.wave? g w = some wv → wv.pend? p = some q → q.kind = .special flags → s.coreHeld g = false →
    let t := s.modWave g w (fun wv =>
      ((wv.writeAll false q.wrs).setSticky (Flags.unions (flags.map Prod.snd)).bits).retirePend p)
    let bad := flags.filter (fun f => decide (f.1 < 64) && (((t.wave? g w).map (fun wv => wv.live.getLsbD f.1)).getD false))
    exec (.specialFunctionComplete g w p) s =
      .next (t.trapFor g w q (bad.map (fun f => { q.record f.1 false false (Flt.plain cFp 0#64) with fpf := f.2.ieee })))) ∧
  (∀ g w p s wv q, s.wave? g w = some wv → wv.pend? p = some q → q.kind = .mangle → s.coreHeld g = false →
    exec (.mangleReply g w p) s = .next (s.modWave g w (fun wv => (wv.writeAll false q.wrs).retirePend p)))

/-- Queues: a doorbell moves TAIL, or disables the queue with a completion when the new tail lies beyond the ring; the entry
at HEAD is taken when it may be, a malformed or unreadable one completing with BAD_RECORD at once, and starts what its kind
says; entries under way complete when their condition holds; the oldest completion goes to the host's ring (spec/13 R332 to
R341 R361 R363). Where the
manual leaves a point open it follows the model (log entry 47). -/
def Obligations.QueueEvents : Prop :=
  (∀ q tail s x, s.queue? q = some x → s.up = true → s.qEnabled x = true → s.qDevq x = false →
    ((tail - s.qw x 3).toNat ≤ 2 ^ s.qRlog x → exec (.doorbellTail q tail) s = .next (s.qset x 4 tail)) ∧
    (2 ^ s.qRlog x < (tail - s.qw x 3).toNat → exec (.doorbellTail q tail) s =
      .next ((s.qset x 2 (s.qw x 2 &&& ~~~0x80#32)).addComp q 0 13 0#32 (s.qw x 3) 0#32 0#32 0#32))) ∧
  (∀ q chead s x, s.queue? q = some x → s.up = true → exec (.doorbellChead q chead) s = .next (s.qset x 10 chead)) ∧
  (∀ p ∈ takers, ∀ q s x ws t, AtHead s q x ws t →
    (p.2.1 = 6 → ∀ e ∈ x.taken, e.kind = 6 → s.inFlight x.job (invalOf e.words).1 (invalOf e.words).2 = true) →
    (p.2.1 = 4 → ∀ e ∈ x.taken, e.kind = 4 → s.cancelOver x.job e = false) →
    let u := taken s q x ws t
    let index := (s.qw x 3).toNat
    (entryClean (kindOf ws) ws = false → exec (p.1 q) s = .next (u.completeEntry q index 5 (entryId (kindOf ws) ws) 0#32 0#32 0#32)) ∧
    (entryClean (kindOf ws) ws = true → kindOf ws = p.2.1 → exec (p.1 q) s = .next (p.2.2 x q index ws u))) ∧
  (∀ p ∈ takers, ∀ q s x t, s.queue? q = some x → s.mayTake x = true → s.headEntry x = (none, t) →
    (p.2.1 = 6 → ∀ e ∈ x.taken, e.kind = 6 → s.inFlight x.job (invalOf e.words).1 (invalOf e.words).2 = true) →
    (p.2.1 = 4 → ∀ e ∈ x.taken, e.kind = 4 → s.cancelOver x.job e = false) →
    exec (p.1 q) s = .next (((t.advanceHead x).modQueue q (fun y => { y with taken := y.taken ++
      [{ index := (s.qw x 3).toNat, kind := 0, after := false, words := [], st := .started, ref := 0, deadline := 0 }] })).completeEntry
        q (s.qw x 3).toNat 5 0#32 0#32 0#32 0#32)) ∧
  (∀ q s x ws t, AtHead s q x ws t → s.frameWaits q = false → entryClean (kindOf ws) ws = true → kindOf ws = 5 →
    let u := taken s q x ws t
    let index := (s.qw x 3).toNat
    let va := pairOf (ws.getD 2 0#32) (ws.getD 3 0#32)
    ∀ rec_ map u', u.readFrame x.job va = (some (rec_, some map), u') →
      (u'.frameBad va.toNat rec_ (some map) = false → exec (.frameEntry q) s = .next (u'.openFrame x index rec_ map)) ∧
      (u'.frameBad va.toNat rec_ (some map) = true →
        exec (.frameEntry q) s = .next (u'.completeEntry q index 4 0#32 0#32 0#32 0#32))) ∧
  (∀ q s x e, s.queue? q = some x →
    (x.taken.find? (fun t => t.kind == 4 && s.cancelOver x.job t) = some e →
      exec (.cancelEntry q) s = .next (s.completeEntry q e.index stOK (entryId 4 e.words) 0#32 0#32 0#32)) ∧
    (x.taken.find? (fun t => t.kind == 6 && !(s.inFlight x.job (invalOf t.words).1 (invalOf t.words).2)) = some e →
      exec (.invalEntry q) s = .next (s.completeEntry q e.index stOK 0#32 0#32 0#32 0#32)) ∧
    (x.taken.find? (fun t => t.kind == 3) = some e → s.up = true →
      (s.waitHolds x.job e.words = true → exec (.waitReread q) s = .next (s.completeEntry q e.index stOK 0#32 0#32 0#32 0#32)) ∧
      (e.deadline ≠ 0 → e.deadline ≤ s.now → exec (.waitTimeout q) s = .next (s.completeEntry q e.index 11 0#32 0#32 0#32 0#32)))) ∧
  (∀ graph node s gr, s.graphs[graph]? = some gr → s.up = true → gr.ended = false → gr.status = 0 →
    gr.states[node]? = some .waiting →
    let put := fun (t : State) (st : NodeState) (status k : Nat) =>
      ({ t with graphs := t.graphs.modify graph (fun x => { x with
        states := x.states.set node st, status := status, counter := x.counter + BitVec.ofNat 32 k }) } : State)
    (s.nodeWords gr node = none → exec (.graphNodeStart graph node) s = .next ((put s .failed 5 1).graphCheck graph)) ∧
    (∀ ws, s.nodeWords gr node = some ws → (ws.getD 64 0#32).toNat ≤ s.predsDone gr node →
      let r := s.enlist gr.job (ws.take 64) gr.queue gr.index (some (graph, node))
      (r.1 = 0 → exec (.graphNodeStart graph node) s = .next (put r.2 .running 0 0)) ∧
      (r.1 ≠ 0 → exec (.graphNodeStart graph node) s = .next ((put r.2 .failed r.1 1).graphCheck graph)))) ∧
  (∀ q s x w0 ws rest, s.queue? q = some x → x.comps = { words := w0 :: ws } :: rest → s.up = true → s.qFull x = false →
    let n := 2 ^ s.qClog x
    let tail := (s.qw x 11).toNat
    let bytes := ((w0 ||| BitVec.ofNat 32 ((tail / n + 1) % 2 * 2 ^ 16)) :: ws).flatMap (fun w => leBytes 4 w.toNat)
    let qpn := ((s.qw x 8).extractLsb' 0 12).toNat
    let addr := (pairOf (s.qw x 5) (s.qw x 6)).toNat + 32 * (tail % n)
    let t := ((s.modQueue q (fun x => { x with comps := rest })).qset x 11 (s.qw x 11 + 1#32)).hostPut
      (peerOf qpn ((s.qw x 8).extractLsb' 12 1).toNat) addr bytes
    exec (.completionWrite q 0) s = .next (t.emit (.write qpn ((s.qw x 8).extractLsb' 12 1).toNat (s.qw x 7) addr bytes)))

/-- Dispatch: a waiting group is placed where everything it needs is free, its waves standing at CODE with zero registers and
the argument pointer in s2 and s3; the host's bind record does the same in host-assisted mode; a drained retiring wave
retires; a quiet group is saved and a saved one restored; a split fetches its bundle, a malformed one trapping as `ILLEGAL_BUNDLE`, and a
fetch that faults parks the split and asks for service or traps; a wave passed over 64 times comes
first; a sleep ends; fetch sees the code as it stood for the first group of the launch, until an invalidation (spec/03 R77 R79 R80
R93 R104, spec/01 R14, spec/13 R342 R343 R353 R354 R356 R362, spec/14 R369, spec/15 R375). Where the
manual leaves a point open it follows the model (log entries 3, 13 and 16). -/
def Obligations.ScheduleEvents : Prop :=
  (∀ l i core slot part clmb acmb nbb s, s.up = true → s.deviceMode 1 = false → (s.launch l).unplaced i = true → s.ahead l = false →
    s.bindAsked l i = false → (s.launch l).cres = false →
    let p : Place := { core := core, slot := slot, part := part, clmb := clmb, acmb := acmb, nbb := nbb }
    s.admits (s.launch l) p = true →
    exec (.groupPlacement l i core slot part clmb acmb nbb) s = .next (s.createGroup l i p) ∧
    ∃ G, (s.createGroup l i p).groups.getLast? = some G ∧ G.launch = l ∧ G.gidx = i ∧ G.core = core ∧ G.slot = slot ∧
      G.state = .resident ∧ G.bars = List.replicate (s.launch l).bars Barrier.empty ∧ ∀ wv ∈ G.waves, wv.state = .resident ∧
        (wv.entry 0).pc = (s.launch l).code ∧ wv.sget 2 = lo32 (s.launch l).args ∧ wv.sget 3 = hi32 (s.launch l).args ∧
        ∀ d j, wv.vget d j = 0#32) ∧
  (∀ l i core slot part clmb acmb nbb s t, s.up = true → s.deviceMode 1 = true → (s.launch l).unplaced i = true →
    s.requestBinding l i = some t → exec (.groupPlacement l i core slot part clmb acmb nbb) s = .next t) ∧
  (∀ core slot ws s, s.up = true → (s.deviceMode 1 = true ∨ s.bindsAsked ws = true) → core < 112 → slot < 16 →
    exec (.bindRecordWrite core slot ws) s = .next (s.bindWrite core slot ws)) ∧
  (∀ g w s G wv, s.groups[g]? = some G → G.waves[w]? = some wv → G.state = .resident → wv.state = .retiring → (s.core G.core).held = false →
    (∀ k ∈ [0, 1, 2, 4, 5, 6, 7], wv.counters.getD k 0 = 0) → exec (.waveRetire g w) s =
      .next (((s.modGroup g (fun G => { G with retired := G.retired + 1 })).modWave g w (fun wv => { wv with
        state := .retired })).groupCheck g)) ∧
  (∀ g s G, s.groups[g]? = some G → G.state = .resident → G.stopping = some .save → G.ending = none → G.atBoundary = true →
    s.quiet g G = true → exec (.groupSave g) s = .next (s.saveGroup g G)) ∧
  (∀ g core slot part clmb acmb nbb s G, s.groups[g]? = some G → s.up = true → s.deviceMode 1 = false → s.ahead G.launch = false →
    s.bindAsked G.launch G.gidx = false → G.state = .saved → s.saving G.launch = false → (s.launch G.launch).cancelled = false → (s.launch G.launch).cres = false →
    let p : Place := { core := core, slot := slot, part := part, clmb := clmb, acmb := acmb, nbb := nbb }
    s.restorable g p = true → exec (.groupRestore g core slot part clmb acmb nbb) s = .next (s.restore g p)) ∧
  (∀ g w sp s G wv, s.groups[g]? = some G → G.waves[w]? = some wv → G.state = .resident → (s.core G.core).held = false →
    wv.issuable sp = true →
    let e := wv.entry sp
    let pc := e.pc
    let malformed := fun (t : State) (ws : List Word) => t.takeTrap g w (sp == trapIdx)
      [{ fetchRec e sp (Flt.plain cIllegalBundle 0#64) with va := 0#64, insn := ws.getD e.slot 0#32 }]
    (∀ ws, s.bundle? G.core (s.job G.job).tag pc = some ws → badBundle ws = false → exec (.bundleFetch g w sp) s = .next s) ∧
    (∀ ws, s.bundle? G.core (s.job G.job).tag pc = some ws → badBundle ws = true → exec (.bundleFetch g w sp) s = .next (malformed s ws)) ∧
    (∀ f t, s.bundle? G.core (s.job G.job).tag pc = none → s.xaccess (coreReq G.core G.job false true) pc 16 16 = (.fault f, t) →
      let u := if f.cause = cPageFault then t.fetchLate G.core (s.job G.job).tag pc else t
      ((f.cause ≠ cPageFault ∧ f.cause ≠ cColumn) ∨ sp = trapIdx →
        exec (.bundleFetch g w sp) s = .next (u.takeTrap g w (sp == trapIdx) [fetchRec e sp f])) ∧
      ((f.cause = cPageFault ∨ f.cause = cColumn) → sp ≠ trapIdx →
        exec (.bundleFetch g w sp) s = .next (u.modWave g w (fun x => { (x.setEntry sp { e with
          st := .parked, recs := [fetchRec e sp f], request := none, refused := false, fetchFault := true }) with svcDue := true })))) ∧
    (∀ pa t v u, let tag := (s.job G.job).tag
      s.bundle? G.core tag pc = none → s.xaccess (coreReq G.core G.job false true) pc 16 16 = (.loc (.phys pa), t) →
      t.serves pa = true → (t.drain pa 16).codeView G.core tag pc = (v, u) →
      let ws := leWords 4 (cellBytes v.mem pa 16)
      let kept := u.modCore G.core (fun c => { c with icache := { tag := tag, va := pc, words := ws } :: c.icache })
      (marked v.memP pa 16 = true → exec (.bundleFetch g w sp) s =
        .next (u.takeTrap g w (sp == trapIdx) [fetchRec e sp (Flt.plain cPoison pc)])) ∧
      (marked v.memP pa 16 = false → exec (.bundleFetch g w sp) s =
        .next (if badBundle ws then malformed kept ws else kept)))) ∧
  (∀ (s : State) core tag pc, let c := s.core core
    (c.code = none → c.late = [] → s.codeView core tag pc = ({ mem := s.mem, memP := s.memP }, s)) ∧
    (∀ v, c.code = some v → c.late = [] → s.codeView core tag pc = (v, s))) ∧
  (∀ g w s wv, s.wave? g w = some wv → 64 ≤ wv.passed →
    exec (.starvationPromote g w) s = .next (s.modWave g w (fun wv => { wv with passed := 65 }))) ∧
  (∀ g w sp s G wv, s.groups[g]? = some G → G.waves[w]? = some wv → (wv.entry sp).st = .sleep → (wv.entry sp).wake ≤ s.now →
    G.suspended = false → G.state = .resident →
    exec (.sleepWake g w sp) s = .next (s.modWave g w (fun wv => wv.modEntry sp (fun e => { e with st := .ready }))))

/-- Fault service: one request carries every unreported record of a wave, or the service is refused at once; firmware's
answer writes the entries it names, when it serves the request and each is one that it may write for it: an aligned word of
GDDR7, and for a page of a column pool the placement of a zeroed free frame, while it has none yet; it lets the parked splits go on or
trap (spec/00 R5, spec/03 R91, spec/06 R171, spec/13 R363). Where the
manual leaves a point open it follows the model (log entry 18). -/
def Obligations.FaultServiceEvents : Prop :=
  (∀ g w s G wv, s.groups[g]? = some G → G.waves[w]? = some wv → G.state = .resident → wv.unreported = true →
    (wv.svcDue = true ∨ wv.noneReady = true) →
    (∀ id t, s.askService G.job (.wave g w) wv.unreportedRecs = some (id, t) → exec (.faultServiceRequest g w) s =
      .next (t.modWave g w (fun wv => { wv with svcDue := false, splits := wv.splits.map (fun e =>
        if e.unreported then { e with request := some id } else e) }))) ∧
    (s.askService G.job (.wave g w) wv.unreportedRecs = none → exec (.faultServiceRequest g w) s =
      .next ((s.modWave g w (fun wv => { wv with svcDue := false })).refuseWave g w Split.unreported wv.unreportedRecs))) ∧
  (∀ req leaves s r, s.request? req = some r → r.hw = true → s.up = true →
    (∀ t, s.writeLeaves r leaves = some t → exec (.faultServiceDone req true leaves) s = .next (t.answer r true 0)) ∧
    (s.writeLeaves r leaves = none → exec (.faultServiceDone req true leaves) s = idle s) ∧
    exec (.faultServiceDone req false leaves) s = .next (s.answer r false 0)) ∧
  (∀ (s : State) r x rest, s.writeLeaves r [] = some s ∧
    (s.mayWriteLeaf r x = true → s.writeLeaves r (x :: rest) = (s.poke64 x.1 x.2).writeLeaves r rest) ∧
    (s.mayWriteLeaf r x = false → s.writeLeaves r (x :: rest) = none)) ∧
  (∀ (s : State) r x, s.mayWriteLeaf r x = true → let old := s.peek64 x.1
    x.1 % 8 = 0 ∧ x.1 + 8 ≤ s.mix.gddr ∧ eV x.2 = true ∧
    (eV old = true → eLeaf old = true → eKind old = 1 → eState old = 0 → ePlaced old = false ∧ s.placesFrame r x.1 old x.2 = true))

/-- The debug block: in each sample cycle a sample is taken of the four partitions, one that finds the ring full being
counted as dropped; a break bit, a `BREAK` or a watchpoint stops a split of an owned core before its slot, but not at an illegal
bundle; the control register owns, halts, resumes, empties the instruction caches, which then see memory as it stands, and dumps, in this order where one write asks for several; a stop record is popped; the other
registers hold what is written (spec/15 R374 to R382). That the caches are emptied to memory as it stands, which no later write
changes, is the model's choice (log entry 13), as is the order of the parts of a write (log entry 14). -/
def Obligations.DebugEvents : Prop :=
  (∀ core (s : State), let d := (s.core core).dbg
    let n := (d.scfg.extractLsb' 1 5).toNat
    let cycle := (s.core core).ccycle.toNat
    d.scfg.getLsbD 0 = true → 8 ≤ n → n ≤ 20 → cycle % 2 ^ n = 0 → d.lastSample ≠ some cycle → s.corePresent core = true →
    exec (.pcSample core) s =
      .next (((((s.samplePart core cycle 0).samplePart core cycle 1).samplePart core cycle 2).samplePart core cycle 3).modDebug core
        (fun d => { d with lastSample := some cycle }))) ∧
  (∀ core (s : State) b, let d := (s.core core).dbg
    let n := 2 ^ d.slog.toNat
    ((d.shead - d.stail).toNat = n →
      s.putSample core b = s.modDebug core (fun d => { d with sdrop := satAdd d.sdrop 1 })) ∧
    ((d.shead - d.stail).toNat ≠ n → s.putSample core b =
      (s.poke (d.sbase.toNat + 16 * (d.shead.toNat % n)) b).modDebug core (fun d => { d with shead := d.shead + 1#32 }))) ∧
  (∀ g w sp s G wv ws, s.groups[g]? = some G → G.waves[w]? = some wv → G.state = .resident → wv.issuable sp = true →
    (s.core G.core).dbg.own = true →
    let e := wv.entry sp
    (s.bundle? G.core (s.job G.job).tag e.pc = some ws → badBundle ws = true → exec (.breakBitStop g w sp) s = idle s) ∧
    (s.bundle? G.core (s.job G.job).tag e.pc = some ws → badBundle ws = false → s.cstoreHolds g w sp = false → litSlot (ws.getD 0 0#32) e.slot = false →
      (e.stopNext = none → brkOf (ws.getD 0 0#32) e.slot = true → e.brkSkip = false →
        exec (.breakBitStop g w sp) s = .next (s.stopAt g w sp 1 0 e.mask)) ∧
      (∀ i m, e.stopNext = some (2, i, m) → exec (.breakBitStop g w sp) s = .next (s.stopAt g w sp 2 0 e.mask))) ∧
    (∀ i m, e.stopNext = some (3, i, m) → exec (.watchpointStop g w sp) s = .next (s.stopAt g w sp 3 i m))) ∧
  (∀ core all s,
    let t := fun (own : Bool) => s.modCore core (fun c => { c with dbg := { c.dbg with own := own, mode := all } })
    exec (.dctlOwn core true all) s = .next (t true) ∧
    exec (.dctlOwn core false all) s =
      .next ((((((t false).forgetStops core).resumePart core 0).resumePart core 1).resumePart core 2).resumePart core 3)) ∧
  (∀ core m s, let parts := (List.range 4).filter (fun p => m.getLsbD p)
    ((s.core core).dbg.own = true → exec (.dctlHalt core m) s = .next (parts.foldl (fun t p => t.haltPart core p) s)) ∧
    ((s.core core).dbg.own = false → exec (.dctlHalt core m) s = .next s) ∧
    exec (.dctlResume core m) s = .next (parts.foldl (fun t p => t.resumePart core p) s) ∧
    exec (.dctlDump core m) s = .next (parts.foldl (fun t p =>
      match (t.core core).dbg.frozen.getD p none with
      | none => t
      | some img => t.poke (t.core core).dbg.dumpb.toNat img) s)) ∧
  (∀ core s, exec (.dctlIcinv core) s = .next (s.modCore core (fun c => { c with icache := [], code := some s.codeNow, late := [] }))) ∧
  (∀ core v s, exec (.spop core v) s = .next (if v.getLsbD 0 then
    s.modCore core (fun c => { c with dbg := { c.dbg with stops := c.dbg.stops.drop 1 } }) else s)) ∧
  (∀ core v s, ∃ a b c d : State, exec (.dctlOwn core (v.getLsbD 0) (v.getLsbD 1)) s = .next a ∧
    exec (.dctlHalt core (v.extractLsb' 2 4)) a = .next b ∧ exec (.dctlResume core (v.extractLsb' 6 4)) b = .next c ∧
    (if v.getLsbD 10 then exec (.dctlIcinv core) c = .next d else d = c) ∧
    exec (.debugRegWrite core 0 v) s = exec (.dctlDump core (v.extractLsb' 11 4)) d) ∧
  (∀ core off v s, off ≠ 0 → off ≠ 0x44 →
    exec (.debugRegWrite core off v) s = .next (s.modCore core (fun c => { c with dbg := c.dbg.write off v }))) ∧
  (∀ core v s, exec (.debugRegWrite core 0x44 v) s = exec (.spop core v) s)

/-- Host services: a request on a port that is not secured, of no operation of the table, with nonzero reserved bits or a LEN that is
not its body's is refused with its status (one that names another operation is not of this event, the model's choice, log entry 50),
and one that passes is answered with the result of its service: configuration and
debug words read and written, power limit, error records, attestation, the repair record, whose application starts the
replay, column allocations, reset (spec/16 R385 to R387 R396 R398). Where the manual leaves a point open it follows the model
(log entries 6, 11, 29 and 50). -/
def Obligations.HostServices : Prop :=
  (∀ p ∈ services, ∀ port w0 hd body s, s.up = true → port < 2 → s.owes port = false →
    (otherOp (p.2 % 256) (p.2 / 256) w0 = true → exec (p.1 port w0 hd body) s = idle s) ∧
    (otherOp (p.2 % 256) (p.2 / 256) w0 = false → (s.cfgWord 1).getLsbD 0 = true → s.secured.getD port false = false →
      exec (p.1 port w0 hd body) s = .next (s.serve port w0 hd.tag 1 [])) ∧
    (otherOp (p.2 % 256) (p.2 / 256) w0 = false → ((s.cfgWord 1).getLsbD 0 = false ∨ s.secured.getD port false = true) →
      (w0.toNat ≠ p.2 ∨ hd.w3 ≠ 0#32 ∨ hd.len.toNat ≠ body.length) →
      exec (p.1 port w0 hd body) s = .next (s.serve port w0 hd.tag 2 []))) ∧
  (∀ port w0 hd body s, let a := bodyW body 0
    let n := bodyW body 1
    1 ≤ n → n ≤ 1024 → a + n ≤ 1024 →
    (s.asked 3 0 port w0 hd body = true → body.length = 8 → exec (.cfgRd port w0 hd body) s =
      .next (s.serve port w0 hd.tag 0 (wordsBytes ((List.range n).map (fun i => s.cfgWord (a + i)))))) ∧
    (s.asked 3 1 port w0 hd body = true → body.length = 8 + 4 * n → (∀ i < n, (cfgMask (a + i)).isSome = true) →
      let ws := leWords n (body.drop 8)
      let t := ws.zipIdx.foldl (fun t q => t.cfgSet (a + q.2) q.1) s
      (∀ q ∈ ws.zipIdx, cfgBad (a + q.2) q.1 = false) → t.cfgBases = true →
      ((∀ x ∈ s.privChanges a ws, s.privBusy x = false) → exec (.cfgWr port w0 hd body) s = .next (t.serve port w0 hd.tag 0 [])) ∧
      ((∃ x ∈ s.privChanges a ws, s.privBusy x = true) →
        exec (.cfgWr port w0 hd body) s = .next (s.serve port w0 hd.tag 3 [])))) ∧
  (∀ port w0 hd body s, let c := bodyW body 0
    let off := bodyW body 1
    let n := bodyW body 2
    n % 4 = 0 → n ≤ 4096 → off % 4 = 0 → off + n ≤ 4096 → s.corePresent c = true →
    (s.asked 4 0 port w0 hd body = true → body.length = 12 → exec (.dbgRd port w0 hd body) s =
      .next (s.serve port w0 hd.tag 0 (wordsBytes ((List.range (n / 4)).map (fun i => (s.core c).dbg.read (off + 4 * i)))))) ∧
    (s.asked 4 1 port w0 hd body = true → body.length = 12 + n → exec (.dbgWr port w0 hd body) s =
      .next (((leWords (n / 4) (body.drop 12)).zipIdx.foldl (fun t q => t.debugWrite c (off + 4 * q.2) q.1) s).serve port w0 hd.tag 0 []))) ∧
  (∀ port w0 hd body s, s.asked 5 0 port w0 hd body = true → body.length = 4 → let w := bodyW body 0
    (500 ≤ w → w ≤ s.mix.watts → exec (.powerLimit port w0 hd body) s =
      .next (State.serve { s with powerLimit := w } port w0 hd.tag 0 (leBytes 4 w))) ∧
    ((w < 500 ∨ s.mix.watts < w) → exec (.powerLimit port w0 hd body) s = .next (s.serve port w0 hd.tag 2 []))) ∧
  (∀ port w0 hd body s, s.asked 6 0 port w0 hd body = true → body.length = 8 → let d := bodyW body 0
    let n := bodyW body 1
    1 ≤ n → n ≤ 1024 → s.diePresent d = true →
    let mine := s.errRing.filter (fun e => e.die == d)
    exec (.errlog port w0 hd body) s = .next (State.serve { s with
      errRing := s.errRing.filter (fun e => e.die != d) ++ mine.drop n } port w0 hd.tag 0
        (leBytes 4 (mine.take n).length ++ leBytes 4 0 ++ (mine.take n).flatMap ErrRec.image))) ∧
  (∀ port w0 hd body s, s.asked 7 0 port w0 hd body = true → body.length = 64 →
    let r := body ++ sha3_512 s.fwImage ++ sha3_512 s.dieTable ++ sha3_512 s.darnBytes ++ leBytes 8 s.now ++ List.replicate 56 0#8
    let sig := Config.mldsaSign r
    exec (.attest port w0 hd body) s =
      .next (s.serve port w0 hd.tag 0 (r ++ (sig ++ List.replicate (4627 - sig.length) 0#8).take 4627))) ∧
  (∀ port w0 hd s, s.asked 8 0 port w0 hd [] = true → exec (.darnRd port w0 hd []) s =
    .next (s.serve port w0 hd.tag 0 (padTo 16 (leBytes 4 s.darn.length) ++ s.darnBytes))) ∧
  (∀ port w0 hd body s, s.asked 8 1 port w0 hd body = true → let n := bodyW body 0
    body.length = 16 + 16 * n → n ≤ 4096 → (∀ x ∈ (body.drop 4).take 12, x = 0#8) →
    (s.repairAsked = false → exec (.darnApply port w0 hd body) s = .next (s.serve port w0 hd.tag 3 [])) ∧
    (s.repairAsked = true → exec (.darnApply port w0 hd body) s =
      .next (State.replay { s with requests := s.requests.filter (fun r => r.body != .repair), darnReply := some (port, w0, hd.tag) }
        (entriesOf (body.drop 16) n)))) ∧
  (∀ port w0 hd body s, s.asked 9 0 port w0 hd body = true → body.length = 12 → let c := bodyW body 1
    let n := bodyW body 2
    1 ≤ n → n ≤ 12 → ∀ j, s.jobOf (bodyW body 0) = some j → shading c = true → s.corePresent c = true →
    (s.unitsFree c n = none → exec (.colAlloc port w0 hd body) s = .next (s.serve port w0 hd.tag 5 [])) ∧
    (∀ b, s.unitsFree c n = some b →
      let lo := colBase c + b * unitSize
      ∃ num, ∃ t : State, exec (.colAlloc port w0 hd body) s = .next (t.serve port w0 hd.tag 0 (leBytes 4 num)) ∧
        t.colAllocs = (s.draw.2.drain lo (n * unitSize)).colAllocs ++ [{ num := num, job := j, core := c, base := b, units := n }] ∧
        t.mem = cellClear (s.draw.2.drain lo (n * unitSize)).mem lo (lo + n * unitSize))) ∧
  (∀ port w0 hd body s a, s.asked 9 1 port w0 hd body = true → body.length = 4 →
    s.colAllocs.find? (fun a => a.num == bodyW body 0) = some a →
    (s.allocBusy a = true → exec (.colFree port w0 hd body) s = .next (s.serve port w0 hd.tag 3 [])) ∧
    (s.allocBusy a = false → exec (.colFree port w0 hd body) s =
      .next (State.serve { s with colAllocs := s.colAllocs.filter (fun x => x.num != a.num) } port w0 hd.tag 0 []))) ∧
  (∀ port w0 hd s, s.asked 10 0 port w0 hd [] = true →
    exec (.resetService port w0 hd []) s = .next (s.warmReset.serve port w0 hd.tag 0 []))

/-- Jobs and RDMA: a job is created with a free tag and the lowest free queue numbers, and destroyed by cancelling it, the
answer going out when all of it has ended (an event of its own, with 2 added to the port, log entry 50); a later request of the port
waits for that answer; a host reads and writes job memory by key, another key being refused
(spec/16 R384 R387). Where the
manual leaves a point open it follows the model (log entries 6 and 16). -/
def Obligations.JobsAndRdma : Prop :=
  (∀ port w0 hd body s, s.asked 1 0 port w0 hd body = true → body.length = 48 → bodyW body 7 = 0 → bodyD body 2 % 32 = 0 →
    bodyD body 2 + 32 * 4096 ≤ s.mix.gddr → bodyW body 6 ≤ s.freeQueues.length →
    (s.freeTag s.draw.1 = none → exec (.jobCreate port w0 hd body) s = .next (s.serve port w0 hd.tag 5 [])) ∧
    (∀ n, s.freeTag s.draw.1 = some n → ∃ key frame, ∃ t : State, exec (.jobCreate port w0 hd body) s =
        .next (t.serve port w0 hd.tag 0 (leBytes 4 n ++ leBytes 4 key ++ leBytes 8 frame)) ∧
      t.queues = s.draw.2.draw.2.draw.2.queues ++ ((s.freeQueues.take (bodyW body 6)).zipIdx.map (fun p =>
        { num := p.1, job := s.jobs.length, idx := p.2, taken := [], comps := [] })) ∧
      ∃ J, t.jobs = s.draw.2.draw.2.draw.2.jobs ++ [J] ∧ J.live = true ∧ J.tag = n ∧ J.root = bodyD body 0 ∧
        J.wtab = bodyD body 2 ∧ J.qtab = bodyD body 4 ∧ J.qcount = bodyW body 6 ∧ J.saveb = bodyD body 8 ∧ J.savel = bodyD body 10)) ∧
  (∀ port w0 hd body s j, s.jobOf (bodyW body 0) = some j →
    (s.asked 2 0 port w0 hd body = true → body.length = 4 → (s.job j).ending = none → exec (.jobDestroy port w0 hd body) s =
      .next ((s.cancelJob j none).modJob j (fun J => { J with ending := some (port, hd.tag) }))) ∧
    (port < 2 → s.owes port = true → exec (.jobDestroy port w0 hd body) s = idle s)) ∧
  (∀ port w0 hd body s j, s.up = true → s.jobEnding port hd.tag = some j → s.jobOver j = true →
    exec (.jobDestroy (port + 2) w0 hd body) s = .next ((s.endJob j).serve port 2#32 hd.tag 0 [])) ∧
  (∀ port key va len s, s.up = true → key ≠ s.cfgWord 18 → key ≠ s.cfgWord 19 →
    (s.jobs.findIdx? (fun J => J.live && J.key == key) = none →
      exec (.hostRdmaAccess port key va len none) s = .next (s.nak port)) ∧
    (∀ j, s.jobs.findIdx? (fun J => J.live && J.key == key) = some j →
      (∀ l t, s.rdmaRange j va false len = some (l, t) → (∀ pa ∈ l, t.serves pa = true) →
        exec (.hostRdmaAccess port key va len none) s = .next (t.reply port (l.map (fun pa => (t.peek pa 1).headD 0#8)))) ∧
      (∀ b l t, s.rdmaRange j va true b.length = some (l, t) → (∀ pa ∈ l, t.serves pa = true) →
        exec (.hostRdmaAccess port key va len (some b)) s = .next ((runs (l.zip b)).foldl (fun u r => u.poke r.1 r.2) t)) ∧
      (s.rdmaRange j va false len = none → exec (.hostRdmaAccess port key va len none) s = .next (s.nak port))))

/-- Boot: power-on starts a verified NOR image or runs the boot protocol over what power leaves; the protocol asks for an
image, takes the first offer that is not too long, accepts data at the acknowledged offset, verifies the whole image, starts it at
once or writes it to the NOR first, and gives up after ten seconds without a datagram; power-off leaves the NOR and the fuses, and
where it cuts a write short an image that does not verify; the watchdog and an error of firmware's own start a warm reset (spec/16
R388 R389 R394, spec/00 R10). That memory reads as zeros and the cores stand as at reset after power-on is the model's choice (log
entries 1 and 2), as is when a write to the NOR ends (log entry 50); where the manual leaves another point open it follows the model
(log entries 11, 28 and 29). -/
def Obligations.BootEvents : Prop :=
  (∀ (s : State) b, let t := s.powered b
    t.boot = b ∧ t.mem = [] ∧ t.cfg = State.reset.cfg ∧ t.cores = State.reset.cores ∧ t.groups = [] ∧ t.norImage = s.norImage ∧
      t.journal = s.journal ∧ t.chain = s.chain ∧ t.fuses = s.fuses) ∧
  (∀ (s : State), (s.boot = .off ∨ s.boot = .rom) →
    (∀ body, verified s.norImage = some body → exec .powerOn s = .next ((s.powered .rom).startImage body)) ∧
    (verified s.norImage = none →
      exec .powerOn s = .next { s.powered .rom with boot := .requesting (s.powered .rom).bootReason })) ∧
  (∀ (s : State) img body, s.boot = .storing img → verified img = some body →
    exec .powerOn s = .next (State.startImage { s with norImage := img } body)) ∧
  (∀ (s : State), s.boot ≠ .off → exec .powerOff s = .next (s.torn.powered .off)) ∧
  (∀ (s : State), ((∀ img, s.boot ≠ .storing img) → s.torn = s) ∧
    ∀ img, s.boot = .storing img → verified s.torn.norImage = none ∧ ∃ n, s.torn.norImage = img.take n) ∧
  (∀ (s : State), (∀ r, s.boot = .requesting r → s.bootNow = .requesting r) ∧
    ∀ host len store got last, s.boot = .receiving host len store got last →
      s.bootNow = if last + 10000000000 ≤ s.now then .requesting s.bootReason else s.boot) ∧
  (∀ (s : State) port dst typ val, ∃ seq, s.sendBoot port dst typ val =
    s.draw.2.emit (.boot port (linkLocal (Config.mac port)) dst [BitVec.ofNat 32 (typ % 256), seq] val)) ∧
  (∀ (s : State) r, s.bootNow = .requesting r →
    exec .bootReq s = .next ((s.sendBoot 0 (0xFF02 * 2 ^ 112 + 1) 1 r).sendBoot 1 (0xFF02 * 2 ^ 112 + 1) 1 r)) ∧
  (∀ host len store (s : State) r, s.bootNow = .requesting r →
    (len ≤ 64 * 2 ^ 20 → exec (.bootOffer host len store) s = .next { s with boot := .receiving host len store [] s.now }) ∧
    (64 * 2 ^ 20 < len → exec (.bootOffer host len store) s = .next (s.sendBoot (host % 2) (host / 2) 5 2))) ∧
  (∀ host off bytes (s : State) len store got last, s.bootNow = .receiving host len store got last →
    (off = got.length → 1 ≤ bytes.length → bytes.length ≤ 1024 → got.length + bytes.length ≤ len →
      let all := got ++ bytes
      let t : State := { s.sendBoot (host % 2) (host / 2) 4 all.length with boot := .receiving host len store all s.now }
      (all.length ≠ len → exec (.bootData host off bytes) s = .next t) ∧
      (all.length = len → (verified all = none → exec (.bootData host off bytes) s =
          .next (State.sendBoot { t with boot := .requesting t.bootReason } (host % 2) (host / 2) 5 1)) ∧
        (∀ body, verified all = some body → exec (.bootData host off bytes) s =
          .next (if store then { t.sendBoot (host % 2) (host / 2) 5 0 with boot := .storing all }
            else (t.sendBoot (host % 2) (host / 2) 5 0).startImage body)))) ∧
    (off ≠ got.length → exec (.bootData host off bytes) s =
      .next { s.sendBoot (host % 2) (host / 2) 4 got.length with boot := .receiving host len store got s.now })) ∧
  (∀ (s : State) host len store got last, s.boot = .receiving host len store got last → last + 10000000000 ≤ s.now →
    exec .bootTransferTimeout s = .next { s with boot := .requesting s.bootReason }) ∧
  (∀ (s : State), s.up = true → exec .watchdogExpiry s = .next s.warmReset ∧
    exec .firmwareUncorrectableError s = .next s.warmReset)

/-- Repair and link events: a verified column turns Ready, its die repaired with the last of twelve and the die table
published; after a replay the repairs that it found are applied and appended, and a waiting DARN_APPLY is answered; a failed
data TSV outside lanes 0 to 15 gets a patch lane of the bus of its physical core; a core is retired in both copies of the
record; a flit that needs resending is a corrected error of its link, the eighth failure an event of its own, and one more poisons;
more than 1,024 corrected errors of a unit within a second schedule its repair (spec/05 R157, spec/16 R390 to R393 R395 R396). Where the manual leaves a point open it
follows the model (log entry 29). -/
def Obligations.RepairEvents : Prop :=
  (∀ core (s : State), s.columns.getD core .notReady = .replaying →
    let c := s.columns.set core .ready
    let d := core / 12
    let t := if (List.range 12).all (fun i => c.getD (12 * d + i) .notReady == .ready) then
        State.publish { s with columns := c, dies := s.dies.modify d (fun x => { x with rpr := 2 }) } else { s with columns := c }
    exec (.columnReady core) s = .next t.afterReplay) ∧
  (∀ (s : State), (s.inReplay = true → s.afterReplay = s) ∧
    (s.inReplay = false → (∀ e ∈ s.found, (e.getD 0 0#32).toNat % 16 ≠ 1) →
      let t : State := { s with found := [], rowset := s.rowset ++ s.found, journal := s.journal ++ s.found, softRepair := s.softRepair ++ s.found }
      (s.darnReply = none → s.afterReplay = t) ∧
      (∀ port w0 tag, s.darnReply = some (port, w0, tag) → s.afterReplay = State.serve { t with darnReply := none } port w0 tag 0 []))) ∧
  (∀ core vault (s : State), s.up = true → s.corePresent core = true → shading core = true → vault < 16 →
    s.columns.getD core .notReady ≠ .notReady →
    exec (.backgroundTest core vault none) s = .next s ∧
    (∀ tsv lane, let unit := s.physical core * 16 + vault
      let head := BitVec.ofNat 32 (3 + 2 ^ 4 * (core / 12) + 2 ^ 9 * unit)
      16 ≤ tsv → tsv < 128 → lane < 8 →
      (∀ e ∈ s.darn ++ s.found, e.getD 0 0#32 &&& ~~~0x1000000#32 ≠ head ∨ (e.getD 2 0#32).toNat ≠ lane) →
      s.darn.length + s.found.length < 4096 →
      let e := [head, BitVec.ofNat 32 tsv, BitVec.ofNat 32 lane, 0#32]
      (s.inReplay = false → exec (.backgroundTest core vault (some (tsv, lane))) s = .next { s with
        rowset := s.rowset ++ [e], journal := s.journal ++ [e], softRepair := s.softRepair ++ [e] }) ∧
      (s.inReplay = true → exec (.backgroundTest core vault (some (tsv, lane))) s = .next { s with found := s.found ++ [e] }))) ∧
  (∀ core (s : State), s.up = true → shading core = true → s.corePresent core = true → (s.core core).retiring = false →
    (∀ e ∈ s.darn ++ s.found, (e.getD 0 0#32).toNat % 512 ≠ 1 + 16 * (core / 12)) → s.darn.length + s.found.length < 4096 →
    s.inReplay = false →
    let e := [BitVec.ofNat 32 (1 + 2 ^ 4 * (core / 12) + 2 ^ 9 * (core % 12)), BitVec.ofNat 32 (core % 12), 12#32, 0#32]
    exec (.coreRetirement core) s = .next (State.modCore { s with rowset := s.rowset ++ [e], journal := s.journal ++ [e] } core
      (fun c => { c with retiring := true }))) ∧
  (∀ die link addr n (s : State), s.diePresent die = true → link < 2 ^ 16 →
    let unit := unitNo kindLink link
    (1 ≤ n → n < 8 → exec (.linkFlitError die link addr n) s = .next (s.correctedError die unit addr)) ∧
    exec (.linkFlitError die link addr 8) s = .next (s.errEvent die unit addr 2) ∧
    (8 < n → let t := (s.errEvent die unit addr 2).errEvent die unit addr 1
      exec (.linkFlitError die link addr n) s = .next { t with memP := mark t.memP addr })) ∧
  (∀ die unit addr (s : State), let t := s.errEvent die unit addr 0
    let old := ((t.corrected.find? (fun x => x.1 == die && x.2.1 == unit)).map (fun x => x.2.2)).getD []
    let n := (old.filter (fun x => decide (t.now < x + 1000000000))).length + 1
    (1024 < n → (die, unit) ∈ (s.correctedError die unit addr).repairDue) ∧
    (n ≤ 1024 → (s.correctedError die unit addr).repairDue = t.repairDue) ∧ (s.correctedError die unit addr).errRing = t.errRing)

/-- Clocks, heat, power, time and ports: targets move within 800 MHz to 2.7 GHz in steps of 25 MHz, lowered together while
the mean power of ten measurements is over the limit; a sample raises the refresh class at once, slows the core where the new class
takes more vault time than is committed, and holds the clock at 120 degrees; a class falls by one after 64 ms, which ends the
slowing; the groups of a core bear the exact shares of its charge; the time record takes what PTP measured; the rate of a queue pair
is lowered and never above its port's; channels change as told
(spec/06 R171, spec/14 R364 R368 R369 R372 R373 R422, spec/16 R383 R385). Where the
manual leaves a point open it follows the model (log entries 29 and 51). -/
def Obligations.ClimateEvents : Prop :=
  (∀ r mhz (s : State), s.up = true → r < 145 → 800 ≤ mhz → mhz ≤ 2700 → mhz % 25 = 0 →
    exec (.clockTargetUpdate r mhz) s = .next (s.setTarget r mhz) ∧ (s.setTarget r mhz).target r = mhz ∧
      ∀ r', r' ≠ r → (s.setTarget r mhz).target r' = s.target r') ∧
  (∀ w (s : State), s.up = true →
    let log := (s.powerLog ++ [w]).drop (s.powerLog.length - 9)
    let sum := log.foldl (· + ·) 0
    let low := if 100 * sum ≤ 95 * s.powerLimit * log.length then s.powerLow + 1 else 0
    let t : State := { s with powerLog := log, powerLow := low }
    (s.powerLimit * log.length < sum → exec (.powerMeasure w) s = .next (t.allTargets (fun f => max 800 (f - 25)))) ∧
    (sum ≤ s.powerLimit * log.length → 100 ≤ low → exec (.powerMeasure w) s = .next (t.allTargets (fun f => min 2700 (f + 25)))) ∧
    (sum ≤ s.powerLimit * log.length → low < 100 → exec (.powerMeasure w) s = .next t)) ∧
  (∀ core mc (s : State), s.corePresent core = true → exec (.tempSample core mc) s = .next (s.modCore core (fun c =>
    let k := if shading core then max c.rclass (classAbove (mc * 256)) else 0
    { c with
      temp := mc, rclass := k, below := belowSince k mc (if k = c.rclass then c.below else none) s.now
      held := if c.held then decide (110000 < mc) else decide (120000 ≤ mc)
      slowed := c.slowed || (decide (c.rclass < k) && decide (256000 < vaultTime k * 256 + s.committed core)) }))) ∧
  (∀ core (s : State) t, (s.core core).below = some t → 0 < (s.core core).rclass → t + 64000000 ≤ s.now →
    exec (.refreshClassFall core) s = .next (s.modCore core (fun c => { c with
      rclass := c.rclass - 1, below := belowSince (c.rclass - 1) c.temp none s.now, slowed := false }))) ∧
  (∀ core vault (s : State), s.corePresent core = true → shading core = true → vault < 16 →
    exec (.refreshBurst core vault) s = .next s) ∧
  (∀ core (s : State), s.up = true → s.corePresent core = true → shading core = true →
    let gs := s.groupsOn core
    let charge := vaultTime (s.core core).rclass - 30
    let bg := fun (G : Machine.Group) => (s.launch G.launch).refb
    let sum := (gs.map bg).foldl (· + ·) 0
    let t := gs.foldl (fun t G => t.modLaunch G.launch (fun L => { L with
      charge := fracAdd L.charge (if sum = 0 then (charge, gs.length) else (charge * L.refb, sum)) })) s
    ((s.core core).slowed = false → exec (.refreshCharge core) s = .next t) ∧
    ((s.core core).slowed = true → exec (.refreshCharge core) s =
      .next (t.setTarget (t.regionOf core) (max 800 (t.target (t.regionOf core) - 25))))) ∧
  (∀ x y : Nat × Nat, 0 < x.2 → 0 < y.2 →
    (fracAdd x y).1 * (x.2 * y.2) = (x.1 * y.2 + y.1 * x.2) * (fracAdd x y).2 ∧ 0 < (fracAdd x y).2) ∧
  (∀ port off err rate locked (s : State), s.up = true → port < 2 → -2147483 ≤ rate.toInt → rate.toInt ≤ 2147483 → err.toNat < 50 →
    let lock := ((s.cfgWord 10).extractLsb' 0 2).toNat
    let t := fun (u : State) (l : Nat) => ((u.cfgSet 10 (BitVec.ofNat 32 (l + 4 * port))).cfgSet 11 err).cfgSet 12 rate
    (locked = true → lock ≠ 2 → exec (.ptpMessage port off err rate locked) s =
      .next (t ((s.cfgSet 8 (lo32 off)).cfgSet 9 (hi32 off)) 2)) ∧
    (lock = 2 → exec (.ptpMessage port off err rate locked) s = .next (t s 2)) ∧
    (locked = false → lock ≠ 2 → exec (.ptpMessage port off err rate locked) s = .next (t s 1))) ∧
  (∀ (s : State), s.up = true → (s.cfgWord 10).extractLsb' 0 2 = 2#2 → exec .ptpHoldover s = .next (s.cfgSet 10 (s.cfgWord 10 ||| 3#32))) ∧
  (∀ core big frame (s : State), s.up = true → shading core = true →
    let w := ringWord core big
    let n := if big then 32 * 2 ^ 20 else 16384
    let t := s.layRing w
    columnOf frame = some core → frame % n = 0 → s.inPool frame n = true → s.serves frame = true →
    (t.cfgWord (w + 3) - t.cfgWord (w + 2)).toNat < 2 ^ t.ringLog w →
    let u := t.drain frame n
    exec (.frameRingFill core big frame) s = .next (((State.poke64 { u with
        mem := cellClear u.mem frame (frame + n), memP := unmark u.memP frame n } (u.ringSlot w (t.cfgWord (w + 3))) (BitVec.ofNat 64 frame)).cfgSet
      (w + 3) (t.cfgWord (w + 3) + 1#32)))) ∧
  (∀ qp rate (s : State), s.up = true → qp < 8192 →
    s.qpRate qp ≤ portRate (s.rates.getD (qp / 4096) 0) ∧
    (rate < s.qpRate qp →
      let t : State := { s with qpRates := (qp, rate) :: s.qpRates.filter (fun x => x.1 % 4096 != qp % 4096) }
      exec (.congestionNotification qp rate) s = .next t ∧ t.qpRate qp = rate ∧
        ∀ other, other % 4096 = qp % 4096 → t.qpRate other ≤ rate)) ∧
  (∀ port sec (s : State), s.up = true → port < 2 → exec (.mkaKeyAgreement port sec) s = .next { s with secured := s.secured.set port sec })

/-- A step runs what comes next: the event at the head of the agenda; at an issue opportunity, the instruction that the
split which is first in order gives, a group 13 word when no partition before its own at the mangle's pointer asks for the
mangle, and the decoder reads in its slot; a bundle held by the instruction cache gives the
word of the split's slot, with its literal (spec/01 R13 R21, spec/03 R92 to R94). The agenda is the model's own (log
entry 3). -/
def Obligations.StepRuns : Prop :=
  (∀ s i rest, s.agenda = .event i :: rest → step s = exec i { s with cur := none, stalled := none, agenda := rest }) ∧
  (∀ (s : State) core part rest g w sp sps xs c i t u, s.agenda = .issue core part :: rest →
    let b := State.clock { s with cur := none, stalled := none, agenda := rest }
    (b.core core).held = false → b.candidates core part = (g, w, sp :: sps) :: xs → b.before g w sp = (.cur c, t) →
    (mangleWord c.insn = false ∨ t.mangleElse g w = false) → decode c.insn = .ok i → exec i { t with cur := some c, stalled := none } = .next u → u.stalled = none →
    step s = .next { u.chosen b ((g, w, sp :: sps) :: xs) g w sp with cur := none, stalled := none }) ∧
  (∀ (s : State) core part rest g w sp sps xs c e t, s.agenda = .issue core part :: rest →
    let b := State.clock { s with cur := none, stalled := none, agenda := rest }
    (b.core core).held = false → b.candidates core part = (g, w, sp :: sps) :: xs → b.before g w sp = (.cur c, t) →
    (mangleWord c.insn = false ∨ t.mangleElse g w = false) → decode c.insn = .error e →
    let u := (State.noInstruction { t with cur := some c, stalled := none }).boundary c.g
    u.stalled = none → step s = .next { u.chosen b ((g, w, sp :: sps) :: xs) g w sp with cur := none, stalled := none }) ∧
  (∀ (s : State) g w sp (G : Machine.Group) (wv : Wave) ws, s.groups[g]? = some G → G.waves[w]? = some wv →
    let e := wv.entry sp
    s.cstoreHolds g w sp = false → s.bundle? G.core (s.job G.job).tag e.pc = some ws → badBundle ws = false → litSlot (ws.getD 0 0#32) e.slot = false →
    dueStop (s.core G.core).dbg.own e (ws.getD 0 0#32) = none →
    s.before g w sp = (.cur { g := g, w := w, sp := sp, pc := e.pc, slot := e.slot, words := ws
                              lit := if litSlot (ws.getD 0 0#32) (e.slot + 1) then some (ws.getD (e.slot + 1) 0#32) else none
                              insn := ws.getD e.slot 0#32 }, s))

/-- Words written out from the encoding tables decode to the instructions they stand for, one or more of every form, and
reserved groups, functions and kinds are refused by name (spec/01 R21 to R28 R38 R39 R42). -/
def Obligations.DecodedWords : Prop :=
  decode (0b1#1 ++ 0b1110#4 ++ 0b000010#6 ++ 0b0010101#7 ++ 0b0000000#7 ++ 0b1001010#7) = .ok (.sysrd 21#7 74#7) ∧
  decode (0b1#1 ++ 0b0000#4 ++ 0b000000#6 ++ 0b1001010#7 ++ 0b0100011#7 ++ 0b0011100#7) = .ok (.iadd true 74#7 35#7 28#7) ∧
  decode (0b1#1 ++ 0b0000#4 ++ 0b100001#6 ++ 0b1001010#7 ++ 0b0100011#7 ++ 0b0011100#7) = .ok (.isubI true 74#7 35#7 28#7) ∧
  decode (0b0#1 ++ 0b0001#4 ++ 0b000000#6 ++ 0b0010101#7 ++ 0b1001010#7 ++ 0b0100011#7) = .ok (.paddH2 21#7 74#7 35#7) ∧
  decode (0b0#1 ++ 0b0001#4 ++ 0b100000#6 ++ 0b0010101#7 ++ 0b1001010#7 ++ 0b0100011#7) = .ok (.paddH2I 21#7 74#7 35#7) ∧
  decode (0b1#1 ++ 0b0010#4 ++ 0b000000#6 ++ 0b1001010#7 ++ 0b0100011#7 ++ 0b0011100#7) = .ok (.fadd true 74#7 35#7 28#7) ∧
  decode (0b1#1 ++ 0b0010#4 ++ 0b000111#6 ++ 0b1001010#7 ++ 0b0100011#7 ++ 0b0000000#7) = .ok (.fneg true 74#7 35#7) ∧
  decode (0b1#1 ++ 0b0011#4 ++ 0b000000#6 ++ 0b1001010#7 ++ 0b0100011#7 ++ 0b0011100#7) = .ok (.dadd true 74#7 35#7 28#7) ∧
  decode (0b1#1 ++ 0b0011#4 ++ 0b000101#6 ++ 0b1001010#7 ++ 0b0100011#7 ++ 0b0011100#7) = .ok (.dmax true 74#7 35#7 28#7) ∧
  decode (0b1#1 ++ 0b0100#4 ++ 0b000000#6 ++ 0b1001010#7 ++ 0b0100011#7 ++ 0b0011100#7) = .ok (.icmpIEq true 74#7 35#7 28#7) ∧
  decode (0b1#1 ++ 0b0100#4 ++ 0b010001#6 ++ 0b1001010#7 ++ 0b0100011#7 ++ 0b0011100#7) = .ok (.fcmpOrd true 74#7 35#7 28#7) ∧
  decode (0b1#1 ++ 0b0100#4 ++ 0b011101#6 ++ 0b0010101#7 ++ 0b1001010#7 ++ 0b0100011#7) = .ok (.candn 21#7 74#7 35#7) ∧
  decode (0b0#1 ++ 0b0101#4 ++ 0b000000#6 ++ 0b0010101#7 ++ 0b1001010#7 ++ 0b0100011#7) = .ok (.f2iI 21#7 74#7 35#7) ∧
  decode (0b0#1 ++ 0b0101#4 ++ 0b001000#6 ++ 0b0010101#7 ++ 0b1001010#7 ++ 0b0100011#7) = .ok (.f2h2 21#7 74#7 35#7) ∧
  decode (0b1#1 ++ 0b0101#4 ++ 0b000011#6 ++ 0b0010101#7 ++ 0b1001010#7 ++ 0b0100011#7) = .ok (.wrlane 21#7 74#7 35#7) ∧
  decode (0b0#1 ++ 0b0110#4 ++ 0b000000#6 ++ 0b0010101#7 ++ 0b1001010#7 ++ 0b0100011#7) = .ok (.shfl 21#7 74#7 35#7) ∧
  decode (0b0#1 ++ 0b0110#4 ++ 0b000110#6 ++ 0b0010101#7 ++ 0b1001010#7 ++ 0b0100011#7) = .ok (.bcast 21#7 74#7 35#7) ∧
  decode (0b0#1 ++ 0b0111#4 ++ 0b000000#6 ++ 0b0010101#7 ++ 0b1001010#7 ++ 0b0000000#7) = .ok (.rcp 21#7 74#7) ∧
  decode (0b0#1 ++ 0b0111#4 ++ 0b000101#6 ++ 0b0010101#7 ++ 0b1001010#7 ++ 0b0000000#7) = .ok (.sin 21#7 74#7) ∧
  decode (0b1#1 ++ 0b1000#4 ++ 0b000000#6 ++ 0b1001010#7 ++ 0b0100011#7 ++ 0b1000110#7) = .ok (.ldlN8 true 74#7 35#7 4#3 6#4) ∧
  decode (0b1#1 ++ 0b1000#4 ++ 0b001011#6 ++ 0b1001010#7 ++ 0b0100011#7 ++ 0b1000110#7) = .ok (.stl128 true 74#7 35#7 4#3 6#4) ∧
  decode (0b1#1 ++ 0b1001#4 ++ 0b000000#6 ++ 0b1001010#7 ++ 0b0100011#7 ++ 0b1000110#7) = .ok (.ldgN8 true 74#7 35#7 4#3 6#4) ∧
  decode (0b1#1 ++ 0b1001#4 ++ 0b010000#6 ++ 0b1001010#7 ++ 0b0100011#7 ++ 0b1000110#7) = .ok (.atgOr true 74#7 35#7 4#3 6#4) ∧
  decode (0b0#1 ++ 0b1010#4 ++ 0b000010#6 ++ 0b0010101#7 ++ 0b1001010#7 ++ 0b0100011#7) = .ok (.texrq 21#7 74#7 35#7) ∧
  decode (0b0#1 ++ 0b1011#4 ++ 0b000011#6 ++ 0b0010101#7 ++ 0b0000000#7 ++ 0b0000000#7) = .ok (.rayhit 21#7) ∧
  decode (0b0#1 ++ 0b1100#4 ++ 0b000001#6 ++ 0b0010101#7 ++ 0b1001010#7 ++ 0b0100011#7) = .ok (.nevalH 21#7 74#7 35#7) ∧
  decode (0b0#1 ++ 0b1101#4 ++ 0b000000#6 ++ 0b0010101#7 ++ 0b1001010#7 ++ 0b0100011#7) = .ok (.xsortI 21#7 74#7 35#7) ∧
  decode (0b0#1 ++ 0b1101#4 ++ 0b000111#6 ++ 0b0010101#7 ++ 0b1001010#7 ++ 0b0000000#7) = .ok (.xredAddF 21#7 74#7) ∧
  decode (0b1#1 ++ 0b0110#4 ++ 0b000001#6 ++ 0b0000000#7 ++ 0b0010101#7 ++ 0b1001010#7) = .ok (.qfence 21#7 74#7) ∧
  decode (0b1#1 ++ 0b0111#4 ++ 0b000000#6 ++ 0b0000000#7 ++ 0b0010101#7 ++ 0b0000000#7) = .ok (.mloadw 21#7) ∧
  decode (0b1#1 ++ 0b0111#4 ++ 0b000101#6 ++ 0b0010101#7 ++ 0b0000000#7 ++ 0b0000000#7) = .ok (.mstat 21#7) ∧
  decode (0b1#1 ++ 0b1010#4 ++ 0b000000#6 ++ 0b0010101#7 ++ 0b1001010#7 ++ 0b0100011#7) = .ok (.binit 21#7 74#7 35#7) ∧
  decode (0b1#1 ++ 0b1010#4 ++ 0b000110#6 ++ 0b0010101#7 ++ 0b1001010#7 ++ 0b0000000#7) = .ok (.bdrop 21#7 74#7) ∧
  decode (0b1#1 ++ 0b1011#4 ++ 0b000000#6 ++ 0b0010101#7 ++ 0b0000000#7 ++ 0b0000000#7) = .ok (.getwork 21#7) ∧
  decode (0b1#1 ++ 0b1011#4 ++ 0b000101#6 ++ 0b0010101#7 ++ 0b1001010#7 ++ 0b0000000#7) = .ok (.emitvp 21#7 74#7) ∧
  decode (0b1#1 ++ 0b1100#4 ++ 0b011000#6 ++ 0b0001011#7 ++ 0b0101011#7 ++ 0b0100011#7) = .ok (.call 185763#21) ∧
  decode (0b1#1 ++ 0b1101#4 ++ 0b000000#6 ++ 0b0000000#7 ++ 0b0010101#7 ++ 0b0000000#7) = .ok (.jmpr 21#7) ∧
  decode (0b1#1 ++ 0b1101#4 ++ 0b000101#6 ++ 0b0000000#7 ++ 0b0000000#7 ++ 0b0000000#7) = .ok (.exitSplit) ∧
  (∀ (f : BitVec 6) (d a b : BitVec 7),
    decode (0b0#1 ++ 0b1110#4 ++ f ++ d ++ a ++ b) = .error .reservedGroup ∧
    decode (0b0#1 ++ 0b1111#4 ++ f ++ d ++ a ++ b) = .error .reservedGroup ∧
    decode (0b1#1 ++ 0b0001#4 ++ f ++ d ++ a ++ b) = .error .reservedGroup ∧
    decode (0b1#1 ++ 0b1111#4 ++ f ++ d ++ a ++ b) = .error .reservedGroup) ∧
  (∀ (d a b : BitVec 7), decode (0b0#1 ++ 0b0000#4 ++ 0b111111#6 ++ d ++ a ++ b) = .error .reservedFunction ∧
    decode (0b1#1 ++ 0b1110#4 ++ 0b001000#6 ++ d ++ a ++ b) = .error .reservedFunction) ∧
  (∀ (c : BitVec 3) (d a b : BitVec 7), decode (0b1#1 ++ 0b1100#4 ++ (0b110#3 ++ c) ++ d ++ a ++ b) = .error .reservedKind ∧
    decode (0b1#1 ++ 0b1100#4 ++ (0b111#3 ++ c) ++ d ++ a ++ b) = .error .reservedKind) ∧
  (∀ (u : Bool) (d a b : BitVec 7), b ≠ 0#7 →
    decode (BitVec.ofBool u ++ 0b0000#4 ++ 0b010001#6 ++ d ++ a ++ b) = .error .mustBeZero)

/-- Encoding loses nothing: the word of every instruction decodes to it, with every field at every value that it has room
for (spec/01 R21 to R28 R38 R39, spec/04 R107). -/
def Obligations.DecodeOfEncode : Prop := ∀ i : Instr, Laws.RoundTrip.Statement i

/-- Decoding is unambiguous: a word that decodes is the word of the instruction that it decodes to, so that no bit of a
word is ignored; every other word is refused (spec/01 R21 R42). -/
def Obligations.EncodeOfDecode : Prop := ∀ w i, decode w = .ok i → encode i = some w

/-- Causes found at issue, before any effect: a word that breaks a rule of its fields raises `ILLEGAL_INSN`, a function of trap
level outside it raises `PRIV`, one of a unit that the core has not raises `UNIT_ABSENT`. Of the register instructions of groups 0 to
4 with two sources: a register outside the allocation and a literal beside a field B that is not 0 raise `ILLEGAL_INSN`, a source
with a poison mark `POISON`, in a record for each lane, and a touch of the destination of an open lookahead window
`LOOKAHEAD_BREACH` when sr.strict is 1: the wave takes the trap, or its group ends. `NOP` runs at every level. Without sr.strict an
integer function of group 0 that touches one runs, and the touch is recorded in LBR, as it runs while windows are open that it does
not touch (spec/00 R4, spec/01 R29 R32 R40 R42 R43, spec/03 R78 R97 R100). That a touch inside the count of a window is a breach also
where the result is there already, and which cause comes first where several meet, are the model's choice (log entries 52 and 34). -/
def Obligations.IllFormedTraps : Prop :=
  (∀ p ∈ unitFns, ∀ d a b s c, (p.1 d a b).illFormed = none → s.ctx? = some c → (c.cur.lit = none ∨ b = 0#7) →
    inAlloc c (used c (p.2.2 c d a b)) = true → runsOn p.2.1 s c.grp.core = false →
    exec (p.1 d a b) s = .next (atIssue s c [c.splitRec cUnitAbsent])) ∧
  (∀ p ∈ sourceFns, ∀ u d a b s c, (u = false ∨ p.2.1 = true) → (p.1 u d a b).illFormed = none → s.ctx? = some c →
    let uses := p.2.2 u d a b
    let bad := fun i => poisoned c uses i
    (((c.cur.lit ≠ none ∧ b ≠ 0#7) ∨ inAlloc c (used c uses) = false) →
      exec (p.1 u d a b) s = .next (atIssue s c [c.splitRec cIllegalInsn])) ∧
    (Unheld s c b uses →
      (Breach c uses → c.wave.sr.strict = true → exec (p.1 u d a b) s = .next (atIssue s c [c.splitRec cLookahead])) ∧
      ((¬Breach c uses ∨ c.wave.sr.strict = false) →
        ((u = true ∧ bad 0 = true) → exec (p.1 u d a b) s = .next (atIssue s c [c.splitRec cPoison])) ∧
        (u = false → (∃ i ∈ c.lanes, bad i = true) → exec (p.1 u d a b) s = .next (atIssue s c
          ((c.lanes.filter bad).map (fun i => c.laneRec i false (Flt.plain cPoison 0#64)))))))) ∧
  (∀ p ∈ intFns, ∀ u d a b s c, Unheld s c b [rdR u a, rdB u b, wrR u d] →
    let uses := [rdR u a, rdB u b, wrR u d]
    let sum := onWave c (results c u d (pure1 fun i => p.2 (c.A u a i) (c.B u b i)))
    (∀ i ∈ (if u then [0] else c.lanes), poisoned c uses i = false) →
      (Breach c uses → c.wave.sr.strict = false →
        exec (p.1 u d a b) s = .next (after s c fun t => sum (onWave c (fun wv => wv.setSticky stickyLBR) t))) ∧
      (¬Breach c uses → exec (p.1 u d a b) s = .next (after s c sum))) ∧
  ∀ i w s c, encode i = some w → s.ctx? = some c →
    let atTrap := c.wave.trapLevel c.cur.sp
    let t := fun cause => atIssue s c [c.splitRec cause]
    (trapLevelOnly i = true → atTrap = false → exec i s = .next (t cPriv)) ∧
    (∀ m, i.illFormed = some m → (trapLevelOnly i = false ∨ atTrap = true) → exec i s = .next (t cIllegalInsn)) ∧
    exec .nop s = .next ((State.finish (reached s c) c { uni := true, nop := true } .next).boundary c.cur.g)

/-- What register instructions leave as it was. The integer, packed, float, double and half instructions in every form and the
conversions change nothing of the device but the destination registers of their active lanes (or their uniform destination),
sr.sticky where flags are raised, the generators of its active lanes for `CVTN`, and their split's place; compares, mask logic
and moves of masks change only the mask or condition they name (spec/02 R60, spec/04 R108 R117 to R129 R138 R139). A group that is being cancelled or flushed may end with the instruction instead. -/
def Obligations.RegisterFrame : Prop :=
  (∀ p ∈ intFns, ∀ u d a b s c t, Steady c → Runs s c b [rdR u a, rdB u b, wrR u d] →
    exec (p.1 u d a b) s = .next t → RegFrame s t c u d 1) ∧
  (∀ p ∈ intFns3, ∀ u d a b s c t, Steady c → Runs s c b [rdR u a, rdB u b, rdR u d, wrR u d] →
    exec (p.1 u d a b) s = .next t → RegFrame s t c u d 1) ∧
  (∀ p ∈ intFns1, ∀ u d a s c t, Steady c → Runs s c 0#7 [rdR u a, wrR u d] → exec (p.1 u d a) s = .next t → RegFrame s t c u d 1) ∧
  (∀ p ∈ immFns, ∀ u d a i s c t, Steady c → Runs s c 0#7 [rdR u a, wrR u d] →
    exec (p.1 u d a i) s = .next t → RegFrame s t c u d 1) ∧
  (∀ u n d a b s c t, Steady c → Runs s c b [rdR u a, rdB u b, wrR u d] → exec (.sel u n d a b) s = .next t → RegFrame s t c u d 1) ∧
  (∀ u d b s c t, Steady c → Runs s c b [rdB u b, wrR u d] → exec (.mov u d b) s = .next t → RegFrame s t c u d 1) ∧
  (∀ u d a b s c t, Steady c → d.toNat % 2 = 0 → Runs s c b [rdR u a, rdB u b, wrR u d 2] →
    (exec (.imulwI u d a b) s = .next t ∨ exec (.imulwN u d a b) s = .next t) → RegFrame s t c u d 2) ∧
  (∀ p ∈ packFns, ∀ d a b s c t, Steady c → Runs s c b ([rdV a, rdB false b, wrV d] ++ (if p.2.1 then [rdV d] else [])) →
    exec (p.1 d a b) s = .next t → RegFrame s t c false d 1) ∧
  (∀ p ∈ floatFns, ∀ u d a b s c t, Steady c →
    Runs s c b ([rdR u a, rdB u b, wrR u d] ++ (if p.2.1 then [rdR u d] else [])) →
    noTrap c u (fun i => out32 (p.2.2 c.wave.rm (c.A u d i).toNat (c.A u a i).toNat (c.B u b i).toNat)) = true →
    exec (p.1 u d a b) s = .next t → RegFrame s t c u d 1) ∧
  (∀ p ∈ doubleFns, ∀ u d a b s c t, Steady c → d.toNat % 2 = 0 → a.toNat % 2 = 0 → b.toNat % 2 = 0 →
    Runs s c b ([rdR u a 2, rdB u b 2, wrR u d 2] ++ (if p.2.1 then [rdR u d 2] else [])) →
    noTrap c u (fun i => out64 (p.2.2 c.wave.rm (c.A64 u d i).toNat (c.A64 u a i).toNat (c.BD u b i).toNat)) = true →
    exec (p.1 u d a b) s = .next t → RegFrame s t c u d 2) ∧
  (∀ p ∈ immFns3, ∀ u d a i s c t, Steady c → Runs s c 0#7 [rdR u a, rdR u d, wrR u d] →
    exec (p.1 u d a i) s = .next t → RegFrame s t c u d 1) ∧
  (∀ u d i s c t, Steady c → Runs s c 0#7 [wrR u d] → exec (.movi u d i) s = .next t → RegFrame s t c u d 1) ∧
  (∀ u d a b s c t, Steady c → d.toNat % 2 = 0 → a.toNat % 2 = 0 → b.toNat % 2 = 0 → Runs s c b [rdR u a 2, rdB u b 2, wrR u d 2] →
    (exec (.iadd64 u d a b) s = .next t ∨ exec (.isub64 u d a b) s = .next t) → RegFrame s t c u d 2) ∧
  (∀ p ∈ packImmFns, ∀ d a i s c t, Steady c → Runs s c 0#7 ([rdV a, wrV d] ++ (if p.2.2.1 then [rdV d] else [])) →
    exec (p.1 d a i) s = .next t → RegFrame s t c false d 1) ∧
  (∀ p ∈ halfFns, ∀ d a b s c t, Steady c → Runs s c b ([rdV a, rdB false b, wrV d] ++ (if p.2.1 then [rdV d] else [])) →
    noTrap c false (fun i => halves (fun h =>
      p.2.2 c.wave.rm (half (c.A false d i) h) (half (c.A false a i) h) (half (c.B false b i) h))) = true →
    exec (p.1 d a b) s = .next t → RegFrame s t c false d 1) ∧
  (∀ u d a s c t, Steady c → Runs s c 0#7 [rdR u a, wrR u d] →
    (exec (.fabs u d a) s = .next t ∨ exec (.fneg u d a) s = .next t) → RegFrame s t c u d 1) ∧
  (∀ u d a s c t, Steady c → d.toNat % 2 = 0 → a.toNat % 2 = 0 → Runs s c 0#7 [rdR u a 2, wrR u d 2] →
    (exec (.dabs u d a) s = .next t ∨ exec (.dneg u d a) s = .next t) → RegFrame s t c u d 2) ∧
  (∀ d a s c t, Steady c → Runs s c 0#7 [rdV a, wrV d] → exec (.fclass d a) s = .next t → RegFrame s t c false d 1) ∧
  (∀ d a s c t, Steady c → a.toNat % 2 = 0 → Runs s c 0#7 [rdV a 2, wrV d] → exec (.dclass d a) s = .next t → RegFrame s t c false d 1) ∧
  (∀ d a r s c t, Steady c → r.toNat < 5 → Runs s c 0#7 [rdV a, wrV d] →
    noTrap c false (fun i => out32 (f32.integral (c.code r) (c.A false a i).toNat)) = true →
    exec (.frnd d a r) s = .next t → RegFrame s t c false d 1) ∧
  (∀ d a r s c t, Steady c → d.toNat % 2 = 0 → a.toNat % 2 = 0 → r.toNat < 5 → Runs s c 0#7 [rdV a 2, wrV d 2] →
    noTrap c false (fun i => out64 (f64.integral (c.code r) (c.A64 false a i).toNat)) = true →
    exec (.drnd d a r) s = .next t → RegFrame s t c false d 2) ∧
  (∀ p ∈ cvtCodeFns, ∀ d a r s c t, Steady c → r.toNat < 5 → Runs s c 0#7 [rdV a, wrV d] →
    noTrap c false (fun i => p.2 (c.code r) (c.A false a i).toNat) = true →
    exec (p.1 d a r) s = .next t → RegFrame s t c false d 1) ∧
  (∀ p ∈ cvtFns, ∀ d a s c t, Steady c → Runs s c 0#7 [rdV a, wrV d] →
    noTrap c false (fun i => out32 (p.2 c.wave.rm (c.A false a i).toNat)) = true →
    exec (p.1 d a) s = .next t → RegFrame s t c false d 1) ∧
  (∀ p ∈ narrowFns, ∀ d a b s c t, Steady c → Runs s c b [rdV a, rdB false b, wrV d] →
    noTrap c false (fun i => halves (fun h =>
      f32.convert p.2 c.wave.rm (if h = 0 then c.A false a i else c.B false b i).toNat)) = true →
    exec (p.1 d a b) s = .next t → RegFrame s t c false d 1) ∧
  (∀ d a s c t, Steady c → d.toNat % 2 = 0 → Runs s c 0#7 [rdV a, wrV d 2] →
    (noTrap c false (fun i => out64 (f32.convert f64 .rne (c.A false a i).toNat)) = true →
      exec (.f2d d a) s = .next t → RegFrame s t c false d 2) ∧
    (noTrap c false (fun i => out64 (f64.ofInt .rne (c.A false a i).toInt)) = true →
      exec (.i2dI d a) s = .next t → RegFrame s t c false d 2)) ∧
  (∀ d a s c t, Steady c → a.toNat % 2 = 0 → Runs s c 0#7 [rdV a 2, wrV d] →
    noTrap c false (fun i => out32 (f64.convert f32 c.wave.rm (c.A64 false a i).toNat)) = true →
    exec (.d2f d a) s = .next t → RegFrame s t c false d 1) ∧
  (∀ d a r s c t, Steady c → a.toNat % 2 = 0 → r.toNat < 5 → Runs s c 0#7 [rdV a 2, wrV d] →
    noTrap c false (fun i => int32Out (f64.toInt (c.code r) (-(2 ^ 31)) (2 ^ 31 - 1) (c.A64 false a i).toNat)) = true →
    exec (.d2iI d a r) s = .next t → RegFrame s t c false d 1) ∧
  (∀ n d a s c t, Steady c → let k := laneCount (c.lau.slot n.toNat)
    k ≠ 0 → d.toNat % k = 0 → Runs s c 0#7 [rdV a, wrV d k] → c.wave.sr.fpmode.extractLsb' 8 4 = 0#4 →
    exec (.cvtw n d a) s = .next t → RegFrame s t c false d k) ∧
  (∀ n d a s c t, Steady c → let k := laneCount (c.lau.slot n.toNat)
    k ≠ 0 → a.toNat % k = 0 → Runs s c 0#7 [rdV a k, wrV d] → c.wave.sr.fpmode.extractLsb' 8 4 = 0#4 →
    exec (.cvtn n d a) s = .next t →
    Frame s t c (dest true d 1) (fun _ => false) (fun _ => false) (fun _ => false) (fun i => c.act.getLsbD i)) ∧
  (∀ d a s c t, Steady c → a.toNat < 8 → Runs s c 0#7 [wrV d] → exec (.ktov d a) s = .next t → RegFrame s t c false d 1) ∧
  (∀ d a s c t, Steady c → d.toNat < 8 → Runs s c 0#7 [rdV a] → exec (.vtok d a) s = .next t → BitFrame s t c false d) ∧
  (∀ d a s c t, Steady c → d.toNat < 8 → a.toNat < 8 → Runs s c 0#7 [] →
    ((exec (.knot d a) s = .next t ∨ exec (.kmov d a) s = .next t) → BitFrame s t c false d) ∧
    ((exec (.cnot d a) s = .next t ∨ exec (.cmov d a) s = .next t) → BitFrame s t c true d)) ∧
  (∀ p ∈ dcmpFns, ∀ u d a b s c t, Steady c → d.toNat < 8 → a.toNat % 2 = 0 → b.toNat % 2 = 0 →
    Runs s c b [rdR u a 2, rdB u b 2] → noTrapM c u (fun i => f64.compare p.2 (c.A64 u a i).toNat (c.BD u b i).toNat) = true →
    exec (p.1 u d a b) s = .next t → BitFrame s t c u d) ∧
  (∀ p ∈ icmpFns, ∀ u d a b s c t, Steady c → d.toNat < 8 → Runs s c b [rdR u a, rdB u b] →
    exec (p.1 u d a b) s = .next t → BitFrame s t c u d) ∧
  (∀ p ∈ fcmpFns, ∀ u d a b s c t, Steady c → d.toNat < 8 → Runs s c b [rdR u a, rdB u b] →
    noTrapM c u (fun i => f32.compare p.2 (c.A u a i).toNat (c.B u b i).toNat) = true →
    exec (p.1 u d a b) s = .next t → BitFrame s t c u d) ∧
  (∀ p ∈ maskFns, ∀ d a b s c t, Steady c → d.toNat < 8 → a.toNat < 8 → b.toNat < 8 → Runs s c 0#7 [] →
    exec (p.1 d a b) s = .next t → BitFrame s t c false d) ∧
  (∀ p ∈ condFns, ∀ d a b s c t, Steady c → d.toNat < 8 → a.toNat < 8 → b.toNat < 8 → Runs s c 0#7 [] →
    exec (p.1 d a b) s = .next t → BitFrame s t c true d)

/-- The registers that the manual fixes: s0 reads 0, c0 reads 1, k0 reads as the active mask, and a result that names one
of them as its destination changes none of them (spec/01 R32 R33). -/
def Obligations.FixedRegisters : Prop :=
  (∀ (wv : Wave) act, wv.sget 0 = 0#32 ∧ wv.spoison 0 = false ∧ wv.cget 0 = true ∧ wv.kget act 0 = act) ∧
  (∀ (wv : Wave) x p, wv.sset 0 x p = wv) ∧ (∀ (wv : Wave) act m, wv.kput act 0 m = wv) ∧ (∀ (wv : Wave) b, wv.cset 0 b = wv) ∧
  (∀ p ∈ intFns, ∀ a b s c, Runs s c b [rdS a, rdB true b, wrS 0#7] →
    exec (p.1 true 0#7 a b) s = .next (after s c (onWave c (fun wv => wv.setSticky 0#32)))) ∧
  (∀ p ∈ maskFns, ∀ a b s c, a.toNat < 8 → b.toNat < 8 → Runs s c 0#7 [] → exec (p.1 0#7 a b) s = .next (after s c (onWave c (fun wv => wv))))

/-- What accesses leave as it was. A store of bytes to device memory changes those bytes and no other; an access that is
performed changes the bytes it stores (its own word for an atomic, an element store or a queued reduction, two words for
`ATG.CAS64`, the index and the elements of a `CSTORE`, the counter of a `WORKDONE`, none for a load or an `LDRQ`) and no other
byte of device memory, of any CLM or of any scratch way, whether its location is in device memory, in CLM, in scratch or behind a
host window (spec/05 R159 R161 R162, spec/06 R176 R178 R179 R182 to R185 R187). Byte stores are in canonical form, as every step
keeps them (ByteStoresKept); an access whose instruction has met a fault, or that meets one now, may be followed by a trap or a
feedback entry and is not meant here. Where the manual leaves a point open it follows the model (log entry 1). -/
def Obligations.MemoryFrame : Prop :=
  (∀ s pa b x, Canonical s → byteAt (s.poke pa b) x = if pa ≤ x ∧ x < pa + b.length then b.getD (x - pa) 0#8 else byteAt s x) ∧
  (∀ s g w p lane G wv q a pa m t, Performable s g w p lane G wv q a → a.loc = .phys pa → s.frameLine G a.va.toNat = false →
    q.recs = [] → Canonical s →
    (∀ z ∈ loadSizes, q.kind = .mem (.load z.1 z.2) → exec (.loadDataReturn g w p lane) s = .next t →
      t.cores = s.cores ∧ ∀ x, byteAt t x = byteAt s x) ∧
    (∀ n, q.kind = .mem (.store n) → n ≤ 4 * a.data.length → exec (.storeComplete g w p lane m) s = .next t →
      t.cores = s.cores ∧ ∀ x, byteAt t x = if pa ≤ x ∧ x < pa + n then (wordsBytes a.data).getD (x - pa) 0#8 else byteAt s x) ∧
    (∀ z ∈ atomicFns, q.kind = .mem (.atomic z.1) → Machine.marked s.memP pa 4 = false →
      exec (.loadDataReturn g w p lane) s = .next t → t.cores = s.cores ∧ ∀ x, (x < pa ∨ pa + 4 ≤ x) → byteAt t x = byteAt s x) ∧
    (∀ f, q.kind = .mem (.red f) → exec (.storeComplete g w p lane m) s = .next t →
      t.cores = s.cores ∧ ∀ x, (x < 4 * (pa / 4) ∨ 4 * (pa / 4) + 4 ≤ x) → byteAt t x = byteAt s x)) ∧
  (∀ s g w p lane G wv q a y n m t, Performable s g w p lane G wv q a → a.loc = .clm y → q.recs = [] → Canonical s →
    q.kind = .mem (.store n) → n ≤ 4 * a.data.length → exec (.storeComplete g w p lane m) s = .next t →
    let lo := G.clmb * 1024 + y
    (∀ x, byteAt t x = byteAt s x) ∧ (∀ core x, core ≠ G.core → clmAt t core x = clmAt s core x) ∧
    (G.core < s.cores.length → ∀ x, clmAt t G.core x =
      if lo ≤ x ∧ x < lo + n then (wordsBytes a.data).getD (x - lo) 0#8 else clmAt s G.core x)) ∧
  (∀ s g w p lane G wv q a m t, Performable s g w p lane G wv q a → q.recs = [] → Canonical s → Unharmed s G q a →
    (exec (.loadDataReturn g w p lane) s = .next t ∨ exec (.storeComplete g w p lane m) s = .next t) →
    match a.loc with
    | .phys pa => MemFrame s t G (fun x => ∃ k, stored s G q a k ∧ x = wordOf q pa + k) nowhere nowhere
    | .clm y => MemFrame s t G nowhere (fun x => ∃ k, stored s G q a k ∧ x = G.clmb * 1024 + y + k) nowhere
    | .scratch y => MemFrame s t G nowhere nowhere (fun x => ∃ k, stored s G q a k ∧ x = y + k)
    | .host _ _ => MemFrame s t G nowhere nowhere nowhere)

/-- The machine right after power-on holds the values that the manual gives: device time 0, a configuration block of
zeros, every column in NotReady, every field of every debug window 0, no bind record, no job, queue, launch or group, and
the power limit of the mix; and its byte stores have the canonical form (spec/05 R157, spec/13 R342, spec/14 R367 R373,
spec/15 Table 15.1, spec/16 Table 16.4). That the NOR is empty and memory reads 0 is the model's choice (log entries 1
and 5). -/
def Obligations.ResetState : Prop :=
  State.reset.dtime = 0#64 ∧ (∀ w, State.reset.cfgWord w = 0#32) ∧ (∀ core < 96, State.reset.columns.getD core .ready = .notReady) ∧
  State.reset.norImage = [] ∧ State.reset.powerLimit = 2800 ∧ State.reset.jobs = [] ∧ State.reset.queues = [] ∧ State.reset.launches = [] ∧
  State.reset.groups = [] ∧ State.reset.secured = [false, false] ∧
  (∀ core, (State.reset.core core).dbg = Debug.clear ∧ (State.reset.core core).binds = List.replicate 16 (List.replicate 8 0#32) ∧
    (∀ off, Debug.clear.read off = 0#32)) ∧
  (∀ x, byteAt State.reset x = 0#8) ∧ Canonical State.reset

/-- Every step keeps the byte stores in canonical form: from any state whose physical memory, CLM and scratch memories
list rising addresses and no byte that an unlisted address reads as, a step leads to such a state, so that equal contents
are equal states (log entry 1). -/
def Obligations.ByteStoresKept : Prop := ∀ s t, Canonical s → step s = .next t → Canonical t

/-- Taking a trap: every split keeps its place and its registers, the handler split starts at TRAPH, slot 1, on every live
lane, the records are listed in order, TPC, TSLOT and TSPLIT describe the split of record 0, and the held half of a special
register is dropped; nothing else of the wave, of its group or of the device changes. A Retiring wave takes none. With no
handler, or for a cause of the handler's own, the group ends on a fault with record 0. A cause
that reaches a wave in Trap is held (spec/13 R356 R358 R360). -/
def Obligations.TrapEntry : Prop :=
  (∀ (s : State) g w recs (G : Machine.Group) (wv : Wave), s.groups[g]? = some G → G.waves[w]? = some wv → G.state = .resident →
    G.ending = none → G.stopping ≠ some .cancel → wv.state ≠ .retiring → wv.state ≠ .retired →
    let traph := (s.launch G.launch).traph
    (wv.state = .resident → traph ≠ 0#64 →
      let t := s.takeTrap g w false recs
      t = { s with groups := t.groups } ∧ (∀ h, h ≠ g → t.groups[h]? = s.groups[h]?) ∧
      (∃ H, t.groups[g]? = some H ∧ H = { G with waves := H.waves } ∧ ∀ v, v ≠ w → H.waves[v]? = G.waves[v]?) ∧
      ∃ x, t.wave? g w = some x ∧ x = { wv with state := .trap, sr := { wv.sr with hold := [] }, trap := x.trap } ∧
        x.trap.entry = { Split.empty with mask := wv.live, pc := traph, slot := 1, st := .ready } ∧ x.trap.recs = sortRecs recs ∧
        x.trap.tscr0 = wv.trap.tscr0 ∧ x.trap.tscr1 = wv.trap.tscr1 ∧ x.trap.held = wv.trap.held ∧ x.trap.wrote = false ∧
        ∀ r, (sortRecs recs).head? = some r → x.trap.tsplit = r.split ∧ x.trap.tpc = (wv.entry r.split).pc ∧
          x.trap.tslot = (wv.entry r.split).slot) ∧
    (traph = 0#64 → ∀ h, s.takeTrap g w h recs = s.finishGroup g (.faulted (sortRecs recs).head?)) ∧
    s.takeTrap g w true recs = s.finishGroup g (.faulted (sortRecs recs).head?) ∧
    (wv.state = .trap → traph ≠ 0#64 → s.takeTrap g w false recs =
      s.modWave g w (fun x => { x with trap := { x.trap with held := x.trap.held ++ sortRecs recs } }))) ∧
  (∀ (s : State) g w h recs (wv : Wave), s.wave? g w = some wv → (wv.state = .retiring ∨ wv.state = .retired) → s.takeTrap g w h recs = s)
end

