-- ==== Sys2Proof/Laws/Dispatch.lean ====
section
/-! SUPPORT. The meaning that `exec` gives each instruction and each event. -/

namespace Sys2Proof.Laws

open Sys2Proof.Machine


theorem exec_powerOn (s : State) :
    exec (.powerOn) s = execPowerOn s := rfl

theorem exec_bootReq (s : State) :
    exec (.bootReq) s = execBootReq s := rfl

theorem exec_bootOffer (host : Nat) (len : Nat) (store : Bool) (s : State) :
    exec (.bootOffer host len store) s = execBootOffer host len store s := rfl

theorem exec_bootData (host : Nat) (offset : Nat) (bytes : List (BitVec 8)) (s : State) :
    exec (.bootData host offset bytes) s = execBootData host offset bytes s := rfl

theorem exec_bootTransferTimeout (s : State) :
    exec (.bootTransferTimeout) s = execBootTransferTimeout s := rfl

theorem exec_watchdogExpiry (s : State) :
    exec (.watchdogExpiry) s = execWatchdogExpiry s := rfl

theorem exec_columnReady (core : Nat) (s : State) :
    exec (.columnReady core) s = execColumnReady core s := rfl

theorem exec_backgroundTest (core : Nat) (vault : Nat) (failed : Option (Nat × Nat)) (s : State) :
    exec (.backgroundTest core vault failed) s = execBackgroundTest core vault failed s := rfl

theorem exec_linkFlitError (die : Nat) (unit : Nat) (addr : Nat) (failures : Nat) (s : State) :
    exec (.linkFlitError die unit addr failures) s = execLinkFlitError die unit addr failures s := rfl

theorem exec_ptpMessage (port : Nat) (offset : BitVec 64) (err : BitVec 32) (rate : BitVec 32) (locked : Bool) (s : State) :
    exec (.ptpMessage port offset err rate locked) s = execPtpMessage port offset err rate locked s := rfl

theorem exec_clockTargetUpdate (region : Nat) (mhz : Nat) (s : State) :
    exec (.clockTargetUpdate region mhz) s = execClockTargetUpdate region mhz s := rfl

theorem exec_powerMeasure (watts : Nat) (s : State) :
    exec (.powerMeasure watts) s = execPowerMeasure watts s := rfl

theorem exec_tempSample (core : Nat) (milliC : Int) (s : State) :
    exec (.tempSample core milliC) s = execTempSample core milliC s := rfl

theorem exec_refreshClassFall (core : Nat) (s : State) :
    exec (.refreshClassFall core) s = execRefreshClassFall core s := rfl

theorem exec_refreshBurst (core : Nat) (vault : Nat) (s : State) :
    exec (.refreshBurst core vault) s = execRefreshBurst core vault s := rfl

theorem exec_refreshCharge (core : Nat) (s : State) :
    exec (.refreshCharge core) s = execRefreshCharge core s := rfl

theorem exec_doorbellTail (q : Nat) (tail : BitVec 32) (s : State) :
    exec (.doorbellTail q tail) s = execDoorbellTail q tail s := rfl

theorem exec_doorbellChead (q : Nat) (chead : BitVec 32) (s : State) :
    exec (.doorbellChead q chead) s = execDoorbellChead q chead s := rfl

theorem exec_launchEntry (q : Nat) (s : State) :
    exec (.launchEntry q) s = execLaunchEntry q s := rfl

theorem exec_graphEntry (q : Nat) (s : State) :
    exec (.graphEntry q) s = execGraphEntry q s := rfl

theorem exec_graphNodeStart (graph : Nat) (node : Nat) (s : State) :
    exec (.graphNodeStart graph node) s = execGraphNodeStart graph node s := rfl

theorem exec_waitEntry (q : Nat) (s : State) :
    exec (.waitEntry q) s = execWaitEntry q s := rfl

theorem exec_waitReread (q : Nat) (s : State) :
    exec (.waitReread q) s = execWaitReread q s := rfl

theorem exec_waitTimeout (q : Nat) (s : State) :
    exec (.waitTimeout q) s = execWaitTimeout q s := rfl

theorem exec_cancelEntry (q : Nat) (s : State) :
    exec (.cancelEntry q) s = execCancelEntry q s := rfl

theorem exec_frameEntry (q : Nat) (s : State) :
    exec (.frameEntry q) s = execFrameEntry q s := rfl

theorem exec_invalEntry (q : Nat) (s : State) :
    exec (.invalEntry q) s = execInvalEntry q s := rfl

theorem exec_resumeEntry (q : Nat) (s : State) :
    exec (.resumeEntry q) s = execResumeEntry q s := rfl

theorem exec_completionWrite (q : Nat) (pick : Nat) (s : State) :
    exec (.completionWrite q pick) s = execCompletionWrite q pick s := rfl

theorem exec_groupPlacement (launch : Nat) (gidx : Nat) (core : Nat) (slot : Nat) (part : Nat) (clmb : Nat) (acmb : Nat) (nbb : Nat) (s : State) :
    exec (.groupPlacement launch gidx core slot part clmb acmb nbb) s = execGroupPlacement launch gidx core slot part clmb acmb nbb s := rfl

theorem exec_bindRecordWrite (core : Nat) (slot : Nat) (words : List (BitVec 32)) (s : State) :
    exec (.bindRecordWrite core slot words) s = execBindRecordWrite core slot words s := rfl

theorem exec_waveRetire (g : Nat) (w : Nat) (s : State) :
    exec (.waveRetire g w) s = execWaveRetire g w s := rfl

theorem exec_groupSave (g : Nat) (s : State) :
    exec (.groupSave g) s = execGroupSave g s := rfl

theorem exec_groupRestore (g : Nat) (core : Nat) (slot : Nat) (part : Nat) (clmb : Nat) (acmb : Nat) (nbb : Nat) (s : State) :
    exec (.groupRestore g core slot part clmb acmb nbb) s = execGroupRestore g core slot part clmb acmb nbb s := rfl

theorem exec_bundleFetch (g : Nat) (w : Nat) (sp : Nat) (s : State) :
    exec (.bundleFetch g w sp) s = execBundleFetch g w sp s := rfl

theorem exec_starvationPromote (g : Nat) (w : Nat) (s : State) :
    exec (.starvationPromote g w) s = execStarvationPromote g w s := rfl

theorem exec_loadDataReturn (g : Nat) (w : Nat) (p : Nat) (lane : Nat) (s : State) :
    exec (.loadDataReturn g w p lane) s = execLoadDataReturn g w p lane s := rfl

theorem exec_storeComplete (g : Nat) (w : Nat) (p : Nat) (lane : Nat) (merge : Bool) (s : State) :
    exec (.storeComplete g w p lane merge) s = execStoreComplete g w p lane merge s := rfl

theorem exec_reductionApply (idx : Nat) (s : State) :
    exec (.reductionApply idx) s = execReductionApply idx s := rfl

theorem exec_faultServiceRequest (g : Nat) (w : Nat) (s : State) :
    exec (.faultServiceRequest g w) s = execFaultServiceRequest g w s := rfl

theorem exec_faultServiceDone (req : Nat) (done : Bool) (leaves : List (Nat × BitVec 64)) (s : State) :
    exec (.faultServiceDone req done leaves) s = execFaultServiceDone req done leaves s := rfl

theorem exec_sleepWake (g : Nat) (w : Nat) (sp : Nat) (s : State) :
    exec (.sleepWake g w sp) s = execSleepWake g w sp s := rfl

theorem exec_specialFunctionComplete (g : Nat) (w : Nat) (p : Nat) (s : State) :
    exec (.specialFunctionComplete g w p) s = execSpecialFunctionComplete g w p s := rfl

theorem exec_barrReleasePerformed (g : Nat) (nb : Nat) (idx : Nat) (s : State) :
    exec (.barrReleasePerformed g nb idx) s = execBarrReleasePerformed g nb idx s := rfl

theorem exec_phaseTreeComplete (ctx : Nat) (s : State) :
    exec (.phaseTreeComplete ctx) s = execPhaseTreeComplete ctx s := rfl

theorem exec_copyCommandRun (core : Nat) (q : Nat) (count : Nat) (s : State) :
    exec (.copyCommandRun core q count) s = execCopyCommandRun core q count s := rfl

theorem exec_copyFaultResume (core : Nat) (q : Nat) (s : State) :
    exec (.copyFaultResume core q) s = execCopyFaultResume core q s := rfl

theorem exec_copyCommandComplete (core : Nat) (q : Nat) (s : State) :
    exec (.copyCommandComplete core q) s = execCopyCommandComplete core q s := rfl

theorem exec_qfenceComplete (core : Nat) (q : Nat) (s : State) :
    exec (.qfenceComplete core q) s = execQfenceComplete core q s := rfl

theorem exec_hpartComplete (core : Nat) (s : State) :
    exec (.hpartComplete core) s = execHpartComplete core s := rfl

theorem exec_cacheMaintComplete (core : Nat) (s : State) :
    exec (.cacheMaintComplete core) s = execCacheMaintComplete core s := rfl

theorem exec_mangleReply (g : Nat) (w : Nat) (p : Nat) (s : State) :
    exec (.mangleReply g w p) s = execMangleReply g w p s := rfl

theorem exec_mloadwStart (core : Nat) (s : State) :
    exec (.mloadwStart core) s = execMloadwStart core s := rfl

theorem exec_mloadwComplete (core : Nat) (s : State) :
    exec (.mloadwComplete core) s = execMloadwComplete core s := rfl

theorem exec_mswapPerform (core : Nat) (s : State) :
    exec (.mswapPerform core) s = execMswapPerform core s := rfl

theorem exec_mstreamStart (core : Nat) (s : State) :
    exec (.mstreamStart core) s = execMstreamStart core s := rfl

theorem exec_mstreamComplete (core : Nat) (s : State) :
    exec (.mstreamComplete core) s = execMstreamComplete core s := rfl

theorem exec_mdrainRun (core : Nat) (s : State) :
    exec (.mdrainRun core) s = execMdrainRun core s := rfl

theorem exec_mzeroRun (core : Nat) (s : State) :
    exec (.mzeroRun core) s = execMzeroRun core s := rfl

theorem exec_chainStep (core : Nat) (s : State) :
    exec (.chainStep core) s = execChainStep core s := rfl

theorem exec_gatherWindowExpiry (core : Nat) (idx : Nat) (s : State) :
    exec (.gatherWindowExpiry core idx) s = execGatherWindowExpiry core idx s := rfl

theorem exec_gatherTileForm (core : Nat) (s : State) :
    exec (.gatherTileForm core) s = execGatherTileForm core s := rfl

theorem exec_gatherFetchComplete (core : Nat) (s : State) :
    exec (.gatherFetchComplete core) s = execGatherFetchComplete core s := rfl

theorem exec_gatherScatter (core : Nat) (row : Nat) (s : State) :
    exec (.gatherScatter core row) s = execGatherScatter core row s := rfl

theorem exec_rayTraversalStop (core : Nat) (slot : Nat) (s : State) :
    exec (.rayTraversalStop core slot) s = execRayTraversalStop core slot s := rfl

theorem exec_textureFetchComplete (g : Nat) (w : Nat) (p : Nat) (lane : Nat) (s : State) :
    exec (.textureFetchComplete g w p lane) s = execTextureFetchComplete g w p lane s := rfl

theorem exec_refitNodeProcess (die : Nat) (node : Nat) (s : State) :
    exec (.refitNodeProcess die node) s = execRefitNodeProcess die node s := rfl

theorem exec_refitComplete (die : Nat) (s : State) :
    exec (.refitComplete die) s = execRefitComplete die s := rfl

theorem exec_emitvpComplete (gdie : Nat) (s : State) :
    exec (.emitvpComplete gdie) s = execEmitvpComplete gdie s := rfl

theorem exec_vcloseComplete (gdie : Nat) (s : State) :
    exec (.vcloseComplete gdie) s = execVcloseComplete gdie s := rfl

theorem exec_packetArrival (gdie : Nat) (sdie : Nat) (s : State) :
    exec (.packetArrival gdie sdie) s = execPacketArrival gdie sdie s := rfl

theorem exec_tokenArrival (gdie : Nat) (sdie : Nat) (s : State) :
    exec (.tokenArrival gdie sdie) s = execTokenArrival gdie sdie s := rfl

theorem exec_rasterise (stream : Nat) (sdie : Nat) (s : State) :
    exec (.rasterise stream sdie) s = execRasterise stream sdie s := rfl

theorem exec_reprojectionComplete (stream : Nat) (sdie : Nat) (s : State) :
    exec (.reprojectionComplete stream sdie) s = execReprojectionComplete stream sdie s := rfl

theorem exec_frameEnd (stream : Nat) (s : State) :
    exec (.frameEnd stream) s = execFrameEnd stream s := rfl

theorem exec_pcSample (core : Nat) (s : State) :
    exec (.pcSample core) s = execPcSample core s := rfl

theorem exec_breakBitStop (g : Nat) (w : Nat) (sp : Nat) (s : State) :
    exec (.breakBitStop g w sp) s = execBreakBitStop g w sp s := rfl

theorem exec_watchpointStop (g : Nat) (w : Nat) (sp : Nat) (s : State) :
    exec (.watchpointStop g w sp) s = execWatchpointStop g w sp s := rfl

theorem exec_dctlOwn (core : Nat) (own : Bool) (allStop : Bool) (s : State) :
    exec (.dctlOwn core own allStop) s = execDctlOwn core own allStop s := rfl

theorem exec_dctlHalt (core : Nat) (mask : BitVec 4) (s : State) :
    exec (.dctlHalt core mask) s = execDctlHalt core mask s := rfl

theorem exec_dctlResume (core : Nat) (mask : BitVec 4) (s : State) :
    exec (.dctlResume core mask) s = execDctlResume core mask s := rfl

theorem exec_dctlIcinv (core : Nat) (s : State) :
    exec (.dctlIcinv core) s = execDctlIcinv core s := rfl

theorem exec_dctlDump (core : Nat) (mask : BitVec 4) (s : State) :
    exec (.dctlDump core mask) s = execDctlDump core mask s := rfl

theorem exec_spop (core : Nat) (v : BitVec 32) (s : State) :
    exec (.spop core v) s = execSpop core v s := rfl

theorem exec_debugRegWrite (core : Nat) (off : Nat) (v : BitVec 32) (s : State) :
    exec (.debugRegWrite core off v) s = execDebugRegWrite core off v s := rfl

theorem exec_hostRdmaAccess (port : Nat) (key : BitVec 32) (va : Nat) (len : Nat) (wr : Option (List (BitVec 8))) (s : State) :
    exec (.hostRdmaAccess port key va len wr) s = execHostRdmaAccess port key va len wr s := rfl

theorem exec_jobCreate (port : Nat) (w0 : BitVec 32) (hd : ReqHead) (body : List (BitVec 8)) (s : State) :
    exec (.jobCreate port w0 hd body) s = execJobCreate port w0 hd body s := rfl

theorem exec_jobDestroy (port : Nat) (w0 : BitVec 32) (hd : ReqHead) (body : List (BitVec 8)) (s : State) :
    exec (.jobDestroy port w0 hd body) s = execJobDestroy port w0 hd body s := rfl

theorem exec_cfgRd (port : Nat) (w0 : BitVec 32) (hd : ReqHead) (body : List (BitVec 8)) (s : State) :
    exec (.cfgRd port w0 hd body) s = execCfgRd port w0 hd body s := rfl

theorem exec_cfgWr (port : Nat) (w0 : BitVec 32) (hd : ReqHead) (body : List (BitVec 8)) (s : State) :
    exec (.cfgWr port w0 hd body) s = execCfgWr port w0 hd body s := rfl

theorem exec_dbgRd (port : Nat) (w0 : BitVec 32) (hd : ReqHead) (body : List (BitVec 8)) (s : State) :
    exec (.dbgRd port w0 hd body) s = execDbgRd port w0 hd body s := rfl

theorem exec_dbgWr (port : Nat) (w0 : BitVec 32) (hd : ReqHead) (body : List (BitVec 8)) (s : State) :
    exec (.dbgWr port w0 hd body) s = execDbgWr port w0 hd body s := rfl

theorem exec_powerLimit (port : Nat) (w0 : BitVec 32) (hd : ReqHead) (body : List (BitVec 8)) (s : State) :
    exec (.powerLimit port w0 hd body) s = execPowerLimit port w0 hd body s := rfl

theorem exec_errlog (port : Nat) (w0 : BitVec 32) (hd : ReqHead) (body : List (BitVec 8)) (s : State) :
    exec (.errlog port w0 hd body) s = execErrlog port w0 hd body s := rfl

theorem exec_attest (port : Nat) (w0 : BitVec 32) (hd : ReqHead) (body : List (BitVec 8)) (s : State) :
    exec (.attest port w0 hd body) s = execAttest port w0 hd body s := rfl

theorem exec_darnRd (port : Nat) (w0 : BitVec 32) (hd : ReqHead) (body : List (BitVec 8)) (s : State) :
    exec (.darnRd port w0 hd body) s = execDarnRd port w0 hd body s := rfl

theorem exec_darnApply (port : Nat) (w0 : BitVec 32) (hd : ReqHead) (body : List (BitVec 8)) (s : State) :
    exec (.darnApply port w0 hd body) s = execDarnApply port w0 hd body s := rfl

theorem exec_colAlloc (port : Nat) (w0 : BitVec 32) (hd : ReqHead) (body : List (BitVec 8)) (s : State) :
    exec (.colAlloc port w0 hd body) s = execColAlloc port w0 hd body s := rfl

theorem exec_colFree (port : Nat) (w0 : BitVec 32) (hd : ReqHead) (body : List (BitVec 8)) (s : State) :
    exec (.colFree port w0 hd body) s = execColFree port w0 hd body s := rfl

theorem exec_resetService (port : Nat) (w0 : BitVec 32) (hd : ReqHead) (body : List (BitVec 8)) (s : State) :
    exec (.resetService port w0 hd body) s = execResetService port w0 hd body s := rfl

theorem exec_nop (s : State) :
    exec (.nop) s = execNop s := rfl

theorem exec_iadd (u : Bool) (d : BitVec 7) (a : BitVec 7) (b : BitVec 7) (s : State) :
    exec (.iadd u d a b) s = execIadd u d a b s := rfl

theorem exec_isub (u : Bool) (d : BitVec 7) (a : BitVec 7) (b : BitVec 7) (s : State) :
    exec (.isub u d a b) s = execIsub u d a b s := rfl

theorem exec_imul (u : Bool) (d : BitVec 7) (a : BitVec 7) (b : BitVec 7) (s : State) :
    exec (.imul u d a b) s = execImul u d a b s := rfl

theorem exec_imulhI (u : Bool) (d : BitVec 7) (a : BitVec 7) (b : BitVec 7) (s : State) :
    exec (.imulhI u d a b) s = execImulhI u d a b s := rfl

theorem exec_imulhN (u : Bool) (d : BitVec 7) (a : BitVec 7) (b : BitVec 7) (s : State) :
    exec (.imulhN u d a b) s = execImulhN u d a b s := rfl

theorem exec_imad (u : Bool) (d : BitVec 7) (a : BitVec 7) (b : BitVec 7) (s : State) :
    exec (.imad u d a b) s = execImad u d a b s := rfl

theorem exec_iand (u : Bool) (d : BitVec 7) (a : BitVec 7) (b : BitVec 7) (s : State) :
    exec (.iand u d a b) s = execIand u d a b s := rfl

theorem exec_ior (u : Bool) (d : BitVec 7) (a : BitVec 7) (b : BitVec 7) (s : State) :
    exec (.ior u d a b) s = execIor u d a b s := rfl

theorem exec_ixor (u : Bool) (d : BitVec 7) (a : BitVec 7) (b : BitVec 7) (s : State) :
    exec (.ixor u d a b) s = execIxor u d a b s := rfl

theorem exec_iandn (u : Bool) (d : BitVec 7) (a : BitVec 7) (b : BitVec 7) (s : State) :
    exec (.iandn u d a b) s = execIandn u d a b s := rfl

theorem exec_shl (u : Bool) (d : BitVec 7) (a : BitVec 7) (b : BitVec 7) (s : State) :
    exec (.shl u d a b) s = execShl u d a b s := rfl

theorem exec_shr (u : Bool) (d : BitVec 7) (a : BitVec 7) (b : BitVec 7) (s : State) :
    exec (.shr u d a b) s = execShr u d a b s := rfl

theorem exec_sar (u : Bool) (d : BitVec 7) (a : BitVec 7) (b : BitVec 7) (s : State) :
    exec (.sar u d a b) s = execSar u d a b s := rfl

theorem exec_iminI (u : Bool) (d : BitVec 7) (a : BitVec 7) (b : BitVec 7) (s : State) :
    exec (.iminI u d a b) s = execIminI u d a b s := rfl

theorem exec_iminN (u : Bool) (d : BitVec 7) (a : BitVec 7) (b : BitVec 7) (s : State) :
    exec (.iminN u d a b) s = execIminN u d a b s := rfl

theorem exec_imaxI (u : Bool) (d : BitVec 7) (a : BitVec 7) (b : BitVec 7) (s : State) :
    exec (.imaxI u d a b) s = execImaxI u d a b s := rfl

theorem exec_imaxN (u : Bool) (d : BitVec 7) (a : BitVec 7) (b : BitVec 7) (s : State) :
    exec (.imaxN u d a b) s = execImaxN u d a b s := rfl

theorem exec_iabs (u : Bool) (d : BitVec 7) (a : BitVec 7) (s : State) :
    exec (.iabs u d a) s = execIabs u d a s := rfl

theorem exec_clz (u : Bool) (d : BitVec 7) (a : BitVec 7) (s : State) :
    exec (.clz u d a) s = execClz u d a s := rfl

theorem exec_popc (u : Bool) (d : BitVec 7) (a : BitVec 7) (s : State) :
    exec (.popc u d a) s = execPopc u d a s := rfl

theorem exec_brev (u : Bool) (d : BitVec 7) (a : BitVec 7) (s : State) :
    exec (.brev u d a) s = execBrev u d a s := rfl

theorem exec_bfxI (u : Bool) (d : BitVec 7) (a : BitVec 7) (b : BitVec 7) (s : State) :
    exec (.bfxI u d a b) s = execBfxI u d a b s := rfl

theorem exec_bfxN (u : Bool) (d : BitVec 7) (a : BitVec 7) (b : BitVec 7) (s : State) :
    exec (.bfxN u d a b) s = execBfxN u d a b s := rfl

theorem exec_bfi (u : Bool) (d : BitVec 7) (a : BitVec 7) (b : BitVec 7) (s : State) :
    exec (.bfi u d a b) s = execBfi u d a b s := rfl

theorem exec_sel (u : Bool) (n : BitVec 3) (d : BitVec 7) (a : BitVec 7) (b : BitVec 7) (s : State) :
    exec (.sel u n d a b) s = execSel u n d a b s := rfl

theorem exec_iaddI (u : Bool) (d : BitVec 7) (a : BitVec 7) (im : BitVec 7) (s : State) :
    exec (.iaddI u d a im) s = execIaddI u d a im s := rfl

theorem exec_isubI (u : Bool) (d : BitVec 7) (a : BitVec 7) (im : BitVec 7) (s : State) :
    exec (.isubI u d a im) s = execIsubI u d a im s := rfl

theorem exec_imulI (u : Bool) (d : BitVec 7) (a : BitVec 7) (im : BitVec 7) (s : State) :
    exec (.imulI u d a im) s = execImulI u d a im s := rfl

theorem exec_imulhII (u : Bool) (d : BitVec 7) (a : BitVec 7) (im : BitVec 7) (s : State) :
    exec (.imulhII u d a im) s = execImulhII u d a im s := rfl

theorem exec_imulhNI (u : Bool) (d : BitVec 7) (a : BitVec 7) (im : BitVec 7) (s : State) :
    exec (.imulhNI u d a im) s = execImulhNI u d a im s := rfl

theorem exec_imadI (u : Bool) (d : BitVec 7) (a : BitVec 7) (im : BitVec 7) (s : State) :
    exec (.imadI u d a im) s = execImadI u d a im s := rfl

theorem exec_iandI (u : Bool) (d : BitVec 7) (a : BitVec 7) (im : BitVec 7) (s : State) :
    exec (.iandI u d a im) s = execIandI u d a im s := rfl

theorem exec_iorI (u : Bool) (d : BitVec 7) (a : BitVec 7) (im : BitVec 7) (s : State) :
    exec (.iorI u d a im) s = execIorI u d a im s := rfl

theorem exec_ixorI (u : Bool) (d : BitVec 7) (a : BitVec 7) (im : BitVec 7) (s : State) :
    exec (.ixorI u d a im) s = execIxorI u d a im s := rfl

theorem exec_iandnI (u : Bool) (d : BitVec 7) (a : BitVec 7) (im : BitVec 7) (s : State) :
    exec (.iandnI u d a im) s = execIandnI u d a im s := rfl

theorem exec_shlI (u : Bool) (d : BitVec 7) (a : BitVec 7) (im : BitVec 7) (s : State) :
    exec (.shlI u d a im) s = execShlI u d a im s := rfl

theorem exec_shrI (u : Bool) (d : BitVec 7) (a : BitVec 7) (im : BitVec 7) (s : State) :
    exec (.shrI u d a im) s = execShrI u d a im s := rfl

theorem exec_sarI (u : Bool) (d : BitVec 7) (a : BitVec 7) (im : BitVec 7) (s : State) :
    exec (.sarI u d a im) s = execSarI u d a im s := rfl

theorem exec_iminII (u : Bool) (d : BitVec 7) (a : BitVec 7) (im : BitVec 7) (s : State) :
    exec (.iminII u d a im) s = execIminII u d a im s := rfl

theorem exec_iminNI (u : Bool) (d : BitVec 7) (a : BitVec 7) (im : BitVec 7) (s : State) :
    exec (.iminNI u d a im) s = execIminNI u d a im s := rfl

theorem exec_imaxII (u : Bool) (d : BitVec 7) (a : BitVec 7) (im : BitVec 7) (s : State) :
    exec (.imaxII u d a im) s = execImaxII u d a im s := rfl

theorem exec_imaxNI (u : Bool) (d : BitVec 7) (a : BitVec 7) (im : BitVec 7) (s : State) :
    exec (.imaxNI u d a im) s = execImaxNI u d a im s := rfl

theorem exec_bfxII (u : Bool) (d : BitVec 7) (a : BitVec 7) (im : BitVec 7) (s : State) :
    exec (.bfxII u d a im) s = execBfxII u d a im s := rfl

theorem exec_bfxNI (u : Bool) (d : BitVec 7) (a : BitVec 7) (im : BitVec 7) (s : State) :
    exec (.bfxNI u d a im) s = execBfxNI u d a im s := rfl

theorem exec_bfiI (u : Bool) (d : BitVec 7) (a : BitVec 7) (im : BitVec 7) (s : State) :
    exec (.bfiI u d a im) s = execBfiI u d a im s := rfl

theorem exec_mov (u : Bool) (d : BitVec 7) (b : BitVec 7) (s : State) :
    exec (.mov u d b) s = execMov u d b s := rfl

theorem exec_movi (u : Bool) (d : BitVec 7) (im : BitVec 14) (s : State) :
    exec (.movi u d im) s = execMovi u d im s := rfl

theorem exec_iadd64 (u : Bool) (d : BitVec 7) (a : BitVec 7) (b : BitVec 7) (s : State) :
    exec (.iadd64 u d a b) s = execIadd64 u d a b s := rfl

theorem exec_isub64 (u : Bool) (d : BitVec 7) (a : BitVec 7) (b : BitVec 7) (s : State) :
    exec (.isub64 u d a b) s = execIsub64 u d a b s := rfl

theorem exec_imulwI (u : Bool) (d : BitVec 7) (a : BitVec 7) (b : BitVec 7) (s : State) :
    exec (.imulwI u d a b) s = execImulwI u d a b s := rfl

theorem exec_imulwN (u : Bool) (d : BitVec 7) (a : BitVec 7) (b : BitVec 7) (s : State) :
    exec (.imulwN u d a b) s = execImulwN u d a b s := rfl

theorem exec_movls (d : BitVec 7) (a : BitVec 7) (s : State) :
    exec (.movls d a) s = execMovls d a s := rfl

theorem exec_paddH2 (d : BitVec 7) (a : BitVec 7) (b : BitVec 7) (s : State) :
    exec (.paddH2 d a b) s = execPaddH2 d a b s := rfl

theorem exec_paddsH2 (d : BitVec 7) (a : BitVec 7) (b : BitVec 7) (s : State) :
    exec (.paddsH2 d a b) s = execPaddsH2 d a b s := rfl

theorem exec_psubH2 (d : BitVec 7) (a : BitVec 7) (b : BitVec 7) (s : State) :
    exec (.psubH2 d a b) s = execPsubH2 d a b s := rfl

theorem exec_psubsH2 (d : BitVec 7) (a : BitVec 7) (b : BitVec 7) (s : State) :
    exec (.psubsH2 d a b) s = execPsubsH2 d a b s := rfl

theorem exec_paddB4 (d : BitVec 7) (a : BitVec 7) (b : BitVec 7) (s : State) :
    exec (.paddB4 d a b) s = execPaddB4 d a b s := rfl

theorem exec_paddsB4 (d : BitVec 7) (a : BitVec 7) (b : BitVec 7) (s : State) :
    exec (.paddsB4 d a b) s = execPaddsB4 d a b s := rfl

theorem exec_psubsB4 (d : BitVec 7) (a : BitVec 7) (b : BitVec 7) (s : State) :
    exec (.psubsB4 d a b) s = execPsubsB4 d a b s := rfl

theorem exec_pmaddH2 (d : BitVec 7) (a : BitVec 7) (b : BitVec 7) (s : State) :
    exec (.pmaddH2 d a b) s = execPmaddH2 d a b s := rfl

theorem exec_pmaddB4 (d : BitVec 7) (a : BitVec 7) (b : BitVec 7) (s : State) :
    exec (.pmaddB4 d a b) s = execPmaddB4 d a b s := rfl

theorem exec_iadds (d : BitVec 7) (a : BitVec 7) (b : BitVec 7) (s : State) :
    exec (.iadds d a b) s = execIadds d a b s := rfl

theorem exec_isubs (d : BitVec 7) (a : BitVec 7) (b : BitVec 7) (s : State) :
    exec (.isubs d a b) s = execIsubs d a b s := rfl

theorem exec_shrr (d : BitVec 7) (a : BitVec 7) (b : BitVec 7) (s : State) :
    exec (.shrr d a b) s = execShrr d a b s := rfl

theorem exec_shrrsH2 (d : BitVec 7) (a : BitVec 7) (b : BitVec 7) (s : State) :
    exec (.shrrsH2 d a b) s = execShrrsH2 d a b s := rfl

theorem exec_packH2 (d : BitVec 7) (a : BitVec 7) (b : BitVec 7) (s : State) :
    exec (.packH2 d a b) s = execPackH2 d a b s := rfl

theorem exec_packsH2 (d : BitVec 7) (a : BitVec 7) (b : BitVec 7) (s : State) :
    exec (.packsH2 d a b) s = execPacksH2 d a b s := rfl

theorem exec_pminH2 (d : BitVec 7) (a : BitVec 7) (b : BitVec 7) (s : State) :
    exec (.pminH2 d a b) s = execPminH2 d a b s := rfl

theorem exec_pmaxH2 (d : BitVec 7) (a : BitVec 7) (b : BitVec 7) (s : State) :
    exec (.pmaxH2 d a b) s = execPmaxH2 d a b s := rfl

theorem exec_paddH2I (d : BitVec 7) (a : BitVec 7) (im : BitVec 7) (s : State) :
    exec (.paddH2I d a im) s = execPaddH2I d a im s := rfl

theorem exec_paddsH2I (d : BitVec 7) (a : BitVec 7) (im : BitVec 7) (s : State) :
    exec (.paddsH2I d a im) s = execPaddsH2I d a im s := rfl

theorem exec_psubH2I (d : BitVec 7) (a : BitVec 7) (im : BitVec 7) (s : State) :
    exec (.psubH2I d a im) s = execPsubH2I d a im s := rfl

theorem exec_psubsH2I (d : BitVec 7) (a : BitVec 7) (im : BitVec 7) (s : State) :
    exec (.psubsH2I d a im) s = execPsubsH2I d a im s := rfl

theorem exec_paddB4I (d : BitVec 7) (a : BitVec 7) (im : BitVec 7) (s : State) :
    exec (.paddB4I d a im) s = execPaddB4I d a im s := rfl

theorem exec_paddsB4I (d : BitVec 7) (a : BitVec 7) (im : BitVec 7) (s : State) :
    exec (.paddsB4I d a im) s = execPaddsB4I d a im s := rfl

theorem exec_psubsB4I (d : BitVec 7) (a : BitVec 7) (im : BitVec 7) (s : State) :
    exec (.psubsB4I d a im) s = execPsubsB4I d a im s := rfl

theorem exec_pmaddH2I (d : BitVec 7) (a : BitVec 7) (im : BitVec 7) (s : State) :
    exec (.pmaddH2I d a im) s = execPmaddH2I d a im s := rfl

theorem exec_pmaddB4I (d : BitVec 7) (a : BitVec 7) (im : BitVec 7) (s : State) :
    exec (.pmaddB4I d a im) s = execPmaddB4I d a im s := rfl

theorem exec_iaddsI (d : BitVec 7) (a : BitVec 7) (im : BitVec 7) (s : State) :
    exec (.iaddsI d a im) s = execIaddsI d a im s := rfl

theorem exec_isubsI (d : BitVec 7) (a : BitVec 7) (im : BitVec 7) (s : State) :
    exec (.isubsI d a im) s = execIsubsI d a im s := rfl

theorem exec_shrrI (d : BitVec 7) (a : BitVec 7) (im : BitVec 7) (s : State) :
    exec (.shrrI d a im) s = execShrrI d a im s := rfl

theorem exec_shrrsH2I (d : BitVec 7) (a : BitVec 7) (im : BitVec 7) (s : State) :
    exec (.shrrsH2I d a im) s = execShrrsH2I d a im s := rfl

theorem exec_packH2I (d : BitVec 7) (a : BitVec 7) (im : BitVec 7) (s : State) :
    exec (.packH2I d a im) s = execPackH2I d a im s := rfl

theorem exec_packsH2I (d : BitVec 7) (a : BitVec 7) (im : BitVec 7) (s : State) :
    exec (.packsH2I d a im) s = execPacksH2I d a im s := rfl

theorem exec_pminH2I (d : BitVec 7) (a : BitVec 7) (im : BitVec 7) (s : State) :
    exec (.pminH2I d a im) s = execPminH2I d a im s := rfl

theorem exec_pmaxH2I (d : BitVec 7) (a : BitVec 7) (im : BitVec 7) (s : State) :
    exec (.pmaxH2I d a im) s = execPmaxH2I d a im s := rfl

theorem exec_fadd (u : Bool) (d : BitVec 7) (a : BitVec 7) (b : BitVec 7) (s : State) :
    exec (.fadd u d a b) s = execFadd u d a b s := rfl

theorem exec_fsub (u : Bool) (d : BitVec 7) (a : BitVec 7) (b : BitVec 7) (s : State) :
    exec (.fsub u d a b) s = execFsub u d a b s := rfl

theorem exec_fmul (u : Bool) (d : BitVec 7) (a : BitVec 7) (b : BitVec 7) (s : State) :
    exec (.fmul u d a b) s = execFmul u d a b s := rfl

theorem exec_ffma (u : Bool) (d : BitVec 7) (a : BitVec 7) (b : BitVec 7) (s : State) :
    exec (.ffma u d a b) s = execFfma u d a b s := rfl

theorem exec_fmin (u : Bool) (d : BitVec 7) (a : BitVec 7) (b : BitVec 7) (s : State) :
    exec (.fmin u d a b) s = execFmin u d a b s := rfl

theorem exec_fmax (u : Bool) (d : BitVec 7) (a : BitVec 7) (b : BitVec 7) (s : State) :
    exec (.fmax u d a b) s = execFmax u d a b s := rfl

theorem exec_fabs (u : Bool) (d : BitVec 7) (a : BitVec 7) (s : State) :
    exec (.fabs u d a) s = execFabs u d a s := rfl

theorem exec_fneg (u : Bool) (d : BitVec 7) (a : BitVec 7) (s : State) :
    exec (.fneg u d a) s = execFneg u d a s := rfl

theorem exec_hadd2 (d : BitVec 7) (a : BitVec 7) (b : BitVec 7) (s : State) :
    exec (.hadd2 d a b) s = execHadd2 d a b s := rfl

theorem exec_hmul2 (d : BitVec 7) (a : BitVec 7) (b : BitVec 7) (s : State) :
    exec (.hmul2 d a b) s = execHmul2 d a b s := rfl

theorem exec_hfma2 (d : BitVec 7) (a : BitVec 7) (b : BitVec 7) (s : State) :
    exec (.hfma2 d a b) s = execHfma2 d a b s := rfl

theorem exec_bfma2 (d : BitVec 7) (a : BitVec 7) (b : BitVec 7) (s : State) :
    exec (.bfma2 d a b) s = execBfma2 d a b s := rfl

theorem exec_frnd (d : BitVec 7) (a : BitVec 7) (r : BitVec 7) (s : State) :
    exec (.frnd d a r) s = execFrnd d a r s := rfl

theorem exec_fclass (d : BitVec 7) (a : BitVec 7) (s : State) :
    exec (.fclass d a) s = execFclass d a s := rfl

theorem exec_dadd (u : Bool) (d : BitVec 7) (a : BitVec 7) (b : BitVec 7) (s : State) :
    exec (.dadd u d a b) s = execDadd u d a b s := rfl

theorem exec_dsub (u : Bool) (d : BitVec 7) (a : BitVec 7) (b : BitVec 7) (s : State) :
    exec (.dsub u d a b) s = execDsub u d a b s := rfl

theorem exec_dmul (u : Bool) (d : BitVec 7) (a : BitVec 7) (b : BitVec 7) (s : State) :
    exec (.dmul u d a b) s = execDmul u d a b s := rfl

theorem exec_dfma (u : Bool) (d : BitVec 7) (a : BitVec 7) (b : BitVec 7) (s : State) :
    exec (.dfma u d a b) s = execDfma u d a b s := rfl

theorem exec_dmin (u : Bool) (d : BitVec 7) (a : BitVec 7) (b : BitVec 7) (s : State) :
    exec (.dmin u d a b) s = execDmin u d a b s := rfl

theorem exec_dmax (u : Bool) (d : BitVec 7) (a : BitVec 7) (b : BitVec 7) (s : State) :
    exec (.dmax u d a b) s = execDmax u d a b s := rfl

theorem exec_dabs (u : Bool) (d : BitVec 7) (a : BitVec 7) (s : State) :
    exec (.dabs u d a) s = execDabs u d a s := rfl

theorem exec_dneg (u : Bool) (d : BitVec 7) (a : BitVec 7) (s : State) :
    exec (.dneg u d a) s = execDneg u d a s := rfl

theorem exec_drnd (d : BitVec 7) (a : BitVec 7) (r : BitVec 7) (s : State) :
    exec (.drnd d a r) s = execDrnd d a r s := rfl

theorem exec_dclass (d : BitVec 7) (a : BitVec 7) (s : State) :
    exec (.dclass d a) s = execDclass d a s := rfl

theorem exec_icmpIEq (u : Bool) (d : BitVec 7) (a : BitVec 7) (b : BitVec 7) (s : State) :
    exec (.icmpIEq u d a b) s = execIcmpIEq u d a b s := rfl

theorem exec_icmpINe (u : Bool) (d : BitVec 7) (a : BitVec 7) (b : BitVec 7) (s : State) :
    exec (.icmpINe u d a b) s = execIcmpINe u d a b s := rfl

theorem exec_icmpILt (u : Bool) (d : BitVec 7) (a : BitVec 7) (b : BitVec 7) (s : State) :
    exec (.icmpILt u d a b) s = execIcmpILt u d a b s := rfl

theorem exec_icmpILe (u : Bool) (d : BitVec 7) (a : BitVec 7) (b : BitVec 7) (s : State) :
    exec (.icmpILe u d a b) s = execIcmpILe u d a b s := rfl

theorem exec_icmpIGt (u : Bool) (d : BitVec 7) (a : BitVec 7) (b : BitVec 7) (s : State) :
    exec (.icmpIGt u d a b) s = execIcmpIGt u d a b s := rfl

theorem exec_icmpIGe (u : Bool) (d : BitVec 7) (a : BitVec 7) (b : BitVec 7) (s : State) :
    exec (.icmpIGe u d a b) s = execIcmpIGe u d a b s := rfl

theorem exec_icmpNLt (u : Bool) (d : BitVec 7) (a : BitVec 7) (b : BitVec 7) (s : State) :
    exec (.icmpNLt u d a b) s = execIcmpNLt u d a b s := rfl

theorem exec_icmpNLe (u : Bool) (d : BitVec 7) (a : BitVec 7) (b : BitVec 7) (s : State) :
    exec (.icmpNLe u d a b) s = execIcmpNLe u d a b s := rfl

theorem exec_icmpNGt (u : Bool) (d : BitVec 7) (a : BitVec 7) (b : BitVec 7) (s : State) :
    exec (.icmpNGt u d a b) s = execIcmpNGt u d a b s := rfl

theorem exec_icmpNGe (u : Bool) (d : BitVec 7) (a : BitVec 7) (b : BitVec 7) (s : State) :
    exec (.icmpNGe u d a b) s = execIcmpNGe u d a b s := rfl

theorem exec_fcmpEq (u : Bool) (d : BitVec 7) (a : BitVec 7) (b : BitVec 7) (s : State) :
    exec (.fcmpEq u d a b) s = execFcmpEq u d a b s := rfl

theorem exec_fcmpNe (u : Bool) (d : BitVec 7) (a : BitVec 7) (b : BitVec 7) (s : State) :
    exec (.fcmpNe u d a b) s = execFcmpNe u d a b s := rfl

theorem exec_fcmpLt (u : Bool) (d : BitVec 7) (a : BitVec 7) (b : BitVec 7) (s : State) :
    exec (.fcmpLt u d a b) s = execFcmpLt u d a b s := rfl

theorem exec_fcmpLe (u : Bool) (d : BitVec 7) (a : BitVec 7) (b : BitVec 7) (s : State) :
    exec (.fcmpLe u d a b) s = execFcmpLe u d a b s := rfl

theorem exec_fcmpGt (u : Bool) (d : BitVec 7) (a : BitVec 7) (b : BitVec 7) (s : State) :
    exec (.fcmpGt u d a b) s = execFcmpGt u d a b s := rfl

theorem exec_fcmpGe (u : Bool) (d : BitVec 7) (a : BitVec 7) (b : BitVec 7) (s : State) :
    exec (.fcmpGe u d a b) s = execFcmpGe u d a b s := rfl

theorem exec_fcmpUn (u : Bool) (d : BitVec 7) (a : BitVec 7) (b : BitVec 7) (s : State) :
    exec (.fcmpUn u d a b) s = execFcmpUn u d a b s := rfl

theorem exec_fcmpOrd (u : Bool) (d : BitVec 7) (a : BitVec 7) (b : BitVec 7) (s : State) :
    exec (.fcmpOrd u d a b) s = execFcmpOrd u d a b s := rfl

theorem exec_dcmpEq (u : Bool) (d : BitVec 7) (a : BitVec 7) (b : BitVec 7) (s : State) :
    exec (.dcmpEq u d a b) s = execDcmpEq u d a b s := rfl

theorem exec_dcmpNe (u : Bool) (d : BitVec 7) (a : BitVec 7) (b : BitVec 7) (s : State) :
    exec (.dcmpNe u d a b) s = execDcmpNe u d a b s := rfl

theorem exec_dcmpLt (u : Bool) (d : BitVec 7) (a : BitVec 7) (b : BitVec 7) (s : State) :
    exec (.dcmpLt u d a b) s = execDcmpLt u d a b s := rfl

theorem exec_dcmpLe (u : Bool) (d : BitVec 7) (a : BitVec 7) (b : BitVec 7) (s : State) :
    exec (.dcmpLe u d a b) s = execDcmpLe u d a b s := rfl

theorem exec_dcmpGt (u : Bool) (d : BitVec 7) (a : BitVec 7) (b : BitVec 7) (s : State) :
    exec (.dcmpGt u d a b) s = execDcmpGt u d a b s := rfl

theorem exec_dcmpGe (u : Bool) (d : BitVec 7) (a : BitVec 7) (b : BitVec 7) (s : State) :
    exec (.dcmpGe u d a b) s = execDcmpGe u d a b s := rfl

theorem exec_dcmpUn (u : Bool) (d : BitVec 7) (a : BitVec 7) (b : BitVec 7) (s : State) :
    exec (.dcmpUn u d a b) s = execDcmpUn u d a b s := rfl

theorem exec_dcmpOrd (u : Bool) (d : BitVec 7) (a : BitVec 7) (b : BitVec 7) (s : State) :
    exec (.dcmpOrd u d a b) s = execDcmpOrd u d a b s := rfl

theorem exec_kand (d : BitVec 7) (a : BitVec 7) (b : BitVec 7) (s : State) :
    exec (.kand d a b) s = execKand d a b s := rfl

theorem exec_kor (d : BitVec 7) (a : BitVec 7) (b : BitVec 7) (s : State) :
    exec (.kor d a b) s = execKor d a b s := rfl

theorem exec_kxor (d : BitVec 7) (a : BitVec 7) (b : BitVec 7) (s : State) :
    exec (.kxor d a b) s = execKxor d a b s := rfl

theorem exec_kandn (d : BitVec 7) (a : BitVec 7) (b : BitVec 7) (s : State) :
    exec (.kandn d a b) s = execKandn d a b s := rfl

theorem exec_knot (d : BitVec 7) (a : BitVec 7) (s : State) :
    exec (.knot d a) s = execKnot d a s := rfl

theorem exec_kmov (d : BitVec 7) (a : BitVec 7) (s : State) :
    exec (.kmov d a) s = execKmov d a s := rfl

theorem exec_ktov (d : BitVec 7) (a : BitVec 7) (s : State) :
    exec (.ktov d a) s = execKtov d a s := rfl

theorem exec_vtok (d : BitVec 7) (a : BitVec 7) (s : State) :
    exec (.vtok d a) s = execVtok d a s := rfl

theorem exec_cand (d : BitVec 7) (a : BitVec 7) (b : BitVec 7) (s : State) :
    exec (.cand d a b) s = execCand d a b s := rfl

theorem exec_cor (d : BitVec 7) (a : BitVec 7) (b : BitVec 7) (s : State) :
    exec (.cor d a b) s = execCor d a b s := rfl

theorem exec_cxor (d : BitVec 7) (a : BitVec 7) (b : BitVec 7) (s : State) :
    exec (.cxor d a b) s = execCxor d a b s := rfl

theorem exec_candn (d : BitVec 7) (a : BitVec 7) (b : BitVec 7) (s : State) :
    exec (.candn d a b) s = execCandn d a b s := rfl

theorem exec_cnot (d : BitVec 7) (a : BitVec 7) (s : State) :
    exec (.cnot d a) s = execCnot d a s := rfl

theorem exec_cmov (d : BitVec 7) (a : BitVec 7) (s : State) :
    exec (.cmov d a) s = execCmov d a s := rfl

theorem exec_f2iI (d : BitVec 7) (a : BitVec 7) (r : BitVec 7) (s : State) :
    exec (.f2iI d a r) s = execF2iI d a r s := rfl

theorem exec_f2iN (d : BitVec 7) (a : BitVec 7) (r : BitVec 7) (s : State) :
    exec (.f2iN d a r) s = execF2iN d a r s := rfl

theorem exec_i2fI (d : BitVec 7) (a : BitVec 7) (s : State) :
    exec (.i2fI d a) s = execI2fI d a s := rfl

theorem exec_i2fN (d : BitVec 7) (a : BitVec 7) (s : State) :
    exec (.i2fN d a) s = execI2fN d a s := rfl

theorem exec_f2d (d : BitVec 7) (a : BitVec 7) (s : State) :
    exec (.f2d d a) s = execF2d d a s := rfl

theorem exec_d2f (d : BitVec 7) (a : BitVec 7) (s : State) :
    exec (.d2f d a) s = execD2f d a s := rfl

theorem exec_d2iI (d : BitVec 7) (a : BitVec 7) (r : BitVec 7) (s : State) :
    exec (.d2iI d a r) s = execD2iI d a r s := rfl

theorem exec_i2dI (d : BitVec 7) (a : BitVec 7) (s : State) :
    exec (.i2dI d a) s = execI2dI d a s := rfl

theorem exec_f2h2 (d : BitVec 7) (a : BitVec 7) (b : BitVec 7) (s : State) :
    exec (.f2h2 d a b) s = execF2h2 d a b s := rfl

theorem exec_h2fLo (d : BitVec 7) (a : BitVec 7) (s : State) :
    exec (.h2fLo d a) s = execH2fLo d a s := rfl

theorem exec_h2fHi (d : BitVec 7) (a : BitVec 7) (s : State) :
    exec (.h2fHi d a) s = execH2fHi d a s := rfl

theorem exec_f2bf2 (d : BitVec 7) (a : BitVec 7) (b : BitVec 7) (s : State) :
    exec (.f2bf2 d a b) s = execF2bf2 d a b s := rfl

theorem exec_bf2fLo (d : BitVec 7) (a : BitVec 7) (s : State) :
    exec (.bf2fLo d a) s = execBf2fLo d a s := rfl

theorem exec_bf2fHi (d : BitVec 7) (a : BitVec 7) (s : State) :
    exec (.bf2fHi d a) s = execBf2fHi d a s := rfl

theorem exec_cvtn (n : BitVec 3) (d : BitVec 7) (a : BitVec 7) (s : State) :
    exec (.cvtn n d a) s = execCvtn n d a s := rfl

theorem exec_cvtw (n : BitVec 3) (d : BitVec 7) (a : BitVec 7) (s : State) :
    exec (.cvtw n d a) s = execCvtw n d a s := rfl

theorem exec_movs (d : BitVec 7) (a : BitVec 7) (s : State) :
    exec (.movs d a) s = execMovs d a s := rfl

theorem exec_movsw (a : BitVec 7) (b : BitVec 7) (s : State) :
    exec (.movsw a b) s = execMovsw a b s := rfl

theorem exec_rdlane (d : BitVec 7) (a : BitVec 7) (b : BitVec 7) (s : State) :
    exec (.rdlane d a b) s = execRdlane d a b s := rfl

theorem exec_wrlane (d : BitVec 7) (a : BitVec 7) (b : BitVec 7) (s : State) :
    exec (.wrlane d a b) s = execWrlane d a b s := rfl

theorem exec_ktos (d : BitVec 7) (a : BitVec 7) (h : BitVec 7) (s : State) :
    exec (.ktos d a h) s = execKtos d a h s := rfl

theorem exec_stok (d : BitVec 7) (a : BitVec 7) (h : BitVec 7) (s : State) :
    exec (.stok d a h) s = execStok d a h s := rfl

theorem exec_shfl (d : BitVec 7) (a : BitVec 7) (b : BitVec 7) (s : State) :
    exec (.shfl d a b) s = execShfl d a b s := rfl

theorem exec_shflx (d : BitVec 7) (a : BitVec 7) (b : BitVec 7) (s : State) :
    exec (.shflx d a b) s = execShflx d a b s := rfl

theorem exec_slideup (d : BitVec 7) (a : BitVec 7) (b : BitVec 7) (s : State) :
    exec (.slideup d a b) s = execSlideup d a b s := rfl

theorem exec_slidedn (d : BitVec 7) (a : BitVec 7) (b : BitVec 7) (s : State) :
    exec (.slidedn d a b) s = execSlidedn d a b s := rfl

theorem exec_slideuph (d : BitVec 7) (a : BitVec 7) (b : BitVec 7) (s : State) :
    exec (.slideuph d a b) s = execSlideuph d a b s := rfl

theorem exec_slidednh (d : BitVec 7) (a : BitVec 7) (b : BitVec 7) (s : State) :
    exec (.slidednh d a b) s = execSlidednh d a b s := rfl

theorem exec_bcast (d : BitVec 7) (a : BitVec 7) (b : BitVec 7) (s : State) :
    exec (.bcast d a b) s = execBcast d a b s := rfl

theorem exec_vcompress (d : BitVec 7) (a : BitVec 7) (b : BitVec 7) (s : State) :
    exec (.vcompress d a b) s = execVcompress d a b s := rfl

theorem exec_vcompressZ (d : BitVec 7) (a : BitVec 7) (b : BitVec 7) (s : State) :
    exec (.vcompressZ d a b) s = execVcompressZ d a b s := rfl

theorem exec_vexpand (d : BitVec 7) (a : BitVec 7) (b : BitVec 7) (s : State) :
    exec (.vexpand d a b) s = execVexpand d a b s := rfl

theorem exec_voteany (d : BitVec 7) (a : BitVec 7) (s : State) :
    exec (.voteany d a) s = execVoteany d a s := rfl

theorem exec_voteall (d : BitVec 7) (a : BitVec 7) (s : State) :
    exec (.voteall d a) s = execVoteall d a s := rfl

theorem exec_ballot (d : BitVec 7) (a : BitVec 7) (s : State) :
    exec (.ballot d a) s = execBallot d a s := rfl

theorem exec_rcp (d : BitVec 7) (a : BitVec 7) (s : State) :
    exec (.rcp d a) s = execRcp d a s := rfl

theorem exec_rsq (d : BitVec 7) (a : BitVec 7) (s : State) :
    exec (.rsq d a) s = execRsq d a s := rfl

theorem exec_sqrt (d : BitVec 7) (a : BitVec 7) (s : State) :
    exec (.sqrt d a) s = execSqrt d a s := rfl

theorem exec_log2 (d : BitVec 7) (a : BitVec 7) (s : State) :
    exec (.log2 d a) s = execLog2 d a s := rfl

theorem exec_exp2 (d : BitVec 7) (a : BitVec 7) (s : State) :
    exec (.exp2 d a) s = execExp2 d a s := rfl

theorem exec_sin (d : BitVec 7) (a : BitVec 7) (s : State) :
    exec (.sin d a) s = execSin d a s := rfl

theorem exec_cos (d : BitVec 7) (a : BitVec 7) (s : State) :
    exec (.cos d a) s = execCos d a s := rfl

theorem exec_tanh (d : BitVec 7) (a : BitVec 7) (s : State) :
    exec (.tanh d a) s = execTanh d a s := rfl

theorem exec_drcp (d : BitVec 7) (a : BitVec 7) (s : State) :
    exec (.drcp d a) s = execDrcp d a s := rfl

theorem exec_dsqrt (d : BitVec 7) (a : BitVec 7) (s : State) :
    exec (.dsqrt d a) s = execDsqrt d a s := rfl

theorem exec_ldlN8 (u : Bool) (d : BitVec 7) (a : BitVec 7) (o : BitVec 3) (n : BitVec 4) (s : State) :
    exec (.ldlN8 u d a o n) s = execLdlN8 u d a o n s := rfl

theorem exec_ldlI8 (u : Bool) (d : BitVec 7) (a : BitVec 7) (o : BitVec 3) (n : BitVec 4) (s : State) :
    exec (.ldlI8 u d a o n) s = execLdlI8 u d a o n s := rfl

theorem exec_ldlN16 (u : Bool) (d : BitVec 7) (a : BitVec 7) (o : BitVec 3) (n : BitVec 4) (s : State) :
    exec (.ldlN16 u d a o n) s = execLdlN16 u d a o n s := rfl

theorem exec_ldlI16 (u : Bool) (d : BitVec 7) (a : BitVec 7) (o : BitVec 3) (n : BitVec 4) (s : State) :
    exec (.ldlI16 u d a o n) s = execLdlI16 u d a o n s := rfl

theorem exec_ldl32 (u : Bool) (d : BitVec 7) (a : BitVec 7) (o : BitVec 3) (n : BitVec 4) (s : State) :
    exec (.ldl32 u d a o n) s = execLdl32 u d a o n s := rfl

theorem exec_ldl64 (u : Bool) (d : BitVec 7) (a : BitVec 7) (o : BitVec 3) (n : BitVec 4) (s : State) :
    exec (.ldl64 u d a o n) s = execLdl64 u d a o n s := rfl

theorem exec_ldl128 (u : Bool) (d : BitVec 7) (a : BitVec 7) (o : BitVec 3) (n : BitVec 4) (s : State) :
    exec (.ldl128 u d a o n) s = execLdl128 u d a o n s := rfl

theorem exec_stl8 (u : Bool) (d : BitVec 7) (a : BitVec 7) (o : BitVec 3) (n : BitVec 4) (s : State) :
    exec (.stl8 u d a o n) s = execStl8 u d a o n s := rfl

theorem exec_stl16 (u : Bool) (d : BitVec 7) (a : BitVec 7) (o : BitVec 3) (n : BitVec 4) (s : State) :
    exec (.stl16 u d a o n) s = execStl16 u d a o n s := rfl

theorem exec_stl32 (u : Bool) (d : BitVec 7) (a : BitVec 7) (o : BitVec 3) (n : BitVec 4) (s : State) :
    exec (.stl32 u d a o n) s = execStl32 u d a o n s := rfl

theorem exec_stl64 (u : Bool) (d : BitVec 7) (a : BitVec 7) (o : BitVec 3) (n : BitVec 4) (s : State) :
    exec (.stl64 u d a o n) s = execStl64 u d a o n s := rfl

theorem exec_stl128 (u : Bool) (d : BitVec 7) (a : BitVec 7) (o : BitVec 3) (n : BitVec 4) (s : State) :
    exec (.stl128 u d a o n) s = execStl128 u d a o n s := rfl

theorem exec_atlAdd (u : Bool) (d : BitVec 7) (a : BitVec 7) (o : BitVec 3) (n : BitVec 4) (s : State) :
    exec (.atlAdd u d a o n) s = execAtlAdd u d a o n s := rfl

theorem exec_atlMinI (u : Bool) (d : BitVec 7) (a : BitVec 7) (o : BitVec 3) (n : BitVec 4) (s : State) :
    exec (.atlMinI u d a o n) s = execAtlMinI u d a o n s := rfl

theorem exec_atlMaxI (u : Bool) (d : BitVec 7) (a : BitVec 7) (o : BitVec 3) (n : BitVec 4) (s : State) :
    exec (.atlMaxI u d a o n) s = execAtlMaxI u d a o n s := rfl

theorem exec_atlAnd (u : Bool) (d : BitVec 7) (a : BitVec 7) (o : BitVec 3) (n : BitVec 4) (s : State) :
    exec (.atlAnd u d a o n) s = execAtlAnd u d a o n s := rfl

theorem exec_atlOr (u : Bool) (d : BitVec 7) (a : BitVec 7) (o : BitVec 3) (n : BitVec 4) (s : State) :
    exec (.atlOr u d a o n) s = execAtlOr u d a o n s := rfl

theorem exec_atlXor (u : Bool) (d : BitVec 7) (a : BitVec 7) (o : BitVec 3) (n : BitVec 4) (s : State) :
    exec (.atlXor u d a o n) s = execAtlXor u d a o n s := rfl

theorem exec_atlXchg (u : Bool) (d : BitVec 7) (a : BitVec 7) (o : BitVec 3) (n : BitVec 4) (s : State) :
    exec (.atlXchg u d a o n) s = execAtlXchg u d a o n s := rfl

theorem exec_atlCas (u : Bool) (d : BitVec 7) (a : BitVec 7) (o : BitVec 3) (n : BitVec 4) (s : State) :
    exec (.atlCas u d a o n) s = execAtlCas u d a o n s := rfl

theorem exec_stlE4 (d : BitVec 7) (a : BitVec 7) (o : BitVec 3) (n : BitVec 4) (s : State) :
    exec (.stlE4 d a o n) s = execStlE4 d a o n s := rfl

theorem exec_stlE6 (d : BitVec 7) (a : BitVec 7) (o : BitVec 3) (n : BitVec 4) (s : State) :
    exec (.stlE6 d a o n) s = execStlE6 d a o n s := rfl

theorem exec_ldgN8 (u : Bool) (d : BitVec 7) (a : BitVec 7) (o : BitVec 3) (n : BitVec 4) (s : State) :
    exec (.ldgN8 u d a o n) s = execLdgN8 u d a o n s := rfl

theorem exec_ldgI8 (u : Bool) (d : BitVec 7) (a : BitVec 7) (o : BitVec 3) (n : BitVec 4) (s : State) :
    exec (.ldgI8 u d a o n) s = execLdgI8 u d a o n s := rfl

theorem exec_ldgN16 (u : Bool) (d : BitVec 7) (a : BitVec 7) (o : BitVec 3) (n : BitVec 4) (s : State) :
    exec (.ldgN16 u d a o n) s = execLdgN16 u d a o n s := rfl

theorem exec_ldgI16 (u : Bool) (d : BitVec 7) (a : BitVec 7) (o : BitVec 3) (n : BitVec 4) (s : State) :
    exec (.ldgI16 u d a o n) s = execLdgI16 u d a o n s := rfl

theorem exec_ldg32 (u : Bool) (d : BitVec 7) (a : BitVec 7) (o : BitVec 3) (n : BitVec 4) (s : State) :
    exec (.ldg32 u d a o n) s = execLdg32 u d a o n s := rfl

theorem exec_ldg64 (u : Bool) (d : BitVec 7) (a : BitVec 7) (o : BitVec 3) (n : BitVec 4) (s : State) :
    exec (.ldg64 u d a o n) s = execLdg64 u d a o n s := rfl

theorem exec_ldg128 (u : Bool) (d : BitVec 7) (a : BitVec 7) (o : BitVec 3) (n : BitVec 4) (s : State) :
    exec (.ldg128 u d a o n) s = execLdg128 u d a o n s := rfl

theorem exec_stg8 (u : Bool) (d : BitVec 7) (a : BitVec 7) (o : BitVec 3) (n : BitVec 4) (s : State) :
    exec (.stg8 u d a o n) s = execStg8 u d a o n s := rfl

theorem exec_stg16 (u : Bool) (d : BitVec 7) (a : BitVec 7) (o : BitVec 3) (n : BitVec 4) (s : State) :
    exec (.stg16 u d a o n) s = execStg16 u d a o n s := rfl

theorem exec_stg32 (u : Bool) (d : BitVec 7) (a : BitVec 7) (o : BitVec 3) (n : BitVec 4) (s : State) :
    exec (.stg32 u d a o n) s = execStg32 u d a o n s := rfl

theorem exec_stg64 (u : Bool) (d : BitVec 7) (a : BitVec 7) (o : BitVec 3) (n : BitVec 4) (s : State) :
    exec (.stg64 u d a o n) s = execStg64 u d a o n s := rfl

theorem exec_stg128 (u : Bool) (d : BitVec 7) (a : BitVec 7) (o : BitVec 3) (n : BitVec 4) (s : State) :
    exec (.stg128 u d a o n) s = execStg128 u d a o n s := rfl

theorem exec_atgAdd (u : Bool) (d : BitVec 7) (a : BitVec 7) (o : BitVec 3) (n : BitVec 4) (s : State) :
    exec (.atgAdd u d a o n) s = execAtgAdd u d a o n s := rfl

theorem exec_atgMinI (u : Bool) (d : BitVec 7) (a : BitVec 7) (o : BitVec 3) (n : BitVec 4) (s : State) :
    exec (.atgMinI u d a o n) s = execAtgMinI u d a o n s := rfl

theorem exec_atgMaxI (u : Bool) (d : BitVec 7) (a : BitVec 7) (o : BitVec 3) (n : BitVec 4) (s : State) :
    exec (.atgMaxI u d a o n) s = execAtgMaxI u d a o n s := rfl

theorem exec_atgAnd (u : Bool) (d : BitVec 7) (a : BitVec 7) (o : BitVec 3) (n : BitVec 4) (s : State) :
    exec (.atgAnd u d a o n) s = execAtgAnd u d a o n s := rfl

theorem exec_atgOr (u : Bool) (d : BitVec 7) (a : BitVec 7) (o : BitVec 3) (n : BitVec 4) (s : State) :
    exec (.atgOr u d a o n) s = execAtgOr u d a o n s := rfl

theorem exec_atgXor (u : Bool) (d : BitVec 7) (a : BitVec 7) (o : BitVec 3) (n : BitVec 4) (s : State) :
    exec (.atgXor u d a o n) s = execAtgXor u d a o n s := rfl

theorem exec_atgXchg (u : Bool) (d : BitVec 7) (a : BitVec 7) (o : BitVec 3) (n : BitVec 4) (s : State) :
    exec (.atgXchg u d a o n) s = execAtgXchg u d a o n s := rfl

theorem exec_atgCas (u : Bool) (d : BitVec 7) (a : BitVec 7) (o : BitVec 3) (n : BitVec 4) (s : State) :
    exec (.atgCas u d a o n) s = execAtgCas u d a o n s := rfl

theorem exec_stgE4 (u : Bool) (d : BitVec 7) (a : BitVec 7) (o : BitVec 3) (n : BitVec 4) (s : State) :
    exec (.stgE4 u d a o n) s = execStgE4 u d a o n s := rfl

theorem exec_stgE6 (u : Bool) (d : BitVec 7) (a : BitVec 7) (o : BitVec 3) (n : BitVec 4) (s : State) :
    exec (.stgE6 u d a o n) s = execStgE6 u d a o n s := rfl

theorem exec_atgCas64 (u : Bool) (d : BitVec 7) (a : BitVec 7) (o : BitVec 3) (n : BitVec 4) (s : State) :
    exec (.atgCas64 u d a o n) s = execAtgCas64 u d a o n s := rfl

theorem exec_atgFadd (u : Bool) (d : BitVec 7) (a : BitVec 7) (o : BitVec 3) (n : BitVec 4) (s : State) :
    exec (.atgFadd u d a o n) s = execAtgFadd u d a o n s := rfl

theorem exec_redAdd (u : Bool) (d : BitVec 7) (a : BitVec 7) (o : BitVec 3) (n : BitVec 4) (s : State) :
    exec (.redAdd u d a o n) s = execRedAdd u d a o n s := rfl

theorem exec_redFadd (u : Bool) (d : BitVec 7) (a : BitVec 7) (o : BitVec 3) (n : BitVec 4) (s : State) :
    exec (.redFadd u d a o n) s = execRedFadd u d a o n s := rfl

theorem exec_redMinI (u : Bool) (d : BitVec 7) (a : BitVec 7) (o : BitVec 3) (n : BitVec 4) (s : State) :
    exec (.redMinI u d a o n) s = execRedMinI u d a o n s := rfl

theorem exec_redMaxI (u : Bool) (d : BitVec 7) (a : BitVec 7) (o : BitVec 3) (n : BitVec 4) (s : State) :
    exec (.redMaxI u d a o n) s = execRedMaxI u d a o n s := rfl

theorem exec_ldrq32 (d : BitVec 7) (a : BitVec 7) (o : BitVec 3) (n : BitVec 4) (s : State) :
    exec (.ldrq32 d a o n) s = execLdrq32 d a o n s := rfl

theorem exec_ldrq128 (d : BitVec 7) (a : BitVec 7) (o : BitVec 3) (n : BitVec 4) (s : State) :
    exec (.ldrq128 d a o n) s = execLdrq128 d a o n s := rfl

theorem exec_cstore (d : BitVec 7) (a : BitVec 7) (o : BitVec 3) (n : BitVec 4) (s : State) :
    exec (.cstore d a o n) s = execCstore d a o n s := rfl

theorem exec_pref (d : BitVec 7) (a : BitVec 7) (o : BitVec 3) (n : BitVec 4) (s : State) :
    exec (.pref d a o n) s = execPref d a o n s := rfl

theorem exec_tex2d (d : BitVec 7) (a : BitVec 7) (b : BitVec 7) (s : State) :
    exec (.tex2d d a b) s = execTex2d d a b s := rfl

theorem exec_texfetch (d : BitVec 7) (a : BitVec 7) (b : BitVec 7) (s : State) :
    exec (.texfetch d a b) s = execTexfetch d a b s := rfl

theorem exec_texrq (d : BitVec 7) (a : BitVec 7) (b : BitVec 7) (s : State) :
    exec (.texrq d a b) s = execTexrq d a b s := rfl

theorem exec_texlod (d : BitVec 7) (a : BitVec 7) (b : BitVec 7) (s : State) :
    exec (.texlod d a b) s = execTexlod d a b s := rfl

theorem exec_rayq (d : BitVec 7) (a : BitVec 7) (b : BitVec 7) (s : State) :
    exec (.rayq d a b) s = execRayq d a b s := rfl

theorem exec_rayq64 (d : BitVec 7) (a : BitVec 7) (b : BitVec 7) (s : State) :
    exec (.rayq64 d a b) s = execRayq64 d a b s := rfl

theorem exec_raycont (d : BitVec 7) (b : BitVec 7) (s : State) :
    exec (.raycont d b) s = execRaycont d b s := rfl

theorem exec_rayhit (d : BitVec 7) (s : State) :
    exec (.rayhit d) s = execRayhit d s := rfl

theorem exec_raycommit (d : BitVec 7) (a : BitVec 7) (b : BitVec 7) (s : State) :
    exec (.raycommit d a b) s = execRaycommit d a b s := rfl

theorem exec_rayabort (s : State) :
    exec (.rayabort) s = execRayabort s := rfl

theorem exec_neval (d : BitVec 7) (a : BitVec 7) (b : BitVec 7) (s : State) :
    exec (.neval d a b) s = execNeval d a b s := rfl

theorem exec_nevalH (d : BitVec 7) (a : BitVec 7) (b : BitVec 7) (s : State) :
    exec (.nevalH d a b) s = execNevalH d a b s := rfl

theorem exec_xsortI (d : BitVec 7) (a : BitVec 7) (b : BitVec 7) (s : State) :
    exec (.xsortI d a b) s = execXsortI d a b s := rfl

theorem exec_xsortN (d : BitVec 7) (a : BitVec 7) (b : BitVec 7) (s : State) :
    exec (.xsortN d a b) s = execXsortN d a b s := rfl

theorem exec_xsortF (d : BitVec 7) (a : BitVec 7) (b : BitVec 7) (s : State) :
    exec (.xsortF d a b) s = execXsortF d a b s := rfl

theorem exec_xscanAddI (d : BitVec 7) (a : BitVec 7) (s : State) :
    exec (.xscanAddI d a) s = execXscanAddI d a s := rfl

theorem exec_xscanAddF (d : BitVec 7) (a : BitVec 7) (s : State) :
    exec (.xscanAddF d a) s = execXscanAddF d a s := rfl

theorem exec_xscanMaxI (d : BitVec 7) (a : BitVec 7) (s : State) :
    exec (.xscanMaxI d a) s = execXscanMaxI d a s := rfl

theorem exec_xredAddI (d : BitVec 7) (a : BitVec 7) (s : State) :
    exec (.xredAddI d a) s = execXredAddI d a s := rfl

theorem exec_xredAddF (d : BitVec 7) (a : BitVec 7) (s : State) :
    exec (.xredAddF d a) s = execXredAddF d a s := rfl

theorem exec_xredMinI (d : BitVec 7) (a : BitVec 7) (s : State) :
    exec (.xredMinI d a) s = execXredMinI d a s := rfl

theorem exec_xredMaxI (d : BitVec 7) (a : BitVec 7) (s : State) :
    exec (.xredMaxI d a) s = execXredMaxI d a s := rfl

theorem exec_xhist (d : BitVec 7) (a : BitVec 7) (s : State) :
    exec (.xhist d a) s = execXhist d a s := rfl

theorem exec_xrank (d : BitVec 7) (a : BitVec 7) (s : State) :
    exec (.xrank d a) s = execXrank d a s := rfl

theorem exec_xsearch (d : BitVec 7) (a : BitVec 7) (b : BitVec 7) (s : State) :
    exec (.xsearch d a b) s = execXsearch d a b s := rfl

theorem exec_xmatch (d : BitVec 7) (a : BitVec 7) (s : State) :
    exec (.xmatch d a) s = execXmatch d a s := rfl

theorem exec_cpy (d : BitVec 7) (a : BitVec 7) (q : BitVec 7) (s : State) :
    exec (.cpy d a q) s = execCpy d a q s := rfl

theorem exec_qfence (q : BitVec 7) (m : BitVec 7) (s : State) :
    exec (.qfence q m) s = execQfence q m s := rfl

theorem exec_qstat (d : BitVec 7) (q : BitVec 7) (c : BitVec 7) (s : State) :
    exec (.qstat d q c) s = execQstat d q c s := rfl

theorem exec_mloadw (a : BitVec 7) (s : State) :
    exec (.mloadw a) s = execMloadw a s := rfl

theorem exec_mswap (s : State) :
    exec (.mswap) s = execMswap s := rfl

theorem exec_mstream (a : BitVec 7) (s : State) :
    exec (.mstream a) s = execMstream a s := rfl

theorem exec_mdrain (a : BitVec 7) (s : State) :
    exec (.mdrain a) s = execMdrain a s := rfl

theorem exec_mzero (a : BitVec 7) (s : State) :
    exec (.mzero a) s = execMzero a s := rfl

theorem exec_mstat (d : BitVec 7) (s : State) :
    exec (.mstat d) s = execMstat d s := rfl

theorem exec_ttstep (a : BitVec 7) (s : State) :
    exec (.ttstep a) s = execTtstep a s := rfl

theorem exec_ttrun (d : BitVec 7) (a : BitVec 7) (s : State) :
    exec (.ttrun d a) s = execTtrun d a s := rfl

theorem exec_nflush (s : State) :
    exec (.nflush) s = execNflush s := rfl

theorem exec_ncfg (a : BitVec 7) (s : State) :
    exec (.ncfg a) s = execNcfg a s := rfl

theorem exec_binit (d : BitVec 7) (a : BitVec 7) (b : BitVec 7) (s : State) :
    exec (.binit d a b) s = execBinit d a b s := rfl

theorem exec_barr (d : BitVec 7) (a : BitVec 7) (b : BitVec 7) (s : State) :
    exec (.barr d a b) s = execBarr d a b s := rfl

theorem exec_bwait (a : BitVec 7) (b : BitVec 7) (s : State) :
    exec (.bwait a b) s = execBwait a b s := rfl

theorem exec_bexpb (a : BitVec 7) (b : BitVec 7) (s : State) :
    exec (.bexpb a b) s = execBexpb a b s := rfl

theorem exec_bphase (d : BitVec 7) (a : BitVec 7) (s : State) :
    exec (.bphase d a) s = execBphase d a s := rfl

theorem exec_bbind (d : BitVec 7) (a : BitVec 7) (b : BitVec 7) (s : State) :
    exec (.bbind d a b) s = execBbind d a b s := rfl

theorem exec_bdrop (d : BitVec 7) (a : BitVec 7) (s : State) :
    exec (.bdrop d a) s = execBdrop d a s := rfl

theorem exec_fenceG (s : State) :
    exec (.fenceG) s = execFenceG s := rfl

theorem exec_fenceD (s : State) :
    exec (.fenceD) s = execFenceD s := rfl

theorem exec_fenceV (s : State) :
    exec (.fenceV) s = execFenceV s := rfl

theorem exec_fenceS (s : State) :
    exec (.fenceS) s = execFenceS s := rfl

theorem exec_phinit (d : BitVec 7) (a : BitVec 7) (s : State) :
    exec (.phinit d a) s = execPhinit d a s := rfl

theorem exec_pharr (a : BitVec 7) (b : BitVec 7) (s : State) :
    exec (.pharr a b) s = execPharr a b s := rfl

theorem exec_getwork (d : BitVec 7) (s : State) :
    exec (.getwork d) s = execGetwork d s := rfl

theorem exec_workdone (a : BitVec 7) (s : State) :
    exec (.workdone a) s = execWorkdone a s := rfl

theorem exec_cancel (d : BitVec 7) (a : BitVec 7) (s : State) :
    exec (.cancel d a) s = execCancel d a s := rfl

theorem exec_ccount (d : BitVec 7) (a : BitVec 7) (s : State) :
    exec (.ccount d a) s = execCcount d a s := rfl

theorem exec_enq (d : BitVec 7) (a : BitVec 7) (b : BitVec 7) (s : State) :
    exec (.enq d a b) s = execEnq d a b s := rfl

theorem exec_emitvp (d : BitVec 7) (a : BitVec 7) (s : State) :
    exec (.emitvp d a) s = execEmitvp d a s := rfl

theorem exec_vclose (d : BitVec 7) (a : BitVec 7) (s : State) :
    exec (.vclose d a) s = execVclose d a s := rfl

theorem exec_refit (d : BitVec 7) (a : BitVec 7) (s : State) :
    exec (.refit d a) s = execRefit d a s := rfl

theorem exec_hpart (d : BitVec 7) (a : BitVec 7) (s : State) :
    exec (.hpart d a) s = execHpart d a s := rfl

theorem exec_cinv (a : BitVec 7) (s : State) :
    exec (.cinv a) s = execCinv a s := rfl

theorem exec_cflush (a : BitVec 7) (s : State) :
    exec (.cflush a) s = execCflush a s := rfl

theorem exec_bra (o : BitVec 21) (s : State) :
    exec (.bra o) s = execBra o s := rfl

theorem exec_brt (c : BitVec 3) (o : BitVec 21) (s : State) :
    exec (.brt c o) s = execBrt c o s := rfl

theorem exec_brf (c : BitVec 3) (o : BitVec 21) (s : State) :
    exec (.brf c o) s = execBrf c o s := rfl

theorem exec_call (o : BitVec 21) (s : State) :
    exec (.call o) s = execCall o s := rfl

theorem exec_brd (c : BitVec 3) (o : BitVec 21) (s : State) :
    exec (.brd c o) s = execBrd c o s := rfl

theorem exec_brdn (c : BitVec 3) (o : BitVec 21) (s : State) :
    exec (.brdn c o) s = execBrdn c o s := rfl

theorem exec_jmpr (a : BitVec 7) (s : State) :
    exec (.jmpr a) s = execJmpr a s := rfl

theorem exec_ret (s : State) :
    exec (.ret) s = execRet s := rfl

theorem exec_join (a : BitVec 7) (s : State) :
    exec (.join a) s = execJoin a s := rfl

theorem exec_waitc (d : BitVec 7) (n : BitVec 7) (s : State) :
    exec (.waitc d n) s = execWaitc d n s := rfl

theorem exec_yieldSplit (s : State) :
    exec (.yieldSplit) s = execYieldSplit s := rfl

theorem exec_exitSplit (s : State) :
    exec (.exitSplit) s = execExitSplit s := rfl

theorem exec_repeatN (n : BitVec 12) (s : State) :
    exec (.repeatN n) s = execRepeatN n s := rfl

theorem exec_trapSw (c : BitVec 7) (s : State) :
    exec (.trapSw c) s = execTrapSw c s := rfl

theorem exec_sleep (a : BitVec 7) (s : State) :
    exec (.sleep a) s = execSleep a s := rfl

theorem exec_setpri (p : BitVec 7) (s : State) :
    exec (.setpri p) s = execSetpri p s := rfl

theorem exec_brk (s : State) :
    exec (.brk) s = execBrk s := rfl

theorem exec_rett (s : State) :
    exec (.rett) s = execRett s := rfl

theorem exec_tlbinv (a : BitVec 7) (s : State) :
    exec (.tlbinv a) s = execTlbinv a s := rfl

theorem exec_sysrd (d : BitVec 7) (n : BitVec 7) (s : State) :
    exec (.sysrd d n) s = execSysrd d n s := rfl

theorem exec_syswr (n : BitVec 7) (b : BitVec 7) (s : State) :
    exec (.syswr n b) s = execSyswr n b s := rfl

theorem exec_parkres (a : BitVec 7) (s : State) :
    exec (.parkres a) s = execParkres a s := rfl

theorem exec_fltrec (d : BitVec 7) (a : BitVec 7) (s : State) :
    exec (.fltrec d a) s = execFltrec d a s := rfl

theorem exec_powerOff (s : State) :
    exec (.powerOff) s = execPowerOff s := rfl

theorem exec_firmwareUncorrectableError (s : State) :
    exec (.firmwareUncorrectableError) s = execFirmwareUncorrectableError s := rfl

theorem exec_ptpHoldover (s : State) :
    exec (.ptpHoldover) s = execPtpHoldover s := rfl

theorem exec_eviction (line : Nat) (s : State) :
    exec (.eviction line) s = execEviction line s := rfl

theorem exec_frameRingFill (core : Nat) (big : Bool) (frame : Nat) (s : State) :
    exec (.frameRingFill core big frame) s = execFrameRingFill core big frame s := rfl

theorem exec_coreRetirement (core : Nat) (s : State) :
    exec (.coreRetirement core) s = execCoreRetirement core s := rfl

theorem exec_congestionNotification (qp : Nat) (rate : Nat) (s : State) :
    exec (.congestionNotification qp rate) s = execCongestionNotification qp rate s := rfl

theorem exec_mkaKeyAgreement (port : Nat) (secured : Bool) (s : State) :
    exec (.mkaKeyAgreement port secured) s = execMkaKeyAgreement port secured s := rfl

end Sys2Proof.Laws
end

