-- ==== Sys2Proof/Laws/Issue.lean ====
section
/-! SUPPORT. What `issue` answers for an instruction that nothing holds back, and what `compute` does. -/

namespace Sys2Proof.Laws

open Sys2Proof.Machine Sys2Proof.Safety

/-- What `gate` asks of an instruction beside its register uses. -/
structure Plain (op : Op) (s : State) (c : Ctx) : Prop where
  bad : op.bad = none
  illegal : op.illegal = false
  also : op.also.all (Use.inRange c.lau.lregs c.lau.sregs) = true
  priv : op.priv = false ∨ c.wave.trapLevel c.cur.sp = true
  noTrap : op.noTrap = false ∨ c.wave.trapLevel c.cur.sp = false
  on : runsOn op.on s c.grp.core = true
  cross : ∀ i ∈ (if op.uni then [0] else c.lanes), (op.cross i).all (elemUsable c op.crossWr) = true
  crossWr : op.crossWr = true → op.uni = true
  mem : op.mem = false ∨ fenced c = false
  ctr : op.ctr < 8 → c.wave.counters.getD op.ctr 0 < 63
  hold : op.hold = false
  nop : op.nop = false

theorem scoreboard_clear {op : Op} {c : Ctx} {wr : Bool}
    (hx : ∀ i ∈ (if op.uni then [0] else c.lanes), (op.cross i).all (elemUsable c wr) = true)
    (hu : op.uses.all (usable c) = true) : scoreboard op c = [] := by
  simp only [scoreboard, List.filter_eq_nil_iff, Bool.and_eq_true, not_and, Bool.not_eq_true]
  intro p hp _
  simp only [touches, Bool.or_eq_false_iff, Bool.and_eq_false_iff]
  constructor
  · rw [List.any_eq_false]
    intro x hxu
    have h := List.all_eq_true.mp hu x hxu
    simp only [usable, Bool.and_eq_true] at h
    have h2 := List.all_eq_true.mp h.1.2 p hp
    simp only [Bool.not_eq_true', Bool.and_eq_false_iff] at h2
    simp only [Bool.and_eq_true, not_and, Bool.not_eq_true]
    rintro ⟨h3, h4⟩
    rcases h2 with h2 | h2
    · simp_all
    · simp [h2] at h4
  · by_cases hpu : p.uni = true
    · left; simp [hpu]
    · right
      rw [List.any_eq_false]
      intro i hi
      rw [Bool.not_eq_true, List.any_eq_false]
      intro q hq
      have h := List.all_eq_true.mp (hx i hi) q hq
      simp only [elemUsable, Bool.and_eq_true] at h
      have h2 := List.all_eq_true.mp h.1 p hp
      simp only [hpu, Bool.false_or, Bool.not_eq_true'] at h2
      rw [h2]; decide

theorem poison_clear {op : Op} {c : Ctx} (hw : op.crossWr = true → op.uni = true)
    (hx : ∀ i ∈ (if op.uni then [0] else c.lanes), (op.cross i).all (elemUsable c op.crossWr) = true)
    (hu : op.uses.all (usable c) = true) : poisonRecs op c = [] := by
  have hs : op.uses.any (fun x => x.uni && !x.wr && (List.range x.cnt).any (fun i => c.wave.spoison (x.reg + i))) = false := by
    rw [List.any_eq_false]
    intro x hxu
    have h := List.all_eq_true.mp hu x hxu
    simp only [usable, Bool.and_eq_true] at h
    have h2 := h.2
    cases hw : x.wr <;> cases hn : x.uni <;> simp [hw, hn] at h2 ⊢
    exact h2
  have hcr : op.crossWr = false → ∀ i ∈ (if op.uni then [0] else c.lanes),
      (op.cross i).any (fun p => c.wave.vpoison p.1 p.2) = false := by
    intro hf i hi
    rw [List.any_eq_false]
    intro q hq
    have h := List.all_eq_true.mp (hx i hi) q hq
    simp only [elemUsable, hf, Bool.false_or, Bool.and_eq_true] at h
    simpa using h.2
  cases hun : op.uni
  · have hf : op.crossWr = false := by
      cases h : op.crossWr
      · rfl
      · exact absurd (hw h) (by simp [hun])
    simp only [poisonRecs, hs, hun, Bool.false_or, List.map_eq_nil_iff, List.filter_eq_nil_iff, Bool.false_eq_true, if_false]
    intro i hi
    have h0 := hcr hf i (by simpa [hun] using hi)
    rw [h0, Bool.or_false, Bool.not_eq_true, List.any_eq_false]
    intro x hxu
    have h := List.all_eq_true.mp hu x hxu
    simp only [usable, Bool.and_eq_true] at h
    have h2 := h.2
    cases hw : x.wr <;> cases hn : x.uni <;> simp [hw, hn] at h2 ⊢
    exact fun k hk => h2 i hi k hk
  · simp only [poisonRecs, hs, hun, Bool.false_or, if_true]
    cases hf : op.crossWr
    · rw [hcr hf 0 (by simp [hun])]; rfl
    · rfl

/-- `issue` of an instruction that nothing holds back: its body, then the end of the instruction. For an instruction that
carries poison marks to its result the marks of its sources do not matter. -/
theorem issue_marked {op : Op} {s : State} {c : Ctx} (body : Ctx → State → State × Flow) (hc : s.ctx? = some c)
    (hk : clear c op.litB (if op.carries then op.uses.map (fun x => { x with wr := true }) else op.uses) = true)
    (hp : Plain op s c) :
    issue op s body =
      .next (((body c (started s c)).1.finish c op (body c (started s c)).2).boundary c.cur.g) := by
  simp only [clear, Bool.and_eq_true, Bool.or_eq_true, List.isEmpty_iff] at hk
  obtain ⟨⟨hw, hl⟩, hu⟩ := hk
  have key : ∀ op' : Op,
      (if op'.carries then op'.uses.map (fun x => { x with wr := true }) else op'.uses).all (usable c) = true → op'.bad = none → op'.illegal = false →
      op'.also.all (Use.inRange c.lau.lregs c.lau.sregs) = true → (op'.priv = false ∨ c.wave.trapLevel c.cur.sp = true) →
      (op'.noTrap = false ∨ c.wave.trapLevel c.cur.sp = false) → runsOn op'.on s c.grp.core = true →
      (op'.crossWr = true → op'.uni = true) →
      (∀ i ∈ (if op'.uni then [0] else c.lanes), (op'.cross i).all (elemUsable c op'.crossWr) = true) → (op'.mem = false ∨ fenced c = false) →
      (op'.ctr < 8 → c.wave.counters.getD op'.ctr 0 < 63) → op'.hold = false → op'.nop = false → op'.litB = op.litB →
      gate op' c s = .go false := by
    intro op' h1 h2 h3 h4 h5 h6 h7 hcw h8 h9 h10 h11 h12 h13
    have h1' : (op'.uses.map (fun x => { x with wr := true })).all (usable c) = true := by
      by_cases hcar : op'.carries = true
      · rwa [if_pos hcar] at h1
      · rw [if_neg hcar] at h1
        rw [List.all_map, List.all_eq_true]
        intro x hx
        have := List.all_eq_true.mp h1 x hx
        simp only [usable, Bool.and_eq_true] at this
        simp only [Function.comp, usable, Bool.true_or, Bool.and_true, Bool.and_eq_true]
        exact this.1
    have hr : (op'.uses ++ op'.also).all (Use.inRange c.lau.lregs c.lau.sregs) = true := by
      rw [List.all_append, h4, Bool.and_true, List.all_eq_true]
      intro x hx
      have := List.all_eq_true.mp h1' _ (List.mem_map_of_mem hx)
      simp only [usable, Bool.and_eq_true] at this
      exact this.1.1
    have hsb : scoreboard op' c = [] := by
      have := scoreboard_clear (op := { op' with uses := op'.uses.map (fun x => { x with wr := true }) }) h8 h1'
      simpa [scoreboard, touches, List.any_map, Function.comp_def, Use.has] using this
    have hlow : lowest (waits op' c) = none := by
      have e1 : lookaheadHolds c = false := by simp [lookaheadHolds, hw]
      have e2 : (decide (op'.ctr < 8) && decide (63 ≤ c.wave.counters.getD op'.ctr 0)) = false := by
        by_cases h : op'.ctr < 8
        · have := h10 h; simp; intro; simpa using this
        · simp [h]
      have e3 : (op'.mem && fenced c) = false := by rcases h9 with h | h <;> simp [h]
      simp only [waits, e1, e2, e3, h11, hsb]; rfl
    have hlit : (c.cur.lit.isSome && op'.litB != 0#7) = false := by
      rw [h13]; rcases hl with h | h <;> simp_all
    have hbr : breaches op' c = false := by simp [breaches, hw]
    have hpo : (if op'.carries then [] else poisonRecs op' c) = [] := by
      by_cases hcar : op'.carries = true
      · rw [if_pos hcar]
      · rw [if_neg hcar] at h1 ⊢
        exact poison_clear hcw h8 h1
    have hpr : (op'.priv && !c.wave.trapLevel c.cur.sp) = false := by rcases h5 with h | h <;> simp [h]
    have hnt : (op'.noTrap && c.wave.trapLevel c.cur.sp) = false := by rcases h6 with h | h <;> simp [h]
    simp [gate, hpr, h2, h3, hlit, hnt, hr, h7, h12, hlow, hbr, hpo]
  simp only [issue, hc]
  by_cases hlit : c.cur.lit.isSome
  · rw [used, if_pos hlit] at hu
    rw [if_pos hlit, key { op with uses := op.uses.filter (fun x => !x.isB) }
      (by
        by_cases hcar : op.carries = true
        · simp only [hcar, if_true] at hu ⊢
          rw [List.filter_map] at hu
          exact hu
        · simp only [hcar, Bool.false_eq_true, if_false] at hu ⊢
          exact hu) hp.bad hp.illegal hp.also hp.priv hp.noTrap
      hp.on hp.crossWr hp.cross hp.mem hp.ctr hp.hold hp.nop rfl]
    simp only [hp.nop, started]
    rfl
  · rw [used, if_neg hlit] at hu
    rw [if_neg hlit, key op hu hp.bad hp.illegal hp.also hp.priv hp.noTrap hp.on hp.crossWr hp.cross hp.mem hp.ctr hp.hold hp.nop rfl]
    simp only [hp.nop, started]
    rfl

/-- The same for an instruction that traps on poisoned sources. -/
theorem issue_clear {op : Op} {s : State} {c : Ctx} (body : Ctx → State → State × Flow) (hc : s.ctx? = some c)
    (hk : clear c op.litB op.uses = true) (hp : Plain op s c) :
    issue op s body =
      .next (((body c (started s c)).1.finish c op (body c (started s c)).2).boundary c.cur.g) := by
  refine issue_marked body hc ?_ hp
  split
  · simp only [clear, Bool.and_eq_true] at hk ⊢
    refine ⟨hk.1, ?_⟩
    have h := hk.2
    rw [List.all_eq_true] at h ⊢
    intro x hx
    have hm : ∃ y ∈ used c op.uses, { y with wr := true } = x := by
      by_cases hl : c.cur.lit.isSome
      · simp only [used, if_pos hl, List.filter_map, List.mem_map] at hx ⊢
        exact hx
      · simp only [used, if_neg hl, List.mem_map] at hx ⊢
        exact hx
    obtain ⟨y, hy, rfl⟩ := hm
    have := h y hy
    simp only [usable, Bool.and_eq_true] at this ⊢
    exact ⟨this.1, by simp⟩
  · exact hk

/-- A class S instruction whose body has the effect `e`. -/
theorem issue_after {op : Op} {s : State} {c : Ctx} {body : Ctx → State → State × Flow} {e : State → State}
    (hl : op.long = false) (hc : s.ctx? = some c) (hk : clear c op.litB op.uses = true) (hp : Plain op s c)
    (hb : ∀ s, body c s = (e s, .next)) : issue op s body = .next (after s c e) := by
  rw [issue_clear _ hc hk hp, hb]
  simp only [after, State.finish, hl]
  rfl

/-- A class L instruction whose body has the effect `e`. -/
theorem issue_afterLong {op : Op} {s : State} {c : Ctx} {body : Ctx → State → State × Flow} {e : State → State}
    (hl : op.long = true) (hc : s.ctx? = some c) (hk : clear c op.litB op.uses = true) (hp : Plain op s c)
    (hb : ∀ s, body c s = (e s, .next)) : issue op s body = .next (afterLong s c op.uni e op.instant) := by
  rw [issue_clear _ hc hk hp, hb]
  simp only [afterLong, State.finish, hl]

/-- The same for one that carries poison marks. -/
theorem issue_markedLong {op : Op} {s : State} {c : Ctx} {body : Ctx → State → State × Flow} {e : State → State}
    (hl : op.long = true) (hr : op.carries = true) (hc : s.ctx? = some c)
    (hk : clear c op.litB (op.uses.map (fun x => { x with wr := true })) = true) (hp : Plain op s c)
    (hb : ∀ s, body c s = (e s, .next)) : issue op s body = .next (afterLong s c op.uni e op.instant) := by
  rw [issue_marked _ hc (by rw [if_pos hr]; exact hk) hp, hb]
  simp only [afterLong, State.finish, hl]

theorem compute_clear {u : Bool} {d : BitVec 7} {f : Nat → List Word × Flags} {c : Ctx} {s : State}
    (h : Safety.noTrap c u f = true) : compute u d.toNat f c s = (onWave c (results c u d f) s, .next) := by
  have hall : ∀ r ∈ (if u then [0] else c.lanes).map (fun i => (i, f i)), (!r.2.2.traps c.wave.sr.fpmode) = true := by
    intro r hr
    obtain ⟨i, hi, rfl⟩ := List.mem_map.mp hr
    exact List.all_eq_true.mp h i hi
  have hrec : ((if u then [0] else c.lanes).map (fun i => (i, f i))).filter (fun r => r.2.2.traps c.wave.sr.fpmode) = [] := by
    rw [List.filter_eq_nil_iff]
    intro r hr
    have := hall r hr
    simpa using this
  simp only [compute, List.filter_eq_self.mpr hall, hrec, List.map_nil, List.isEmpty_nil, if_true, onWave, Prod.mk.injEq,
    and_true]
  congr 1
  funext wv
  cases u
  · simp [results, List.foldl_map]
    rfl
  · simp [results, Flags.unions, Flags.union, Flags.none]

end Sys2Proof.Laws
end

