-- ==== Sys2Proof/Laws/Memory.lean ====
section
/-! SUPPORT. Byte stores: reading after writing, and the canonical form that every operation on physical memory keeps. -/

namespace Sys2Proof.Laws

open Sys2Proof Sys2Proof.Machine

/-- `lo` bounds the addresses of the list from below. -/
def above (lo : Option Nat) (k : Nat) : Bool := match lo with
  | none => true
  | some l => decide (l < k)

theorem cellsFrom_cons (lo : Option Nat) (k : Nat) (v : Byte) (t : List Host.Cell) :
    cellsFrom lo ((k, v) :: t) = (above lo k && v != 0#8 && cellsFrom (some k) t) := rfl

theorem cellsFrom_weaken {lo lo' : Option Nat} (h : ∀ k, above lo k = true → above lo' k = true) :
    ∀ {m : List Host.Cell}, cellsFrom lo m = true → cellsFrom lo' m = true
  | [], _ => rfl
  | (k, v) :: t, hm => by
    rw [cellsFrom_cons, Bool.and_eq_true, Bool.and_eq_true] at hm ⊢
    exact ⟨⟨h k hm.1.1, hm.1.2⟩, hm.2⟩

/-- Below the first address everything reads 0. -/
theorem cellRead_below : ∀ {m : List Host.Cell} {l a : Nat}, cellsFrom (some l) m = true → a ≤ l → cellRead m a = 0#8
  | [], _, _, _, _ => rfl
  | (k, v) :: t, l, a, h, ha => by
    rw [cellsFrom_cons, Bool.and_eq_true, Bool.and_eq_true] at h
    have : l < k := of_decide_eq_true h.1.1
    rw [cellRead, if_pos (by omega)]

theorem wf_cellWrite_from : ∀ {m : List Host.Cell} {lo : Option Nat} {a : Nat} {b : Byte}, cellsFrom lo m = true → above lo a = true →
    cellsFrom lo (cellWrite m a b) = true
  | [], lo, a, b, _, ha => by
    unfold cellWrite
    split
    · rfl
    · rename_i hb; rw [cellsFrom_cons, ha]; simp [hb, cellsFrom]
  | (k, v) :: t, lo, a, b, h, ha => by
    have h' := h
    rw [cellsFrom_cons, Bool.and_eq_true, Bool.and_eq_true] at h
    have up : cellsFrom lo t = true := by
      refine cellsFrom_weaken (lo := some k) ?_ h.2
      intro j hj
      have : k < j := of_decide_eq_true hj
      cases lo with
      | none => rfl
      | some l => have := of_decide_eq_true h.1.1; exact decide_eq_true (by omega)
    unfold cellWrite
    split
    · rename_i hk
      split
      · exact h'
      · rename_i hb
        rw [cellsFrom_cons, cellsFrom_cons, ha]; simp [hb, above, hk, h.2]; simpa using h.1.2
    · split
      · rename_i e
        split
        · exact up
        · rename_i hb
          subst e
          rw [cellsFrom_cons, ha]; simp [hb, h.2]
      · rename_i h1 h2
        rw [cellsFrom_cons, h.1.1, h.1.2]
        simpa using wf_cellWrite_from h.2 (show above (some k) a = true from decide_eq_true (by omega))

/-- Storing a byte keeps the canonical form. -/
theorem wf_cellWrite {m : List Host.Cell} {a : Nat} {b : Byte} (h : Memory.wf m = true) : Memory.wf (cellWrite m a b) = true :=
  wf_cellWrite_from h rfl

/-- Storing bytes keeps the canonical form. -/
theorem wf_cellWrites : ∀ {l : List Byte} {m : List Host.Cell} {a : Nat}, Memory.wf m = true → Memory.wf (cellWrites m a l) = true
  | [], _, _, h => h
  | b :: t, m, a, h => wf_cellWrites (l := t) (m := cellWrite m a b) (wf_cellWrite h)

theorem wf_filter_from {p : Host.Cell → Bool} : ∀ {m : List Host.Cell} {lo : Option Nat}, cellsFrom lo m = true → cellsFrom lo (m.filter p) = true
  | [], _, _ => rfl
  | (k, v) :: t, lo, h => by
    rw [cellsFrom_cons, Bool.and_eq_true, Bool.and_eq_true] at h
    rw [List.filter_cons]
    split
    · rw [cellsFrom_cons, h.1.1, h.1.2]; simpa using wf_filter_from h.2
    · refine wf_filter_from (cellsFrom_weaken (lo := some k) ?_ h.2)
      intro j hj
      have : k < j := of_decide_eq_true hj
      cases lo with
      | none => rfl
      | some l => have := of_decide_eq_true h.1.1; exact decide_eq_true (by omega)

/-- Removing the bytes of a range keeps the canonical form. -/
theorem wf_cellClear {m : List Host.Cell} {lo hi : Nat} (h : Memory.wf m = true) : Memory.wf (cellClear m lo hi) = true := wf_filter_from h

/-- Taking the bytes of a range keeps the canonical form. -/
theorem wf_cellPart {m : List Host.Cell} {lo hi : Nat} (h : Memory.wf m = true) : Memory.wf (cellPart m lo hi) = true := wf_filter_from h

/-- Putting a part back keeps the canonical form. -/
theorem wf_cellRestore {part : List Host.Cell} {d : Int} : ∀ {m : List Host.Cell}, Memory.wf m = true → Memory.wf (cellRestore m part d) = true := by
  unfold cellRestore
  induction part with
  | nil => exact fun h => h
  | cons c t ih => exact fun h => ih (wf_cellWrite h)

/-- Storing bits keeps the canonical form. -/
theorem wf_bitsWrite {m : List Host.Cell} {t w x : Nat} (h : Memory.wf m = true) : Memory.wf (bitsWrite m t w x) = true := wf_cellWrites h

theorem cellRead_cellWrite_from : ∀ {m : List Host.Cell} {lo : Option Nat} {a x : Nat} {b : Byte}, cellsFrom lo m = true →
    cellRead (cellWrite m a b) x = if x = a then b else cellRead m x
  | [], lo, a, x, b, _ => by
    unfold cellWrite
    by_cases hb : b = 0#8
    · rw [if_pos hb]; split <;> simp [cellRead, hb]
    · rw [if_neg hb]
      simp only [cellRead]
      by_cases h : x = a
      · subst h; simp
      · simp [h]
  | (k, v) :: t, lo, a, x, b, h => by
    rw [cellsFrom_cons, Bool.and_eq_true, Bool.and_eq_true] at h
    unfold cellWrite
    by_cases h1 : a < k
    · rw [if_pos h1]
      by_cases hb : b = 0#8
      · rw [if_pos hb]
        by_cases hx : x = a
        · subst hx; rw [if_pos rfl, cellRead, if_pos h1, hb]
        · rw [if_neg hx]
      · rw [if_neg hb]
        by_cases hx : x = a
        · subst hx; simp [cellRead]
        · rw [if_neg hx, cellRead]
          by_cases h2 : x < a
          · rw [if_pos h2, cellRead, if_pos (by omega)]
          · rw [if_neg h2, if_neg hx]
    · rw [if_neg h1]
      by_cases e : a = k
      · subst e
        rw [if_pos rfl]
        by_cases hb : b = 0#8
        · rw [if_pos hb]
          by_cases hx : x = a
          · subst hx; rw [if_pos rfl, cellRead_below h.2 (Nat.le_refl _), hb]
          · rw [if_neg hx]
            by_cases h2 : x < a
            · rw [cellRead_below h.2 (by omega), cellRead, if_pos h2]
            · rw [cellRead, if_neg h2, if_neg hx]
        · rw [if_neg hb]
          by_cases hx : x = a
          · subst hx; simp [cellRead]
          · simp [hx, cellRead]
      · rw [if_neg e]
        have ih := cellRead_cellWrite_from (a := a) (x := x) (b := b) h.2
        by_cases h2 : x < k
        · rw [cellRead, if_pos h2, if_neg (by omega), cellRead, if_pos h2]
        · by_cases h3 : x = k
          · subst h3; rw [if_neg (fun c => e c.symm)]; simp [cellRead]
          · rw [cellRead, if_neg h2, if_neg h3, ih, cellRead, if_neg h2, if_neg h3]

/-- A byte store after one store: the stored byte, and every other byte as it was. -/
theorem cellRead_cellWrite {m : List Host.Cell} {a x : Nat} {b : Byte} (h : Memory.wf m = true) :
    cellRead (cellWrite m a b) x = if x = a then b else cellRead m x := cellRead_cellWrite_from h

/-- A byte store after a store of bytes: the stored bytes, and every other byte as it was. -/
theorem cellRead_cellWrites : ∀ {l : List Byte} {m : List Host.Cell} {a x : Nat}, Memory.wf m = true →
    cellRead (cellWrites m a l) x = if a ≤ x ∧ x < a + l.length then l.getD (x - a) 0#8 else cellRead m x
  | [], m, a, x, _ => by rw [cellWrites, if_neg (by simp)]
  | b :: t, m, a, x, h => by
    rw [cellWrites, cellRead_cellWrites (wf_cellWrite h), cellRead_cellWrite h]
    simp only [List.length_cons]
    by_cases e : x = a
    · subst e
      rw [if_neg (by omega), if_pos rfl, if_pos (by omega), Nat.sub_self]; rfl
    · by_cases e2 : a + 1 ≤ x ∧ x < a + 1 + t.length
      · rw [if_pos e2, if_pos (by omega)]
        obtain ⟨n, hn⟩ : ∃ n, x - a = n + 1 := ⟨x - a - 1, by omega⟩
        rw [hn, show x - (a + 1) = n by omega]; rfl
      · rw [if_neg e2, if_neg e, if_neg (by omega)]

/-- A reduction keeps the canonical form. -/
theorem applyRed_wf {s : State} {e : RedEnt} (h : Memory.wf s.mem = true) : Memory.wf (s.applyRed e).mem = true := by
  unfold State.applyRed
  split
  · exact h
  · exact wf_cellWrites h

theorem applyReds_wf : ∀ {l : List RedEnt} {s : State}, Memory.wf s.mem = true → Memory.wf (l.foldl State.applyRed s).mem = true
  | [], _, h => h
  | _ :: t, _, h => applyReds_wf (l := t) (applyRed_wf h)

/-- Applying the queued reductions of a range keeps the canonical form. -/
theorem drain_wf {s : State} {pa n : Nat} (h : Memory.wf s.mem = true) : Memory.wf (s.drain pa n).mem = true := applyReds_wf h

/-- A store to physical memory keeps the canonical form. -/
theorem poke_wf {s : State} {pa : Nat} {b : List Byte} (h : Memory.wf s.mem = true) : Memory.wf (s.poke pa b).mem = true :=
  wf_cellWrites (drain_wf h)

theorem applyReds_frame : ∀ (l : List RedEnt) (s : State), ∃ m ec er el, l.foldl State.applyRed s =
    { s with mem := m, errCounts := ec, errRing := er, errLost := el }
  | [], s => ⟨_, _, _, _, rfl⟩
  | e :: t, s => by
    obtain ⟨m, ec, er, el, h⟩ := applyReds_frame t (s.applyRed e)
    rw [List.foldl_cons, h]
    unfold State.applyRed
    split
    · exact ⟨_, _, _, _, rfl⟩
    · exact ⟨_, _, _, _, rfl⟩

/-- Applying queued reductions changes memory, the queue and the error log only. -/
theorem drain_frame (s : State) (pa n : Nat) : ∃ m r ec er el, s.drain pa n =
    { s with mem := m, redQueue := r, errCounts := ec, errRing := er, errLost := el } := by
  obtain ⟨m, ec, er, el, h⟩ := applyReds_frame (s.redQueue.filter (fun e => e.touches pa n)) s
  exact ⟨m, _, ec, er, el, by unfold State.drain; dsimp only; rw [h]⟩

/-- A store to physical memory changes memory, its marks, the reduction queue and the error log only. -/
theorem poke_frame (s : State) (pa : Nat) (b : List Byte) : ∃ m p r ec er el, s.poke pa b =
    { s with mem := m, memP := p, redQueue := r, errCounts := ec, errRing := er, errLost := el } := by
  obtain ⟨m, r, ec, er, el, h⟩ := drain_frame s pa b.length
  exact ⟨_, _, r, ec, er, el, by unfold State.poke; dsimp only; rw [h]⟩

end Sys2Proof.Laws
end

