-- ==== Sys2Proof/Laws/Results.lean ====
section
/-! SUPPORT. What each shape of register instruction answers when nothing holds it back. -/

namespace Sys2Proof.Laws

open Sys2Proof.Machine Sys2Proof.Safety

theorem pure1_noTrap (c : Ctx) (u : Bool) (f : Nat → Word) : Safety.noTrap c u (pure1 f) = true := by
  simp [Safety.noTrap, pure1, Flags.traps, Flags.ieee, Flags.none]

theorem pure2_noTrap (c : Ctx) (u : Bool) (f : Nat → DWord) : Safety.noTrap c u (pure2 f) = true := by
  simp [Safety.noTrap, pure2, Flags.traps, Flags.ieee, Flags.none]

theorem ieee_none : Flags.none.ieee = 0#4 := by decide

theorem ieee_ofSat (b : Bool) : (Flags.ofSat b).ieee = 0#4 := by cases b <;> decide

/-- An instruction of class S that computes on registers. -/
theorem compute_issue {op : Op} {s : State} {c : Ctx} {u : Bool} {d : BitVec 7} {g : Ctx → Nat → List Word × Flags}
    (hl : op.long = false) (hc : s.ctx? = some c) (hk : clear c op.litB op.uses = true) (hp : Plain op s c)
    (ht : Safety.noTrap c u (g c) = true) :
    issue op s (fun c s => compute u d.toNat (g c) c s) = .next (after s c (onWave c (results c u d (g c)))) := by
  rw [issue_clear _ hc hk hp]
  simp only [compute_clear ht, after, State.finish, hl]
  rfl

/-- An instruction of class S that changes its own wave and goes on. -/
theorem wave_issue {op : Op} {s : State} {c : Ctx} {f : Ctx → Wave → Wave} (hl : op.long = false) (hc : s.ctx? = some c)
    (hk : clear c op.litB op.uses = true) (hp : Plain op s c) :
    issue op s (fun c s => (s.modWave c.cur.g c.cur.w (fun wv => f c wv), .next)) = .next (after s c (onWave c (f c))) := by
  rw [issue_clear _ hc hk hp]
  simp only [after, State.finish, hl]
  rfl

theorem computeMask_clear {u : Bool} {d : BitVec 7} {f : Nat → Bool × Flags} {c : Ctx} {s : State}
    (h : noTrapM c u f = true) : computeMask u d.toNat f c s = (onWave c (maskResults c u d f) s, .next) := by
  have hall : ∀ r ∈ (if u then [0] else c.lanes).map (fun i => (i, f i)), (!r.2.2.traps c.wave.sr.fpmode) = true := by
    intro r hr
    obtain ⟨i, hi, rfl⟩ := List.mem_map.mp hr
    exact List.all_eq_true.mp h i hi
  have hrec : ((if u then [0] else c.lanes).map (fun i => (i, f i))).filter (fun r => r.2.2.traps c.wave.sr.fpmode) = [] := by
    rw [List.filter_eq_nil_iff]
    intro r hr
    have := hall r hr
    simpa using this
  simp only [computeMask, List.filter_eq_self.mpr hall, hrec, List.map_nil, List.isEmpty_nil, if_true, onWave, Prod.mk.injEq,
    and_true]
  congr 1
  funext wv
  cases u
  · simp only [maskResults, Bool.false_eq_true, if_false, List.map_map, List.filter_map]
    congr 2 <;> simp [Function.comp_def]
  · simp [maskResults, Flags.unions, Flags.union, Flags.none]

theorem mask_issue {op : Op} {s : State} {c : Ctx} {u : Bool} {d : BitVec 7} {g : Ctx → Nat → Bool × Flags}
    (hl : op.long = false) (hc : s.ctx? = some c) (hk : clear c op.litB op.uses = true) (hp : Plain op s c)
    (ht : noTrapM c u (g c) = true) :
    issue op s (fun c s => computeMask u d.toNat (g c) c s) = .next (after s c (onWave c (maskResults c u d (g c)))) := by
  rw [issue_clear _ hc hk hp]
  simp only [computeMask_clear ht, after, State.finish, hl]
  rfl

/-- Nothing else holds back an instruction that only names registers. -/
theorem plainRegs {op : Op} {s : State} {c : Ctx} (bad : op.bad = none := by rfl) (illegal : op.illegal = false := by rfl)
    (also : op.also = [] := by rfl) (priv : op.priv = false := by rfl) (noTrap : op.noTrap = false := by rfl)
    (on : op.on = .any := by rfl) (cross : op.cross = fun _ => [] := by rfl) (crossWr : op.crossWr = false := by rfl)
    (mem : op.mem = false := by rfl) (ctr : op.ctr = 8 := by rfl) (hold : op.hold = false := by rfl)
    (nop : op.nop = false := by rfl) : Plain op s c where
  bad := bad
  illegal := illegal
  also := by rw [also]; rfl
  priv := .inl priv
  noTrap := .inl noTrap
  on := by rw [on]; rfl
  cross := by rw [cross]; simp
  crossWr := by rw [crossWr]; simp
  mem := .inl mem
  ctr := by rw [ctr]; simp
  hold := hold
  nop := nop

/-! ### The shapes of groups 0 to 4 -/

theorem intRR_clear {u : Bool} {d a b : BitVec 7} {s : State} {c : Ctx} {f : Word → Word → Word} (hc : s.ctx? = some c)
    (hk : clear c b [rdR u a, rdB u b, wrR u d] = true) :
    intRR u d a b s f = .next (after s c (onWave c (results c u d (pure1 fun i => f (c.A u a i) (c.B u b i))))) :=
  compute_issue rfl hc hk plainRegs (pure1_noTrap ..)

theorem intRRd_clear {u : Bool} {d a b : BitVec 7} {s : State} {c : Ctx} {f : Word → Word → Word → Word}
    (hc : s.ctx? = some c) (hk : clear c b [rdR u a, rdB u b, rdR u d, wrR u d] = true) :
    intRRd u d a b s f =
      .next (after s c (onWave c (results c u d (pure1 fun i => f (c.A u d i) (c.A u a i) (c.B u b i))))) :=
  compute_issue rfl hc hk plainRegs (pure1_noTrap ..)

theorem intRI_clear {u : Bool} {d a im : BitVec 7} {s : State} {c : Ctx} {f : Word → Word → Word} (hc : s.ctx? = some c)
    (hk : clear c 0#7 [rdR u a, wrR u d] = true) :
    intRI u d a im s f = .next (after s c (onWave c (results c u d (pure1 fun i => f (c.A u a i) (im.signExtend 32))))) :=
  compute_issue rfl hc hk plainRegs (pure1_noTrap ..)

theorem intRId_clear {u : Bool} {d a im : BitVec 7} {s : State} {c : Ctx} {f : Word → Word → Word → Word}
    (hc : s.ctx? = some c) (hk : clear c 0#7 [rdR u a, rdR u d, wrR u d] = true) :
    intRId u d a im s f =
      .next (after s c (onWave c (results c u d (pure1 fun i => f (c.A u d i) (c.A u a i) (im.signExtend 32))))) :=
  compute_issue rfl hc hk plainRegs (pure1_noTrap ..)

theorem intR_clear {u : Bool} {d a : BitVec 7} {s : State} {c : Ctx} {f : Word → Word} (hc : s.ctx? = some c)
    (hk : clear c 0#7 [rdR u a, wrR u d] = true) :
    intR u d a s f = .next (after s c (onWave c (results c u d (pure1 fun i => f (c.A u a i))))) :=
  compute_issue rfl hc hk plainRegs (pure1_noTrap ..)

/-- A list of field rules of which none is broken. -/
theorem firstBroken_none {l : List Rule} (h : l.all (fun r => r.1) = true) : firstBroken l = none := by
  induction l with
  | nil => rfl
  | cons r t ih =>
    simp only [List.all_cons, Bool.and_eq_true] at h
    obtain ⟨ok, m⟩ := r
    simp only at h
    simp [firstBroken, h.1, ih h.2]

theorem int64_clear {u : Bool} {d a b : BitVec 7} {s : State} {c : Ctx} {f : DWord → DWord → DWord} (hc : s.ctx? = some c)
    (hd : d.toNat % 2 = 0) (ha : a.toNat % 2 = 0) (hb : b.toNat % 2 = 0)
    (hk : clear c b [rdR u a 2, rdB u b 2, wrR u d 2] = true) :
    int64 u d a b s f = .next (after s c (onWave c (results c u d (pure2 fun i => f (c.A64 u a i) (c.B64 u b i))))) :=
  compute_issue rfl hc hk (plainRegs (bad := firstBroken_none (by simp [multipleOf, hd, ha, hb]))) (pure2_noTrap ..)

theorem intWide_clear {u : Bool} {d a b : BitVec 7} {s : State} {c : Ctx} {f : Word → Word → DWord} (hc : s.ctx? = some c)
    (hd : d.toNat % 2 = 0) (hk : clear c b [rdR u a, rdB u b, wrR u d 2] = true) :
    intWide u d a b s f = .next (after s c (onWave c (results c u d (pure2 fun i => f (c.A u a i) (c.B u b i))))) :=
  compute_issue rfl hc hk (plainRegs (bad := firstBroken_none (by simp [multipleOf, hd]))) (pure2_noTrap ..)

end Sys2Proof.Laws
end

