-- ==== Sys2Proof/Laws/Plain.lean ====
section
/-! SUPPORT. When nothing holds an instruction back, and what each kind of its end leaves. -/

namespace Sys2Proof.Laws

open Sys2Proof.Machine Sys2Proof.Safety

/-- Nothing else holds back an instruction beside what its counter, unit, fence and hold say. -/
theorem plainU {op : Op} {s : State} {c : Ctx} (hb : op.bad = none) (hc : op.ctr < 8 → c.wave.counters.getD op.ctr 0 < 63)
  (hon : runsOn op.on s c.grp.core = true) (hm : op.mem = false ∨ fenced c = false) (hh : op.hold = false) (ha : op.also.all (Use.inRange c.lau.lregs c.lau.sregs) = true) (h1 : op.illegal = false := by rfl)
  (h3 : op.priv = false := by rfl) (h4 : op.noTrap = false := by rfl) (h6 : op.cross = fun _ => [] := by rfl) (h7 : op.crossWr = false := by rfl)
  (h11 : op.nop = false := by rfl) : Plain op s c :=
  ⟨hb, h1, ha, .inl h3, .inl h4, hon, by rw [h6]; simp, by rw [h7]; simp, hm, hc, hh, h11⟩

/-- The same for one that may not run at the trap level. -/
theorem plainT {op : Op} {s : State} {c : Ctx} (ht : c.wave.trapLevel c.cur.sp = false) (bad : op.bad = none := by rfl) (illegal : op.illegal = false := by rfl)
    (also : op.also = [] := by rfl) (priv : op.priv = false := by rfl)
    (on : op.on = .any := by rfl) (cross : op.cross = fun _ => [] := by rfl) (crossWr : op.crossWr = false := by rfl)
    (mem : op.mem = false := by rfl) (ctr : op.ctr = 8 := by rfl) (hold : op.hold = false := by rfl)
    (nop : op.nop = false := by rfl) : Plain op s c where
  bad := bad
  illegal := illegal
  also := by rw [also]; rfl
  priv := .inl priv
  noTrap := .inr ht
  on := by rw [on]; rfl
  cross := by rw [cross]; simp
  crossWr := by rw [crossWr]; simp
  mem := .inl mem
  ctr := by rw [ctr]; simp
  hold := hold
  nop := nop

/-- The core of the issuing group. -/
theorem curCore_eq {s : State} {c : Ctx} (h : s.ctx? = some c) : s.curCore = c.grp.core := by simp [State.curCore, h]

/-- An object index below the launch's count exists. -/
theorem nobar {a : BitVec 7} {s : State} {c : Ctx} (hc : s.ctx? = some c) (h : a.toNat < c.lau.bars) : noBarrier a s = false := by
  simp [noBarrier, State.curLaunch, hc, h]

/-- With no open access nothing waits for a release. -/
theorem hold_free {s : State} {c : Ctx} (hc : s.ctx? = some c) (h : c.openAccesses = []) : unreleased s = false := by
  simp [unreleased, hc, h]

/-- The same for one that needs the trap level. -/
theorem plainP {op : Op} {s : State} {c : Ctx} (ht : c.wave.trapLevel c.cur.sp = true) (bad : op.bad = none := by rfl) (illegal : op.illegal = false := by rfl)
    (also : op.also = [] := by rfl) (noTrap : op.noTrap = false := by rfl)
    (on : op.on = .any := by rfl) (cross : op.cross = fun _ => [] := by rfl) (crossWr : op.crossWr = false := by rfl)
    (mem : op.mem = false := by rfl) (ctr : op.ctr = 8 := by rfl) (hold : op.hold = false := by rfl)
    (nop : op.nop = false := by rfl) : Plain op s c where
  bad := bad
  illegal := illegal
  also := by rw [also]; rfl
  priv := .inr ht
  noTrap := .inl noTrap
  on := by rw [on]; rfl
  cross := by rw [cross]; simp
  crossWr := by rw [crossWr]; simp
  mem := .inl mem
  ctr := by rw [ctr]; simp
  hold := hold
  nop := nop

/-- A class S instruction that transfers control. -/
theorem issue_jump {op : Op} {s : State} {c : Ctx} {body : Ctx → State → State × Flow} {e : State → State} {pc : DWord}
    (hl : op.long = false) (hc : s.ctx? = some c) (hk : clear c op.litB op.uses = true) (hp : Plain op s c)
    (hb : ∀ s, body c s = (e s, .jump pc)) : issue op s body = .next (jumped s c e pc) := by
  rw [issue_clear _ hc hk hp, hb]
  simp only [jumped, State.finish, hl]
  rfl

/-- A class S instruction after which its split does not go on. -/
theorem issue_stay {op : Op} {s : State} {c : Ctx} {body : Ctx → State → State × Flow} {e : State → State}
    (hl : op.long = false) (hc : s.ctx? = some c) (hk : clear c op.litB op.uses = true) (hp : Plain op s c)
    (hb : ∀ s, body c s = (e s, .stay)) : issue op s body = .next (stayed s c e) := by
  rw [issue_clear _ hc hk hp, hb]
  simp only [stayed, State.finish, hl]
  rfl

/-- A class S instruction that takes a trap. -/
theorem issue_trap {op : Op} {s : State} {c : Ctx} {body : Ctx → State → State × Flow} {e : State → State} {recs}
    (hl : op.long = false) (hc : s.ctx? = some c) (hk : clear c op.litB op.uses = true) (hp : Plain op s c)
    (hb : body c (started s c) = (e (started s c), .trap false recs)) : issue op s body = .next (trapped s c e recs) := by
  rw [issue_clear _ hc hk hp, hb]
  simp only [trapped, State.finish, hl]
  rfl

/-- An instruction that breaks a field rule raises `ILLEGAL_INSN` (spec/01 R42). -/
theorem issue_bad {op : Op} {s : State} {c : Ctx} {body : Ctx → State → State × Flow} {m} (hc : s.ctx? = some c) (hb : op.bad = some m)
    (hp : op.priv = false ∨ c.wave.trapLevel c.cur.sp = true) :
    issue op s body = .next (atIssue s c [c.splitRec cIllegalInsn]) := by
  have key : ∀ op' : Op, op'.bad = some m → op'.priv = op.priv → gate op' c s = .trap [c.splitRec cIllegalInsn] := by
    intro op' h1 h2
    have : (op'.priv && !c.wave.trapLevel c.cur.sp) = false := by rw [h2]; rcases hp with h | h <;> simp [h]
    unfold gate
    simp [this, h1]
  unfold issue
  rw [hc]; dsimp only
  by_cases hl : c.cur.lit.isSome
  · rw [if_pos hl, key { op with uses := op.uses.filter (fun x => !x.isB) } hb rfl]; rfl
  · rw [if_neg hl, key _ hb rfl]; rfl

/-- A function of trap level outside it raises `PRIV` (spec/01 R40). -/
theorem issue_priv {op : Op} {s : State} {c : Ctx} {body : Ctx → State → State × Flow} (hc : s.ctx? = some c) (hb : op.priv = true)
    (hp : c.wave.trapLevel c.cur.sp = false) :
    issue op s body = .next (atIssue s c [c.splitRec cPriv]) := by
  have key : ∀ op' : Op, op'.priv = true → gate op' c s = .trap [c.splitRec cPriv] := by
    intro op' h2
    have : (op'.priv && !c.wave.trapLevel c.cur.sp) = true := by rw [h2, hp]; rfl
    unfold gate
    simp [this]
  unfold issue
  rw [hc]; dsimp only
  by_cases hl : c.cur.lit.isSome
  · rw [if_pos hl, key { op with uses := op.uses.filter (fun x => !x.isB) } hb]; rfl
  · rw [if_neg hl, key _ hb]; rfl

/-- A unit that the core has not raises `UNIT_ABSENT` (spec/00 R4, spec/01 R43). -/
theorem issue_absent {op : Op} {s : State} {c : Ctx} {body : Ctx → State → State × Flow} (hc : s.ctx? = some c)
  (ho : runsOn op.on s c.grp.core = false)
  (hb : op.bad = none) (hi : op.illegal = false) (hp : op.priv = false) (hn : op.noTrap = false)
  (hl : c.cur.lit = none ∨ op.litB = 0#7) (hr : inAlloc c (used c op.uses) = true) (hal : inAlloc c op.also = true) : issue op s body = .next (atIssue s c [c.splitRec cUnitAbsent]) := by
  have key : gate (if c.cur.lit.isSome then { op with uses := op.uses.filter (fun x => !x.isB) } else op) c s = .trap [c.splitRec cUnitAbsent] := by
    have : (c.cur.lit.isSome && op.litB != 0#7) = false := by
      rcases hl with h | h <;> simp [h]
    unfold gate
    simp only [inAlloc, used] at hr hal
    split at hr <;> rename_i h
    · rw [if_pos h]; simp only [hp, hb, hi, hn, this, List.all_append, hr, hal, ho]; simp
    · rw [if_neg h]; simp only [hp, hb, hi, hn, this, List.all_append, hr, hal, ho]; simp
  unfold issue
  rw [hc]; dsimp only
  rw [key]; rfl

/-- When an instruction without elements of other lanes touches pending elements. -/
theorem touches_eq {op : Op} {c : Ctx} {uses : List Use} (hx : op.cross = fun _ => []) (hu : op.uses = used c uses) (uni : Bool) (regs : List Nat) (pl : Mask) (lanes : List Nat) :
   touches op c.act lanes uni regs pl = true ↔ ∃ x ∈ used c uses, meets c x uni regs pl := by
  simp [touches, hx, hu, meets, and_assoc]

/-- What the conditions of issue come to for an instruction that nothing holds: a breach of an open window, poison, or go
(spec/03 R78 R100). -/
theorem gate_unheld {op : Op} {s : State} {c : Ctx} {b : BitVec 7} {uses : List Use} (h : Unheld s c b uses) (hu : op.uses = used c uses) (hx : op.cross = fun _ => [])
   (hb : op.bad = none) (hi : op.illegal = false) (hp : op.priv = false) (hn : op.noTrap = false) (hl : op.litB = b) (ho : op.on = .any) (ha : op.also = [])
   (hno : op.nop = false) (hc : 8 ≤ op.ctr) (hm : op.mem = false) (hh : op.hold = false) (hca : op.carries = false) :
   (Breach c uses → c.wave.sr.strict = true → gate op c s = .trap [c.splitRec cLookahead]) ∧
   ((¬ Breach c uses ∨ c.wave.sr.strict = false) →
    (poisonRecs op c ≠ [] → gate op c s = .trap (poisonRecs op c)) ∧
    (poisonRecs op c = [] → (Breach c uses → gate op c s = .go true) ∧ (¬ Breach c uses → gate op c s = .go false))) := by
  have hlit : (c.cur.lit.isSome && op.litB != 0#7) = false := by rcases h.lit with h | h <;> simp [h, hl]
  have hreg : (op.uses ++ op.also).all (Use.inRange c.lau.lregs c.lau.sregs) = true := by rw [ha, hu, List.append_nil]; exact h.inside
  have hla : lookaheadHolds c = false := by
    simp only [lookaheadHolds, List.any_eq_false, Bool.and_eq_true, beq_iff_eq, not_and]
    intro x hx' h0; rw [h.windows x hx' h0]; simp
  have hsb : scoreboard op c = [] := by
    simp only [scoreboard, List.filter_eq_nil_iff]
    intro p hp' 
    simp only [Bool.and_eq_true, not_and, Bool.not_eq_true]
    intro hw
    rcases h.pending p hp' with ⟨x, hx1, hx2, hx3⟩ | hq
    · exfalso; simp only [Bool.not_eq_true', List.any_eq_false] at hw; exact hw x hx1 (by simp [hx2, hx3])
    · rw [Bool.eq_false_iff, ne_eq, touches_eq hx hu]; exact fun ⟨x, hx1, hx2⟩ => hq x hx1 hx2
  have hw : lowest (waits op c) = none := by
    have : ¬ op.ctr < 8 := by omega
    simp [waits, hla, hsb, this, hm, hh, lowest]
  have hbr : breaches op c = true ↔ Breach c uses := by
    simp only [breaches, List.any_eq_true, Bool.and_eq_true, decide_eq_true_eq, Breach, touches_eq hx hu]
  have g : gate op c s = if breaches op c && c.wave.sr.strict then .trap [c.splitRec cLookahead] else match poisonRecs op c with
        | [] => .go (breaches op c)
        | recs => .trap recs := by
    unfold gate
    simp only [hp, hb, hi, hn, hlit, hreg, ho, hno, hw, hca, runsOn]
    simp <;> rfl
  rw [g]
  by_cases hB : Breach c uses
  · have h2 := hbr.mpr hB
    cases hs : c.wave.sr.strict
    · simp only [hB, h2]
      cases hpr : poisonRecs op c <;> simp
    · simp [hB, h2]
  · have h2 : breaches op c = false := by rw [Bool.eq_false_iff, ne_eq, hbr]; exact hB
    simp only [h2, hB]
    cases hpr : poisonRecs op c <;> simp

end Sys2Proof.Laws
end

