-- ==== Sys2Proof/Laws/Reduction.lean ====
section
/-! SUPPORT. The byte that the device reads while reductions are queued: those of its own word, in arrival order. -/

namespace Sys2Proof.Laws

open Sys2Proof Sys2Proof.Machine

theorem leBytes_length : ∀ (n x : Nat), (leBytes n x).length = n
  | 0, _ => rfl
  | n + 1, x => by simp [leBytes, leBytes_length n]

/-- A reduction changes the bytes of its own word only. -/
theorem applyRed_other {s : State} {e : RedEnt} {x : Nat} (h : Memory.wf s.mem = true) (hx : x / 4 ≠ e.word) : cellRead (s.applyRed e).mem x = cellRead s.mem x := by
  unfold State.applyRed
  split
  · rfl
  · dsimp only
    rw [cellRead_cellWrites h, leBytes_length, if_neg (by unfold RedEnt.addr; omega)]

theorem applyRed_memP {s : State} {e : RedEnt} : (s.applyRed e).memP = s.memP := by unfold State.applyRed; split <;> rfl

theorem cellBytes_congr {m m' : List Host.Cell} : ∀ (n a : Nat), (∀ x, a ≤ x → x < a + n → cellRead m x = cellRead m' x) → cellBytes m a n = cellBytes m' a n
  | 0, a, _ => rfl
  | n + 1, a, h => by
    rw [cellBytes, cellBytes, h a (by omega) (by omega), cellBytes_congr n (a + 1) (fun x h1 h2 => h x (by omega) (by omega))]

/-- What a reduction makes of its word depends on that word and its mark only. -/
theorem applyRed_same {s t : State} {e : RedEnt} {x : Nat} (hs : Memory.wf s.mem = true) (ht : Memory.wf t.mem = true) (hx : x / 4 = e.word)
    (hm : ∀ y, y / 4 = e.word → cellRead s.mem y = cellRead t.mem y) (hp : marked s.memP e.addr 4 = marked t.memP e.addr 4) : cellRead (s.applyRed e).mem x = cellRead (t.applyRed e).mem x := by
  unfold State.applyRed
  rw [hp]
  split
  · exact hm x hx
  · dsimp only
    rw [cellRead_cellWrites hs, cellRead_cellWrites ht, leBytes_length, leBytes_length]
    rw [cellBytes_congr (m := s.mem) (m' := t.mem) 4 e.addr (fun y h1 h2 => hm y (by unfold RedEnt.addr at h1 h2; omega))]
    split
    · rfl
    · exact hm x hx

/-- A byte after a list of reductions depends on those of its word only. -/
theorem fold_word : ∀ (l : List RedEnt) (s t : State) (k : Nat), Memory.wf s.mem = true → Memory.wf t.mem = true → (∀ y, y / 4 = k → cellRead s.mem y = cellRead t.mem y) →
    marked s.memP (4 * k) 4 = marked t.memP (4 * k) 4 →
    ∀ y, y / 4 = k → cellRead (l.foldl State.applyRed s).mem y = cellRead ((l.filter (fun e => e.word == k)).foldl State.applyRed t).mem y
  | [], s, t, k, _, _, h, _ => h
  | e :: l, s, t, k, hs, ht, h, hp => by
    intro y hy
    rw [List.filter_cons]
    by_cases he : e.word = k
    · rw [if_pos (by simp [he])]
      refine fold_word l _ _ k (applyRed_wf hs) (applyRed_wf ht) ?_ ?_ y hy
      · intro z hz
        exact applyRed_same hs ht (by omega) (fun y hy => h y (by omega)) (by unfold RedEnt.addr; rw [he]; exact hp)
      · rw [applyRed_memP, applyRed_memP]; exact hp
    · rw [if_neg (by simp [he])]
      refine fold_word l _ _ k (applyRed_wf hs) ht ?_ ?_ y hy
      · intro z hz; rw [applyRed_other hs (by omega)]; exact h z hz
      · rw [applyRed_memP]; exact hp

/-- The byte at `x`: the reductions of its word applied. -/
theorem peek_byte {s : State} (h : Memory.wf s.mem = true) (x : Nat) :
    (s.peek x 1).headD 0#8 = cellRead ((s.redQueue.filter (fun e => e.word == x / 4)).foldl State.applyRed s).mem x := by
  have : (s.peek x 1).headD 0#8 = cellRead ((s.redQueue.filter (fun e => e.touches x 1)).foldl State.applyRed s).mem x := rfl
  rw [this, fold_word _ s s (x / 4) h h (fun _ _ => rfl) rfl x rfl, List.filter_filter]
  congr 3
  apply List.filter_congr
  intro e _
  unfold RedEnt.touches RedEnt.line
  by_cases he : e.word = x / 4
  · simp [he]; omega
  · simp [he]

theorem drain_memP (s : State) (pa n : Nat) : (s.drain pa n).memP = s.memP := by
  have : ∀ (l : List RedEnt) (s : State), (l.foldl State.applyRed s).memP = s.memP := by
    intro l; induction l with
    | nil => intro s; rfl
    | cons a t ih => intro s; rw [List.foldl_cons, ih, applyRed_memP]
  exact this _ s

/-- Applying queued reductions early changes no byte that the device reads. -/
theorem peek_drain {s : State} (h : Memory.wf s.mem = true) (pa n x : Nat) : ((s.drain pa n).peek x 1).headD 0#8 = (s.peek x 1).headD 0#8 := by
  rw [peek_byte (drain_wf h), peek_byte h]
  have e1 : (s.drain pa n).redQueue = s.redQueue.filter (fun e => !e.touches pa n) := rfl
  rw [e1]
  by_cases ht : pa / 128 ≤ x / 128 ∧ x / 128 ≤ (pa + n - 1) / 128
  · have e2 : (s.redQueue.filter (fun e => !e.touches pa n)).filter (fun e => e.word == x / 4) = [] := by
      rw [List.filter_filter, List.filter_eq_nil_iff]
      intro e _ hc
      simp only [Bool.and_eq_true, beq_iff_eq, Bool.not_eq_true'] at hc
      have : e.touches pa n = true := by unfold RedEnt.touches RedEnt.line; rw [hc.1]; simp; omega
      rw [this] at hc; simp at hc
    rw [e2]
    have : (s.drain pa n).mem = ((s.redQueue.filter (fun e => e.touches pa n)).foldl State.applyRed s).mem := rfl
    show cellRead (s.drain pa n).mem x = _
    rw [this, fold_word _ s s (x / 4) h h (fun _ _ => rfl) rfl x rfl, List.filter_filter]
    congr 3
    apply List.filter_congr
    intro e _
    by_cases he : e.word = x / 4
    · simp [he]; unfold RedEnt.touches RedEnt.line; rw [he]; simp; omega
    · simp [he]
  · have e2 : (s.redQueue.filter (fun e => !e.touches pa n)).filter (fun e => e.word == x / 4) = s.redQueue.filter (fun e => e.word == x / 4) := by
      rw [List.filter_filter]
      apply List.filter_congr
      intro e _
      by_cases he : e.word = x / 4
      · simp [he]; unfold RedEnt.touches RedEnt.line; rw [he]; simp; omega
      · simp [he]
    rw [e2]
    have := fold_word (s.redQueue.filter (fun e => e.word == x / 4)) (s.drain pa n) s (x / 4) (drain_wf h) h ?_ (by rw [drain_memP]) x rfl
    · rw [this, List.filter_filter]; congr 3; apply List.filter_congr; intro e _; simp
    · intro y hy
      have hm : (s.drain pa n).mem = ((s.redQueue.filter (fun e => e.touches pa n)).foldl State.applyRed s).mem := rfl
      rw [hm, fold_word _ s s (x / 4) h h (fun _ _ => rfl) rfl y hy, List.filter_filter]
      have : s.redQueue.filter (fun e => (e.word == x / 4) && e.touches pa n) = [] := by
        rw [List.filter_eq_nil_iff]
        intro e _ hc
        simp only [Bool.and_eq_true, beq_iff_eq] at hc
        have hc2 := hc.2
        unfold RedEnt.touches RedEnt.line at hc2
        rw [hc.1] at hc2; simp at hc2; omega
      rw [this]; rfl

end Sys2Proof.Laws
end

