-- ==== Sys2Proof/Laws/State.lean ====
section
/-! SUPPORT. The fields of the state after each of its updates, so that no proof unfolds one: a field that an update does
not touch, and the elements of the one it does. -/

namespace Sys2Proof.Laws

open Sys2Proof Sys2Proof.Machine

/-! ### modGroup -/

@[simp] theorem modGroup_mem (s : State) (g : Nat) (f : Group → Group) : (s.modGroup g f).mem = s.mem := rfl
@[simp] theorem modGroup_memP (s : State) (g : Nat) (f : Group → Group) : (s.modGroup g f).memP = s.memP := rfl
@[simp] theorem modGroup_mix (s : State) (g : Nat) (f : Group → Group) : (s.modGroup g f).mix = s.mix := rfl
@[simp] theorem modGroup_boot (s : State) (g : Nat) (f : Group → Group) : (s.modGroup g f).boot = s.boot := rfl
@[simp] theorem modGroup_norImage (s : State) (g : Nat) (f : Group → Group) : (s.modGroup g f).norImage = s.norImage := rfl
@[simp] theorem modGroup_journal (s : State) (g : Nat) (f : Group → Group) : (s.modGroup g f).journal = s.journal := rfl
@[simp] theorem modGroup_chain (s : State) (g : Nat) (f : Group → Group) : (s.modGroup g f).chain = s.chain := rfl
@[simp] theorem modGroup_fuses (s : State) (g : Nat) (f : Group → Group) : (s.modGroup g f).fuses = s.fuses := rfl
@[simp] theorem modGroup_rowset (s : State) (g : Nat) (f : Group → Group) : (s.modGroup g f).rowset = s.rowset := rfl
@[simp] theorem modGroup_softRepair (s : State) (g : Nat) (f : Group → Group) : (s.modGroup g f).softRepair = s.softRepair := rfl
@[simp] theorem modGroup_fwImage (s : State) (g : Nat) (f : Group → Group) : (s.modGroup g f).fwImage = s.fwImage := rfl
@[simp] theorem modGroup_dies (s : State) (g : Nat) (f : Group → Group) : (s.modGroup g f).dies = s.dies := rfl
@[simp] theorem modGroup_cfg (s : State) (g : Nat) (f : Group → Group) : (s.modGroup g f).cfg = s.cfg := rfl
@[simp] theorem modGroup_dtime (s : State) (g : Nat) (f : Group → Group) : (s.modGroup g f).dtime = s.dtime := rfl
@[simp] theorem modGroup_columns (s : State) (g : Nat) (f : Group → Group) : (s.modGroup g f).columns = s.columns := rfl
@[simp] theorem modGroup_colAllocs (s : State) (g : Nat) (f : Group → Group) : (s.modGroup g f).colAllocs = s.colAllocs := rfl
@[simp] theorem modGroup_jobs (s : State) (g : Nat) (f : Group → Group) : (s.modGroup g f).jobs = s.jobs := rfl
@[simp] theorem modGroup_queues (s : State) (g : Nat) (f : Group → Group) : (s.modGroup g f).queues = s.queues := rfl
@[simp] theorem modGroup_launches (s : State) (g : Nat) (f : Group → Group) : (s.modGroup g f).launches = s.launches := rfl
@[simp] theorem modGroup_graphs (s : State) (g : Nat) (f : Group → Group) : (s.modGroup g f).graphs = s.graphs := rfl
@[simp] theorem modGroup_requests (s : State) (g : Nat) (f : Group → Group) : (s.modGroup g f).requests = s.requests := rfl
@[simp] theorem modGroup_nextReq (s : State) (g : Nat) (f : Group → Group) : (s.modGroup g f).nextReq = s.nextReq := rfl
@[simp] theorem modGroup_svcOff (s : State) (g : Nat) (f : Group → Group) : (s.modGroup g f).svcOff = s.svcOff := rfl
@[simp] theorem modGroup_trees (s : State) (g : Nat) (f : Group → Group) : (s.modGroup g f).trees = s.trees := rfl
@[simp] theorem modGroup_streams (s : State) (g : Nat) (f : Group → Group) : (s.modGroup g f).streams = s.streams := rfl
@[simp] theorem modGroup_xbar (s : State) (g : Nat) (f : Group → Group) : (s.modGroup g f).xbar = s.xbar := rfl
@[simp] theorem modGroup_gcmds (s : State) (g : Nat) (f : Group → Group) : (s.modGroup g f).gcmds = s.gcmds := rfl
@[simp] theorem modGroup_refits (s : State) (g : Nat) (f : Group → Group) : (s.modGroup g f).refits = s.refits := rfl
@[simp] theorem modGroup_redQueue (s : State) (g : Nat) (f : Group → Group) : (s.modGroup g f).redQueue = s.redQueue := rfl
@[simp] theorem modGroup_hostReds (s : State) (g : Nat) (f : Group → Group) : (s.modGroup g f).hostReds = s.hostReds := rfl
@[simp] theorem modGroup_llcHost (s : State) (g : Nat) (f : Group → Group) : (s.modGroup g f).llcHost = s.llcHost := rfl
@[simp] theorem modGroup_hostMem (s : State) (g : Nat) (f : Group → Group) : (s.modGroup g f).hostMem = s.hostMem := rfl
@[simp] theorem modGroup_hostMemP (s : State) (g : Nat) (f : Group → Group) : (s.modGroup g f).hostMemP = s.hostMemP := rfl
@[simp] theorem modGroup_tlb (s : State) (g : Nat) (f : Group → Group) : (s.modGroup g f).tlb = s.tlb := rfl
@[simp] theorem modGroup_walks (s : State) (g : Nat) (f : Group → Group) : (s.modGroup g f).walks = s.walks := rfl
@[simp] theorem modGroup_hcopies (s : State) (g : Nat) (f : Group → Group) : (s.modGroup g f).hcopies = s.hcopies := rfl
@[simp] theorem modGroup_qpRates (s : State) (g : Nat) (f : Group → Group) : (s.modGroup g f).qpRates = s.qpRates := rfl
@[simp] theorem modGroup_rates (s : State) (g : Nat) (f : Group → Group) : (s.modGroup g f).rates = s.rates := rfl
@[simp] theorem modGroup_secured (s : State) (g : Nat) (f : Group → Group) : (s.modGroup g f).secured = s.secured := rfl
@[simp] theorem modGroup_errCounts (s : State) (g : Nat) (f : Group → Group) : (s.modGroup g f).errCounts = s.errCounts := rfl
@[simp] theorem modGroup_errRing (s : State) (g : Nat) (f : Group → Group) : (s.modGroup g f).errRing = s.errRing := rfl
@[simp] theorem modGroup_errLost (s : State) (g : Nat) (f : Group → Group) : (s.modGroup g f).errLost = s.errLost := rfl
@[simp] theorem modGroup_corrected (s : State) (g : Nat) (f : Group → Group) : (s.modGroup g f).corrected = s.corrected := rfl
@[simp] theorem modGroup_repairDue (s : State) (g : Nat) (f : Group → Group) : (s.modGroup g f).repairDue = s.repairDue := rfl
@[simp] theorem modGroup_found (s : State) (g : Nat) (f : Group → Group) : (s.modGroup g f).found = s.found := rfl
@[simp] theorem modGroup_darnReply (s : State) (g : Nat) (f : Group → Group) : (s.modGroup g f).darnReply = s.darnReply := rfl
@[simp] theorem modGroup_clocks (s : State) (g : Nat) (f : Group → Group) : (s.modGroup g f).clocks = s.clocks := rfl
@[simp] theorem modGroup_powerLimit (s : State) (g : Nat) (f : Group → Group) : (s.modGroup g f).powerLimit = s.powerLimit := rfl
@[simp] theorem modGroup_powerLog (s : State) (g : Nat) (f : Group → Group) : (s.modGroup g f).powerLog = s.powerLog := rfl
@[simp] theorem modGroup_powerLow (s : State) (g : Nat) (f : Group → Group) : (s.modGroup g f).powerLow = s.powerLow := rfl
@[simp] theorem modGroup_cores (s : State) (g : Nat) (f : Group → Group) : (s.modGroup g f).cores = s.cores := rfl
@[simp] theorem modGroup_outbox (s : State) (g : Nat) (f : Group → Group) : (s.modGroup g f).outbox = s.outbox := rfl
@[simp] theorem modGroup_agenda (s : State) (g : Nat) (f : Group → Group) : (s.modGroup g f).agenda = s.agenda := rfl
@[simp] theorem modGroup_tick (s : State) (g : Nat) (f : Group → Group) : (s.modGroup g f).tick = s.tick := rfl
@[simp] theorem modGroup_free (s : State) (g : Nat) (f : Group → Group) : (s.modGroup g f).free = s.free := rfl
@[simp] theorem modGroup_cur (s : State) (g : Nat) (f : Group → Group) : (s.modGroup g f).cur = s.cur := rfl
@[simp] theorem modGroup_stalled (s : State) (g : Nat) (f : Group → Group) : (s.modGroup g f).stalled = s.stalled := rfl

/-! ### modWave -/

@[simp] theorem modWave_mem (s : State) (g w : Nat) (f : Wave → Wave) : (s.modWave g w f).mem = s.mem := rfl
@[simp] theorem modWave_memP (s : State) (g w : Nat) (f : Wave → Wave) : (s.modWave g w f).memP = s.memP := rfl
@[simp] theorem modWave_mix (s : State) (g w : Nat) (f : Wave → Wave) : (s.modWave g w f).mix = s.mix := rfl
@[simp] theorem modWave_boot (s : State) (g w : Nat) (f : Wave → Wave) : (s.modWave g w f).boot = s.boot := rfl
@[simp] theorem modWave_norImage (s : State) (g w : Nat) (f : Wave → Wave) : (s.modWave g w f).norImage = s.norImage := rfl
@[simp] theorem modWave_journal (s : State) (g w : Nat) (f : Wave → Wave) : (s.modWave g w f).journal = s.journal := rfl
@[simp] theorem modWave_chain (s : State) (g w : Nat) (f : Wave → Wave) : (s.modWave g w f).chain = s.chain := rfl
@[simp] theorem modWave_fuses (s : State) (g w : Nat) (f : Wave → Wave) : (s.modWave g w f).fuses = s.fuses := rfl
@[simp] theorem modWave_rowset (s : State) (g w : Nat) (f : Wave → Wave) : (s.modWave g w f).rowset = s.rowset := rfl
@[simp] theorem modWave_softRepair (s : State) (g w : Nat) (f : Wave → Wave) : (s.modWave g w f).softRepair = s.softRepair := rfl
@[simp] theorem modWave_fwImage (s : State) (g w : Nat) (f : Wave → Wave) : (s.modWave g w f).fwImage = s.fwImage := rfl
@[simp] theorem modWave_dies (s : State) (g w : Nat) (f : Wave → Wave) : (s.modWave g w f).dies = s.dies := rfl
@[simp] theorem modWave_cfg (s : State) (g w : Nat) (f : Wave → Wave) : (s.modWave g w f).cfg = s.cfg := rfl
@[simp] theorem modWave_dtime (s : State) (g w : Nat) (f : Wave → Wave) : (s.modWave g w f).dtime = s.dtime := rfl
@[simp] theorem modWave_columns (s : State) (g w : Nat) (f : Wave → Wave) : (s.modWave g w f).columns = s.columns := rfl
@[simp] theorem modWave_colAllocs (s : State) (g w : Nat) (f : Wave → Wave) : (s.modWave g w f).colAllocs = s.colAllocs := rfl
@[simp] theorem modWave_jobs (s : State) (g w : Nat) (f : Wave → Wave) : (s.modWave g w f).jobs = s.jobs := rfl
@[simp] theorem modWave_queues (s : State) (g w : Nat) (f : Wave → Wave) : (s.modWave g w f).queues = s.queues := rfl
@[simp] theorem modWave_launches (s : State) (g w : Nat) (f : Wave → Wave) : (s.modWave g w f).launches = s.launches := rfl
@[simp] theorem modWave_graphs (s : State) (g w : Nat) (f : Wave → Wave) : (s.modWave g w f).graphs = s.graphs := rfl
@[simp] theorem modWave_requests (s : State) (g w : Nat) (f : Wave → Wave) : (s.modWave g w f).requests = s.requests := rfl
@[simp] theorem modWave_nextReq (s : State) (g w : Nat) (f : Wave → Wave) : (s.modWave g w f).nextReq = s.nextReq := rfl
@[simp] theorem modWave_svcOff (s : State) (g w : Nat) (f : Wave → Wave) : (s.modWave g w f).svcOff = s.svcOff := rfl
@[simp] theorem modWave_trees (s : State) (g w : Nat) (f : Wave → Wave) : (s.modWave g w f).trees = s.trees := rfl
@[simp] theorem modWave_streams (s : State) (g w : Nat) (f : Wave → Wave) : (s.modWave g w f).streams = s.streams := rfl
@[simp] theorem modWave_xbar (s : State) (g w : Nat) (f : Wave → Wave) : (s.modWave g w f).xbar = s.xbar := rfl
@[simp] theorem modWave_gcmds (s : State) (g w : Nat) (f : Wave → Wave) : (s.modWave g w f).gcmds = s.gcmds := rfl
@[simp] theorem modWave_refits (s : State) (g w : Nat) (f : Wave → Wave) : (s.modWave g w f).refits = s.refits := rfl
@[simp] theorem modWave_redQueue (s : State) (g w : Nat) (f : Wave → Wave) : (s.modWave g w f).redQueue = s.redQueue := rfl
@[simp] theorem modWave_hostReds (s : State) (g w : Nat) (f : Wave → Wave) : (s.modWave g w f).hostReds = s.hostReds := rfl
@[simp] theorem modWave_llcHost (s : State) (g w : Nat) (f : Wave → Wave) : (s.modWave g w f).llcHost = s.llcHost := rfl
@[simp] theorem modWave_hostMem (s : State) (g w : Nat) (f : Wave → Wave) : (s.modWave g w f).hostMem = s.hostMem := rfl
@[simp] theorem modWave_hostMemP (s : State) (g w : Nat) (f : Wave → Wave) : (s.modWave g w f).hostMemP = s.hostMemP := rfl
@[simp] theorem modWave_tlb (s : State) (g w : Nat) (f : Wave → Wave) : (s.modWave g w f).tlb = s.tlb := rfl
@[simp] theorem modWave_walks (s : State) (g w : Nat) (f : Wave → Wave) : (s.modWave g w f).walks = s.walks := rfl
@[simp] theorem modWave_hcopies (s : State) (g w : Nat) (f : Wave → Wave) : (s.modWave g w f).hcopies = s.hcopies := rfl
@[simp] theorem modWave_qpRates (s : State) (g w : Nat) (f : Wave → Wave) : (s.modWave g w f).qpRates = s.qpRates := rfl
@[simp] theorem modWave_rates (s : State) (g w : Nat) (f : Wave → Wave) : (s.modWave g w f).rates = s.rates := rfl
@[simp] theorem modWave_secured (s : State) (g w : Nat) (f : Wave → Wave) : (s.modWave g w f).secured = s.secured := rfl
@[simp] theorem modWave_errCounts (s : State) (g w : Nat) (f : Wave → Wave) : (s.modWave g w f).errCounts = s.errCounts := rfl
@[simp] theorem modWave_errRing (s : State) (g w : Nat) (f : Wave → Wave) : (s.modWave g w f).errRing = s.errRing := rfl
@[simp] theorem modWave_errLost (s : State) (g w : Nat) (f : Wave → Wave) : (s.modWave g w f).errLost = s.errLost := rfl
@[simp] theorem modWave_corrected (s : State) (g w : Nat) (f : Wave → Wave) : (s.modWave g w f).corrected = s.corrected := rfl
@[simp] theorem modWave_repairDue (s : State) (g w : Nat) (f : Wave → Wave) : (s.modWave g w f).repairDue = s.repairDue := rfl
@[simp] theorem modWave_found (s : State) (g w : Nat) (f : Wave → Wave) : (s.modWave g w f).found = s.found := rfl
@[simp] theorem modWave_darnReply (s : State) (g w : Nat) (f : Wave → Wave) : (s.modWave g w f).darnReply = s.darnReply := rfl
@[simp] theorem modWave_clocks (s : State) (g w : Nat) (f : Wave → Wave) : (s.modWave g w f).clocks = s.clocks := rfl
@[simp] theorem modWave_powerLimit (s : State) (g w : Nat) (f : Wave → Wave) : (s.modWave g w f).powerLimit = s.powerLimit := rfl
@[simp] theorem modWave_powerLog (s : State) (g w : Nat) (f : Wave → Wave) : (s.modWave g w f).powerLog = s.powerLog := rfl
@[simp] theorem modWave_powerLow (s : State) (g w : Nat) (f : Wave → Wave) : (s.modWave g w f).powerLow = s.powerLow := rfl
@[simp] theorem modWave_cores (s : State) (g w : Nat) (f : Wave → Wave) : (s.modWave g w f).cores = s.cores := rfl
@[simp] theorem modWave_outbox (s : State) (g w : Nat) (f : Wave → Wave) : (s.modWave g w f).outbox = s.outbox := rfl
@[simp] theorem modWave_agenda (s : State) (g w : Nat) (f : Wave → Wave) : (s.modWave g w f).agenda = s.agenda := rfl
@[simp] theorem modWave_tick (s : State) (g w : Nat) (f : Wave → Wave) : (s.modWave g w f).tick = s.tick := rfl
@[simp] theorem modWave_free (s : State) (g w : Nat) (f : Wave → Wave) : (s.modWave g w f).free = s.free := rfl
@[simp] theorem modWave_cur (s : State) (g w : Nat) (f : Wave → Wave) : (s.modWave g w f).cur = s.cur := rfl
@[simp] theorem modWave_stalled (s : State) (g w : Nat) (f : Wave → Wave) : (s.modWave g w f).stalled = s.stalled := rfl

/-! ### modCore -/

@[simp] theorem modCore_mem (s : State) (c : Nat) (f : Core → Core) : (s.modCore c f).mem = s.mem := rfl
@[simp] theorem modCore_memP (s : State) (c : Nat) (f : Core → Core) : (s.modCore c f).memP = s.memP := rfl
@[simp] theorem modCore_mix (s : State) (c : Nat) (f : Core → Core) : (s.modCore c f).mix = s.mix := rfl
@[simp] theorem modCore_boot (s : State) (c : Nat) (f : Core → Core) : (s.modCore c f).boot = s.boot := rfl
@[simp] theorem modCore_norImage (s : State) (c : Nat) (f : Core → Core) : (s.modCore c f).norImage = s.norImage := rfl
@[simp] theorem modCore_journal (s : State) (c : Nat) (f : Core → Core) : (s.modCore c f).journal = s.journal := rfl
@[simp] theorem modCore_chain (s : State) (c : Nat) (f : Core → Core) : (s.modCore c f).chain = s.chain := rfl
@[simp] theorem modCore_fuses (s : State) (c : Nat) (f : Core → Core) : (s.modCore c f).fuses = s.fuses := rfl
@[simp] theorem modCore_rowset (s : State) (c : Nat) (f : Core → Core) : (s.modCore c f).rowset = s.rowset := rfl
@[simp] theorem modCore_softRepair (s : State) (c : Nat) (f : Core → Core) : (s.modCore c f).softRepair = s.softRepair := rfl
@[simp] theorem modCore_fwImage (s : State) (c : Nat) (f : Core → Core) : (s.modCore c f).fwImage = s.fwImage := rfl
@[simp] theorem modCore_dies (s : State) (c : Nat) (f : Core → Core) : (s.modCore c f).dies = s.dies := rfl
@[simp] theorem modCore_cfg (s : State) (c : Nat) (f : Core → Core) : (s.modCore c f).cfg = s.cfg := rfl
@[simp] theorem modCore_dtime (s : State) (c : Nat) (f : Core → Core) : (s.modCore c f).dtime = s.dtime := rfl
@[simp] theorem modCore_columns (s : State) (c : Nat) (f : Core → Core) : (s.modCore c f).columns = s.columns := rfl
@[simp] theorem modCore_colAllocs (s : State) (c : Nat) (f : Core → Core) : (s.modCore c f).colAllocs = s.colAllocs := rfl
@[simp] theorem modCore_jobs (s : State) (c : Nat) (f : Core → Core) : (s.modCore c f).jobs = s.jobs := rfl
@[simp] theorem modCore_queues (s : State) (c : Nat) (f : Core → Core) : (s.modCore c f).queues = s.queues := rfl
@[simp] theorem modCore_launches (s : State) (c : Nat) (f : Core → Core) : (s.modCore c f).launches = s.launches := rfl
@[simp] theorem modCore_graphs (s : State) (c : Nat) (f : Core → Core) : (s.modCore c f).graphs = s.graphs := rfl
@[simp] theorem modCore_groups (s : State) (c : Nat) (f : Core → Core) : (s.modCore c f).groups = s.groups := rfl
@[simp] theorem modCore_requests (s : State) (c : Nat) (f : Core → Core) : (s.modCore c f).requests = s.requests := rfl
@[simp] theorem modCore_nextReq (s : State) (c : Nat) (f : Core → Core) : (s.modCore c f).nextReq = s.nextReq := rfl
@[simp] theorem modCore_svcOff (s : State) (c : Nat) (f : Core → Core) : (s.modCore c f).svcOff = s.svcOff := rfl
@[simp] theorem modCore_trees (s : State) (c : Nat) (f : Core → Core) : (s.modCore c f).trees = s.trees := rfl
@[simp] theorem modCore_streams (s : State) (c : Nat) (f : Core → Core) : (s.modCore c f).streams = s.streams := rfl
@[simp] theorem modCore_xbar (s : State) (c : Nat) (f : Core → Core) : (s.modCore c f).xbar = s.xbar := rfl
@[simp] theorem modCore_gcmds (s : State) (c : Nat) (f : Core → Core) : (s.modCore c f).gcmds = s.gcmds := rfl
@[simp] theorem modCore_refits (s : State) (c : Nat) (f : Core → Core) : (s.modCore c f).refits = s.refits := rfl
@[simp] theorem modCore_redQueue (s : State) (c : Nat) (f : Core → Core) : (s.modCore c f).redQueue = s.redQueue := rfl
@[simp] theorem modCore_hostReds (s : State) (c : Nat) (f : Core → Core) : (s.modCore c f).hostReds = s.hostReds := rfl
@[simp] theorem modCore_llcHost (s : State) (c : Nat) (f : Core → Core) : (s.modCore c f).llcHost = s.llcHost := rfl
@[simp] theorem modCore_hostMem (s : State) (c : Nat) (f : Core → Core) : (s.modCore c f).hostMem = s.hostMem := rfl
@[simp] theorem modCore_hostMemP (s : State) (c : Nat) (f : Core → Core) : (s.modCore c f).hostMemP = s.hostMemP := rfl
@[simp] theorem modCore_tlb (s : State) (c : Nat) (f : Core → Core) : (s.modCore c f).tlb = s.tlb := rfl
@[simp] theorem modCore_walks (s : State) (c : Nat) (f : Core → Core) : (s.modCore c f).walks = s.walks := rfl
@[simp] theorem modCore_hcopies (s : State) (c : Nat) (f : Core → Core) : (s.modCore c f).hcopies = s.hcopies := rfl
@[simp] theorem modCore_qpRates (s : State) (c : Nat) (f : Core → Core) : (s.modCore c f).qpRates = s.qpRates := rfl
@[simp] theorem modCore_rates (s : State) (c : Nat) (f : Core → Core) : (s.modCore c f).rates = s.rates := rfl
@[simp] theorem modCore_secured (s : State) (c : Nat) (f : Core → Core) : (s.modCore c f).secured = s.secured := rfl
@[simp] theorem modCore_errCounts (s : State) (c : Nat) (f : Core → Core) : (s.modCore c f).errCounts = s.errCounts := rfl
@[simp] theorem modCore_errRing (s : State) (c : Nat) (f : Core → Core) : (s.modCore c f).errRing = s.errRing := rfl
@[simp] theorem modCore_errLost (s : State) (c : Nat) (f : Core → Core) : (s.modCore c f).errLost = s.errLost := rfl
@[simp] theorem modCore_corrected (s : State) (c : Nat) (f : Core → Core) : (s.modCore c f).corrected = s.corrected := rfl
@[simp] theorem modCore_repairDue (s : State) (c : Nat) (f : Core → Core) : (s.modCore c f).repairDue = s.repairDue := rfl
@[simp] theorem modCore_found (s : State) (c : Nat) (f : Core → Core) : (s.modCore c f).found = s.found := rfl
@[simp] theorem modCore_darnReply (s : State) (c : Nat) (f : Core → Core) : (s.modCore c f).darnReply = s.darnReply := rfl
@[simp] theorem modCore_clocks (s : State) (c : Nat) (f : Core → Core) : (s.modCore c f).clocks = s.clocks := rfl
@[simp] theorem modCore_powerLimit (s : State) (c : Nat) (f : Core → Core) : (s.modCore c f).powerLimit = s.powerLimit := rfl
@[simp] theorem modCore_powerLog (s : State) (c : Nat) (f : Core → Core) : (s.modCore c f).powerLog = s.powerLog := rfl
@[simp] theorem modCore_powerLow (s : State) (c : Nat) (f : Core → Core) : (s.modCore c f).powerLow = s.powerLow := rfl
@[simp] theorem modCore_outbox (s : State) (c : Nat) (f : Core → Core) : (s.modCore c f).outbox = s.outbox := rfl
@[simp] theorem modCore_agenda (s : State) (c : Nat) (f : Core → Core) : (s.modCore c f).agenda = s.agenda := rfl
@[simp] theorem modCore_tick (s : State) (c : Nat) (f : Core → Core) : (s.modCore c f).tick = s.tick := rfl
@[simp] theorem modCore_free (s : State) (c : Nat) (f : Core → Core) : (s.modCore c f).free = s.free := rfl
@[simp] theorem modCore_cur (s : State) (c : Nat) (f : Core → Core) : (s.modCore c f).cur = s.cur := rfl
@[simp] theorem modCore_stalled (s : State) (c : Nat) (f : Core → Core) : (s.modCore c f).stalled = s.stalled := rfl

/-! ### modLaunch -/

@[simp] theorem modLaunch_mem (s : State) (l : Nat) (f : Launch → Launch) : (s.modLaunch l f).mem = s.mem := rfl
@[simp] theorem modLaunch_memP (s : State) (l : Nat) (f : Launch → Launch) : (s.modLaunch l f).memP = s.memP := rfl
@[simp] theorem modLaunch_mix (s : State) (l : Nat) (f : Launch → Launch) : (s.modLaunch l f).mix = s.mix := rfl
@[simp] theorem modLaunch_boot (s : State) (l : Nat) (f : Launch → Launch) : (s.modLaunch l f).boot = s.boot := rfl
@[simp] theorem modLaunch_norImage (s : State) (l : Nat) (f : Launch → Launch) : (s.modLaunch l f).norImage = s.norImage := rfl
@[simp] theorem modLaunch_journal (s : State) (l : Nat) (f : Launch → Launch) : (s.modLaunch l f).journal = s.journal := rfl
@[simp] theorem modLaunch_chain (s : State) (l : Nat) (f : Launch → Launch) : (s.modLaunch l f).chain = s.chain := rfl
@[simp] theorem modLaunch_fuses (s : State) (l : Nat) (f : Launch → Launch) : (s.modLaunch l f).fuses = s.fuses := rfl
@[simp] theorem modLaunch_rowset (s : State) (l : Nat) (f : Launch → Launch) : (s.modLaunch l f).rowset = s.rowset := rfl
@[simp] theorem modLaunch_softRepair (s : State) (l : Nat) (f : Launch → Launch) : (s.modLaunch l f).softRepair = s.softRepair := rfl
@[simp] theorem modLaunch_fwImage (s : State) (l : Nat) (f : Launch → Launch) : (s.modLaunch l f).fwImage = s.fwImage := rfl
@[simp] theorem modLaunch_dies (s : State) (l : Nat) (f : Launch → Launch) : (s.modLaunch l f).dies = s.dies := rfl
@[simp] theorem modLaunch_cfg (s : State) (l : Nat) (f : Launch → Launch) : (s.modLaunch l f).cfg = s.cfg := rfl
@[simp] theorem modLaunch_dtime (s : State) (l : Nat) (f : Launch → Launch) : (s.modLaunch l f).dtime = s.dtime := rfl
@[simp] theorem modLaunch_columns (s : State) (l : Nat) (f : Launch → Launch) : (s.modLaunch l f).columns = s.columns := rfl
@[simp] theorem modLaunch_colAllocs (s : State) (l : Nat) (f : Launch → Launch) : (s.modLaunch l f).colAllocs = s.colAllocs := rfl
@[simp] theorem modLaunch_jobs (s : State) (l : Nat) (f : Launch → Launch) : (s.modLaunch l f).jobs = s.jobs := rfl
@[simp] theorem modLaunch_queues (s : State) (l : Nat) (f : Launch → Launch) : (s.modLaunch l f).queues = s.queues := rfl
@[simp] theorem modLaunch_graphs (s : State) (l : Nat) (f : Launch → Launch) : (s.modLaunch l f).graphs = s.graphs := rfl
@[simp] theorem modLaunch_groups (s : State) (l : Nat) (f : Launch → Launch) : (s.modLaunch l f).groups = s.groups := rfl
@[simp] theorem modLaunch_requests (s : State) (l : Nat) (f : Launch → Launch) : (s.modLaunch l f).requests = s.requests := rfl
@[simp] theorem modLaunch_nextReq (s : State) (l : Nat) (f : Launch → Launch) : (s.modLaunch l f).nextReq = s.nextReq := rfl
@[simp] theorem modLaunch_svcOff (s : State) (l : Nat) (f : Launch → Launch) : (s.modLaunch l f).svcOff = s.svcOff := rfl
@[simp] theorem modLaunch_trees (s : State) (l : Nat) (f : Launch → Launch) : (s.modLaunch l f).trees = s.trees := rfl
@[simp] theorem modLaunch_streams (s : State) (l : Nat) (f : Launch → Launch) : (s.modLaunch l f).streams = s.streams := rfl
@[simp] theorem modLaunch_xbar (s : State) (l : Nat) (f : Launch → Launch) : (s.modLaunch l f).xbar = s.xbar := rfl
@[simp] theorem modLaunch_gcmds (s : State) (l : Nat) (f : Launch → Launch) : (s.modLaunch l f).gcmds = s.gcmds := rfl
@[simp] theorem modLaunch_refits (s : State) (l : Nat) (f : Launch → Launch) : (s.modLaunch l f).refits = s.refits := rfl
@[simp] theorem modLaunch_redQueue (s : State) (l : Nat) (f : Launch → Launch) : (s.modLaunch l f).redQueue = s.redQueue := rfl
@[simp] theorem modLaunch_hostReds (s : State) (l : Nat) (f : Launch → Launch) : (s.modLaunch l f).hostReds = s.hostReds := rfl
@[simp] theorem modLaunch_llcHost (s : State) (l : Nat) (f : Launch → Launch) : (s.modLaunch l f).llcHost = s.llcHost := rfl
@[simp] theorem modLaunch_hostMem (s : State) (l : Nat) (f : Launch → Launch) : (s.modLaunch l f).hostMem = s.hostMem := rfl
@[simp] theorem modLaunch_hostMemP (s : State) (l : Nat) (f : Launch → Launch) : (s.modLaunch l f).hostMemP = s.hostMemP := rfl
@[simp] theorem modLaunch_tlb (s : State) (l : Nat) (f : Launch → Launch) : (s.modLaunch l f).tlb = s.tlb := rfl
@[simp] theorem modLaunch_walks (s : State) (l : Nat) (f : Launch → Launch) : (s.modLaunch l f).walks = s.walks := rfl
@[simp] theorem modLaunch_hcopies (s : State) (l : Nat) (f : Launch → Launch) : (s.modLaunch l f).hcopies = s.hcopies := rfl
@[simp] theorem modLaunch_qpRates (s : State) (l : Nat) (f : Launch → Launch) : (s.modLaunch l f).qpRates = s.qpRates := rfl
@[simp] theorem modLaunch_rates (s : State) (l : Nat) (f : Launch → Launch) : (s.modLaunch l f).rates = s.rates := rfl
@[simp] theorem modLaunch_secured (s : State) (l : Nat) (f : Launch → Launch) : (s.modLaunch l f).secured = s.secured := rfl
@[simp] theorem modLaunch_errCounts (s : State) (l : Nat) (f : Launch → Launch) : (s.modLaunch l f).errCounts = s.errCounts := rfl
@[simp] theorem modLaunch_errRing (s : State) (l : Nat) (f : Launch → Launch) : (s.modLaunch l f).errRing = s.errRing := rfl
@[simp] theorem modLaunch_errLost (s : State) (l : Nat) (f : Launch → Launch) : (s.modLaunch l f).errLost = s.errLost := rfl
@[simp] theorem modLaunch_corrected (s : State) (l : Nat) (f : Launch → Launch) : (s.modLaunch l f).corrected = s.corrected := rfl
@[simp] theorem modLaunch_repairDue (s : State) (l : Nat) (f : Launch → Launch) : (s.modLaunch l f).repairDue = s.repairDue := rfl
@[simp] theorem modLaunch_found (s : State) (l : Nat) (f : Launch → Launch) : (s.modLaunch l f).found = s.found := rfl
@[simp] theorem modLaunch_darnReply (s : State) (l : Nat) (f : Launch → Launch) : (s.modLaunch l f).darnReply = s.darnReply := rfl
@[simp] theorem modLaunch_clocks (s : State) (l : Nat) (f : Launch → Launch) : (s.modLaunch l f).clocks = s.clocks := rfl
@[simp] theorem modLaunch_powerLimit (s : State) (l : Nat) (f : Launch → Launch) : (s.modLaunch l f).powerLimit = s.powerLimit := rfl
@[simp] theorem modLaunch_powerLog (s : State) (l : Nat) (f : Launch → Launch) : (s.modLaunch l f).powerLog = s.powerLog := rfl
@[simp] theorem modLaunch_powerLow (s : State) (l : Nat) (f : Launch → Launch) : (s.modLaunch l f).powerLow = s.powerLow := rfl
@[simp] theorem modLaunch_cores (s : State) (l : Nat) (f : Launch → Launch) : (s.modLaunch l f).cores = s.cores := rfl
@[simp] theorem modLaunch_outbox (s : State) (l : Nat) (f : Launch → Launch) : (s.modLaunch l f).outbox = s.outbox := rfl
@[simp] theorem modLaunch_agenda (s : State) (l : Nat) (f : Launch → Launch) : (s.modLaunch l f).agenda = s.agenda := rfl
@[simp] theorem modLaunch_tick (s : State) (l : Nat) (f : Launch → Launch) : (s.modLaunch l f).tick = s.tick := rfl
@[simp] theorem modLaunch_free (s : State) (l : Nat) (f : Launch → Launch) : (s.modLaunch l f).free = s.free := rfl
@[simp] theorem modLaunch_cur (s : State) (l : Nat) (f : Launch → Launch) : (s.modLaunch l f).cur = s.cur := rfl
@[simp] theorem modLaunch_stalled (s : State) (l : Nat) (f : Launch → Launch) : (s.modLaunch l f).stalled = s.stalled := rfl

/-! ### modQueue -/

@[simp] theorem modQueue_mem (s : State) (q : Nat) (f : Queue → Queue) : (s.modQueue q f).mem = s.mem := rfl
@[simp] theorem modQueue_memP (s : State) (q : Nat) (f : Queue → Queue) : (s.modQueue q f).memP = s.memP := rfl
@[simp] theorem modQueue_mix (s : State) (q : Nat) (f : Queue → Queue) : (s.modQueue q f).mix = s.mix := rfl
@[simp] theorem modQueue_boot (s : State) (q : Nat) (f : Queue → Queue) : (s.modQueue q f).boot = s.boot := rfl
@[simp] theorem modQueue_norImage (s : State) (q : Nat) (f : Queue → Queue) : (s.modQueue q f).norImage = s.norImage := rfl
@[simp] theorem modQueue_journal (s : State) (q : Nat) (f : Queue → Queue) : (s.modQueue q f).journal = s.journal := rfl
@[simp] theorem modQueue_chain (s : State) (q : Nat) (f : Queue → Queue) : (s.modQueue q f).chain = s.chain := rfl
@[simp] theorem modQueue_fuses (s : State) (q : Nat) (f : Queue → Queue) : (s.modQueue q f).fuses = s.fuses := rfl
@[simp] theorem modQueue_rowset (s : State) (q : Nat) (f : Queue → Queue) : (s.modQueue q f).rowset = s.rowset := rfl
@[simp] theorem modQueue_softRepair (s : State) (q : Nat) (f : Queue → Queue) : (s.modQueue q f).softRepair = s.softRepair := rfl
@[simp] theorem modQueue_fwImage (s : State) (q : Nat) (f : Queue → Queue) : (s.modQueue q f).fwImage = s.fwImage := rfl
@[simp] theorem modQueue_dies (s : State) (q : Nat) (f : Queue → Queue) : (s.modQueue q f).dies = s.dies := rfl
@[simp] theorem modQueue_cfg (s : State) (q : Nat) (f : Queue → Queue) : (s.modQueue q f).cfg = s.cfg := rfl
@[simp] theorem modQueue_dtime (s : State) (q : Nat) (f : Queue → Queue) : (s.modQueue q f).dtime = s.dtime := rfl
@[simp] theorem modQueue_columns (s : State) (q : Nat) (f : Queue → Queue) : (s.modQueue q f).columns = s.columns := rfl
@[simp] theorem modQueue_colAllocs (s : State) (q : Nat) (f : Queue → Queue) : (s.modQueue q f).colAllocs = s.colAllocs := rfl
@[simp] theorem modQueue_jobs (s : State) (q : Nat) (f : Queue → Queue) : (s.modQueue q f).jobs = s.jobs := rfl
@[simp] theorem modQueue_launches (s : State) (q : Nat) (f : Queue → Queue) : (s.modQueue q f).launches = s.launches := rfl
@[simp] theorem modQueue_graphs (s : State) (q : Nat) (f : Queue → Queue) : (s.modQueue q f).graphs = s.graphs := rfl
@[simp] theorem modQueue_groups (s : State) (q : Nat) (f : Queue → Queue) : (s.modQueue q f).groups = s.groups := rfl
@[simp] theorem modQueue_requests (s : State) (q : Nat) (f : Queue → Queue) : (s.modQueue q f).requests = s.requests := rfl
@[simp] theorem modQueue_nextReq (s : State) (q : Nat) (f : Queue → Queue) : (s.modQueue q f).nextReq = s.nextReq := rfl
@[simp] theorem modQueue_svcOff (s : State) (q : Nat) (f : Queue → Queue) : (s.modQueue q f).svcOff = s.svcOff := rfl
@[simp] theorem modQueue_trees (s : State) (q : Nat) (f : Queue → Queue) : (s.modQueue q f).trees = s.trees := rfl
@[simp] theorem modQueue_streams (s : State) (q : Nat) (f : Queue → Queue) : (s.modQueue q f).streams = s.streams := rfl
@[simp] theorem modQueue_xbar (s : State) (q : Nat) (f : Queue → Queue) : (s.modQueue q f).xbar = s.xbar := rfl
@[simp] theorem modQueue_gcmds (s : State) (q : Nat) (f : Queue → Queue) : (s.modQueue q f).gcmds = s.gcmds := rfl
@[simp] theorem modQueue_refits (s : State) (q : Nat) (f : Queue → Queue) : (s.modQueue q f).refits = s.refits := rfl
@[simp] theorem modQueue_redQueue (s : State) (q : Nat) (f : Queue → Queue) : (s.modQueue q f).redQueue = s.redQueue := rfl
@[simp] theorem modQueue_hostReds (s : State) (q : Nat) (f : Queue → Queue) : (s.modQueue q f).hostReds = s.hostReds := rfl
@[simp] theorem modQueue_llcHost (s : State) (q : Nat) (f : Queue → Queue) : (s.modQueue q f).llcHost = s.llcHost := rfl
@[simp] theorem modQueue_hostMem (s : State) (q : Nat) (f : Queue → Queue) : (s.modQueue q f).hostMem = s.hostMem := rfl
@[simp] theorem modQueue_hostMemP (s : State) (q : Nat) (f : Queue → Queue) : (s.modQueue q f).hostMemP = s.hostMemP := rfl
@[simp] theorem modQueue_tlb (s : State) (q : Nat) (f : Queue → Queue) : (s.modQueue q f).tlb = s.tlb := rfl
@[simp] theorem modQueue_walks (s : State) (q : Nat) (f : Queue → Queue) : (s.modQueue q f).walks = s.walks := rfl
@[simp] theorem modQueue_hcopies (s : State) (q : Nat) (f : Queue → Queue) : (s.modQueue q f).hcopies = s.hcopies := rfl
@[simp] theorem modQueue_qpRates (s : State) (q : Nat) (f : Queue → Queue) : (s.modQueue q f).qpRates = s.qpRates := rfl
@[simp] theorem modQueue_rates (s : State) (q : Nat) (f : Queue → Queue) : (s.modQueue q f).rates = s.rates := rfl
@[simp] theorem modQueue_secured (s : State) (q : Nat) (f : Queue → Queue) : (s.modQueue q f).secured = s.secured := rfl
@[simp] theorem modQueue_errCounts (s : State) (q : Nat) (f : Queue → Queue) : (s.modQueue q f).errCounts = s.errCounts := rfl
@[simp] theorem modQueue_errRing (s : State) (q : Nat) (f : Queue → Queue) : (s.modQueue q f).errRing = s.errRing := rfl
@[simp] theorem modQueue_errLost (s : State) (q : Nat) (f : Queue → Queue) : (s.modQueue q f).errLost = s.errLost := rfl
@[simp] theorem modQueue_corrected (s : State) (q : Nat) (f : Queue → Queue) : (s.modQueue q f).corrected = s.corrected := rfl
@[simp] theorem modQueue_repairDue (s : State) (q : Nat) (f : Queue → Queue) : (s.modQueue q f).repairDue = s.repairDue := rfl
@[simp] theorem modQueue_found (s : State) (q : Nat) (f : Queue → Queue) : (s.modQueue q f).found = s.found := rfl
@[simp] theorem modQueue_darnReply (s : State) (q : Nat) (f : Queue → Queue) : (s.modQueue q f).darnReply = s.darnReply := rfl
@[simp] theorem modQueue_clocks (s : State) (q : Nat) (f : Queue → Queue) : (s.modQueue q f).clocks = s.clocks := rfl
@[simp] theorem modQueue_powerLimit (s : State) (q : Nat) (f : Queue → Queue) : (s.modQueue q f).powerLimit = s.powerLimit := rfl
@[simp] theorem modQueue_powerLog (s : State) (q : Nat) (f : Queue → Queue) : (s.modQueue q f).powerLog = s.powerLog := rfl
@[simp] theorem modQueue_powerLow (s : State) (q : Nat) (f : Queue → Queue) : (s.modQueue q f).powerLow = s.powerLow := rfl
@[simp] theorem modQueue_cores (s : State) (q : Nat) (f : Queue → Queue) : (s.modQueue q f).cores = s.cores := rfl
@[simp] theorem modQueue_outbox (s : State) (q : Nat) (f : Queue → Queue) : (s.modQueue q f).outbox = s.outbox := rfl
@[simp] theorem modQueue_agenda (s : State) (q : Nat) (f : Queue → Queue) : (s.modQueue q f).agenda = s.agenda := rfl
@[simp] theorem modQueue_tick (s : State) (q : Nat) (f : Queue → Queue) : (s.modQueue q f).tick = s.tick := rfl
@[simp] theorem modQueue_free (s : State) (q : Nat) (f : Queue → Queue) : (s.modQueue q f).free = s.free := rfl
@[simp] theorem modQueue_cur (s : State) (q : Nat) (f : Queue → Queue) : (s.modQueue q f).cur = s.cur := rfl
@[simp] theorem modQueue_stalled (s : State) (q : Nat) (f : Queue → Queue) : (s.modQueue q f).stalled = s.stalled := rfl

/-! ### modJob -/

@[simp] theorem modJob_mem (s : State) (j : Nat) (f : Job → Job) : (s.modJob j f).mem = s.mem := rfl
@[simp] theorem modJob_memP (s : State) (j : Nat) (f : Job → Job) : (s.modJob j f).memP = s.memP := rfl
@[simp] theorem modJob_mix (s : State) (j : Nat) (f : Job → Job) : (s.modJob j f).mix = s.mix := rfl
@[simp] theorem modJob_boot (s : State) (j : Nat) (f : Job → Job) : (s.modJob j f).boot = s.boot := rfl
@[simp] theorem modJob_norImage (s : State) (j : Nat) (f : Job → Job) : (s.modJob j f).norImage = s.norImage := rfl
@[simp] theorem modJob_journal (s : State) (j : Nat) (f : Job → Job) : (s.modJob j f).journal = s.journal := rfl
@[simp] theorem modJob_chain (s : State) (j : Nat) (f : Job → Job) : (s.modJob j f).chain = s.chain := rfl
@[simp] theorem modJob_fuses (s : State) (j : Nat) (f : Job → Job) : (s.modJob j f).fuses = s.fuses := rfl
@[simp] theorem modJob_rowset (s : State) (j : Nat) (f : Job → Job) : (s.modJob j f).rowset = s.rowset := rfl
@[simp] theorem modJob_softRepair (s : State) (j : Nat) (f : Job → Job) : (s.modJob j f).softRepair = s.softRepair := rfl
@[simp] theorem modJob_fwImage (s : State) (j : Nat) (f : Job → Job) : (s.modJob j f).fwImage = s.fwImage := rfl
@[simp] theorem modJob_dies (s : State) (j : Nat) (f : Job → Job) : (s.modJob j f).dies = s.dies := rfl
@[simp] theorem modJob_cfg (s : State) (j : Nat) (f : Job → Job) : (s.modJob j f).cfg = s.cfg := rfl
@[simp] theorem modJob_dtime (s : State) (j : Nat) (f : Job → Job) : (s.modJob j f).dtime = s.dtime := rfl
@[simp] theorem modJob_columns (s : State) (j : Nat) (f : Job → Job) : (s.modJob j f).columns = s.columns := rfl
@[simp] theorem modJob_colAllocs (s : State) (j : Nat) (f : Job → Job) : (s.modJob j f).colAllocs = s.colAllocs := rfl
@[simp] theorem modJob_queues (s : State) (j : Nat) (f : Job → Job) : (s.modJob j f).queues = s.queues := rfl
@[simp] theorem modJob_launches (s : State) (j : Nat) (f : Job → Job) : (s.modJob j f).launches = s.launches := rfl
@[simp] theorem modJob_graphs (s : State) (j : Nat) (f : Job → Job) : (s.modJob j f).graphs = s.graphs := rfl
@[simp] theorem modJob_groups (s : State) (j : Nat) (f : Job → Job) : (s.modJob j f).groups = s.groups := rfl
@[simp] theorem modJob_requests (s : State) (j : Nat) (f : Job → Job) : (s.modJob j f).requests = s.requests := rfl
@[simp] theorem modJob_nextReq (s : State) (j : Nat) (f : Job → Job) : (s.modJob j f).nextReq = s.nextReq := rfl
@[simp] theorem modJob_svcOff (s : State) (j : Nat) (f : Job → Job) : (s.modJob j f).svcOff = s.svcOff := rfl
@[simp] theorem modJob_trees (s : State) (j : Nat) (f : Job → Job) : (s.modJob j f).trees = s.trees := rfl
@[simp] theorem modJob_streams (s : State) (j : Nat) (f : Job → Job) : (s.modJob j f).streams = s.streams := rfl
@[simp] theorem modJob_xbar (s : State) (j : Nat) (f : Job → Job) : (s.modJob j f).xbar = s.xbar := rfl
@[simp] theorem modJob_gcmds (s : State) (j : Nat) (f : Job → Job) : (s.modJob j f).gcmds = s.gcmds := rfl
@[simp] theorem modJob_refits (s : State) (j : Nat) (f : Job → Job) : (s.modJob j f).refits = s.refits := rfl
@[simp] theorem modJob_redQueue (s : State) (j : Nat) (f : Job → Job) : (s.modJob j f).redQueue = s.redQueue := rfl
@[simp] theorem modJob_hostReds (s : State) (j : Nat) (f : Job → Job) : (s.modJob j f).hostReds = s.hostReds := rfl
@[simp] theorem modJob_llcHost (s : State) (j : Nat) (f : Job → Job) : (s.modJob j f).llcHost = s.llcHost := rfl
@[simp] theorem modJob_hostMem (s : State) (j : Nat) (f : Job → Job) : (s.modJob j f).hostMem = s.hostMem := rfl
@[simp] theorem modJob_hostMemP (s : State) (j : Nat) (f : Job → Job) : (s.modJob j f).hostMemP = s.hostMemP := rfl
@[simp] theorem modJob_tlb (s : State) (j : Nat) (f : Job → Job) : (s.modJob j f).tlb = s.tlb := rfl
@[simp] theorem modJob_walks (s : State) (j : Nat) (f : Job → Job) : (s.modJob j f).walks = s.walks := rfl
@[simp] theorem modJob_hcopies (s : State) (j : Nat) (f : Job → Job) : (s.modJob j f).hcopies = s.hcopies := rfl
@[simp] theorem modJob_qpRates (s : State) (j : Nat) (f : Job → Job) : (s.modJob j f).qpRates = s.qpRates := rfl
@[simp] theorem modJob_rates (s : State) (j : Nat) (f : Job → Job) : (s.modJob j f).rates = s.rates := rfl
@[simp] theorem modJob_secured (s : State) (j : Nat) (f : Job → Job) : (s.modJob j f).secured = s.secured := rfl
@[simp] theorem modJob_errCounts (s : State) (j : Nat) (f : Job → Job) : (s.modJob j f).errCounts = s.errCounts := rfl
@[simp] theorem modJob_errRing (s : State) (j : Nat) (f : Job → Job) : (s.modJob j f).errRing = s.errRing := rfl
@[simp] theorem modJob_errLost (s : State) (j : Nat) (f : Job → Job) : (s.modJob j f).errLost = s.errLost := rfl
@[simp] theorem modJob_corrected (s : State) (j : Nat) (f : Job → Job) : (s.modJob j f).corrected = s.corrected := rfl
@[simp] theorem modJob_repairDue (s : State) (j : Nat) (f : Job → Job) : (s.modJob j f).repairDue = s.repairDue := rfl
@[simp] theorem modJob_found (s : State) (j : Nat) (f : Job → Job) : (s.modJob j f).found = s.found := rfl
@[simp] theorem modJob_darnReply (s : State) (j : Nat) (f : Job → Job) : (s.modJob j f).darnReply = s.darnReply := rfl
@[simp] theorem modJob_clocks (s : State) (j : Nat) (f : Job → Job) : (s.modJob j f).clocks = s.clocks := rfl
@[simp] theorem modJob_powerLimit (s : State) (j : Nat) (f : Job → Job) : (s.modJob j f).powerLimit = s.powerLimit := rfl
@[simp] theorem modJob_powerLog (s : State) (j : Nat) (f : Job → Job) : (s.modJob j f).powerLog = s.powerLog := rfl
@[simp] theorem modJob_powerLow (s : State) (j : Nat) (f : Job → Job) : (s.modJob j f).powerLow = s.powerLow := rfl
@[simp] theorem modJob_cores (s : State) (j : Nat) (f : Job → Job) : (s.modJob j f).cores = s.cores := rfl
@[simp] theorem modJob_outbox (s : State) (j : Nat) (f : Job → Job) : (s.modJob j f).outbox = s.outbox := rfl
@[simp] theorem modJob_agenda (s : State) (j : Nat) (f : Job → Job) : (s.modJob j f).agenda = s.agenda := rfl
@[simp] theorem modJob_tick (s : State) (j : Nat) (f : Job → Job) : (s.modJob j f).tick = s.tick := rfl
@[simp] theorem modJob_free (s : State) (j : Nat) (f : Job → Job) : (s.modJob j f).free = s.free := rfl
@[simp] theorem modJob_cur (s : State) (j : Nat) (f : Job → Job) : (s.modJob j f).cur = s.cur := rfl
@[simp] theorem modJob_stalled (s : State) (j : Nat) (f : Job → Job) : (s.modJob j f).stalled = s.stalled := rfl

/-! ### cfgSet -/

@[simp] theorem cfgSet_mem (s : State) (n : Nat) (x : Word) : (s.cfgSet n x).mem = s.mem := rfl
@[simp] theorem cfgSet_memP (s : State) (n : Nat) (x : Word) : (s.cfgSet n x).memP = s.memP := rfl
@[simp] theorem cfgSet_mix (s : State) (n : Nat) (x : Word) : (s.cfgSet n x).mix = s.mix := rfl
@[simp] theorem cfgSet_boot (s : State) (n : Nat) (x : Word) : (s.cfgSet n x).boot = s.boot := rfl
@[simp] theorem cfgSet_norImage (s : State) (n : Nat) (x : Word) : (s.cfgSet n x).norImage = s.norImage := rfl
@[simp] theorem cfgSet_journal (s : State) (n : Nat) (x : Word) : (s.cfgSet n x).journal = s.journal := rfl
@[simp] theorem cfgSet_chain (s : State) (n : Nat) (x : Word) : (s.cfgSet n x).chain = s.chain := rfl
@[simp] theorem cfgSet_fuses (s : State) (n : Nat) (x : Word) : (s.cfgSet n x).fuses = s.fuses := rfl
@[simp] theorem cfgSet_rowset (s : State) (n : Nat) (x : Word) : (s.cfgSet n x).rowset = s.rowset := rfl
@[simp] theorem cfgSet_softRepair (s : State) (n : Nat) (x : Word) : (s.cfgSet n x).softRepair = s.softRepair := rfl
@[simp] theorem cfgSet_fwImage (s : State) (n : Nat) (x : Word) : (s.cfgSet n x).fwImage = s.fwImage := rfl
@[simp] theorem cfgSet_dies (s : State) (n : Nat) (x : Word) : (s.cfgSet n x).dies = s.dies := rfl
@[simp] theorem cfgSet_dtime (s : State) (n : Nat) (x : Word) : (s.cfgSet n x).dtime = s.dtime := rfl
@[simp] theorem cfgSet_columns (s : State) (n : Nat) (x : Word) : (s.cfgSet n x).columns = s.columns := rfl
@[simp] theorem cfgSet_colAllocs (s : State) (n : Nat) (x : Word) : (s.cfgSet n x).colAllocs = s.colAllocs := rfl
@[simp] theorem cfgSet_jobs (s : State) (n : Nat) (x : Word) : (s.cfgSet n x).jobs = s.jobs := rfl
@[simp] theorem cfgSet_queues (s : State) (n : Nat) (x : Word) : (s.cfgSet n x).queues = s.queues := rfl
@[simp] theorem cfgSet_launches (s : State) (n : Nat) (x : Word) : (s.cfgSet n x).launches = s.launches := rfl
@[simp] theorem cfgSet_graphs (s : State) (n : Nat) (x : Word) : (s.cfgSet n x).graphs = s.graphs := rfl
@[simp] theorem cfgSet_groups (s : State) (n : Nat) (x : Word) : (s.cfgSet n x).groups = s.groups := rfl
@[simp] theorem cfgSet_requests (s : State) (n : Nat) (x : Word) : (s.cfgSet n x).requests = s.requests := rfl
@[simp] theorem cfgSet_nextReq (s : State) (n : Nat) (x : Word) : (s.cfgSet n x).nextReq = s.nextReq := rfl
@[simp] theorem cfgSet_svcOff (s : State) (n : Nat) (x : Word) : (s.cfgSet n x).svcOff = s.svcOff := rfl
@[simp] theorem cfgSet_trees (s : State) (n : Nat) (x : Word) : (s.cfgSet n x).trees = s.trees := rfl
@[simp] theorem cfgSet_streams (s : State) (n : Nat) (x : Word) : (s.cfgSet n x).streams = s.streams := rfl
@[simp] theorem cfgSet_xbar (s : State) (n : Nat) (x : Word) : (s.cfgSet n x).xbar = s.xbar := rfl
@[simp] theorem cfgSet_gcmds (s : State) (n : Nat) (x : Word) : (s.cfgSet n x).gcmds = s.gcmds := rfl
@[simp] theorem cfgSet_refits (s : State) (n : Nat) (x : Word) : (s.cfgSet n x).refits = s.refits := rfl
@[simp] theorem cfgSet_redQueue (s : State) (n : Nat) (x : Word) : (s.cfgSet n x).redQueue = s.redQueue := rfl
@[simp] theorem cfgSet_hostReds (s : State) (n : Nat) (x : Word) : (s.cfgSet n x).hostReds = s.hostReds := rfl
@[simp] theorem cfgSet_llcHost (s : State) (n : Nat) (x : Word) : (s.cfgSet n x).llcHost = s.llcHost := rfl
@[simp] theorem cfgSet_hostMem (s : State) (n : Nat) (x : Word) : (s.cfgSet n x).hostMem = s.hostMem := rfl
@[simp] theorem cfgSet_hostMemP (s : State) (n : Nat) (x : Word) : (s.cfgSet n x).hostMemP = s.hostMemP := rfl
@[simp] theorem cfgSet_tlb (s : State) (n : Nat) (x : Word) : (s.cfgSet n x).tlb = s.tlb := rfl
@[simp] theorem cfgSet_walks (s : State) (n : Nat) (x : Word) : (s.cfgSet n x).walks = s.walks := rfl
@[simp] theorem cfgSet_hcopies (s : State) (n : Nat) (x : Word) : (s.cfgSet n x).hcopies = s.hcopies := rfl
@[simp] theorem cfgSet_qpRates (s : State) (n : Nat) (x : Word) : (s.cfgSet n x).qpRates = s.qpRates := rfl
@[simp] theorem cfgSet_rates (s : State) (n : Nat) (x : Word) : (s.cfgSet n x).rates = s.rates := rfl
@[simp] theorem cfgSet_secured (s : State) (n : Nat) (x : Word) : (s.cfgSet n x).secured = s.secured := rfl
@[simp] theorem cfgSet_errCounts (s : State) (n : Nat) (x : Word) : (s.cfgSet n x).errCounts = s.errCounts := rfl
@[simp] theorem cfgSet_errRing (s : State) (n : Nat) (x : Word) : (s.cfgSet n x).errRing = s.errRing := rfl
@[simp] theorem cfgSet_errLost (s : State) (n : Nat) (x : Word) : (s.cfgSet n x).errLost = s.errLost := rfl
@[simp] theorem cfgSet_corrected (s : State) (n : Nat) (x : Word) : (s.cfgSet n x).corrected = s.corrected := rfl
@[simp] theorem cfgSet_repairDue (s : State) (n : Nat) (x : Word) : (s.cfgSet n x).repairDue = s.repairDue := rfl
@[simp] theorem cfgSet_found (s : State) (n : Nat) (x : Word) : (s.cfgSet n x).found = s.found := rfl
@[simp] theorem cfgSet_darnReply (s : State) (n : Nat) (x : Word) : (s.cfgSet n x).darnReply = s.darnReply := rfl
@[simp] theorem cfgSet_clocks (s : State) (n : Nat) (x : Word) : (s.cfgSet n x).clocks = s.clocks := rfl
@[simp] theorem cfgSet_powerLimit (s : State) (n : Nat) (x : Word) : (s.cfgSet n x).powerLimit = s.powerLimit := rfl
@[simp] theorem cfgSet_powerLog (s : State) (n : Nat) (x : Word) : (s.cfgSet n x).powerLog = s.powerLog := rfl
@[simp] theorem cfgSet_powerLow (s : State) (n : Nat) (x : Word) : (s.cfgSet n x).powerLow = s.powerLow := rfl
@[simp] theorem cfgSet_cores (s : State) (n : Nat) (x : Word) : (s.cfgSet n x).cores = s.cores := rfl
@[simp] theorem cfgSet_outbox (s : State) (n : Nat) (x : Word) : (s.cfgSet n x).outbox = s.outbox := rfl
@[simp] theorem cfgSet_agenda (s : State) (n : Nat) (x : Word) : (s.cfgSet n x).agenda = s.agenda := rfl
@[simp] theorem cfgSet_tick (s : State) (n : Nat) (x : Word) : (s.cfgSet n x).tick = s.tick := rfl
@[simp] theorem cfgSet_free (s : State) (n : Nat) (x : Word) : (s.cfgSet n x).free = s.free := rfl
@[simp] theorem cfgSet_cur (s : State) (n : Nat) (x : Word) : (s.cfgSet n x).cur = s.cur := rfl
@[simp] theorem cfgSet_stalled (s : State) (n : Nat) (x : Word) : (s.cfgSet n x).stalled = s.stalled := rfl

/-! ### emit -/

@[simp] theorem emit_mem (s : State) (m : Out) : (s.emit m).mem = s.mem := rfl
@[simp] theorem emit_memP (s : State) (m : Out) : (s.emit m).memP = s.memP := rfl
@[simp] theorem emit_mix (s : State) (m : Out) : (s.emit m).mix = s.mix := rfl
@[simp] theorem emit_boot (s : State) (m : Out) : (s.emit m).boot = s.boot := rfl
@[simp] theorem emit_norImage (s : State) (m : Out) : (s.emit m).norImage = s.norImage := rfl
@[simp] theorem emit_journal (s : State) (m : Out) : (s.emit m).journal = s.journal := rfl
@[simp] theorem emit_chain (s : State) (m : Out) : (s.emit m).chain = s.chain := rfl
@[simp] theorem emit_fuses (s : State) (m : Out) : (s.emit m).fuses = s.fuses := rfl
@[simp] theorem emit_rowset (s : State) (m : Out) : (s.emit m).rowset = s.rowset := rfl
@[simp] theorem emit_softRepair (s : State) (m : Out) : (s.emit m).softRepair = s.softRepair := rfl
@[simp] theorem emit_fwImage (s : State) (m : Out) : (s.emit m).fwImage = s.fwImage := rfl
@[simp] theorem emit_dies (s : State) (m : Out) : (s.emit m).dies = s.dies := rfl
@[simp] theorem emit_cfg (s : State) (m : Out) : (s.emit m).cfg = s.cfg := rfl
@[simp] theorem emit_dtime (s : State) (m : Out) : (s.emit m).dtime = s.dtime := rfl
@[simp] theorem emit_columns (s : State) (m : Out) : (s.emit m).columns = s.columns := rfl
@[simp] theorem emit_colAllocs (s : State) (m : Out) : (s.emit m).colAllocs = s.colAllocs := rfl
@[simp] theorem emit_jobs (s : State) (m : Out) : (s.emit m).jobs = s.jobs := rfl
@[simp] theorem emit_queues (s : State) (m : Out) : (s.emit m).queues = s.queues := rfl
@[simp] theorem emit_launches (s : State) (m : Out) : (s.emit m).launches = s.launches := rfl
@[simp] theorem emit_graphs (s : State) (m : Out) : (s.emit m).graphs = s.graphs := rfl
@[simp] theorem emit_groups (s : State) (m : Out) : (s.emit m).groups = s.groups := rfl
@[simp] theorem emit_requests (s : State) (m : Out) : (s.emit m).requests = s.requests := rfl
@[simp] theorem emit_nextReq (s : State) (m : Out) : (s.emit m).nextReq = s.nextReq := rfl
@[simp] theorem emit_svcOff (s : State) (m : Out) : (s.emit m).svcOff = s.svcOff := rfl
@[simp] theorem emit_trees (s : State) (m : Out) : (s.emit m).trees = s.trees := rfl
@[simp] theorem emit_streams (s : State) (m : Out) : (s.emit m).streams = s.streams := rfl
@[simp] theorem emit_xbar (s : State) (m : Out) : (s.emit m).xbar = s.xbar := rfl
@[simp] theorem emit_gcmds (s : State) (m : Out) : (s.emit m).gcmds = s.gcmds := rfl
@[simp] theorem emit_refits (s : State) (m : Out) : (s.emit m).refits = s.refits := rfl
@[simp] theorem emit_redQueue (s : State) (m : Out) : (s.emit m).redQueue = s.redQueue := rfl
@[simp] theorem emit_hostReds (s : State) (m : Out) : (s.emit m).hostReds = s.hostReds := rfl
@[simp] theorem emit_llcHost (s : State) (m : Out) : (s.emit m).llcHost = s.llcHost := rfl
@[simp] theorem emit_hostMem (s : State) (m : Out) : (s.emit m).hostMem = s.hostMem := rfl
@[simp] theorem emit_hostMemP (s : State) (m : Out) : (s.emit m).hostMemP = s.hostMemP := rfl
@[simp] theorem emit_tlb (s : State) (m : Out) : (s.emit m).tlb = s.tlb := rfl
@[simp] theorem emit_walks (s : State) (m : Out) : (s.emit m).walks = s.walks := rfl
@[simp] theorem emit_hcopies (s : State) (m : Out) : (s.emit m).hcopies = s.hcopies := rfl
@[simp] theorem emit_qpRates (s : State) (m : Out) : (s.emit m).qpRates = s.qpRates := rfl
@[simp] theorem emit_rates (s : State) (m : Out) : (s.emit m).rates = s.rates := rfl
@[simp] theorem emit_secured (s : State) (m : Out) : (s.emit m).secured = s.secured := rfl
@[simp] theorem emit_errCounts (s : State) (m : Out) : (s.emit m).errCounts = s.errCounts := rfl
@[simp] theorem emit_errRing (s : State) (m : Out) : (s.emit m).errRing = s.errRing := rfl
@[simp] theorem emit_errLost (s : State) (m : Out) : (s.emit m).errLost = s.errLost := rfl
@[simp] theorem emit_corrected (s : State) (m : Out) : (s.emit m).corrected = s.corrected := rfl
@[simp] theorem emit_repairDue (s : State) (m : Out) : (s.emit m).repairDue = s.repairDue := rfl
@[simp] theorem emit_found (s : State) (m : Out) : (s.emit m).found = s.found := rfl
@[simp] theorem emit_darnReply (s : State) (m : Out) : (s.emit m).darnReply = s.darnReply := rfl
@[simp] theorem emit_clocks (s : State) (m : Out) : (s.emit m).clocks = s.clocks := rfl
@[simp] theorem emit_powerLimit (s : State) (m : Out) : (s.emit m).powerLimit = s.powerLimit := rfl
@[simp] theorem emit_powerLog (s : State) (m : Out) : (s.emit m).powerLog = s.powerLog := rfl
@[simp] theorem emit_powerLow (s : State) (m : Out) : (s.emit m).powerLow = s.powerLow := rfl
@[simp] theorem emit_cores (s : State) (m : Out) : (s.emit m).cores = s.cores := rfl
@[simp] theorem emit_agenda (s : State) (m : Out) : (s.emit m).agenda = s.agenda := rfl
@[simp] theorem emit_tick (s : State) (m : Out) : (s.emit m).tick = s.tick := rfl
@[simp] theorem emit_free (s : State) (m : Out) : (s.emit m).free = s.free := rfl
@[simp] theorem emit_cur (s : State) (m : Out) : (s.emit m).cur = s.cur := rfl
@[simp] theorem emit_stalled (s : State) (m : Out) : (s.emit m).stalled = s.stalled := rfl

/-! ### The elements that an update touches -/

theorem modGroup_get (s : State) (g : Nat) (f : Group → Group) (i : Nat) :
    (s.modGroup g f).groups[i]? = if g = i then s.groups[i]?.map f else s.groups[i]? := by
  simp only [State.modGroup, List.getElem?_modify]
  split <;> simp

theorem modCore_get (s : State) (c : Nat) (f : Core → Core) (i : Nat) :
    (s.modCore c f).cores[i]? = if c = i then s.cores[i]?.map f else s.cores[i]? := by
  simp only [State.modCore, List.getElem?_modify]
  split <;> simp

theorem modLaunch_get (s : State) (l : Nat) (f : Launch → Launch) (i : Nat) :
    (s.modLaunch l f).launches[i]? = if l = i then s.launches[i]?.map f else s.launches[i]? := by
  simp only [State.modLaunch, List.getElem?_modify]
  split <;> simp

theorem modJob_get (s : State) (j : Nat) (f : Job → Job) (i : Nat) :
    (s.modJob j f).jobs[i]? = if j = i then s.jobs[i]?.map f else s.jobs[i]? := by
  simp only [State.modJob, List.getElem?_modify]
  split <;> simp

/-- The groups after a change of one wave. -/
theorem modWave_get (s : State) (g w : Nat) (f : Wave → Wave) (i : Nat) :
    (s.modWave g w f).groups[i]? =
      if g = i then s.groups[i]?.map (fun G => { G with waves := G.waves.modify w f }) else s.groups[i]? := modGroup_get s g _ i

/-- Two changes of one group are one change. -/
theorem modGroup_modGroup (s : State) (g : Nat) (f h : Group → Group) : (s.modGroup g f).modGroup g h = s.modGroup g (h ∘ f) := by
  simp only [State.modGroup, List.modify_modify_eq]

/-- A wave of another group, or another wave of the group, after a change of one wave. -/
theorem wave_modWave (s : State) (g w : Nat) (f : Wave → Wave) (i j : Nat) :
    (s.modWave g w f).wave? i j = if g = i ∧ w = j then (s.wave? i j).map f else s.wave? i j := by
  simp only [State.wave?, modWave_get]
  by_cases hg : g = i
  · subst hg
    cases s.groups[g]? with
    | none => simp
    | some G => by_cases hw : w = j <;> simp [hw]
  · simp [hg]

end Sys2Proof.Laws
end

