-- ==== Sys2Proof/Tests/Slice0.lean ====
section
/-! SUPPORT. The model's own tests: the words of the encoding tables (spec/01, spec/04 to spec/13) decode to their
instructions, ill-formed terms are refused by the rule they break, results of the manual's own tables and sentences, and for
every statement states and operands that meet its hypotheses. -/

namespace Sys2Proof.Tests

open Sys2Proof.Machine Sys2Proof.Safety Sys2Proof.Claims

/-! ### Decoding: words written from the encoding tables

The fields are written out of spec/01 R21 to R28 and of the function numbers of the opcode table. -/

theorem test_decode_lane_group_0_part_1 :
    decode (0b1#1 ++ 0b0000#4 ++ 0b000000#6 ++ 0b1001010#7 ++ 0b0100011#7 ++ 0b0011100#7) = .ok (.iadd true 74#7 35#7 28#7) ∧
    decode (0b1#1 ++ 0b0000#4 ++ 0b000001#6 ++ 0b1001010#7 ++ 0b0100011#7 ++ 0b0011100#7) = .ok (.isub true 74#7 35#7 28#7) ∧
    decode (0b1#1 ++ 0b0000#4 ++ 0b000010#6 ++ 0b1001010#7 ++ 0b0100011#7 ++ 0b0011100#7) = .ok (.imul true 74#7 35#7 28#7) ∧
    decode (0b1#1 ++ 0b0000#4 ++ 0b000011#6 ++ 0b1001010#7 ++ 0b0100011#7 ++ 0b0011100#7) = .ok (.imulhI true 74#7 35#7 28#7) ∧
    decode (0b1#1 ++ 0b0000#4 ++ 0b000100#6 ++ 0b1001010#7 ++ 0b0100011#7 ++ 0b0011100#7) = .ok (.imulhN true 74#7 35#7 28#7) ∧
    decode (0b1#1 ++ 0b0000#4 ++ 0b000101#6 ++ 0b1001010#7 ++ 0b0100011#7 ++ 0b0011100#7) = .ok (.imad true 74#7 35#7 28#7) ∧
    decode (0b1#1 ++ 0b0000#4 ++ 0b000110#6 ++ 0b1001010#7 ++ 0b0100011#7 ++ 0b0011100#7) = .ok (.iand true 74#7 35#7 28#7) ∧
    decode (0b1#1 ++ 0b0000#4 ++ 0b000111#6 ++ 0b1001010#7 ++ 0b0100011#7 ++ 0b0011100#7) = .ok (.ior true 74#7 35#7 28#7) ∧
    decode (0b1#1 ++ 0b0000#4 ++ 0b001000#6 ++ 0b1001010#7 ++ 0b0100011#7 ++ 0b0011100#7) = .ok (.ixor true 74#7 35#7 28#7) ∧
    decode (0b1#1 ++ 0b0000#4 ++ 0b001001#6 ++ 0b1001010#7 ++ 0b0100011#7 ++ 0b0011100#7) = .ok (.iandn true 74#7 35#7 28#7) ∧
    decode (0b1#1 ++ 0b0000#4 ++ 0b001010#6 ++ 0b1001010#7 ++ 0b0100011#7 ++ 0b0011100#7) = .ok (.shl true 74#7 35#7 28#7) ∧
    decode (0b1#1 ++ 0b0000#4 ++ 0b001011#6 ++ 0b1001010#7 ++ 0b0100011#7 ++ 0b0011100#7) = .ok (.shr true 74#7 35#7 28#7) ∧
    decode (0b1#1 ++ 0b0000#4 ++ 0b001100#6 ++ 0b1001010#7 ++ 0b0100011#7 ++ 0b0011100#7) = .ok (.sar true 74#7 35#7 28#7) ∧
    decode (0b1#1 ++ 0b0000#4 ++ 0b001101#6 ++ 0b1001010#7 ++ 0b0100011#7 ++ 0b0011100#7) = .ok (.iminI true 74#7 35#7 28#7) ∧
    decode (0b1#1 ++ 0b0000#4 ++ 0b001110#6 ++ 0b1001010#7 ++ 0b0100011#7 ++ 0b0011100#7) = .ok (.iminN true 74#7 35#7 28#7) ∧
    decode (0b1#1 ++ 0b0000#4 ++ 0b001111#6 ++ 0b1001010#7 ++ 0b0100011#7 ++ 0b0011100#7) = .ok (.imaxI true 74#7 35#7 28#7) ∧
    decode (0b1#1 ++ 0b0000#4 ++ 0b010000#6 ++ 0b1001010#7 ++ 0b0100011#7 ++ 0b0011100#7) = .ok (.imaxN true 74#7 35#7 28#7) ∧
    decode (0b1#1 ++ 0b0000#4 ++ 0b010001#6 ++ 0b1001010#7 ++ 0b0100011#7 ++ 0b0000000#7) = .ok (.iabs true 74#7 35#7) := by
  and_intros <;> rfl

theorem test_decode_lane_group_0_part_2 :
    decode (0b1#1 ++ 0b0000#4 ++ 0b010010#6 ++ 0b1001010#7 ++ 0b0100011#7 ++ 0b0000000#7) = .ok (.clz true 74#7 35#7) ∧
    decode (0b1#1 ++ 0b0000#4 ++ 0b010011#6 ++ 0b1001010#7 ++ 0b0100011#7 ++ 0b0000000#7) = .ok (.popc true 74#7 35#7) ∧
    decode (0b1#1 ++ 0b0000#4 ++ 0b010100#6 ++ 0b1001010#7 ++ 0b0100011#7 ++ 0b0000000#7) = .ok (.brev true 74#7 35#7) ∧
    decode (0b1#1 ++ 0b0000#4 ++ 0b010101#6 ++ 0b1001010#7 ++ 0b0100011#7 ++ 0b0011100#7) = .ok (.bfxI true 74#7 35#7 28#7) ∧
    decode (0b1#1 ++ 0b0000#4 ++ 0b010110#6 ++ 0b1001010#7 ++ 0b0100011#7 ++ 0b0011100#7) = .ok (.bfxN true 74#7 35#7 28#7) ∧
    decode (0b1#1 ++ 0b0000#4 ++ 0b010111#6 ++ 0b1001010#7 ++ 0b0100011#7 ++ 0b0011100#7) = .ok (.bfi true 74#7 35#7 28#7) ∧
    decode (0b1#1 ++ 0b0000#4 ++ 0b011010#6 ++ 0b0100011#7 ++ 0b0011100#7 ++ 0b0000110#7) = .ok (.sel true 2#3 35#7 28#7 6#7) ∧
    decode (0b1#1 ++ 0b0000#4 ++ 0b100000#6 ++ 0b1001010#7 ++ 0b0100011#7 ++ 0b0011100#7) = .ok (.iaddI true 74#7 35#7 28#7) ∧
    decode (0b1#1 ++ 0b0000#4 ++ 0b100001#6 ++ 0b1001010#7 ++ 0b0100011#7 ++ 0b0011100#7) = .ok (.isubI true 74#7 35#7 28#7) ∧
    decode (0b1#1 ++ 0b0000#4 ++ 0b100010#6 ++ 0b1001010#7 ++ 0b0100011#7 ++ 0b0011100#7) = .ok (.imulI true 74#7 35#7 28#7) ∧
    decode (0b1#1 ++ 0b0000#4 ++ 0b100011#6 ++ 0b1001010#7 ++ 0b0100011#7 ++ 0b0011100#7) = .ok (.imulhII true 74#7 35#7 28#7) ∧
    decode (0b1#1 ++ 0b0000#4 ++ 0b100100#6 ++ 0b1001010#7 ++ 0b0100011#7 ++ 0b0011100#7) = .ok (.imulhNI true 74#7 35#7 28#7) ∧
    decode (0b1#1 ++ 0b0000#4 ++ 0b100101#6 ++ 0b1001010#7 ++ 0b0100011#7 ++ 0b0011100#7) = .ok (.imadI true 74#7 35#7 28#7) ∧
    decode (0b1#1 ++ 0b0000#4 ++ 0b100110#6 ++ 0b1001010#7 ++ 0b0100011#7 ++ 0b0011100#7) = .ok (.iandI true 74#7 35#7 28#7) ∧
    decode (0b1#1 ++ 0b0000#4 ++ 0b100111#6 ++ 0b1001010#7 ++ 0b0100011#7 ++ 0b0011100#7) = .ok (.iorI true 74#7 35#7 28#7) ∧
    decode (0b1#1 ++ 0b0000#4 ++ 0b101000#6 ++ 0b1001010#7 ++ 0b0100011#7 ++ 0b0011100#7) = .ok (.ixorI true 74#7 35#7 28#7) ∧
    decode (0b1#1 ++ 0b0000#4 ++ 0b101001#6 ++ 0b1001010#7 ++ 0b0100011#7 ++ 0b0011100#7) = .ok (.iandnI true 74#7 35#7 28#7) ∧
    decode (0b1#1 ++ 0b0000#4 ++ 0b101010#6 ++ 0b1001010#7 ++ 0b0100011#7 ++ 0b0011100#7) = .ok (.shlI true 74#7 35#7 28#7) := by
  and_intros <;> rfl

theorem test_decode_lane_group_0_part_3 :
    decode (0b1#1 ++ 0b0000#4 ++ 0b101011#6 ++ 0b1001010#7 ++ 0b0100011#7 ++ 0b0011100#7) = .ok (.shrI true 74#7 35#7 28#7) ∧
    decode (0b1#1 ++ 0b0000#4 ++ 0b101100#6 ++ 0b1001010#7 ++ 0b0100011#7 ++ 0b0011100#7) = .ok (.sarI true 74#7 35#7 28#7) ∧
    decode (0b1#1 ++ 0b0000#4 ++ 0b101101#6 ++ 0b1001010#7 ++ 0b0100011#7 ++ 0b0011100#7) = .ok (.iminII true 74#7 35#7 28#7) ∧
    decode (0b1#1 ++ 0b0000#4 ++ 0b101110#6 ++ 0b1001010#7 ++ 0b0100011#7 ++ 0b0011100#7) = .ok (.iminNI true 74#7 35#7 28#7) ∧
    decode (0b1#1 ++ 0b0000#4 ++ 0b101111#6 ++ 0b1001010#7 ++ 0b0100011#7 ++ 0b0011100#7) = .ok (.imaxII true 74#7 35#7 28#7) ∧
    decode (0b1#1 ++ 0b0000#4 ++ 0b110000#6 ++ 0b1001010#7 ++ 0b0100011#7 ++ 0b0011100#7) = .ok (.imaxNI true 74#7 35#7 28#7) ∧
    decode (0b1#1 ++ 0b0000#4 ++ 0b110101#6 ++ 0b1001010#7 ++ 0b0100011#7 ++ 0b0011100#7) = .ok (.bfxII true 74#7 35#7 28#7) ∧
    decode (0b1#1 ++ 0b0000#4 ++ 0b110110#6 ++ 0b1001010#7 ++ 0b0100011#7 ++ 0b0011100#7) = .ok (.bfxNI true 74#7 35#7 28#7) ∧
    decode (0b1#1 ++ 0b0000#4 ++ 0b110111#6 ++ 0b1001010#7 ++ 0b0100011#7 ++ 0b0011100#7) = .ok (.bfiI true 74#7 35#7 28#7) ∧
    decode (0b1#1 ++ 0b0000#4 ++ 0b111000#6 ++ 0b1001010#7 ++ 0b0000000#7 ++ 0b0100011#7) = .ok (.mov true 74#7 35#7) ∧
    decode (0b1#1 ++ 0b0000#4 ++ 0b111001#6 ++ 0b1001010#7 ++ 0b1101011#7 ++ 0b0100011#7) = .ok (.movi true 74#7 13731#14) ∧
    decode (0b1#1 ++ 0b0000#4 ++ 0b111010#6 ++ 0b1001010#7 ++ 0b0100011#7 ++ 0b0011100#7) = .ok (.iadd64 true 74#7 35#7 28#7) ∧
    decode (0b1#1 ++ 0b0000#4 ++ 0b111011#6 ++ 0b1001010#7 ++ 0b0100011#7 ++ 0b0011100#7) = .ok (.isub64 true 74#7 35#7 28#7) ∧
    decode (0b1#1 ++ 0b0000#4 ++ 0b111100#6 ++ 0b1001010#7 ++ 0b0100011#7 ++ 0b0011100#7) = .ok (.imulwI true 74#7 35#7 28#7) ∧
    decode (0b1#1 ++ 0b0000#4 ++ 0b111101#6 ++ 0b1001010#7 ++ 0b0100011#7 ++ 0b0011100#7) = .ok (.imulwN true 74#7 35#7 28#7) ∧
    decode (0b0#1 ++ 0b0000#4 ++ 0b111110#6 ++ 0b0010101#7 ++ 0b1001010#7 ++ 0b0000000#7) = .ok (.movls 21#7 74#7) := by
  and_intros <;> rfl

theorem test_decode_lane_group_1_part_1 :
    decode (0b0#1 ++ 0b0001#4 ++ 0b000000#6 ++ 0b0010101#7 ++ 0b1001010#7 ++ 0b0100011#7) = .ok (.paddH2 21#7 74#7 35#7) ∧
    decode (0b0#1 ++ 0b0001#4 ++ 0b000001#6 ++ 0b0010101#7 ++ 0b1001010#7 ++ 0b0100011#7) = .ok (.paddsH2 21#7 74#7 35#7) ∧
    decode (0b0#1 ++ 0b0001#4 ++ 0b000010#6 ++ 0b0010101#7 ++ 0b1001010#7 ++ 0b0100011#7) = .ok (.psubH2 21#7 74#7 35#7) ∧
    decode (0b0#1 ++ 0b0001#4 ++ 0b000011#6 ++ 0b0010101#7 ++ 0b1001010#7 ++ 0b0100011#7) = .ok (.psubsH2 21#7 74#7 35#7) ∧
    decode (0b0#1 ++ 0b0001#4 ++ 0b000100#6 ++ 0b0010101#7 ++ 0b1001010#7 ++ 0b0100011#7) = .ok (.paddB4 21#7 74#7 35#7) ∧
    decode (0b0#1 ++ 0b0001#4 ++ 0b000101#6 ++ 0b0010101#7 ++ 0b1001010#7 ++ 0b0100011#7) = .ok (.paddsB4 21#7 74#7 35#7) ∧
    decode (0b0#1 ++ 0b0001#4 ++ 0b000110#6 ++ 0b0010101#7 ++ 0b1001010#7 ++ 0b0100011#7) = .ok (.psubsB4 21#7 74#7 35#7) ∧
    decode (0b0#1 ++ 0b0001#4 ++ 0b000111#6 ++ 0b0010101#7 ++ 0b1001010#7 ++ 0b0100011#7) = .ok (.pmaddH2 21#7 74#7 35#7) ∧
    decode (0b0#1 ++ 0b0001#4 ++ 0b001000#6 ++ 0b0010101#7 ++ 0b1001010#7 ++ 0b0100011#7) = .ok (.pmaddB4 21#7 74#7 35#7) ∧
    decode (0b0#1 ++ 0b0001#4 ++ 0b001001#6 ++ 0b0010101#7 ++ 0b1001010#7 ++ 0b0100011#7) = .ok (.iadds 21#7 74#7 35#7) ∧
    decode (0b0#1 ++ 0b0001#4 ++ 0b001010#6 ++ 0b0010101#7 ++ 0b1001010#7 ++ 0b0100011#7) = .ok (.isubs 21#7 74#7 35#7) ∧
    decode (0b0#1 ++ 0b0001#4 ++ 0b001011#6 ++ 0b0010101#7 ++ 0b1001010#7 ++ 0b0100011#7) = .ok (.shrr 21#7 74#7 35#7) ∧
    decode (0b0#1 ++ 0b0001#4 ++ 0b001100#6 ++ 0b0010101#7 ++ 0b1001010#7 ++ 0b0100011#7) = .ok (.shrrsH2 21#7 74#7 35#7) ∧
    decode (0b0#1 ++ 0b0001#4 ++ 0b001101#6 ++ 0b0010101#7 ++ 0b1001010#7 ++ 0b0100011#7) = .ok (.packH2 21#7 74#7 35#7) ∧
    decode (0b0#1 ++ 0b0001#4 ++ 0b001110#6 ++ 0b0010101#7 ++ 0b1001010#7 ++ 0b0100011#7) = .ok (.packsH2 21#7 74#7 35#7) ∧
    decode (0b0#1 ++ 0b0001#4 ++ 0b001111#6 ++ 0b0010101#7 ++ 0b1001010#7 ++ 0b0100011#7) = .ok (.pminH2 21#7 74#7 35#7) ∧
    decode (0b0#1 ++ 0b0001#4 ++ 0b010000#6 ++ 0b0010101#7 ++ 0b1001010#7 ++ 0b0100011#7) = .ok (.pmaxH2 21#7 74#7 35#7) := by
  and_intros <;> rfl

theorem test_decode_lane_group_1_part_2 :
    decode (0b0#1 ++ 0b0001#4 ++ 0b100000#6 ++ 0b0010101#7 ++ 0b1001010#7 ++ 0b0100011#7) = .ok (.paddH2I 21#7 74#7 35#7) ∧
    decode (0b0#1 ++ 0b0001#4 ++ 0b100001#6 ++ 0b0010101#7 ++ 0b1001010#7 ++ 0b0100011#7) = .ok (.paddsH2I 21#7 74#7 35#7) ∧
    decode (0b0#1 ++ 0b0001#4 ++ 0b100010#6 ++ 0b0010101#7 ++ 0b1001010#7 ++ 0b0100011#7) = .ok (.psubH2I 21#7 74#7 35#7) ∧
    decode (0b0#1 ++ 0b0001#4 ++ 0b100011#6 ++ 0b0010101#7 ++ 0b1001010#7 ++ 0b0100011#7) = .ok (.psubsH2I 21#7 74#7 35#7) ∧
    decode (0b0#1 ++ 0b0001#4 ++ 0b100100#6 ++ 0b0010101#7 ++ 0b1001010#7 ++ 0b0100011#7) = .ok (.paddB4I 21#7 74#7 35#7) ∧
    decode (0b0#1 ++ 0b0001#4 ++ 0b100101#6 ++ 0b0010101#7 ++ 0b1001010#7 ++ 0b0100011#7) = .ok (.paddsB4I 21#7 74#7 35#7) ∧
    decode (0b0#1 ++ 0b0001#4 ++ 0b100110#6 ++ 0b0010101#7 ++ 0b1001010#7 ++ 0b0100011#7) = .ok (.psubsB4I 21#7 74#7 35#7) ∧
    decode (0b0#1 ++ 0b0001#4 ++ 0b100111#6 ++ 0b0010101#7 ++ 0b1001010#7 ++ 0b0100011#7) = .ok (.pmaddH2I 21#7 74#7 35#7) ∧
    decode (0b0#1 ++ 0b0001#4 ++ 0b101000#6 ++ 0b0010101#7 ++ 0b1001010#7 ++ 0b0100011#7) = .ok (.pmaddB4I 21#7 74#7 35#7) ∧
    decode (0b0#1 ++ 0b0001#4 ++ 0b101001#6 ++ 0b0010101#7 ++ 0b1001010#7 ++ 0b0100011#7) = .ok (.iaddsI 21#7 74#7 35#7) ∧
    decode (0b0#1 ++ 0b0001#4 ++ 0b101010#6 ++ 0b0010101#7 ++ 0b1001010#7 ++ 0b0100011#7) = .ok (.isubsI 21#7 74#7 35#7) ∧
    decode (0b0#1 ++ 0b0001#4 ++ 0b101011#6 ++ 0b0010101#7 ++ 0b1001010#7 ++ 0b0100011#7) = .ok (.shrrI 21#7 74#7 35#7) ∧
    decode (0b0#1 ++ 0b0001#4 ++ 0b101100#6 ++ 0b0010101#7 ++ 0b1001010#7 ++ 0b0100011#7) = .ok (.shrrsH2I 21#7 74#7 35#7) ∧
    decode (0b0#1 ++ 0b0001#4 ++ 0b101101#6 ++ 0b0010101#7 ++ 0b1001010#7 ++ 0b0100011#7) = .ok (.packH2I 21#7 74#7 35#7) ∧
    decode (0b0#1 ++ 0b0001#4 ++ 0b101110#6 ++ 0b0010101#7 ++ 0b1001010#7 ++ 0b0100011#7) = .ok (.packsH2I 21#7 74#7 35#7) ∧
    decode (0b0#1 ++ 0b0001#4 ++ 0b101111#6 ++ 0b0010101#7 ++ 0b1001010#7 ++ 0b0100011#7) = .ok (.pminH2I 21#7 74#7 35#7) ∧
    decode (0b0#1 ++ 0b0001#4 ++ 0b110000#6 ++ 0b0010101#7 ++ 0b1001010#7 ++ 0b0100011#7) = .ok (.pmaxH2I 21#7 74#7 35#7) := by
  and_intros <;> rfl

theorem test_decode_lane_group_2 :
    decode (0b1#1 ++ 0b0010#4 ++ 0b000000#6 ++ 0b1001010#7 ++ 0b0100011#7 ++ 0b0011100#7) = .ok (.fadd true 74#7 35#7 28#7) ∧
    decode (0b1#1 ++ 0b0010#4 ++ 0b000001#6 ++ 0b1001010#7 ++ 0b0100011#7 ++ 0b0011100#7) = .ok (.fsub true 74#7 35#7 28#7) ∧
    decode (0b1#1 ++ 0b0010#4 ++ 0b000010#6 ++ 0b1001010#7 ++ 0b0100011#7 ++ 0b0011100#7) = .ok (.fmul true 74#7 35#7 28#7) ∧
    decode (0b1#1 ++ 0b0010#4 ++ 0b000011#6 ++ 0b1001010#7 ++ 0b0100011#7 ++ 0b0011100#7) = .ok (.ffma true 74#7 35#7 28#7) ∧
    decode (0b1#1 ++ 0b0010#4 ++ 0b000100#6 ++ 0b1001010#7 ++ 0b0100011#7 ++ 0b0011100#7) = .ok (.fmin true 74#7 35#7 28#7) ∧
    decode (0b1#1 ++ 0b0010#4 ++ 0b000101#6 ++ 0b1001010#7 ++ 0b0100011#7 ++ 0b0011100#7) = .ok (.fmax true 74#7 35#7 28#7) ∧
    decode (0b1#1 ++ 0b0010#4 ++ 0b000110#6 ++ 0b1001010#7 ++ 0b0100011#7 ++ 0b0000000#7) = .ok (.fabs true 74#7 35#7) ∧
    decode (0b1#1 ++ 0b0010#4 ++ 0b000111#6 ++ 0b1001010#7 ++ 0b0100011#7 ++ 0b0000000#7) = .ok (.fneg true 74#7 35#7) ∧
    decode (0b0#1 ++ 0b0010#4 ++ 0b001000#6 ++ 0b0010101#7 ++ 0b1001010#7 ++ 0b0100011#7) = .ok (.hadd2 21#7 74#7 35#7) ∧
    decode (0b0#1 ++ 0b0010#4 ++ 0b001001#6 ++ 0b0010101#7 ++ 0b1001010#7 ++ 0b0100011#7) = .ok (.hmul2 21#7 74#7 35#7) ∧
    decode (0b0#1 ++ 0b0010#4 ++ 0b001010#6 ++ 0b0010101#7 ++ 0b1001010#7 ++ 0b0100011#7) = .ok (.hfma2 21#7 74#7 35#7) ∧
    decode (0b0#1 ++ 0b0010#4 ++ 0b001011#6 ++ 0b0010101#7 ++ 0b1001010#7 ++ 0b0100011#7) = .ok (.bfma2 21#7 74#7 35#7) ∧
    decode (0b0#1 ++ 0b0010#4 ++ 0b001100#6 ++ 0b0010101#7 ++ 0b1001010#7 ++ 0b0100011#7) = .ok (.frnd 21#7 74#7 35#7) ∧
    decode (0b0#1 ++ 0b0010#4 ++ 0b001101#6 ++ 0b0010101#7 ++ 0b1001010#7 ++ 0b0000000#7) = .ok (.fclass 21#7 74#7) := by
  and_intros <;> rfl

theorem test_decode_lane_group_3 :
    decode (0b1#1 ++ 0b0011#4 ++ 0b000000#6 ++ 0b1001010#7 ++ 0b0100011#7 ++ 0b0011100#7) = .ok (.dadd true 74#7 35#7 28#7) ∧
    decode (0b1#1 ++ 0b0011#4 ++ 0b000001#6 ++ 0b1001010#7 ++ 0b0100011#7 ++ 0b0011100#7) = .ok (.dsub true 74#7 35#7 28#7) ∧
    decode (0b1#1 ++ 0b0011#4 ++ 0b000010#6 ++ 0b1001010#7 ++ 0b0100011#7 ++ 0b0011100#7) = .ok (.dmul true 74#7 35#7 28#7) ∧
    decode (0b1#1 ++ 0b0011#4 ++ 0b000011#6 ++ 0b1001010#7 ++ 0b0100011#7 ++ 0b0011100#7) = .ok (.dfma true 74#7 35#7 28#7) ∧
    decode (0b1#1 ++ 0b0011#4 ++ 0b000100#6 ++ 0b1001010#7 ++ 0b0100011#7 ++ 0b0011100#7) = .ok (.dmin true 74#7 35#7 28#7) ∧
    decode (0b1#1 ++ 0b0011#4 ++ 0b000101#6 ++ 0b1001010#7 ++ 0b0100011#7 ++ 0b0011100#7) = .ok (.dmax true 74#7 35#7 28#7) ∧
    decode (0b1#1 ++ 0b0011#4 ++ 0b000110#6 ++ 0b1001010#7 ++ 0b0100011#7 ++ 0b0000000#7) = .ok (.dabs true 74#7 35#7) ∧
    decode (0b1#1 ++ 0b0011#4 ++ 0b000111#6 ++ 0b1001010#7 ++ 0b0100011#7 ++ 0b0000000#7) = .ok (.dneg true 74#7 35#7) ∧
    decode (0b0#1 ++ 0b0011#4 ++ 0b001000#6 ++ 0b0010101#7 ++ 0b1001010#7 ++ 0b0100011#7) = .ok (.drnd 21#7 74#7 35#7) ∧
    decode (0b0#1 ++ 0b0011#4 ++ 0b001001#6 ++ 0b0010101#7 ++ 0b1001010#7 ++ 0b0000000#7) = .ok (.dclass 21#7 74#7) := by
  and_intros <;> rfl

theorem test_decode_lane_group_4_part_1 :
    decode (0b1#1 ++ 0b0100#4 ++ 0b000000#6 ++ 0b1001010#7 ++ 0b0100011#7 ++ 0b0011100#7) = .ok (.icmpIEq true 74#7 35#7 28#7) ∧
    decode (0b1#1 ++ 0b0100#4 ++ 0b000001#6 ++ 0b1001010#7 ++ 0b0100011#7 ++ 0b0011100#7) = .ok (.icmpINe true 74#7 35#7 28#7) ∧
    decode (0b1#1 ++ 0b0100#4 ++ 0b000010#6 ++ 0b1001010#7 ++ 0b0100011#7 ++ 0b0011100#7) = .ok (.icmpILt true 74#7 35#7 28#7) ∧
    decode (0b1#1 ++ 0b0100#4 ++ 0b000011#6 ++ 0b1001010#7 ++ 0b0100011#7 ++ 0b0011100#7) = .ok (.icmpILe true 74#7 35#7 28#7) ∧
    decode (0b1#1 ++ 0b0100#4 ++ 0b000100#6 ++ 0b1001010#7 ++ 0b0100011#7 ++ 0b0011100#7) = .ok (.icmpIGt true 74#7 35#7 28#7) ∧
    decode (0b1#1 ++ 0b0100#4 ++ 0b000101#6 ++ 0b1001010#7 ++ 0b0100011#7 ++ 0b0011100#7) = .ok (.icmpIGe true 74#7 35#7 28#7) ∧
    decode (0b1#1 ++ 0b0100#4 ++ 0b000110#6 ++ 0b1001010#7 ++ 0b0100011#7 ++ 0b0011100#7) = .ok (.icmpNLt true 74#7 35#7 28#7) ∧
    decode (0b1#1 ++ 0b0100#4 ++ 0b000111#6 ++ 0b1001010#7 ++ 0b0100011#7 ++ 0b0011100#7) = .ok (.icmpNLe true 74#7 35#7 28#7) ∧
    decode (0b1#1 ++ 0b0100#4 ++ 0b001000#6 ++ 0b1001010#7 ++ 0b0100011#7 ++ 0b0011100#7) = .ok (.icmpNGt true 74#7 35#7 28#7) ∧
    decode (0b1#1 ++ 0b0100#4 ++ 0b001001#6 ++ 0b1001010#7 ++ 0b0100011#7 ++ 0b0011100#7) = .ok (.icmpNGe true 74#7 35#7 28#7) ∧
    decode (0b1#1 ++ 0b0100#4 ++ 0b001010#6 ++ 0b1001010#7 ++ 0b0100011#7 ++ 0b0011100#7) = .ok (.fcmpEq true 74#7 35#7 28#7) ∧
    decode (0b1#1 ++ 0b0100#4 ++ 0b001011#6 ++ 0b1001010#7 ++ 0b0100011#7 ++ 0b0011100#7) = .ok (.fcmpNe true 74#7 35#7 28#7) ∧
    decode (0b1#1 ++ 0b0100#4 ++ 0b001100#6 ++ 0b1001010#7 ++ 0b0100011#7 ++ 0b0011100#7) = .ok (.fcmpLt true 74#7 35#7 28#7) ∧
    decode (0b1#1 ++ 0b0100#4 ++ 0b001101#6 ++ 0b1001010#7 ++ 0b0100011#7 ++ 0b0011100#7) = .ok (.fcmpLe true 74#7 35#7 28#7) ∧
    decode (0b1#1 ++ 0b0100#4 ++ 0b001110#6 ++ 0b1001010#7 ++ 0b0100011#7 ++ 0b0011100#7) = .ok (.fcmpGt true 74#7 35#7 28#7) ∧
    decode (0b1#1 ++ 0b0100#4 ++ 0b001111#6 ++ 0b1001010#7 ++ 0b0100011#7 ++ 0b0011100#7) = .ok (.fcmpGe true 74#7 35#7 28#7) ∧
    decode (0b1#1 ++ 0b0100#4 ++ 0b010000#6 ++ 0b1001010#7 ++ 0b0100011#7 ++ 0b0011100#7) = .ok (.fcmpUn true 74#7 35#7 28#7) := by
  and_intros <;> rfl

theorem test_decode_lane_group_4_part_2 :
    decode (0b1#1 ++ 0b0100#4 ++ 0b010001#6 ++ 0b1001010#7 ++ 0b0100011#7 ++ 0b0011100#7) = .ok (.fcmpOrd true 74#7 35#7 28#7) ∧
    decode (0b1#1 ++ 0b0100#4 ++ 0b010010#6 ++ 0b1001010#7 ++ 0b0100011#7 ++ 0b0011100#7) = .ok (.dcmpEq true 74#7 35#7 28#7) ∧
    decode (0b1#1 ++ 0b0100#4 ++ 0b010011#6 ++ 0b1001010#7 ++ 0b0100011#7 ++ 0b0011100#7) = .ok (.dcmpNe true 74#7 35#7 28#7) ∧
    decode (0b1#1 ++ 0b0100#4 ++ 0b010100#6 ++ 0b1001010#7 ++ 0b0100011#7 ++ 0b0011100#7) = .ok (.dcmpLt true 74#7 35#7 28#7) ∧
    decode (0b1#1 ++ 0b0100#4 ++ 0b010101#6 ++ 0b1001010#7 ++ 0b0100011#7 ++ 0b0011100#7) = .ok (.dcmpLe true 74#7 35#7 28#7) ∧
    decode (0b1#1 ++ 0b0100#4 ++ 0b010110#6 ++ 0b1001010#7 ++ 0b0100011#7 ++ 0b0011100#7) = .ok (.dcmpGt true 74#7 35#7 28#7) ∧
    decode (0b1#1 ++ 0b0100#4 ++ 0b010111#6 ++ 0b1001010#7 ++ 0b0100011#7 ++ 0b0011100#7) = .ok (.dcmpGe true 74#7 35#7 28#7) ∧
    decode (0b1#1 ++ 0b0100#4 ++ 0b011000#6 ++ 0b1001010#7 ++ 0b0100011#7 ++ 0b0011100#7) = .ok (.dcmpUn true 74#7 35#7 28#7) ∧
    decode (0b1#1 ++ 0b0100#4 ++ 0b011001#6 ++ 0b1001010#7 ++ 0b0100011#7 ++ 0b0011100#7) = .ok (.dcmpOrd true 74#7 35#7 28#7) ∧
    decode (0b0#1 ++ 0b0100#4 ++ 0b011010#6 ++ 0b0010101#7 ++ 0b1001010#7 ++ 0b0100011#7) = .ok (.kand 21#7 74#7 35#7) ∧
    decode (0b0#1 ++ 0b0100#4 ++ 0b011011#6 ++ 0b0010101#7 ++ 0b1001010#7 ++ 0b0100011#7) = .ok (.kor 21#7 74#7 35#7) ∧
    decode (0b0#1 ++ 0b0100#4 ++ 0b011100#6 ++ 0b0010101#7 ++ 0b1001010#7 ++ 0b0100011#7) = .ok (.kxor 21#7 74#7 35#7) ∧
    decode (0b0#1 ++ 0b0100#4 ++ 0b011101#6 ++ 0b0010101#7 ++ 0b1001010#7 ++ 0b0100011#7) = .ok (.kandn 21#7 74#7 35#7) ∧
    decode (0b0#1 ++ 0b0100#4 ++ 0b011110#6 ++ 0b0010101#7 ++ 0b1001010#7 ++ 0b0000000#7) = .ok (.knot 21#7 74#7) ∧
    decode (0b0#1 ++ 0b0100#4 ++ 0b011111#6 ++ 0b0010101#7 ++ 0b1001010#7 ++ 0b0000000#7) = .ok (.kmov 21#7 74#7) ∧
    decode (0b0#1 ++ 0b0100#4 ++ 0b100000#6 ++ 0b0010101#7 ++ 0b1001010#7 ++ 0b0000000#7) = .ok (.ktov 21#7 74#7) ∧
    decode (0b0#1 ++ 0b0100#4 ++ 0b100001#6 ++ 0b0010101#7 ++ 0b1001010#7 ++ 0b0000000#7) = .ok (.vtok 21#7 74#7) := by
  and_intros <;> rfl

theorem test_decode_lane_group_5 :
    decode (0b0#1 ++ 0b0101#4 ++ 0b000000#6 ++ 0b0010101#7 ++ 0b1001010#7 ++ 0b0100011#7) = .ok (.f2iI 21#7 74#7 35#7) ∧
    decode (0b0#1 ++ 0b0101#4 ++ 0b000001#6 ++ 0b0010101#7 ++ 0b1001010#7 ++ 0b0100011#7) = .ok (.f2iN 21#7 74#7 35#7) ∧
    decode (0b0#1 ++ 0b0101#4 ++ 0b000010#6 ++ 0b0010101#7 ++ 0b1001010#7 ++ 0b0000000#7) = .ok (.i2fI 21#7 74#7) ∧
    decode (0b0#1 ++ 0b0101#4 ++ 0b000011#6 ++ 0b0010101#7 ++ 0b1001010#7 ++ 0b0000000#7) = .ok (.i2fN 21#7 74#7) ∧
    decode (0b0#1 ++ 0b0101#4 ++ 0b000100#6 ++ 0b0010101#7 ++ 0b1001010#7 ++ 0b0000000#7) = .ok (.f2d 21#7 74#7) ∧
    decode (0b0#1 ++ 0b0101#4 ++ 0b000101#6 ++ 0b0010101#7 ++ 0b1001010#7 ++ 0b0000000#7) = .ok (.d2f 21#7 74#7) ∧
    decode (0b0#1 ++ 0b0101#4 ++ 0b000110#6 ++ 0b0010101#7 ++ 0b1001010#7 ++ 0b0100011#7) = .ok (.d2iI 21#7 74#7 35#7) ∧
    decode (0b0#1 ++ 0b0101#4 ++ 0b000111#6 ++ 0b0010101#7 ++ 0b1001010#7 ++ 0b0000000#7) = .ok (.i2dI 21#7 74#7) ∧
    decode (0b0#1 ++ 0b0101#4 ++ 0b001000#6 ++ 0b0010101#7 ++ 0b1001010#7 ++ 0b0100011#7) = .ok (.f2h2 21#7 74#7 35#7) ∧
    decode (0b0#1 ++ 0b0101#4 ++ 0b001001#6 ++ 0b0010101#7 ++ 0b1001010#7 ++ 0b0000000#7) = .ok (.h2fLo 21#7 74#7) ∧
    decode (0b0#1 ++ 0b0101#4 ++ 0b001010#6 ++ 0b0010101#7 ++ 0b1001010#7 ++ 0b0000000#7) = .ok (.h2fHi 21#7 74#7) ∧
    decode (0b0#1 ++ 0b0101#4 ++ 0b001011#6 ++ 0b0010101#7 ++ 0b1001010#7 ++ 0b0100011#7) = .ok (.f2bf2 21#7 74#7 35#7) ∧
    decode (0b0#1 ++ 0b0101#4 ++ 0b001100#6 ++ 0b0010101#7 ++ 0b1001010#7 ++ 0b0000000#7) = .ok (.bf2fLo 21#7 74#7) ∧
    decode (0b0#1 ++ 0b0101#4 ++ 0b001101#6 ++ 0b0010101#7 ++ 0b1001010#7 ++ 0b0000000#7) = .ok (.bf2fHi 21#7 74#7) ∧
    decode (0b0#1 ++ 0b0101#4 ++ 0b010101#6 ++ 0b1001010#7 ++ 0b0100011#7 ++ 0b0000000#7) = .ok (.cvtn 5#3 74#7 35#7) ∧
    decode (0b0#1 ++ 0b0101#4 ++ 0b011101#6 ++ 0b1001010#7 ++ 0b0100011#7 ++ 0b0000000#7) = .ok (.cvtw 5#3 74#7 35#7) := by
  and_intros <;> rfl

theorem test_decode_lane_group_6 :
    decode (0b0#1 ++ 0b0110#4 ++ 0b000000#6 ++ 0b0010101#7 ++ 0b1001010#7 ++ 0b0100011#7) = .ok (.shfl 21#7 74#7 35#7) ∧
    decode (0b0#1 ++ 0b0110#4 ++ 0b000001#6 ++ 0b0010101#7 ++ 0b1001010#7 ++ 0b0100011#7) = .ok (.shflx 21#7 74#7 35#7) ∧
    decode (0b0#1 ++ 0b0110#4 ++ 0b000010#6 ++ 0b0010101#7 ++ 0b1001010#7 ++ 0b0100011#7) = .ok (.slideup 21#7 74#7 35#7) ∧
    decode (0b0#1 ++ 0b0110#4 ++ 0b000011#6 ++ 0b0010101#7 ++ 0b1001010#7 ++ 0b0100011#7) = .ok (.slidedn 21#7 74#7 35#7) ∧
    decode (0b0#1 ++ 0b0110#4 ++ 0b000100#6 ++ 0b0010101#7 ++ 0b1001010#7 ++ 0b0100011#7) = .ok (.slideuph 21#7 74#7 35#7) ∧
    decode (0b0#1 ++ 0b0110#4 ++ 0b000101#6 ++ 0b0010101#7 ++ 0b1001010#7 ++ 0b0100011#7) = .ok (.slidednh 21#7 74#7 35#7) ∧
    decode (0b0#1 ++ 0b0110#4 ++ 0b000110#6 ++ 0b0010101#7 ++ 0b1001010#7 ++ 0b0100011#7) = .ok (.bcast 21#7 74#7 35#7) ∧
    decode (0b0#1 ++ 0b0110#4 ++ 0b000111#6 ++ 0b0010101#7 ++ 0b1001010#7 ++ 0b0100011#7) = .ok (.vcompress 21#7 74#7 35#7) ∧
    decode (0b0#1 ++ 0b0110#4 ++ 0b001000#6 ++ 0b0010101#7 ++ 0b1001010#7 ++ 0b0100011#7) = .ok (.vcompressZ 21#7 74#7 35#7) ∧
    decode (0b0#1 ++ 0b0110#4 ++ 0b001001#6 ++ 0b0010101#7 ++ 0b1001010#7 ++ 0b0100011#7) = .ok (.vexpand 21#7 74#7 35#7) ∧
    decode (0b0#1 ++ 0b0110#4 ++ 0b001010#6 ++ 0b0010101#7 ++ 0b1001010#7 ++ 0b0000000#7) = .ok (.voteany 21#7 74#7) ∧
    decode (0b0#1 ++ 0b0110#4 ++ 0b001011#6 ++ 0b0010101#7 ++ 0b1001010#7 ++ 0b0000000#7) = .ok (.voteall 21#7 74#7) ∧
    decode (0b0#1 ++ 0b0110#4 ++ 0b001100#6 ++ 0b0010101#7 ++ 0b1001010#7 ++ 0b0000000#7) = .ok (.ballot 21#7 74#7) := by
  and_intros <;> rfl

theorem test_decode_lane_group_7 :
    decode (0b0#1 ++ 0b0111#4 ++ 0b000000#6 ++ 0b0010101#7 ++ 0b1001010#7 ++ 0b0000000#7) = .ok (.rcp 21#7 74#7) ∧
    decode (0b0#1 ++ 0b0111#4 ++ 0b000001#6 ++ 0b0010101#7 ++ 0b1001010#7 ++ 0b0000000#7) = .ok (.rsq 21#7 74#7) ∧
    decode (0b0#1 ++ 0b0111#4 ++ 0b000010#6 ++ 0b0010101#7 ++ 0b1001010#7 ++ 0b0000000#7) = .ok (.sqrt 21#7 74#7) ∧
    decode (0b0#1 ++ 0b0111#4 ++ 0b000011#6 ++ 0b0010101#7 ++ 0b1001010#7 ++ 0b0000000#7) = .ok (.log2 21#7 74#7) ∧
    decode (0b0#1 ++ 0b0111#4 ++ 0b000100#6 ++ 0b0010101#7 ++ 0b1001010#7 ++ 0b0000000#7) = .ok (.exp2 21#7 74#7) ∧
    decode (0b0#1 ++ 0b0111#4 ++ 0b000101#6 ++ 0b0010101#7 ++ 0b1001010#7 ++ 0b0000000#7) = .ok (.sin 21#7 74#7) ∧
    decode (0b0#1 ++ 0b0111#4 ++ 0b000110#6 ++ 0b0010101#7 ++ 0b1001010#7 ++ 0b0000000#7) = .ok (.cos 21#7 74#7) ∧
    decode (0b0#1 ++ 0b0111#4 ++ 0b000111#6 ++ 0b0010101#7 ++ 0b1001010#7 ++ 0b0000000#7) = .ok (.tanh 21#7 74#7) ∧
    decode (0b0#1 ++ 0b0111#4 ++ 0b001000#6 ++ 0b0010101#7 ++ 0b1001010#7 ++ 0b0000000#7) = .ok (.drcp 21#7 74#7) ∧
    decode (0b0#1 ++ 0b0111#4 ++ 0b001001#6 ++ 0b0010101#7 ++ 0b1001010#7 ++ 0b0000000#7) = .ok (.dsqrt 21#7 74#7) := by
  and_intros <;> rfl

theorem test_decode_lane_group_8_part_1 :
    decode (0b1#1 ++ 0b1000#4 ++ 0b000000#6 ++ 0b1001010#7 ++ 0b0100011#7 ++ 0b1000110#7) = .ok (.ldlN8 true 74#7 35#7 4#3 6#4) ∧
    decode (0b1#1 ++ 0b1000#4 ++ 0b000001#6 ++ 0b1001010#7 ++ 0b0100011#7 ++ 0b1000110#7) = .ok (.ldlI8 true 74#7 35#7 4#3 6#4) ∧
    decode (0b1#1 ++ 0b1000#4 ++ 0b000010#6 ++ 0b1001010#7 ++ 0b0100011#7 ++ 0b1000110#7) = .ok (.ldlN16 true 74#7 35#7 4#3 6#4) ∧
    decode (0b1#1 ++ 0b1000#4 ++ 0b000011#6 ++ 0b1001010#7 ++ 0b0100011#7 ++ 0b1000110#7) = .ok (.ldlI16 true 74#7 35#7 4#3 6#4) ∧
    decode (0b1#1 ++ 0b1000#4 ++ 0b000100#6 ++ 0b1001010#7 ++ 0b0100011#7 ++ 0b1000110#7) = .ok (.ldl32 true 74#7 35#7 4#3 6#4) ∧
    decode (0b1#1 ++ 0b1000#4 ++ 0b000101#6 ++ 0b1001010#7 ++ 0b0100011#7 ++ 0b1000110#7) = .ok (.ldl64 true 74#7 35#7 4#3 6#4) ∧
    decode (0b1#1 ++ 0b1000#4 ++ 0b000110#6 ++ 0b1001010#7 ++ 0b0100011#7 ++ 0b1000110#7) = .ok (.ldl128 true 74#7 35#7 4#3 6#4) ∧
    decode (0b1#1 ++ 0b1000#4 ++ 0b000111#6 ++ 0b1001010#7 ++ 0b0100011#7 ++ 0b1000110#7) = .ok (.stl8 true 74#7 35#7 4#3 6#4) ∧
    decode (0b1#1 ++ 0b1000#4 ++ 0b001000#6 ++ 0b1001010#7 ++ 0b0100011#7 ++ 0b1000110#7) = .ok (.stl16 true 74#7 35#7 4#3 6#4) ∧
    decode (0b1#1 ++ 0b1000#4 ++ 0b001001#6 ++ 0b1001010#7 ++ 0b0100011#7 ++ 0b1000110#7) = .ok (.stl32 true 74#7 35#7 4#3 6#4) ∧
    decode (0b1#1 ++ 0b1000#4 ++ 0b001010#6 ++ 0b1001010#7 ++ 0b0100011#7 ++ 0b1000110#7) = .ok (.stl64 true 74#7 35#7 4#3 6#4) := by
  and_intros <;> rfl

theorem test_decode_lane_group_8_part_2 :
    decode (0b1#1 ++ 0b1000#4 ++ 0b001011#6 ++ 0b1001010#7 ++ 0b0100011#7 ++ 0b1000110#7) = .ok (.stl128 true 74#7 35#7 4#3 6#4) ∧
    decode (0b1#1 ++ 0b1000#4 ++ 0b001100#6 ++ 0b1001010#7 ++ 0b0100011#7 ++ 0b1000110#7) = .ok (.atlAdd true 74#7 35#7 4#3 6#4) ∧
    decode (0b1#1 ++ 0b1000#4 ++ 0b001101#6 ++ 0b1001010#7 ++ 0b0100011#7 ++ 0b1000110#7) = .ok (.atlMinI true 74#7 35#7 4#3 6#4) ∧
    decode (0b1#1 ++ 0b1000#4 ++ 0b001110#6 ++ 0b1001010#7 ++ 0b0100011#7 ++ 0b1000110#7) = .ok (.atlMaxI true 74#7 35#7 4#3 6#4) ∧
    decode (0b1#1 ++ 0b1000#4 ++ 0b001111#6 ++ 0b1001010#7 ++ 0b0100011#7 ++ 0b1000110#7) = .ok (.atlAnd true 74#7 35#7 4#3 6#4) ∧
    decode (0b1#1 ++ 0b1000#4 ++ 0b010000#6 ++ 0b1001010#7 ++ 0b0100011#7 ++ 0b1000110#7) = .ok (.atlOr true 74#7 35#7 4#3 6#4) ∧
    decode (0b1#1 ++ 0b1000#4 ++ 0b010001#6 ++ 0b1001010#7 ++ 0b0100011#7 ++ 0b1000110#7) = .ok (.atlXor true 74#7 35#7 4#3 6#4) ∧
    decode (0b1#1 ++ 0b1000#4 ++ 0b010010#6 ++ 0b1001010#7 ++ 0b0100011#7 ++ 0b1000110#7) = .ok (.atlXchg true 74#7 35#7 4#3 6#4) ∧
    decode (0b1#1 ++ 0b1000#4 ++ 0b010011#6 ++ 0b1001010#7 ++ 0b0100011#7 ++ 0b1000110#7) = .ok (.atlCas true 74#7 35#7 4#3 6#4) ∧
    decode (0b0#1 ++ 0b1000#4 ++ 0b010100#6 ++ 0b0010101#7 ++ 0b1001010#7 ++ 0b0111100#7) = .ok (.stlE4 21#7 74#7 3#3 12#4) ∧
    decode (0b0#1 ++ 0b1000#4 ++ 0b010101#6 ++ 0b0010101#7 ++ 0b1001010#7 ++ 0b0111100#7) = .ok (.stlE6 21#7 74#7 3#3 12#4) := by
  and_intros <;> rfl

theorem test_decode_lane_group_9_part_1 :
    decode (0b1#1 ++ 0b1001#4 ++ 0b000000#6 ++ 0b1001010#7 ++ 0b0100011#7 ++ 0b1000110#7) = .ok (.ldgN8 true 74#7 35#7 4#3 6#4) ∧
    decode (0b1#1 ++ 0b1001#4 ++ 0b000001#6 ++ 0b1001010#7 ++ 0b0100011#7 ++ 0b1000110#7) = .ok (.ldgI8 true 74#7 35#7 4#3 6#4) ∧
    decode (0b1#1 ++ 0b1001#4 ++ 0b000010#6 ++ 0b1001010#7 ++ 0b0100011#7 ++ 0b1000110#7) = .ok (.ldgN16 true 74#7 35#7 4#3 6#4) ∧
    decode (0b1#1 ++ 0b1001#4 ++ 0b000011#6 ++ 0b1001010#7 ++ 0b0100011#7 ++ 0b1000110#7) = .ok (.ldgI16 true 74#7 35#7 4#3 6#4) ∧
    decode (0b1#1 ++ 0b1001#4 ++ 0b000100#6 ++ 0b1001010#7 ++ 0b0100011#7 ++ 0b1000110#7) = .ok (.ldg32 true 74#7 35#7 4#3 6#4) ∧
    decode (0b1#1 ++ 0b1001#4 ++ 0b000101#6 ++ 0b1001010#7 ++ 0b0100011#7 ++ 0b1000110#7) = .ok (.ldg64 true 74#7 35#7 4#3 6#4) ∧
    decode (0b1#1 ++ 0b1001#4 ++ 0b000110#6 ++ 0b1001010#7 ++ 0b0100011#7 ++ 0b1000110#7) = .ok (.ldg128 true 74#7 35#7 4#3 6#4) ∧
    decode (0b1#1 ++ 0b1001#4 ++ 0b000111#6 ++ 0b1001010#7 ++ 0b0100011#7 ++ 0b1000110#7) = .ok (.stg8 true 74#7 35#7 4#3 6#4) ∧
    decode (0b1#1 ++ 0b1001#4 ++ 0b001000#6 ++ 0b1001010#7 ++ 0b0100011#7 ++ 0b1000110#7) = .ok (.stg16 true 74#7 35#7 4#3 6#4) ∧
    decode (0b1#1 ++ 0b1001#4 ++ 0b001001#6 ++ 0b1001010#7 ++ 0b0100011#7 ++ 0b1000110#7) = .ok (.stg32 true 74#7 35#7 4#3 6#4) ∧
    decode (0b1#1 ++ 0b1001#4 ++ 0b001010#6 ++ 0b1001010#7 ++ 0b0100011#7 ++ 0b1000110#7) = .ok (.stg64 true 74#7 35#7 4#3 6#4) ∧
    decode (0b1#1 ++ 0b1001#4 ++ 0b001011#6 ++ 0b1001010#7 ++ 0b0100011#7 ++ 0b1000110#7) = .ok (.stg128 true 74#7 35#7 4#3 6#4) ∧
    decode (0b1#1 ++ 0b1001#4 ++ 0b001100#6 ++ 0b1001010#7 ++ 0b0100011#7 ++ 0b1000110#7) = .ok (.atgAdd true 74#7 35#7 4#3 6#4) ∧
    decode (0b1#1 ++ 0b1001#4 ++ 0b001101#6 ++ 0b1001010#7 ++ 0b0100011#7 ++ 0b1000110#7) = .ok (.atgMinI true 74#7 35#7 4#3 6#4) ∧
    decode (0b1#1 ++ 0b1001#4 ++ 0b001110#6 ++ 0b1001010#7 ++ 0b0100011#7 ++ 0b1000110#7) = .ok (.atgMaxI true 74#7 35#7 4#3 6#4) ∧
    decode (0b1#1 ++ 0b1001#4 ++ 0b001111#6 ++ 0b1001010#7 ++ 0b0100011#7 ++ 0b1000110#7) = .ok (.atgAnd true 74#7 35#7 4#3 6#4) := by
  and_intros <;> rfl

theorem test_decode_lane_group_9_part_2 :
    decode (0b1#1 ++ 0b1001#4 ++ 0b010000#6 ++ 0b1001010#7 ++ 0b0100011#7 ++ 0b1000110#7) = .ok (.atgOr true 74#7 35#7 4#3 6#4) ∧
    decode (0b1#1 ++ 0b1001#4 ++ 0b010001#6 ++ 0b1001010#7 ++ 0b0100011#7 ++ 0b1000110#7) = .ok (.atgXor true 74#7 35#7 4#3 6#4) ∧
    decode (0b1#1 ++ 0b1001#4 ++ 0b010010#6 ++ 0b1001010#7 ++ 0b0100011#7 ++ 0b1000110#7) = .ok (.atgXchg true 74#7 35#7 4#3 6#4) ∧
    decode (0b1#1 ++ 0b1001#4 ++ 0b010011#6 ++ 0b1001010#7 ++ 0b0100011#7 ++ 0b1000110#7) = .ok (.atgCas true 74#7 35#7 4#3 6#4) ∧
    decode (0b1#1 ++ 0b1001#4 ++ 0b010100#6 ++ 0b1001010#7 ++ 0b0100011#7 ++ 0b1000110#7) = .ok (.stgE4 true 74#7 35#7 4#3 6#4) ∧
    decode (0b1#1 ++ 0b1001#4 ++ 0b010101#6 ++ 0b1001010#7 ++ 0b0100011#7 ++ 0b1000110#7) = .ok (.stgE6 true 74#7 35#7 4#3 6#4) ∧
    decode (0b1#1 ++ 0b1001#4 ++ 0b010110#6 ++ 0b1001010#7 ++ 0b0100011#7 ++ 0b1000110#7) = .ok (.atgCas64 true 74#7 35#7 4#3 6#4) ∧
    decode (0b1#1 ++ 0b1001#4 ++ 0b010111#6 ++ 0b1001010#7 ++ 0b0100011#7 ++ 0b1000110#7) = .ok (.atgFadd true 74#7 35#7 4#3 6#4) ∧
    decode (0b1#1 ++ 0b1001#4 ++ 0b011000#6 ++ 0b1001010#7 ++ 0b0100011#7 ++ 0b1000110#7) = .ok (.redAdd true 74#7 35#7 4#3 6#4) ∧
    decode (0b1#1 ++ 0b1001#4 ++ 0b011001#6 ++ 0b1001010#7 ++ 0b0100011#7 ++ 0b1000110#7) = .ok (.redFadd true 74#7 35#7 4#3 6#4) ∧
    decode (0b1#1 ++ 0b1001#4 ++ 0b011010#6 ++ 0b1001010#7 ++ 0b0100011#7 ++ 0b1000110#7) = .ok (.redMinI true 74#7 35#7 4#3 6#4) ∧
    decode (0b1#1 ++ 0b1001#4 ++ 0b011011#6 ++ 0b1001010#7 ++ 0b0100011#7 ++ 0b1000110#7) = .ok (.redMaxI true 74#7 35#7 4#3 6#4) ∧
    decode (0b0#1 ++ 0b1001#4 ++ 0b011100#6 ++ 0b0010101#7 ++ 0b1001010#7 ++ 0b0111100#7) = .ok (.ldrq32 21#7 74#7 3#3 12#4) ∧
    decode (0b0#1 ++ 0b1001#4 ++ 0b011101#6 ++ 0b0010101#7 ++ 0b1001010#7 ++ 0b0111100#7) = .ok (.ldrq128 21#7 74#7 3#3 12#4) ∧
    decode (0b0#1 ++ 0b1001#4 ++ 0b011110#6 ++ 0b0010101#7 ++ 0b1001010#7 ++ 0b0111100#7) = .ok (.cstore 21#7 74#7 3#3 12#4) ∧
    decode (0b0#1 ++ 0b1001#4 ++ 0b011111#6 ++ 0b0010101#7 ++ 0b1001010#7 ++ 0b0111100#7) = .ok (.pref 21#7 74#7 3#3 12#4) := by
  and_intros <;> rfl

theorem test_decode_lane_group_10 :
    decode (0b0#1 ++ 0b1010#4 ++ 0b000000#6 ++ 0b0010101#7 ++ 0b1001010#7 ++ 0b0100011#7) = .ok (.tex2d 21#7 74#7 35#7) ∧
    decode (0b0#1 ++ 0b1010#4 ++ 0b000001#6 ++ 0b0010101#7 ++ 0b1001010#7 ++ 0b0100011#7) = .ok (.texfetch 21#7 74#7 35#7) ∧
    decode (0b0#1 ++ 0b1010#4 ++ 0b000010#6 ++ 0b0010101#7 ++ 0b1001010#7 ++ 0b0100011#7) = .ok (.texrq 21#7 74#7 35#7) ∧
    decode (0b0#1 ++ 0b1010#4 ++ 0b000011#6 ++ 0b0010101#7 ++ 0b1001010#7 ++ 0b0100011#7) = .ok (.texlod 21#7 74#7 35#7) := by
  and_intros <;> rfl

theorem test_decode_lane_group_11 :
    decode (0b0#1 ++ 0b1011#4 ++ 0b000000#6 ++ 0b0010101#7 ++ 0b1001010#7 ++ 0b0100011#7) = .ok (.rayq 21#7 74#7 35#7) ∧
    decode (0b0#1 ++ 0b1011#4 ++ 0b000001#6 ++ 0b0010101#7 ++ 0b1001010#7 ++ 0b0100011#7) = .ok (.rayq64 21#7 74#7 35#7) ∧
    decode (0b0#1 ++ 0b1011#4 ++ 0b000010#6 ++ 0b0010101#7 ++ 0b0000000#7 ++ 0b1001010#7) = .ok (.raycont 21#7 74#7) ∧
    decode (0b0#1 ++ 0b1011#4 ++ 0b000011#6 ++ 0b0010101#7 ++ 0b0000000#7 ++ 0b0000000#7) = .ok (.rayhit 21#7) ∧
    decode (0b0#1 ++ 0b1011#4 ++ 0b000100#6 ++ 0b0010101#7 ++ 0b1001010#7 ++ 0b0100011#7) = .ok (.raycommit 21#7 74#7 35#7) ∧
    decode (0b0#1 ++ 0b1011#4 ++ 0b000101#6 ++ 0b0000000#7 ++ 0b0000000#7 ++ 0b0000000#7) = .ok (.rayabort) := by
  and_intros <;> rfl

theorem test_decode_lane_group_12 :
    decode (0b0#1 ++ 0b1100#4 ++ 0b000000#6 ++ 0b0010101#7 ++ 0b1001010#7 ++ 0b0100011#7) = .ok (.neval 21#7 74#7 35#7) ∧
    decode (0b0#1 ++ 0b1100#4 ++ 0b000001#6 ++ 0b0010101#7 ++ 0b1001010#7 ++ 0b0100011#7) = .ok (.nevalH 21#7 74#7 35#7) := by
  and_intros <;> rfl

theorem test_decode_lane_group_13 :
    decode (0b0#1 ++ 0b1101#4 ++ 0b000000#6 ++ 0b0010101#7 ++ 0b1001010#7 ++ 0b0100011#7) = .ok (.xsortI 21#7 74#7 35#7) ∧
    decode (0b0#1 ++ 0b1101#4 ++ 0b000001#6 ++ 0b0010101#7 ++ 0b1001010#7 ++ 0b0100011#7) = .ok (.xsortN 21#7 74#7 35#7) ∧
    decode (0b0#1 ++ 0b1101#4 ++ 0b000010#6 ++ 0b0010101#7 ++ 0b1001010#7 ++ 0b0100011#7) = .ok (.xsortF 21#7 74#7 35#7) ∧
    decode (0b0#1 ++ 0b1101#4 ++ 0b000011#6 ++ 0b0010101#7 ++ 0b1001010#7 ++ 0b0000000#7) = .ok (.xscanAddI 21#7 74#7) ∧
    decode (0b0#1 ++ 0b1101#4 ++ 0b000100#6 ++ 0b0010101#7 ++ 0b1001010#7 ++ 0b0000000#7) = .ok (.xscanAddF 21#7 74#7) ∧
    decode (0b0#1 ++ 0b1101#4 ++ 0b000101#6 ++ 0b0010101#7 ++ 0b1001010#7 ++ 0b0000000#7) = .ok (.xscanMaxI 21#7 74#7) ∧
    decode (0b0#1 ++ 0b1101#4 ++ 0b000110#6 ++ 0b0010101#7 ++ 0b1001010#7 ++ 0b0000000#7) = .ok (.xredAddI 21#7 74#7) ∧
    decode (0b0#1 ++ 0b1101#4 ++ 0b000111#6 ++ 0b0010101#7 ++ 0b1001010#7 ++ 0b0000000#7) = .ok (.xredAddF 21#7 74#7) ∧
    decode (0b0#1 ++ 0b1101#4 ++ 0b001000#6 ++ 0b0010101#7 ++ 0b1001010#7 ++ 0b0000000#7) = .ok (.xredMinI 21#7 74#7) ∧
    decode (0b0#1 ++ 0b1101#4 ++ 0b001001#6 ++ 0b0010101#7 ++ 0b1001010#7 ++ 0b0000000#7) = .ok (.xredMaxI 21#7 74#7) ∧
    decode (0b0#1 ++ 0b1101#4 ++ 0b001010#6 ++ 0b0010101#7 ++ 0b1001010#7 ++ 0b0000000#7) = .ok (.xhist 21#7 74#7) ∧
    decode (0b0#1 ++ 0b1101#4 ++ 0b001011#6 ++ 0b0010101#7 ++ 0b1001010#7 ++ 0b0000000#7) = .ok (.xrank 21#7 74#7) ∧
    decode (0b0#1 ++ 0b1101#4 ++ 0b001100#6 ++ 0b0010101#7 ++ 0b1001010#7 ++ 0b0100011#7) = .ok (.xsearch 21#7 74#7 35#7) ∧
    decode (0b0#1 ++ 0b1101#4 ++ 0b001101#6 ++ 0b0010101#7 ++ 0b1001010#7 ++ 0b0000000#7) = .ok (.xmatch 21#7 74#7) := by
  and_intros <;> rfl

theorem test_decode_uniform_group_4 :
    decode (0b1#1 ++ 0b0100#4 ++ 0b011010#6 ++ 0b0010101#7 ++ 0b1001010#7 ++ 0b0100011#7) = .ok (.cand 21#7 74#7 35#7) ∧
    decode (0b1#1 ++ 0b0100#4 ++ 0b011011#6 ++ 0b0010101#7 ++ 0b1001010#7 ++ 0b0100011#7) = .ok (.cor 21#7 74#7 35#7) ∧
    decode (0b1#1 ++ 0b0100#4 ++ 0b011100#6 ++ 0b0010101#7 ++ 0b1001010#7 ++ 0b0100011#7) = .ok (.cxor 21#7 74#7 35#7) ∧
    decode (0b1#1 ++ 0b0100#4 ++ 0b011101#6 ++ 0b0010101#7 ++ 0b1001010#7 ++ 0b0100011#7) = .ok (.candn 21#7 74#7 35#7) ∧
    decode (0b1#1 ++ 0b0100#4 ++ 0b011110#6 ++ 0b0010101#7 ++ 0b1001010#7 ++ 0b0000000#7) = .ok (.cnot 21#7 74#7) ∧
    decode (0b1#1 ++ 0b0100#4 ++ 0b011111#6 ++ 0b0010101#7 ++ 0b1001010#7 ++ 0b0000000#7) = .ok (.cmov 21#7 74#7) := by
  and_intros <;> rfl

theorem test_decode_uniform_group_5 :
    decode (0b1#1 ++ 0b0101#4 ++ 0b000000#6 ++ 0b0010101#7 ++ 0b1001010#7 ++ 0b0000000#7) = .ok (.movs 21#7 74#7) ∧
    decode (0b1#1 ++ 0b0101#4 ++ 0b000001#6 ++ 0b0000000#7 ++ 0b0010101#7 ++ 0b1001010#7) = .ok (.movsw 21#7 74#7) ∧
    decode (0b1#1 ++ 0b0101#4 ++ 0b000010#6 ++ 0b0010101#7 ++ 0b1001010#7 ++ 0b0100011#7) = .ok (.rdlane 21#7 74#7 35#7) ∧
    decode (0b1#1 ++ 0b0101#4 ++ 0b000011#6 ++ 0b0010101#7 ++ 0b1001010#7 ++ 0b0100011#7) = .ok (.wrlane 21#7 74#7 35#7) ∧
    decode (0b1#1 ++ 0b0101#4 ++ 0b000100#6 ++ 0b0010101#7 ++ 0b1001010#7 ++ 0b0100011#7) = .ok (.ktos 21#7 74#7 35#7) ∧
    decode (0b1#1 ++ 0b0101#4 ++ 0b000101#6 ++ 0b0010101#7 ++ 0b1001010#7 ++ 0b0100011#7) = .ok (.stok 21#7 74#7 35#7) := by
  and_intros <;> rfl

theorem test_decode_uniform_group_6 :
    decode (0b1#1 ++ 0b0110#4 ++ 0b000000#6 ++ 0b0010101#7 ++ 0b1001010#7 ++ 0b0100011#7) = .ok (.cpy 21#7 74#7 35#7) ∧
    decode (0b1#1 ++ 0b0110#4 ++ 0b000001#6 ++ 0b0000000#7 ++ 0b0010101#7 ++ 0b1001010#7) = .ok (.qfence 21#7 74#7) ∧
    decode (0b1#1 ++ 0b0110#4 ++ 0b000010#6 ++ 0b0010101#7 ++ 0b1001010#7 ++ 0b0100011#7) = .ok (.qstat 21#7 74#7 35#7) := by
  and_intros <;> rfl

theorem test_decode_uniform_group_7 :
    decode (0b1#1 ++ 0b0111#4 ++ 0b000000#6 ++ 0b0000000#7 ++ 0b0010101#7 ++ 0b0000000#7) = .ok (.mloadw 21#7) ∧
    decode (0b1#1 ++ 0b0111#4 ++ 0b000001#6 ++ 0b0000000#7 ++ 0b0000000#7 ++ 0b0000000#7) = .ok (.mswap) ∧
    decode (0b1#1 ++ 0b0111#4 ++ 0b000010#6 ++ 0b0000000#7 ++ 0b0010101#7 ++ 0b0000000#7) = .ok (.mstream 21#7) ∧
    decode (0b1#1 ++ 0b0111#4 ++ 0b000011#6 ++ 0b0000000#7 ++ 0b0010101#7 ++ 0b0000000#7) = .ok (.mdrain 21#7) ∧
    decode (0b1#1 ++ 0b0111#4 ++ 0b000100#6 ++ 0b0000000#7 ++ 0b0010101#7 ++ 0b0000000#7) = .ok (.mzero 21#7) ∧
    decode (0b1#1 ++ 0b0111#4 ++ 0b000101#6 ++ 0b0010101#7 ++ 0b0000000#7 ++ 0b0000000#7) = .ok (.mstat 21#7) ∧
    decode (0b1#1 ++ 0b0111#4 ++ 0b000110#6 ++ 0b0000000#7 ++ 0b0010101#7 ++ 0b0000000#7) = .ok (.ttstep 21#7) ∧
    decode (0b1#1 ++ 0b0111#4 ++ 0b000111#6 ++ 0b0010101#7 ++ 0b1001010#7 ++ 0b0000000#7) = .ok (.ttrun 21#7 74#7) ∧
    decode (0b1#1 ++ 0b0111#4 ++ 0b001000#6 ++ 0b0000000#7 ++ 0b0000000#7 ++ 0b0000000#7) = .ok (.nflush) ∧
    decode (0b1#1 ++ 0b0111#4 ++ 0b001001#6 ++ 0b0000000#7 ++ 0b0010101#7 ++ 0b0000000#7) = .ok (.ncfg 21#7) := by
  and_intros <;> rfl

theorem test_decode_uniform_group_10 :
    decode (0b1#1 ++ 0b1010#4 ++ 0b000000#6 ++ 0b0010101#7 ++ 0b1001010#7 ++ 0b0100011#7) = .ok (.binit 21#7 74#7 35#7) ∧
    decode (0b1#1 ++ 0b1010#4 ++ 0b000001#6 ++ 0b0010101#7 ++ 0b1001010#7 ++ 0b0100011#7) = .ok (.barr 21#7 74#7 35#7) ∧
    decode (0b1#1 ++ 0b1010#4 ++ 0b000010#6 ++ 0b0000000#7 ++ 0b0010101#7 ++ 0b1001010#7) = .ok (.bwait 21#7 74#7) ∧
    decode (0b1#1 ++ 0b1010#4 ++ 0b000011#6 ++ 0b0000000#7 ++ 0b0010101#7 ++ 0b1001010#7) = .ok (.bexpb 21#7 74#7) ∧
    decode (0b1#1 ++ 0b1010#4 ++ 0b000100#6 ++ 0b0010101#7 ++ 0b1001010#7 ++ 0b0000000#7) = .ok (.bphase 21#7 74#7) ∧
    decode (0b1#1 ++ 0b1010#4 ++ 0b000101#6 ++ 0b0010101#7 ++ 0b1001010#7 ++ 0b0100011#7) = .ok (.bbind 21#7 74#7 35#7) ∧
    decode (0b1#1 ++ 0b1010#4 ++ 0b000110#6 ++ 0b0010101#7 ++ 0b1001010#7 ++ 0b0000000#7) = .ok (.bdrop 21#7 74#7) ∧
    decode (0b1#1 ++ 0b1010#4 ++ 0b000111#6 ++ 0b0000000#7 ++ 0b0000000#7 ++ 0b0000000#7) = .ok (.fenceG) ∧
    decode (0b1#1 ++ 0b1010#4 ++ 0b001000#6 ++ 0b0000000#7 ++ 0b0000000#7 ++ 0b0000000#7) = .ok (.fenceD) ∧
    decode (0b1#1 ++ 0b1010#4 ++ 0b001001#6 ++ 0b0000000#7 ++ 0b0000000#7 ++ 0b0000000#7) = .ok (.fenceV) ∧
    decode (0b1#1 ++ 0b1010#4 ++ 0b001010#6 ++ 0b0000000#7 ++ 0b0000000#7 ++ 0b0000000#7) = .ok (.fenceS) ∧
    decode (0b1#1 ++ 0b1010#4 ++ 0b001011#6 ++ 0b0010101#7 ++ 0b1001010#7 ++ 0b0000000#7) = .ok (.phinit 21#7 74#7) ∧
    decode (0b1#1 ++ 0b1010#4 ++ 0b001100#6 ++ 0b0000000#7 ++ 0b0010101#7 ++ 0b1001010#7) = .ok (.pharr 21#7 74#7) := by
  and_intros <;> rfl

theorem test_decode_uniform_group_11 :
    decode (0b1#1 ++ 0b1011#4 ++ 0b000000#6 ++ 0b0010101#7 ++ 0b0000000#7 ++ 0b0000000#7) = .ok (.getwork 21#7) ∧
    decode (0b1#1 ++ 0b1011#4 ++ 0b000001#6 ++ 0b0000000#7 ++ 0b0010101#7 ++ 0b0000000#7) = .ok (.workdone 21#7) ∧
    decode (0b1#1 ++ 0b1011#4 ++ 0b000010#6 ++ 0b0010101#7 ++ 0b1001010#7 ++ 0b0000000#7) = .ok (.cancel 21#7 74#7) ∧
    decode (0b1#1 ++ 0b1011#4 ++ 0b000011#6 ++ 0b0010101#7 ++ 0b1001010#7 ++ 0b0000000#7) = .ok (.ccount 21#7 74#7) ∧
    decode (0b1#1 ++ 0b1011#4 ++ 0b000100#6 ++ 0b0010101#7 ++ 0b1001010#7 ++ 0b0100011#7) = .ok (.enq 21#7 74#7 35#7) ∧
    decode (0b1#1 ++ 0b1011#4 ++ 0b000101#6 ++ 0b0010101#7 ++ 0b1001010#7 ++ 0b0000000#7) = .ok (.emitvp 21#7 74#7) ∧
    decode (0b1#1 ++ 0b1011#4 ++ 0b000110#6 ++ 0b0010101#7 ++ 0b1001010#7 ++ 0b0000000#7) = .ok (.vclose 21#7 74#7) ∧
    decode (0b1#1 ++ 0b1011#4 ++ 0b000111#6 ++ 0b0010101#7 ++ 0b1001010#7 ++ 0b0000000#7) = .ok (.refit 21#7 74#7) ∧
    decode (0b1#1 ++ 0b1011#4 ++ 0b001000#6 ++ 0b0010101#7 ++ 0b1001010#7 ++ 0b0000000#7) = .ok (.hpart 21#7 74#7) ∧
    decode (0b1#1 ++ 0b1011#4 ++ 0b001001#6 ++ 0b0000000#7 ++ 0b0010101#7 ++ 0b0000000#7) = .ok (.cinv 21#7) ∧
    decode (0b1#1 ++ 0b1011#4 ++ 0b001010#6 ++ 0b0000000#7 ++ 0b0010101#7 ++ 0b0000000#7) = .ok (.cflush 21#7) := by
  and_intros <;> rfl

theorem test_decode_uniform_group_12 :
    decode (0b1#1 ++ 0b1100#4 ++ 0b000000#6 ++ 0b0001011#7 ++ 0b0101011#7 ++ 0b0100011#7) = .ok (.bra 185763#21) ∧
    decode (0b1#1 ++ 0b1100#4 ++ 0b001101#6 ++ 0b0001011#7 ++ 0b0101011#7 ++ 0b0100011#7) = .ok (.brt 5#3 185763#21) ∧
    decode (0b1#1 ++ 0b1100#4 ++ 0b010101#6 ++ 0b0001011#7 ++ 0b0101011#7 ++ 0b0100011#7) = .ok (.brf 5#3 185763#21) ∧
    decode (0b1#1 ++ 0b1100#4 ++ 0b011000#6 ++ 0b0001011#7 ++ 0b0101011#7 ++ 0b0100011#7) = .ok (.call 185763#21) ∧
    decode (0b1#1 ++ 0b1100#4 ++ 0b100101#6 ++ 0b0001011#7 ++ 0b0101011#7 ++ 0b0100011#7) = .ok (.brd 5#3 185763#21) ∧
    decode (0b1#1 ++ 0b1100#4 ++ 0b101101#6 ++ 0b0001011#7 ++ 0b0101011#7 ++ 0b0100011#7) = .ok (.brdn 5#3 185763#21) := by
  and_intros <;> rfl

theorem test_decode_uniform_group_13 :
    decode (0b1#1 ++ 0b1101#4 ++ 0b000000#6 ++ 0b0000000#7 ++ 0b0010101#7 ++ 0b0000000#7) = .ok (.jmpr 21#7) ∧
    decode (0b1#1 ++ 0b1101#4 ++ 0b000001#6 ++ 0b0000000#7 ++ 0b0000000#7 ++ 0b0000000#7) = .ok (.ret) ∧
    decode (0b1#1 ++ 0b1101#4 ++ 0b000010#6 ++ 0b0000000#7 ++ 0b0010101#7 ++ 0b0000000#7) = .ok (.join 21#7) ∧
    decode (0b1#1 ++ 0b1101#4 ++ 0b000011#6 ++ 0b0010101#7 ++ 0b0000000#7 ++ 0b1001010#7) = .ok (.waitc 21#7 74#7) ∧
    decode (0b1#1 ++ 0b1101#4 ++ 0b000100#6 ++ 0b0000000#7 ++ 0b0000000#7 ++ 0b0000000#7) = .ok (.yieldSplit) ∧
    decode (0b1#1 ++ 0b1101#4 ++ 0b000101#6 ++ 0b0000000#7 ++ 0b0000000#7 ++ 0b0000000#7) = .ok (.exitSplit) ∧
    decode (0b1#1 ++ 0b1101#4 ++ 0b000110#6 ++ 0b0000000#7 ++ 0b0010110#7 ++ 0b1010011#7) = .ok (.repeatN 2899#12) ∧
    decode (0b1#1 ++ 0b1101#4 ++ 0b000111#6 ++ 0b0000000#7 ++ 0b0000000#7 ++ 0b0010101#7) = .ok (.trapSw 21#7) ∧
    decode (0b1#1 ++ 0b1101#4 ++ 0b001000#6 ++ 0b0000000#7 ++ 0b0010101#7 ++ 0b0000000#7) = .ok (.sleep 21#7) ∧
    decode (0b1#1 ++ 0b1101#4 ++ 0b001001#6 ++ 0b0000000#7 ++ 0b0000000#7 ++ 0b0010101#7) = .ok (.setpri 21#7) ∧
    decode (0b1#1 ++ 0b1101#4 ++ 0b001010#6 ++ 0b0000000#7 ++ 0b0000000#7 ++ 0b0000000#7) = .ok (.brk) := by
  and_intros <;> rfl

theorem test_decode_uniform_group_14 :
    decode (0b1#1 ++ 0b1110#4 ++ 0b111111#6 ++ 0b0000000#7 ++ 0b0000000#7 ++ 0b0000000#7) = .ok (.nop) ∧
    decode (0b1#1 ++ 0b1110#4 ++ 0b000000#6 ++ 0b0000000#7 ++ 0b0000000#7 ++ 0b0000000#7) = .ok (.rett) ∧
    decode (0b1#1 ++ 0b1110#4 ++ 0b000001#6 ++ 0b0000000#7 ++ 0b0010101#7 ++ 0b0000000#7) = .ok (.tlbinv 21#7) ∧
    decode (0b1#1 ++ 0b1110#4 ++ 0b000010#6 ++ 0b0010101#7 ++ 0b0000000#7 ++ 0b1001010#7) = .ok (.sysrd 21#7 74#7) ∧
    decode (0b1#1 ++ 0b1110#4 ++ 0b000011#6 ++ 0b0000000#7 ++ 0b0010101#7 ++ 0b1001010#7) = .ok (.syswr 21#7 74#7) ∧
    decode (0b1#1 ++ 0b1110#4 ++ 0b000100#6 ++ 0b0000000#7 ++ 0b0010101#7 ++ 0b0000000#7) = .ok (.parkres 21#7) ∧
    decode (0b1#1 ++ 0b1110#4 ++ 0b000101#6 ++ 0b0010101#7 ++ 0b1001010#7 ++ 0b0000000#7) = .ok (.fltrec 21#7 74#7) := by
  and_intros <;> rfl

/-! ### Ill-formed terms, rule by rule (spec/01 R32 to R43), and well-formed ones -/

theorem test_ill_formed_alignment_1 : ([
    .iadd64 false 1#7 0#7 0#7, .iadd64 false 0#7 1#7 0#7, .iadd64 false 0#7 0#7 1#7,
    .isub64 false 1#7 0#7 0#7, .isub64 false 0#7 1#7 0#7, .isub64 false 0#7 0#7 1#7,
    .imulwI false 1#7 0#7 0#7, .imulwN false 1#7 0#7 0#7, .dadd false 1#7 0#7 0#7,
    .dadd false 0#7 1#7 0#7, .dadd false 0#7 0#7 1#7, .dsub false 1#7 0#7 0#7, .dsub false 0#7 1#7 0#7,
    .dsub false 0#7 0#7 1#7, .dmul false 1#7 0#7 0#7, .dmul false 0#7 1#7 0#7, .dmul false 0#7 0#7 1#7,
    .dfma false 1#7 0#7 0#7, .dfma false 0#7 1#7 0#7, .dfma false 0#7 0#7 1#7, .dmin false 1#7 0#7 0#7,
    .dmin false 0#7 1#7 0#7, .dmin false 0#7 0#7 1#7, .dmax false 1#7 0#7 0#7, .dmax false 0#7 1#7 0#7,
    .dmax false 0#7 0#7 1#7, .dabs false 1#7 0#7, .dabs false 0#7 1#7, .dneg false 1#7 0#7,
    .dneg false 0#7 1#7, .drnd 1#7 0#7 0#7, .drnd 0#7 1#7 0#7, .dclass 0#7 1#7,
    .dcmpEq false 0#7 1#7 0#7, .dcmpEq false 0#7 0#7 1#7, .dcmpNe false 0#7 1#7 0#7,
    .dcmpNe false 0#7 0#7 1#7, .dcmpLt false 0#7 1#7 0#7, .dcmpLt false 0#7 0#7 1#7] : List Instr).all (fun i => i.illFormed == some .alignment) = true := by
  decide

theorem test_ill_formed_alignment_2 : ([
    .dcmpLe false 0#7 1#7 0#7, .dcmpLe false 0#7 0#7 1#7, .dcmpGt false 0#7 1#7 0#7,
    .dcmpGt false 0#7 0#7 1#7, .dcmpGe false 0#7 1#7 0#7, .dcmpGe false 0#7 0#7 1#7,
    .dcmpUn false 0#7 1#7 0#7, .dcmpUn false 0#7 0#7 1#7, .dcmpOrd false 0#7 1#7 0#7,
    .dcmpOrd false 0#7 0#7 1#7, .f2d 1#7 0#7, .d2f 0#7 1#7, .d2iI 0#7 1#7 0#7, .i2dI 1#7 0#7,
    .drcp 1#7 0#7, .drcp 0#7 1#7, .dsqrt 1#7 0#7, .dsqrt 0#7 1#7, .ldl64 false 1#7 0#7 0#3 0#4,
    .ldl128 false 2#7 0#7 0#3 0#4, .stl64 false 1#7 0#7 0#3 0#4, .stl128 false 2#7 0#7 0#3 0#4,
    .atlCas false 1#7 0#7 0#3 0#4, .stlE4 1#7 0#7 0#3 0#4, .stlE6 1#7 0#7 0#3 0#4,
    .ldg64 false 1#7 0#7 0#3 0#4, .ldg128 false 2#7 0#7 0#3 0#4, .stg64 false 1#7 0#7 0#3 0#4,
    .stg128 false 2#7 0#7 0#3 0#4, .atgCas false 1#7 0#7 0#3 0#4, .stgE4 false 1#7 0#7 0#3 0#4,
    .stgE6 false 1#7 0#7 0#3 0#4, .atgCas64 false 2#7 0#7 0#3 0#4, .ldrq32 1#7 0#7 0#3 0#4,
    .ldrq128 2#7 0#7 0#3 0#4, .cstore 1#7 0#7 0#3 0#4, .rayq 0#7 0#7 2#7, .rayq64 0#7 1#7 0#7,
    .rayq64 0#7 0#7 2#7] : List Instr).all (fun i => i.illFormed == some .alignment) = true := by
  decide

theorem test_ill_formed_alignment_3 : ([
    .xsortI 1#7 0#7 0#7, .xsortN 1#7 0#7 0#7, .xsortF 1#7 0#7 0#7, .xmatch 1#7 0#7, .cpy 0#7 0#7 0#7,
    .cpy 0#7 12#7 0#7, .mloadw 0#7, .mloadw 3#7, .mstream 0#7, .mstream 12#7, .mdrain 0#7, .mdrain 6#7,
    .ttstep 0#7, .ttstep 12#7, .ttrun 1#7 4#7, .ttrun 0#7 0#7, .ttrun 0#7 6#7, .binit 0#7 0#7 1#7,
    .bbind 0#7 0#7 2#7, .phinit 0#7 1#7, .getwork 2#7, .cancel 0#7 1#7, .enq 1#7 1#7 0#7,
    .emitvp 1#7 0#7, .emitvp 1#7 6#7, .vclose 1#7 0#7, .vclose 1#7 3#7, .refit 1#7 0#7, .refit 1#7 12#7,
    .cinv 0#7, .cinv 6#7, .cflush 0#7, .cflush 6#7, .jmpr 1#7, .tlbinv 0#7, .tlbinv 6#7, .parkres 1#7,
    .fltrec 4#7 0#7] : List Instr).all (fun i => i.illFormed == some .alignment) = true := by
  decide

theorem test_ill_formed_range_1 : ([
    .frnd 0#7 0#7 5#7, .drnd 0#7 0#7 5#7, .icmpIEq false 8#7 0#7 0#7, .icmpINe false 8#7 0#7 0#7,
    .icmpILt false 8#7 0#7 0#7, .icmpILe false 8#7 0#7 0#7, .icmpIGt false 8#7 0#7 0#7,
    .icmpIGe false 8#7 0#7 0#7, .icmpNLt false 8#7 0#7 0#7, .icmpNLe false 8#7 0#7 0#7,
    .icmpNGt false 8#7 0#7 0#7, .icmpNGe false 8#7 0#7 0#7, .fcmpEq false 8#7 0#7 0#7,
    .fcmpNe false 8#7 0#7 0#7, .fcmpLt false 8#7 0#7 0#7, .fcmpLe false 8#7 0#7 0#7,
    .fcmpGt false 8#7 0#7 0#7, .fcmpGe false 8#7 0#7 0#7, .fcmpUn false 8#7 0#7 0#7,
    .fcmpOrd false 8#7 0#7 0#7, .dcmpEq false 8#7 0#7 0#7, .dcmpNe false 8#7 0#7 0#7,
    .dcmpLt false 8#7 0#7 0#7, .dcmpLe false 8#7 0#7 0#7, .dcmpGt false 8#7 0#7 0#7,
    .dcmpGe false 8#7 0#7 0#7, .dcmpUn false 8#7 0#7 0#7, .dcmpOrd false 8#7 0#7 0#7, .kand 8#7 0#7 0#7,
    .kand 0#7 8#7 0#7, .kand 0#7 0#7 8#7, .kor 8#7 0#7 0#7, .kor 0#7 8#7 0#7, .kor 0#7 0#7 8#7] : List Instr).all (fun i => i.illFormed == some .range) = true := by
  decide

theorem test_ill_formed_range_2 : ([
    .kxor 8#7 0#7 0#7, .kxor 0#7 8#7 0#7, .kxor 0#7 0#7 8#7, .kandn 8#7 0#7 0#7, .kandn 0#7 8#7 0#7,
    .kandn 0#7 0#7 8#7, .knot 8#7 0#7, .knot 0#7 8#7, .kmov 8#7 0#7, .kmov 0#7 8#7, .ktov 0#7 8#7,
    .vtok 8#7 0#7, .cand 8#7 0#7 0#7, .cand 0#7 8#7 0#7, .cand 0#7 0#7 8#7, .cor 8#7 0#7 0#7,
    .cor 0#7 8#7 0#7, .cor 0#7 0#7 8#7, .cxor 8#7 0#7 0#7, .cxor 0#7 8#7 0#7, .cxor 0#7 0#7 8#7,
    .candn 8#7 0#7 0#7, .candn 0#7 8#7 0#7, .candn 0#7 0#7 8#7, .cnot 8#7 0#7, .cnot 0#7 8#7,
    .cmov 8#7 0#7, .cmov 0#7 8#7, .f2iI 0#7 0#7 5#7, .f2iN 0#7 0#7 5#7, .d2iI 0#7 0#7 5#7,
    .ktos 0#7 8#7 0#7, .ktos 0#7 0#7 2#7, .stok 8#7 0#7 0#7] : List Instr).all (fun i => i.illFormed == some .range) = true := by
  decide

theorem test_ill_formed_range_3 : ([
    .stok 0#7 0#7 2#7, .vcompress 0#7 0#7 8#7, .vcompressZ 0#7 0#7 8#7, .vexpand 0#7 0#7 8#7,
    .voteany 8#7 0#7, .voteall 8#7 0#7, .ballot 8#7 0#7, .cstore 0#7 8#7 0#3 0#4, .pref 2#7 0#7 0#3 0#4,
    .cpy 0#7 8#7 4#7, .qfence 4#7 0#7, .qfence 0#7 16#7, .qstat 1#7 6#7 0#7, .qstat 1#7 0#7 2#7,
    .qstat 0#7 0#7 0#7, .mstat 0#7, .binit 8#7 0#7 0#7, .barr 0#7 0#7 8#7, .bphase 0#7 0#7,
    .bbind 8#7 0#7 0#7, .bdrop 8#7 0#7, .phinit 8#7 0#7, .ccount 0#7 0#7, .enq 0#7 0#7 0#7,
    .emitvp 0#7 4#7, .vclose 0#7 2#7, .refit 0#7 8#7, .hpart 0#7 0#7, .join 8#7, .waitc 8#7 0#7,
    .setpri 4#7, .sysrd 0#7 8#7, .syswr 8#7 0#7] : List Instr).all (fun i => i.illFormed == some .range) = true := by
  decide

theorem test_ill_formed_ordering_1 : ([
    .ldlN8 false 0#7 0#7 2#3 0#4, .ldlI8 false 0#7 0#7 2#3 0#4, .ldlN16 false 0#7 0#7 2#3 0#4,
    .ldlI16 false 0#7 0#7 2#3 0#4, .ldl32 false 0#7 0#7 2#3 0#4, .ldl64 false 0#7 0#7 2#3 0#4,
    .ldl128 false 0#7 0#7 2#3 0#4, .stl8 false 0#7 0#7 2#3 0#4, .stl16 false 0#7 0#7 2#3 0#4,
    .stl32 false 0#7 0#7 2#3 0#4, .stl64 false 0#7 0#7 2#3 0#4, .stl128 false 0#7 0#7 2#3 0#4,
    .atlAdd false 0#7 0#7 2#3 0#4, .atlMinI false 0#7 0#7 2#3 0#4, .atlMaxI false 0#7 0#7 2#3 0#4,
    .atlAnd false 0#7 0#7 2#3 0#4, .atlOr false 0#7 0#7 2#3 0#4, .atlXor false 0#7 0#7 2#3 0#4,
    .atlXchg false 0#7 0#7 2#3 0#4, .atlCas false 0#7 0#7 2#3 0#4, .stlE4 0#7 0#7 2#3 0#4,
    .stlE6 0#7 0#7 2#3 0#4, .ldgN8 false 0#7 0#7 5#3 0#4, .ldgI8 false 0#7 0#7 5#3 0#4,
    .ldgN16 false 0#7 0#7 5#3 0#4, .ldgI16 false 0#7 0#7 5#3 0#4, .ldg32 false 0#7 0#7 5#3 0#4] : List Instr).all (fun i => i.illFormed == some .ordering) = true := by
  decide

theorem test_ill_formed_ordering_2 : ([
    .ldg64 false 0#7 0#7 5#3 0#4, .ldg128 false 0#7 0#7 5#3 0#4, .stg8 false 0#7 0#7 5#3 0#4,
    .stg16 false 0#7 0#7 5#3 0#4, .stg32 false 0#7 0#7 5#3 0#4, .stg64 false 0#7 0#7 5#3 0#4,
    .stg128 false 0#7 0#7 5#3 0#4, .atgAdd false 0#7 0#7 7#3 0#4, .atgMinI false 0#7 0#7 7#3 0#4,
    .atgMaxI false 0#7 0#7 7#3 0#4, .atgAnd false 0#7 0#7 7#3 0#4, .atgOr false 0#7 0#7 7#3 0#4,
    .atgXor false 0#7 0#7 7#3 0#4, .atgXchg false 0#7 0#7 7#3 0#4, .atgCas false 0#7 0#7 7#3 0#4,
    .stgE4 false 0#7 0#7 5#3 0#4, .stgE6 false 0#7 0#7 5#3 0#4, .atgCas64 false 0#7 0#7 7#3 0#4,
    .atgFadd false 0#7 0#7 7#3 0#4, .redAdd false 0#7 0#7 7#3 0#4, .redFadd false 0#7 0#7 7#3 0#4,
    .redMinI false 0#7 0#7 7#3 0#4, .redMaxI false 0#7 0#7 7#3 0#4, .ldrq32 0#7 0#7 1#3 0#4,
    .ldrq128 0#7 0#7 1#3 0#4, .cstore 0#7 0#7 7#3 0#4, .pref 0#7 0#7 1#3 0#4] : List Instr).all (fun i => i.illFormed == some .ordering) = true := by
  decide

theorem test_ill_formed_special : ([
    .movls 0#7 19#7, .movs 0#7 48#7, .movsw 14#7 0#7] : List Instr).all (fun i => i.illFormed == some .special) = true := by
  decide

theorem test_well_formed_1 : ([
    .iadd64 false 0#7 0#7 0#7, .isub64 false 0#7 0#7 0#7, .imulwI false 0#7 0#7 0#7,
    .imulwN false 0#7 0#7 0#7, .movls 0#7 12#7, .frnd 0#7 0#7 0#7, .dadd false 0#7 0#7 0#7,
    .dsub false 0#7 0#7 0#7, .dmul false 0#7 0#7 0#7, .dfma false 0#7 0#7 0#7, .dmin false 0#7 0#7 0#7,
    .dmax false 0#7 0#7 0#7, .dabs false 0#7 0#7, .dneg false 0#7 0#7, .drnd 0#7 0#7 0#7,
    .dclass 0#7 0#7, .icmpIEq false 0#7 0#7 0#7, .icmpINe false 0#7 0#7 0#7, .icmpILt false 0#7 0#7 0#7,
    .icmpILe false 0#7 0#7 0#7, .icmpIGt false 0#7 0#7 0#7, .icmpIGe false 0#7 0#7 0#7,
    .icmpNLt false 0#7 0#7 0#7, .icmpNLe false 0#7 0#7 0#7, .icmpNGt false 0#7 0#7 0#7,
    .icmpNGe false 0#7 0#7 0#7, .fcmpEq false 0#7 0#7 0#7, .fcmpNe false 0#7 0#7 0#7,
    .fcmpLt false 0#7 0#7 0#7, .fcmpLe false 0#7 0#7 0#7, .fcmpGt false 0#7 0#7 0#7,
    .fcmpGe false 0#7 0#7 0#7, .fcmpUn false 0#7 0#7 0#7, .fcmpOrd false 0#7 0#7 0#7,
    .dcmpEq false 0#7 0#7 0#7, .dcmpNe false 0#7 0#7 0#7, .dcmpLt false 0#7 0#7 0#7,
    .dcmpLe false 0#7 0#7 0#7, .dcmpGt false 0#7 0#7 0#7, .dcmpGe false 0#7 0#7 0#7,
    .dcmpUn false 0#7 0#7 0#7, .dcmpOrd false 0#7 0#7 0#7, .kand 0#7 0#7 0#7, .kor 0#7 0#7 0#7,
    .kxor 0#7 0#7 0#7, .kandn 0#7 0#7 0#7, .knot 0#7 0#7, .kmov 0#7 0#7, .ktov 0#7 0#7, .vtok 0#7 0#7,
    .cand 0#7 0#7 0#7, .cor 0#7 0#7 0#7, .cxor 0#7 0#7 0#7, .candn 0#7 0#7 0#7, .cnot 0#7 0#7,
    .cmov 0#7 0#7] : List Instr).all Instr.wellFormed = true := by
  decide

theorem test_well_formed_2 : ([
    .f2iI 0#7 0#7 0#7, .f2iN 0#7 0#7 0#7, .f2d 0#7 0#7, .d2f 0#7 0#7, .d2iI 0#7 0#7 0#7, .i2dI 0#7 0#7,
    .movs 0#7 12#7, .movsw 12#7 0#7, .ktos 0#7 0#7 0#7, .stok 0#7 0#7 0#7, .vcompress 0#7 0#7 0#7,
    .vcompressZ 0#7 0#7 0#7, .vexpand 0#7 0#7 0#7, .voteany 0#7 0#7, .voteall 0#7 0#7, .ballot 0#7 0#7,
    .drcp 0#7 0#7, .dsqrt 0#7 0#7, .ldlN8 false 0#7 0#7 0#3 0#4, .ldlI8 false 0#7 0#7 0#3 0#4,
    .ldlN16 false 0#7 0#7 0#3 0#4, .ldlI16 false 0#7 0#7 0#3 0#4, .ldl32 false 0#7 0#7 0#3 0#4,
    .ldl64 false 0#7 0#7 0#3 0#4, .ldl128 false 0#7 0#7 0#3 0#4, .stl8 false 0#7 0#7 0#3 0#4,
    .stl16 false 0#7 0#7 0#3 0#4, .stl32 false 0#7 0#7 0#3 0#4, .stl64 false 0#7 0#7 0#3 0#4,
    .stl128 false 0#7 0#7 0#3 0#4, .atlAdd false 0#7 0#7 0#3 0#4, .atlMinI false 0#7 0#7 0#3 0#4,
    .atlMaxI false 0#7 0#7 0#3 0#4, .atlAnd false 0#7 0#7 0#3 0#4, .atlOr false 0#7 0#7 0#3 0#4,
    .atlXor false 0#7 0#7 0#3 0#4, .atlXchg false 0#7 0#7 0#3 0#4, .atlCas false 0#7 0#7 0#3 0#4,
    .stlE4 0#7 0#7 0#3 0#4, .stlE6 0#7 0#7 0#3 0#4, .ldgN8 false 0#7 0#7 0#3 0#4,
    .ldgI8 false 0#7 0#7 0#3 0#4, .ldgN16 false 0#7 0#7 0#3 0#4, .ldgI16 false 0#7 0#7 0#3 0#4,
    .ldg32 false 0#7 0#7 0#3 0#4, .ldg64 false 0#7 0#7 0#3 0#4, .ldg128 false 0#7 0#7 0#3 0#4,
    .stg8 false 0#7 0#7 0#3 0#4, .stg16 false 0#7 0#7 0#3 0#4, .stg32 false 0#7 0#7 0#3 0#4,
    .stg64 false 0#7 0#7 0#3 0#4, .stg128 false 0#7 0#7 0#3 0#4, .atgAdd false 0#7 0#7 0#3 0#4,
    .atgMinI false 0#7 0#7 0#3 0#4, .atgMaxI false 0#7 0#7 0#3 0#4, .atgAnd false 0#7 0#7 0#3 0#4] : List Instr).all Instr.wellFormed = true := by
  decide

theorem test_well_formed_3 : ([
    .atgOr false 0#7 0#7 0#3 0#4, .atgXor false 0#7 0#7 0#3 0#4, .atgXchg false 0#7 0#7 0#3 0#4,
    .atgCas false 0#7 0#7 0#3 0#4, .stgE4 false 0#7 0#7 0#3 0#4, .stgE6 false 0#7 0#7 0#3 0#4,
    .atgCas64 false 0#7 0#7 0#3 0#4, .atgFadd false 0#7 0#7 0#3 0#4, .redAdd false 0#7 0#7 0#3 0#4,
    .redFadd false 0#7 0#7 0#3 0#4, .redMinI false 0#7 0#7 0#3 0#4, .redMaxI false 0#7 0#7 0#3 0#4,
    .ldrq32 0#7 0#7 0#3 0#4, .ldrq128 0#7 0#7 0#3 0#4, .cstore 0#7 0#7 0#3 0#4, .pref 0#7 0#7 0#3 0#4,
    .rayq 0#7 0#7 0#7, .rayq64 0#7 0#7 0#7, .xsortI 0#7 0#7 0#7, .xsortN 0#7 0#7 0#7,
    .xsortF 0#7 0#7 0#7, .xmatch 0#7 0#7, .cpy 0#7 8#7 0#7, .qfence 0#7 0#7, .qstat 1#7 0#7 0#7,
    .mloadw 2#7, .mstream 8#7, .mdrain 4#7, .mstat 1#7, .ttstep 8#7, .ttrun 0#7 4#7, .binit 0#7 0#7 0#7,
    .barr 0#7 0#7 0#7, .bphase 1#7 0#7, .bbind 0#7 0#7 0#7, .bdrop 0#7 0#7, .phinit 0#7 0#7,
    .getwork 0#7, .cancel 0#7 0#7, .ccount 1#7 0#7, .enq 1#7 0#7 0#7, .emitvp 1#7 4#7, .vclose 1#7 2#7,
    .refit 1#7 8#7, .hpart 1#7 0#7, .cinv 4#7, .cflush 4#7, .jmpr 0#7, .join 0#7, .waitc 0#7 0#7,
    .setpri 0#7, .tlbinv 4#7, .sysrd 0#7 0#7, .syswr 0#7 0#7, .parkres 0#7, .fltrec 0#7 0#7] : List Instr).all Instr.wellFormed = true := by
  decide

/-! ### Every statement has states and operands that meet its hypotheses

Each `wit_X` shows, clause by clause, that the hypotheses of `Obligations.X` can be met together. The states are small: a
word loaded by `State.loadWord` at its issue, or a reset state with the one thing added that the clause is about. -/

/-- A word loaded at slot 1 of the first bundle, at issue: wave 0 of group 0, split 0, sixteen active lanes; with a
literal or without. -/
noncomputable def atIssue (lit : Option Word) : State :=
  { State.reset.loadWord nopWord with
    cur := some { g := 0, w := 0, sp := 0, pc := 0x100#64, slot := 1, words := [0xFFF00000#32, nopWord, nopWord, nopWord]
                  lit := lit, insn := nopWord } }

noncomputable abbrev st : State := atIssue none
noncomputable abbrev stLit : State := atIssue (some 5#32)

/-- Its wave, its group and its launch record changed. -/
noncomputable def onW (f : Wave → Wave) (s : State) : State := s.modWave 0 0 f
noncomputable def onG (f : Group → Group) (s : State) : State := s.modGroup 0 f
noncomputable def onL (f : Launch → Launch) (s : State) : State := s.modLaunch 0 f
noncomputable def word (i : Nat) (x : Word) (s : State) : State := onL (fun L => { L with words := L.words.set i x }) s

/-- An issue context of a state meets what a test asks of it. -/
abbrev At (s : State) (P : Ctx → Bool) : Prop := (s.ctx?.map P).getD false = true

theorem ctx_of {s : State} {P : Ctx → Prop} [DecidablePred P] (h : At s (fun c => decide (P c))) :
    ∃ c, s.ctx? = some c ∧ P c := by
  unfold At at h
  cases hc : s.ctx? with
  | none => simp [hc] at h
  | some c => exact ⟨c, rfl, by simpa [hc] using h⟩

theorem runs_of {s : State} {b : BitVec 7} {uses : List Use} (h : At s (fun c => clear c b uses)) : ∃ c, Runs s c b uses := by
  obtain ⟨c, h⟩ := ctx_of (P := fun c => clear c b uses = true) (s := s) (by simpa using h)
  exact ⟨c, h⟩

theorem runs_with {s : State} {b : BitVec 7} {uses : List Use} {P : Ctx → Prop} [DecidablePred P]
    (h : At s (fun c => clear c b uses && decide (P c))) : ∃ c, Runs s c b uses ∧ P c := by
  obtain ⟨c, h⟩ := ctx_of (P := fun c => clear c b uses = true ∧ P c) (s := s) (by simpa using h)
  exact ⟨c, ⟨h.1, h.2.1⟩, h.2.2⟩

theorem some_of {α : Type} {o : Option α} {P : α → Prop} [DecidablePred P] (h : (o.map (fun x => decide (P x))).getD false = true) :
    ∃ x, o = some x ∧ P x := by
  cases o with
  | none => simp at h
  | some x => exact ⟨x, rfl, by simpa using h⟩

theorem wit_IntegerResults :
    (∃ c, Runs st c 127#7 [rdR false 127#7, rdB false 127#7, wrR false 127#7]) ∧
    (∃ c, Runs stLit c 0#7 [rdR true 127#7, rdB true 0#7, wrR true 127#7]) ∧
    (∃ c, Runs st c 1#7 [rdR false 0#7, rdB false 1#7, rdR false 127#7, wrR false 127#7]) ∧
    (∃ c, Runs st c 0#7 [rdR true 127#7, wrR true 127#7]) ∧
    (∃ c, Runs st c 127#7 [rdB true 127#7, wrR true 127#7]) ∧
    (∃ c, Runs st c 0#7 [wrR false 127#7]) ∧
    (∃ c, Runs st c 126#7 [rdR true 126#7 2, rdB true 126#7 2, wrR true 126#7 2]) ∧
    (∃ c, Runs st c 127#7 [rdR false 127#7, rdB false 127#7, wrR false 126#7 2]) ∧
    (∃ c, Runs st c 0#7 [rdR true 127#7, rdR true 126#7, wrR true 126#7]) := by
  and_intros <;> first | exact runs_of (by decide +kernel)

theorem wit_PackedResults :
    (∃ c, Runs st c 127#7 [rdV 127#7, rdB false 127#7, wrV 127#7, rdV 127#7]) ∧
    (∃ c, Runs stLit c 0#7 [rdV 127#7, rdB false 0#7, wrV 127#7]) ∧ (∃ c, Runs st c 0#7 [rdV 127#7, wrV 0#7]) :=
  ⟨runs_of (by decide +kernel), runs_of (by decide +kernel), runs_of (by decide +kernel)⟩

/-- Every flag traps (spec/04 R140); registers that hold a signalling NaN in one format or another, and numbers that a narrower
format does not hold. -/
noncomputable def trapping (s : State) : State := onW (fun wv => { wv with sr := { wv.sr with fpmode := 0xF00#32 } }) s
noncomputable def stNaN (lit : Option Word) : State :=
  trapping (onW (fun wv => (((((wv.vset 127 15 0x7F800001#32 false).vset 126 15 0x7F800001#32 false).vset 125 0 0x7FF00001#32 false).vset
    124 0 1#32 false).vset 123 0 0x01000001#32 false).vset 122 0 0x7C017C01#32 false) (atIssue lit))

theorem wit_FloatResults :
    (∃ c, Runs st c 127#7 [rdR false 127#7, rdB false 127#7, wrR false 0#7, rdR false 0#7] ∧
      noTrap c false (fun i => out32 (f32.fma c.wave.rm (c.A false 127#7 i).toNat (c.B false 127#7 i).toNat (c.A false 0#7 i).toNat)) = true) ∧
    (∃ c, Runs st c 126#7 [rdR true 126#7 2, rdB true 126#7 2, wrR true 2#7 2] ∧
      noTrap c true (fun i => out64 (f64.mul c.wave.rm (c.A64 true 126#7 i).toNat (c.BD true 126#7 i).toNat)) = true) ∧
    (∃ c, Runs st c 127#7 [rdV 127#7, rdB false 127#7, wrV 0#7] ∧
      noTrap c false (fun i => halves (fun h => f16.add c.wave.rm (half (c.A false 127#7 i) h) (half (c.B false 127#7 i) h))) = true) ∧
    (∃ c, Runs (trapping (atIssue (some 0x7F800000#32))) c 0#7 [rdR true 127#7, rdB true 0#7, wrR true 127#7] ∧
      noTrap c true (fun i => out32 (f32.mul c.wave.rm (c.A true 127#7 i).toNat (c.B true 0#7 i).toNat)) = false) ∧
    (∃ c, Runs (stNaN none) c 124#7 [rdR false 124#7 2, rdB false 124#7 2, wrR false 126#7 2] ∧
      noTrap c false (fun i => out64 (f64.add c.wave.rm (c.A64 false 124#7 i).toNat (c.BD false 124#7 i).toNat)) = false) ∧
    (∃ c, Runs (stNaN none) c 122#7 [rdV 122#7, rdB false 122#7, wrV 0#7] ∧
      noTrap c false (fun i => halves (fun h => f16.add c.wave.rm (half (c.A false 122#7 i) h) (half (c.B false 122#7 i) h))) = false) := by
  and_intros <;> exact runs_with (by decide +kernel)

theorem wit_FloatUnaryResults :
    (∃ c, Runs st c 0#7 [rdR true 127#7, wrR true 127#7]) ∧ (∃ c, Runs st c 0#7 [rdR true 126#7 2, wrR true 126#7 2]) ∧
    (∃ c, Runs st c 0#7 [rdV 127#7, wrV 127#7]) ∧ (∃ c, Runs st c 0#7 [rdV 126#7 2, wrV 127#7]) ∧
    (∃ c, Runs st c 0#7 [rdV 127#7, wrV 127#7] ∧
      noTrap c false (fun i => out32 (f32.integral (c.code 4#7) (c.A false 127#7 i).toNat)) = true) ∧
    (∃ c, Runs st c 0#7 [rdV 126#7 2, wrV 126#7 2] ∧
      noTrap c false (fun i => out64 (f64.integral (c.code 0#7) (c.A64 false 126#7 i).toNat)) = true) ∧
    (∃ c, Runs (stNaN none) c 0#7 [rdV 127#7, wrV 127#7] ∧
      noTrap c false (fun i => out32 (f32.integral (c.code 4#7) (c.A false 127#7 i).toNat)) = false) ∧
    (∃ c, Runs (stNaN none) c 0#7 [rdV 124#7 2, wrV 126#7 2] ∧
      noTrap c false (fun i => out64 (f64.integral (c.code 0#7) (c.A64 false 124#7 i).toNat)) = false) := by
  and_intros <;> first | exact runs_of (by decide +kernel) | exact runs_with (by decide +kernel)

theorem wit_CompareResults :
    (∃ c, Runs st c 127#7 [rdR false 127#7, rdB false 127#7]) ∧
    (∃ c, Runs st c 127#7 [rdR true 127#7, rdB true 127#7] ∧
      noTrapM c true (fun i => f32.compare .lt (c.A true 127#7 i).toNat (c.B true 127#7 i).toNat) = true) ∧
    (∃ c, Runs st c 126#7 [rdR false 126#7 2, rdB false 126#7 2] ∧
      noTrapM c false (fun i => f64.compare .un (c.A64 false 126#7 i).toNat (c.BD false 126#7 i).toNat) = true) ∧
    (∃ c, Runs (stNaN none) c 127#7 [rdR false 127#7, rdB false 127#7] ∧
      noTrapM c false (fun i => f32.compare .eq (c.A false 127#7 i).toNat (c.B false 127#7 i).toNat) = false) ∧
    (∃ c, Runs (stNaN none) c 124#7 [rdR false 124#7 2, rdB false 124#7 2] ∧
      noTrapM c false (fun i => f64.compare .un (c.A64 false 124#7 i).toNat (c.BD false 124#7 i).toNat) = false) := by
  and_intros <;> first | exact runs_of (by decide +kernel) | exact runs_with (by decide +kernel)

theorem wit_MaskResults :
    (∃ c, Runs st c 0#7 []) ∧ (∃ c, Runs st c 0#7 [wrV 127#7]) ∧ (∃ c, Runs st c 0#7 [rdV 127#7]) :=
  ⟨runs_of (by decide +kernel), runs_of (by decide +kernel), runs_of (by decide +kernel)⟩

/-- A launch whose format slot 7 holds E2M3 elements, four to a register. -/
noncomputable def stSlot : State := word 46 0x7#32 st

/-- Slot 7 holds binary16 elements, two to a register. -/
noncomputable def stSlotNaN : State := word 46 0x2#32 (stNaN none)

theorem wit_ConversionResults :
    (∃ c, Runs st c 0#7 [rdV 127#7, wrV 127#7] ∧
      noTrap c false (fun i => int32Out (f32.toInt (c.code 4#7) 0 (2 ^ 32 - 1) (c.A false 127#7 i).toNat)) = true) ∧
    (∃ c, Runs st c 0#7 [rdV 127#7, wrV 127#7] ∧ noTrap c false (fun i => out32 (f32.ofInt c.wave.rm (c.A false 127#7 i).toNat)) = true) ∧
    (∃ c, Runs stLit c 0#7 [rdV 127#7, rdB false 0#7, wrV 127#7] ∧
      noTrap c false (fun i => halves (fun h =>
        f32.convert bf16 c.wave.rm (if h = 0 then c.A false 127#7 i else c.B false 0#7 i).toNat)) = true) ∧
    (∃ c, Runs st c 0#7 [rdV 127#7, wrV 126#7 2] ∧ noTrap c false (fun i => out64 (f32.convert f64 .rne (c.A false 127#7 i).toNat)) = true ∧
      noTrap c false (fun i => out64 (f64.ofInt .rne (c.A false 127#7 i).toInt)) = true) ∧
    (∃ c, Runs st c 0#7 [rdV 126#7 2, wrV 127#7] ∧
      noTrap c false (fun i => out32 (f64.convert f32 c.wave.rm (c.A64 false 126#7 i).toNat)) = true ∧
      noTrap c false (fun i => int32Out (f64.toInt (c.code 4#7) (-(2 ^ 31)) (2 ^ 31 - 1) (c.A64 false 126#7 i).toNat)) = true) ∧
    (∃ c, Runs stSlot c 0#7 [rdV 127#7, wrV 124#7 4] ∧ laneCount (c.lau.slot 7) = 4 ∧ 124 % laneCount (c.lau.slot 7) = 0 ∧
      noTrap c false (fun i =>
        let r := (List.range 4).map (fun j => widenLane (c.lau.slot 7) ((c.A false 127#7 i).toNat / 2 ^ (6 * j) % 2 ^ 6))
        (r.map Prod.fst, Flags.unions (r.map Prod.snd))) = true) ∧
    (∃ c, Runs stSlot c 0#7 [rdV 124#7 4, wrV 127#7] ∧ laneCount (c.lau.slot 7) = 4 ∧ 124 % laneCount (c.lau.slot 7) = 0 ∧
      noTrap c false (fun i =>
        let r := narrowList (c.lau.slot 7) (c.wave.rng.getD i 0#32) ((List.range 4).map (fun j => (c.wave.vget (124 + j) i).toNat))
        ([BitVec.ofNat 32 (packBits 6 r.1)], r.2.1)) = true) ∧
    (∃ c, Runs (stNaN none) c 0#7 [rdV 127#7, wrV 127#7] ∧
      noTrap c false (fun i => int32Out (f32.toInt (c.code 4#7) 0 (2 ^ 32 - 1) (c.A false 127#7 i).toNat)) = false) ∧
    (∃ c, Runs (stNaN none) c 0#7 [rdV 123#7, wrV 127#7] ∧
      noTrap c false (fun i => out32 (f32.ofInt c.wave.rm (c.A false 123#7 i).toNat)) = false) ∧
    (∃ c, Runs (stNaN none) c 127#7 [rdV 127#7, rdB false 127#7, wrV 127#7] ∧
      noTrap c false (fun i => halves (fun h =>
        f32.convert bf16 c.wave.rm (if h = 0 then c.A false 127#7 i else c.B false 127#7 i).toNat)) = false) ∧
    (∃ c, Runs (stNaN none) c 0#7 [rdV 127#7, wrV 126#7 2] ∧ noTrap c false (fun i => out64 (f32.convert f64 .rne (c.A false 127#7 i).toNat)) = false) ∧
    (∃ c, Runs (stNaN none) c 0#7 [rdV 124#7 2, wrV 127#7] ∧
      noTrap c false (fun i => out32 (f64.convert f32 c.wave.rm (c.A64 false 124#7 i).toNat)) = false ∧
      noTrap c false (fun i => int32Out (f64.toInt (c.code 4#7) (-(2 ^ 31)) (2 ^ 31 - 1) (c.A64 false 124#7 i).toNat)) = false) ∧
    (∃ c, Runs stSlotNaN c 0#7 [rdV 122#7, wrV 124#7 2] ∧ laneCount (c.lau.slot 7) = 2 ∧ 124 % laneCount (c.lau.slot 7) = 0 ∧
      noTrap c false (fun i =>
        let r := (List.range 2).map (fun j => widenLane (c.lau.slot 7) ((c.A false 122#7 i).toNat / 2 ^ (16 * j) % 2 ^ 16))
        (r.map Prod.fst, Flags.unions (r.map Prod.snd))) = false) ∧
    (∃ c, Runs stSlotNaN c 0#7 [rdV 126#7 2, wrV 0#7] ∧ laneCount (c.lau.slot 7) = 2 ∧ 126 % laneCount (c.lau.slot 7) = 0 ∧
      noTrap c false (fun i =>
        let r := narrowList (c.lau.slot 7) (c.wave.rng.getD i 0#32) ((List.range 2).map (fun j => (c.wave.vget (126 + j) i).toNat))
        ([BitVec.ofNat 32 (packBits 16 r.1)], r.2.1)) = false) := by
  and_intros <;> first | exact runs_with (by decide +kernel)

theorem wit_UniformMoveResults :
    (∃ c, Runs st c 0#7 [wrS 127#7] ∧ readableSr 0x28 = true ∧ stickyWaits st 0x0C#7 = false) ∧
    (∃ c, Runs st c 0#7 [wrV 127#7] ∧ (readableSr 0x30 || 0x30 == 0x30) = true ∧ stickyWaits st 0x30#7 = false) ∧
    (∃ c, Runs stLit c 0#7 [rdB true 0#7] ∧ writableSr 0x27 = true ∧ stickyWaits stLit 0x27#7 = false) ∧
    (∃ c, Runs st c 127#7 [rdB true 127#7, wrS 127#7] ∧ inAlloc c [rdV 127#7] = true ∧
      elemUsable c false (127, (c.B true 127#7 0).toNat % c.wave.width) = true) ∧
    (∃ c, Runs st c 127#7 [rdS 127#7, rdB true 127#7] ∧ inAlloc c [wrV 127#7] = true ∧
      elemUsable c true (127, (c.B true 127#7 0).toNat % c.wave.width) = true) ∧
    (∃ c, Runs st c 0#7 [wrS 127#7]) ∧ (∃ c, Runs st c 0#7 [rdS 127#7]) := by
  and_intros <;> first | exact runs_with (by decide +kernel) | exact runs_of (by decide +kernel)

theorem wit_CrossLaneResults :
    (∃ c, Runs st c 127#7 [rdB false 127#7, wrV 127#7] ∧ inAlloc c [rdV 126#7] = true ∧
      ∀ i ∈ c.lanes, elemUsable c false (126, (c.B false 127#7 i).toNat % c.wave.width) = true) ∧
    (∃ c, Runs stLit c 0#7 [wrV 127#7] ∧ (c.cur.lit.map BitVec.toNat).getD 1 ≤ 2 * c.wave.width ∧
      inAlloc c [rdV 126#7, rdV 125#7] = true ∧ ∀ i ∈ c.lanes, ∀ x < 2, elemUsable c false
        ((if (upSource (2 * c.wave.width) 5 (2 * i + x)).1 then 125 else 126), (upSource (2 * c.wave.width) 5 (2 * i + x)).2 / 2) = true) ∧
    (∃ c, Runs st c 127#7 [rdB true 127#7, wrV 127#7] ∧ inAlloc c [rdV 126#7] = true ∧
      elemUsable c false (126, (c.cur.lit.getD (c.wave.sget 127)).toNat % c.wave.width) = true) ∧
    (∃ c, Runs st c 0#7 [wrV 127#7] ∧ inAlloc c [rdV 126#7] = true ∧
      (∀ p ∈ c.lanes.zip (c.selected 0#7), elemUsable c false (126, p.2) = true) ∧
      ∀ p ∈ (c.selected 0#7).zip c.lanes, elemUsable c false (126, p.2) = true) ∧
    (∃ c, Runs st c 0#7 [rdV 127#7]) := by
  and_intros <;> first | exact runs_with (by decide +kernel) | exact runs_of (by decide +kernel)

theorem wit_PendingResultIssue :
    (∃ c, Runs st c 0#7 [rdV 127#7, wrV 127#7]) ∧ (∃ c, Runs st c 0#7 [rdV 126#7 2, wrV 126#7 2]) ∧
    (∃ c, Runs (onW (fun wv => { wv with counters := wv.counters.set 4 62 }) st) c 0#7 ([rdV 127#7, wrV 127#7].map marked) ∧
      c.wave.counters.getD 4 0 < 63) ∧
    (∃ c, Runs st c 0#7 ([rdV 127#7, wrV 126#7 2].map marked) ∧ c.wave.counters.getD 4 0 < 63) ∧
    (∃ c, Runs st c 127#7 ([rdV 126#7, wrV 126#7 2, rdB false 127#7].map marked) ∧ c.wave.counters.getD 4 0 < 63) ∧
    (∃ c, Runs stLit c 0#7 ([rdV 126#7, wrV 127#7, rdB false 0#7].map marked) ∧ c.wave.counters.getD 4 0 < 63) := by
  and_intros <;> first | exact runs_of (by decide +kernel) | exact runs_with (by decide +kernel)

/-- A 16-byte local load, a global compare and exchange, a global reduction. -/
def mLoad : MemSpec := { glob := false, op := .load 16 false, size := 16, reads := 0, writes := 4, cls := 1, kind := 0 }
def mCas : MemSpec := { glob := true, op := .atomic 19, size := 4, reads := 2, writes := 1, cls := 0, kind := 2 }
def mStore : MemSpec := { glob := true, op := .store 4, size := 4, reads := 1, writes := 0, cls := 2, kind := 1 }

theorem wit_MemoryIssue :
    (∃ c, Runs st c 0#7 (memUses mLoad false 124#7 123#7 15#4) ∧ MemReady mLoad false 123#7 15#4 st c ∧
      (checked mLoad false 123#7 15#4 st c).1 = (wanted false 123#7 15#4 c).map (fun x => (x.1, x.2, .loc (.clm 0))) ∧
      c.spoiled mLoad (checked mLoad false 123#7 15#4 st c).2 (checked mLoad false 123#7 15#4 st c).1.good = []) ∧
    (∃ c, Runs st c 0#7 (memUses mCas true 126#7 127#7 0#4) ∧ MemReady mCas true 127#7 0#4 st c ∧
      (checked mCas true 127#7 0#4 st c).1 = (wanted true 127#7 0#4 c).map (fun x => (x.1, x.2, .loc (.phys 0x14000))) ∧
      c.spoiled mCas (checked mCas true 127#7 0#4 st c).2 (checked mCas true 127#7 0#4 st c).1.good = []) ∧
    (∃ c, Runs st c 0#7 (memUses elemSpec false 126#7 127#7 15#4) ∧ MemReady elemSpec false 127#7 15#4 st c ∧
      (checked elemSpec false 127#7 15#4 st c).1 = (wanted false 127#7 15#4 c).map (fun x => (x.1, x.2, .loc (.clm 0)))) := by
  unfold MemReady
  exact ⟨runs_with (by decide +kernel), runs_with (by decide +kernel), runs_with (by decide +kernel)⟩

/-- Lane 0 alone is live. -/
noncomputable def oneLane : State → State :=
  onW (fun wv => { wv with live := 1#64, splits := wv.splits.modify 0 (fun e => { e with mask := 1#64 }) })

/-- The handler split of a wave in Trap, at issue. -/
noncomputable def stTrap : State :=
  onW (fun wv => { wv with state := .trap, trap := { wv.trap with entry := { Split.empty with
    mask := 0xFFFF#64, pc := 0x100#64, slot := 1, st := .ready } } }) { st with cur := st.cur.map (fun c => { c with sp := 64 }) }

theorem wit_MemoryFaults :
    (∃ c, Runs (onW (fun wv => wv.vset 123 15 1#32 false) st) c 0#7 (memUses mLoad false 124#7 123#7 15#4) ∧
      let s := onW (fun wv => wv.vset 123 15 1#32 false) st
      (c.wave.counters.getD 1 0 < 63 ∧ fenced c = false ∧ memHold mLoad false 123#7 15#4 s = false) ∧
      (c.faults false false (checked mLoad false 123#7 15#4 s c).1).any (fun x => !x.svc) = true) ∧
    (∃ c, Runs (onW (fun wv => wv.sset 127 0x4000#32 false) stTrap) c 0#7 (memUses mStore true 126#7 127#7 0#4) ∧
      let s := onW (fun wv => wv.sset 127 0x4000#32 false) stTrap
      (c.wave.counters.getD 2 0 < 63 ∧ fenced c = false ∧ memHold mStore true 127#7 0#4 s = false) ∧
      c.faults true true (checked mStore true 127#7 0#4 s c).1 ≠ [] ∧ c.cur.sp = trapIdx) ∧
    (∃ c, Runs (onW (fun wv => wv.sset 127 0x4000#32 false) st) c 0#7 (memUses mStore true 126#7 127#7 0#4) ∧
      let s := onW (fun wv => wv.sset 127 0x4000#32 false) st
      (c.wave.counters.getD 2 0 < 63 ∧ fenced c = false ∧ memHold mStore true 127#7 0#4 s = false) ∧
      let recs := c.faults true true (checked mStore true 127#7 0#4 s c).1
      recs ≠ [] ∧ recs.all (fun x => x.svc) = true ∧ c.cur.sp ≠ trapIdx ∧
        c.spoiled mStore (checked mStore true 127#7 0#4 s c).2 (checked mStore true 127#7 0#4 s c).1.good = []) ∧
    (∃ c, Runs { st with memP := [0x2800] } c 0#7 (memUses mCas false 126#7 127#7 0#4) ∧
      let s : State := { st with memP := [0x2800] }
      (c.wave.counters.getD 0 0 < 63 ∧ fenced c = false ∧ memHold mCas false 127#7 0#4 s = false) ∧
      c.faults false true (checked mCas false 127#7 0#4 s c).1 = [] ∧
      c.spoiled mCas (checked mCas false 127#7 0#4 s c).2 (checked mCas false 127#7 0#4 s c).1.good ≠ []) ∧
    (∃ c, Runs (onW (fun wv => wv.vset 127 15 2#32 false) st) c 0#7 (memUses elemSpec false 126#7 127#7 15#4) ∧
      let s := onW (fun wv => wv.vset 127 15 2#32 false) st
      (c.wave.counters.getD 2 0 < 63 ∧ fenced c = false ∧ memHold elemSpec false 127#7 15#4 s = false) ∧
      (c.faults false true (checked elemSpec false 127#7 15#4 s c).1).any (fun x => !x.svc) = true) := by
  and_intros <;> exact runs_with (by decide +kernel)

/-- One access of lane 0, with nothing before it. -/
def pendOf (op : MemOp) (l : Loc) (data : List Word) : Pend :=
  { id := 0, cls := 0, uni := false, regs := [1], lanes := 1#64, mask := 1#64, kind := .mem op, acq := false, rel := false,
    accs := [{ lane := 0, va := 0#64, loc := l, data := data, live := true }], wrs := [], recs := [], pc := 0x100#64, slot := 1,
    insn := nopWord, rpti := 0, sp := 0 }

noncomputable def stPend (op : MemOp) (l : Loc) (data : List Word) : State :=
  onW (fun wv => { wv with pend := [pendOf op l data], nextPend := 1, counters := wv.counters.set 0 1 }) st

/-- The first access of the first pending instruction may be performed, and it is as a test asks. -/
def First (s : State) (P : Group → Pend → Acc → Prop) : Prop :=
  ∃ G wv q a, Performable s 0 0 0 0 G wv q a ∧ P G q a

theorem first_of {s : State} {P : Group → Pend → Acc → Prop} [∀ G q a, Decidable (P G q a)]
    (h : (s.groups[0]?.bind (fun G => G.waves[0]?.bind (fun wv => (wv.pend? 0).bind (fun q =>
      (q.accs.find? (fun a => a.live && a.lane == 0)).map (fun a => s.mayPerform 0 0 G wv q a && decide (P G q a)))))).getD false
        = true) : First s P := by
  rcases hg : s.groups[0]? with _ | G
  · simp [hg] at h
  rcases hw : G.waves[0]? with _ | wv
  · simp [hg, hw] at h
  rcases hp : wv.pend? 0 with _ | q
  · simp [hg, hw, hp] at h
  rcases ha : q.accs.find? (fun a => a.live && a.lane == 0) with _ | a
  · simp [hg, hw, hp, ha] at h
  simp [hg, hw, hp, ha] at h
  exact ⟨G, wv, q, a, ⟨hg, hw, hp, ha, h.1⟩, h.2⟩

/-- An access of an operation at a location may be performed. -/
abbrev Ready (op : MemOp) (l : Loc) (data : List Word) (P : Group → Pend → Acc → Prop) : Prop :=
  First (stPend op l data) (fun G q a => a.loc = l ∧ q.kind = .mem op ∧ P G q a)

/-- A load of group 9, whose line the hamper of core 0 holds, hidden from some lanes. -/
noncomputable def stCopy (hidden : List Reader) : State :=
  { onW (fun wv => { wv with pend := [{ pendOf (.load 8 false) (.phys 0x14000) [] with insn := 0x48000000#32 }] }) st with
    hcopies := [{ core := 0, line := 0x280, bytes := List.replicate 128 7#8, marks := [], frame := false, hidden := hidden }] }

/-- The lane of that load. -/
noncomputable def ownLane : List Reader :=
  st.groups.flatMap (fun G => [{ launch := (G.reader 0 1#64).launch, gidx := (G.reader 0 1#64).gidx, wave := 0, lanes := 1#64 }])

/-- An atomic at a marked word of CLM or scratch. -/
noncomputable def stLocalMark (l : Loc) : State :=
  (stPend (.atomic 19) l [1#32, 0#32]).modCore 0 (fun k => { k with scrP := [2], clmP := [2] })

/-- The copy that a load of group 9 at 0x14000 finds. -/
noncomputable def copyFor (s : State) (G : Group) (q : Pend) (a : Acc) : Option HCopy :=
  s.hcopies.find? (fun h => h.core == G.core && h.line == 0x14000 / 128 && !h.hides (q.reader G a))

theorem wit_LocalAccessPerformed :
    Ready (.load 16 false) (.clm 0x7FFF0) [] (fun _ _ _ => (16, false) ∈ loadSizes) ∧
    Ready (.load 1 true) (.clm 0x7FFFF) [] (fun _ _ _ => (1, true) ∈ loadSizes) ∧
    Ready (.store 16) (.clm 0) [1#32, 2#32, 3#32, 4#32] (fun _ _ _ => True) ∧
    Ready (.atomic 19) (.clm 0x7FFFC) [1#32, 0#32] (fun G _ _ => Machine.marked (st.core G.core).clmP 0x7FFFC 4 = false) ∧
    Ready .estore (.clm 0) [1#32, 0xF#32] (fun _ _ _ => True) ∧
    Ready (.load 16 false) (.scratch 0x7FF0) [] (fun _ _ _ => (16, false) ∈ loadSizes) ∧
    Ready (.store 4) (.scratch 0x7FFC) [1#32] (fun _ _ _ => True) ∧
    Ready (.atomic 19) (.scratch 0) [1#32, 0#32] (fun G _ _ => Machine.marked (st.core G.core).scrP 0 4 = false) ∧
    First (stLocalMark (.scratch 0x10)) (fun G _ a => a.loc = .scratch 0x10 ∧
      Machine.marked ((stLocalMark (.scratch 0x10)).core G.core).scrP 0x10 4 = true) ∧
    First (stLocalMark (.clm 0x10)) (fun G _ a => a.loc = .clm 0x10 ∧
      Machine.marked ((stLocalMark (.clm 0x10)).core G.core).clmP (localAddr G (.clm 0x10)) 4 = true) := by
  and_intros <;> exact first_of (by decide +kernel)

/-- An access of an operation at a location of device memory, of which nothing says otherwise, from a state with marks. -/
noncomputable def stWord (p : List Nat) (op : MemOp) (data : List Word) : State :=
  { stPend op (.phys 0x14000) data with memP := p }

/-- The LLC holds a line of host window 3, with a mark on its word 0 or with none. -/
noncomputable def stHost (p : List Nat) (op : MemOp) (data : List Word) : State :=
  { stPend op (.host 3 0) data with
    llcHost := [{ peer := 3, line := 0, bytes := (List.range 128).map (fun k => (k, 1#8, false)), marks := p }] }

/-- The header of a `CSTORE` at 0x14000: INDEX and CAP; lanes 0 and 1 store 3 and 4. -/
noncomputable def header (i : Word := 1#32) : State → State := fun s => s.pokeWords 0x14000 [i, 4080#32]
def elements : List Word := [0x4000#32, 0#32, 0x4000#32, 0#32, 3#32, 0#32, 0#32, 3#32, 4#32]

theorem wit_GlobalAccessPerformed_device :
    Ready (.load 8 false) (.phys 0x14000) [] (fun G q a => (8, false) ∈ loadSizes ∧ st.frameLine G a.va.toNat = false ∧
      q.insn.extractLsb' 27 4 ≠ 9#4) ∧
    First (stCopy ownLane) (fun G q a => a.loc = .phys 0x14000 ∧ (stCopy ownLane).frameLine G a.va.toNat = false ∧
      q.insn.extractLsb' 27 4 = 9#4 ∧ (stCopy ownLane).foreignLine G a.va.toNat = false ∧ copyFor (stCopy ownLane) G q a = none) ∧
    First (stCopy []) (fun G q a => (8, false) ∈ loadSizes ∧ a.loc = .phys 0x14000 ∧ (stCopy []).frameLine G a.va.toNat = false ∧
      q.kind = .mem (.load 8 false) ∧ q.insn.extractLsb' 27 4 = 9#4 ∧ q.acq = false ∧ (stCopy []).foreignLine G a.va.toNat = false ∧
      (copyFor (begun q G a (stCopy [])) G q a).map HCopy.frame = some false) ∧
    Ready (.store 2) (.phys 0x14002) [1#32] (fun G _ a => 2 ≤ 4 * a.data.length ∧ st.frameLine G a.va.toNat = false) ∧
    Ready (.store 16) (.phys 0x14000) [1#32, 2#32, 3#32, 4#32] (fun G _ a => 16 ≤ 4 * a.data.length ∧ st.frameLine G a.va.toNat = false) ∧
    Ready (.atomic 12) (.phys 0x14000) [1#32] (fun G _ a => Machine.marked st.memP 0x14000 4 = false ∧ st.frameLine G a.va.toNat = false) ∧
    Ready (.atomic 23) (.phys 0x14000) [1#32] (fun G _ a => Machine.marked st.memP 0x14000 4 = false ∧ st.frameLine G a.va.toNat = false) ∧
    Ready (.atomic 22) (.phys 0x14000) [1#32, 2#32, 0#32, 0#32] (fun G _ a => Machine.marked st.memP 0x14000 8 = false ∧
      st.frameLine G a.va.toNat = false) ∧
    First (stWord [0x2801] (.atomic 22) [1#32, 2#32, 0#32, 0#32]) (fun G _ a => a.loc = .phys 0x14000 ∧
      Machine.marked [0x2801] 0x14000 8 = false ∧ st.frameLine G a.va.toNat = false) ∧
    First (stWord [0x2800] (.atomic 12) [1#32]) (fun G _ a => a.loc = .phys 0x14000 ∧ Machine.marked [0x2800] 0x14000 4 = true ∧
      st.frameLine G a.va.toNat = false) ∧
    Ready .estore (.phys 0x14000) [1#32, 0xF#32] (fun G _ a => st.frameLine G a.va.toNat = false) ∧
    Ready (.red 27) (.phys 0x14000) [1#32] (fun G _ a => st.frameLine G a.va.toNat = false) := by
  and_intros <;> exact first_of (by decide +kernel)

theorem wit_GlobalAccessPerformed_queries :
    Ready (.ldrq 4) (.phys 0x14000) [] (fun G q a => st.frameLine G a.va.toNat = false ∧ copyFor (begun q G a st) G q a = none) ∧
    First (stWord [0x2801] (.ldrq 4) []) (fun G q a => a.loc = .phys 0x14000 ∧ st.frameLine G a.va.toNat = false ∧
      copyFor (begun q G a st) G q a = none ∧ (List.range 4).any (fun j => Machine.marked [0x2801] (0x14000 + 4 * j) 4) = true) ∧
    First (header 1#32 (stPend .cstore (.phys 0x14000) elements)) (fun G q a => a.loc = .phys 0x14000 ∧ q.kind = .mem .cstore ∧
      st.frameLine G a.va.toNat = false ∧ (header 1#32 (stPend .cstore (.phys 0x14000) elements)).cellsWatched G q a = none ∧
      a.cstoreFaults 1 4080 = [] ∧ a.values.length = 2) ∧
    First (header 1#32 (stPend .cstore (.phys 0x14000) [8#32, 0#32, 8#32, 0#32, 3#32, 0#32, 0#32, 3#32, 4#32])) (fun G q a =>
      q.kind = .mem .cstore ∧ (header 1#32 (stPend .cstore (.phys 0x14000) elements)).cellsWatched G q a = none ∧
      st.frameLine G a.va.toNat = false ∧ a.cstoreFaults 1 4080 ≠ []) ∧
    Ready .workdone (.phys 0x14000) [1#32] (fun G _ a => Machine.marked st.memP 0x14000 4 = false ∧ st.frameLine G a.va.toNat = false) ∧
    First (stWord [0x2800] .workdone [1#32]) (fun G q a => a.loc = .phys 0x14000 ∧ q.kind = .mem .workdone ∧
      Machine.marked [0x2800] 0x14000 4 = true ∧ st.frameLine G a.va.toNat = false) := by
  and_intros <;> exact first_of (by decide +kernel)

theorem wit_GlobalAccessPerformed_host :
    Ready (.load 8 false) (.host 3 0) [] (fun _ _ _ => (8, false) ∈ loadSizes) ∧
    First (stHost [0] (.load 8 false) []) (fun _ _ a => a.loc = .host 3 0) ∧
    Ready (.store 16) (.host 3 0) [1#32, 2#32, 3#32, 4#32] (fun _ _ _ => True) ∧
    First (stHost [] (.atomic 12) [1#32]) (fun G q a => a.loc = .host 3 0 ∧
      ((begun q G a (stHost [] (.atomic 12) [1#32])).hostFills 3 0 4).hostMarked 3 0 4 = false) ∧
    First (stHost [0] (.atomic 22) [1#32, 2#32, 0#32, 0#32]) (fun G q a => a.loc = .host 3 0 ∧
      ((begun q G a (stHost [0] (.atomic 22) [1#32, 2#32, 0#32, 0#32])).hostFills 3 0 8).hostMarked 3 0 8 = true) ∧
    Ready .estore (.host 3 0) [1#32, 0xF#32] (fun _ _ _ => True) ∧ Ready (.red 27) (.host 3 0) [1#32] (fun _ _ _ => True) := by
  and_intros <;> exact first_of (by decide +kernel)

/-- The byte stores of a state are canonical, as a test evaluates it. -/
def canon (s : State) : Bool := Memory.wf s.mem && s.cores.all (fun c => Memory.wf c.clm && Memory.wf c.scr)

theorem canonical_of {s : State} (h : canon s = true) : Canonical s := by
  simp only [canon, Bool.and_eq_true, List.all_eq_true] at h
  exact ⟨h.1, fun c hc => (h.2 c hc).1, fun c hc => (h.2 c hc).2⟩

/-- `Unharmed`, as a test evaluates it. -/
noncomputable def unharmed (s : State) (G : Group) (q : Pend) (a : Acc) : Bool :=
  match q.op? with
  | some (.atomic f) => !s.locPoison G a.loc (if f = 22 then 8 else 4)
  | some .workdone => !s.locPoison G a.loc 4
  | some (.ldrq w) => !s.locPoison G a.loc (4 * w) && s.hcopies.isEmpty
  | some .cstore =>
    (a.cstoreFaults (s.queueHead G a.loc).1 (s.queueHead G a.loc).2).isEmpty
  | _ => true

theorem unharmed_of {s : State} {G : Group} {q : Pend} {a : Acc} (h : unharmed s G q a = true) : Unharmed s G q a := by
  unfold unharmed at h
  unfold Unharmed
  split at h <;> simp_all

/-- An instruction with its first access at `l` completes that access: the hypotheses of the frame hold, and the event goes on. -/
def Completes (f : State → State) (op : MemOp) (l : Loc) (data : List Word) : Prop :=
  ∃ G wv q a i t, Performable (f (stPend op l data)) 0 0 0 0 G wv q a ∧ a.loc = l ∧ q.kind = .mem op ∧ q.recs = [] ∧
    Canonical (f (stPend op l data)) ∧ Unharmed (f (stPend op l data)) G q a ∧
    (i = .loadDataReturn 0 0 0 0 ∨ i = .storeComplete 0 0 0 0 false) ∧ exec i (f (stPend op l data)) = .next t

theorem completes_of {f : State → State} {op : MemOp} {l : Loc} {data : List Word} (i : Instr)
    (hi : i = .loadDataReturn 0 0 0 0 ∨ i = .storeComplete 0 0 0 0 false) (hc : canon (f (stPend op l data)) = true)
    (h : ((f (stPend op l data)).groups[0]?.bind (fun G => G.waves[0]?.bind (fun wv => (wv.pend? 0).bind (fun q =>
      (q.accs.find? (fun a => a.live && a.lane == 0)).map (fun a => (f (stPend op l data)).mayPerform 0 0 G wv q a &&
        decide (a.loc = l ∧ q.kind = .mem op ∧ q.recs = [] ∧ unharmed (f (stPend op l data)) G q a = true)))))).getD false = true)
    (hn : (match exec i (f (stPend op l data)) with | .next _ => true | _ => false) = true) : Completes f op l data := by
  obtain ⟨G, wv, q, a, hp, h1, h2, h3, h4⟩ := first_of (s := f (stPend op l data))
    (P := fun G q a => a.loc = l ∧ q.kind = .mem op ∧ q.recs = [] ∧ unharmed (f (stPend op l data)) G q a = true) h
  split at hn
  case h_2 => cases hn
  next t ht => exact ⟨G, wv, q, a, i, t, hp, h1, h2, h3, canonical_of hc, unharmed_of h4, hi, ht⟩

theorem wit_MemoryFrame_loads : Completes id (.load 8 false) (.phys 0x14000) [] ∧ Completes id (.load 4 false) (.clm 0x7FFFC) [] ∧
    Completes id (.load 4 false) (.scratch 0) [] ∧ Completes id (.load 4 false) (.host 3 0) [] ∧
    Completes id (.ldrq 1) (.phys 0x14000) [] ∧ Completes id (.atomic 12) (.phys 0x14000) [1#32] ∧
    Completes id (.atomic 22) (.phys 0x14000) [1#32, 2#32, 0#32, 0#32] ∧ Completes id (.atomic 23) (.phys 0x14000) [1#32] ∧
    Completes id (.atomic 19) (.clm 0) [1#32, 0#32] ∧ Completes (header 1#32) .cstore (.phys 0x14000) elements := by
  and_intros <;> exact completes_of (.loadDataReturn 0 0 0 0) (.inl rfl) (by decide +kernel) (by decide +kernel) (by decide +kernel)

theorem wit_MemoryFrame_stores : Completes id (.store 4) (.phys 0x14000) [1#32] ∧ Completes id (.store 4) (.clm 0) [1#32] ∧
    Completes id (.store 4) (.scratch 0x7FFC) [1#32] ∧ Completes id (.store 4) (.host 3 0) [1#32] ∧
    Completes id .estore (.phys 0x14000) [1#32, 0xF#32] ∧ Completes id .estore (.clm 0) [1#32, 0xF#32] ∧
    Completes id (.red 24) (.phys 0x14000) [1#32] ∧ Completes id .workdone (.phys 0x14000) [1#32] ∧
    Completes (header 1#32) .cstore (.phys 0x14000) elements := by
  and_intros <;> exact completes_of (.storeComplete 0 0 0 0 false) (.inr rfl) (by decide +kernel) (by decide +kernel) (by decide +kernel)

/-- Reductions of two lines of device memory, the older of line 2 on a word that is marked or not, and one of a host line, which
the LLC holds with all its bytes. -/
noncomputable def stRed (p : List Nat) : State :=
  { State.reset with
    redQueue := [{ word := 0, f := 24, data := 1#32, groups := [] }, { word := 64, f := 26, data := 5#32, groups := [] }, { word := 65, f := 24, data := 5#32, groups := [] }]
    memP := p
    llcHost := [{ peer := 0, line := 3, bytes := (List.range 128).map (fun k => (384 + k, 0#8, decide (k < 2))) }]
    hostReds := [{ peer := 0, word := 64, f := 24, data := 1#32, groups := [] }, { peer := 0, word := 65, f := 24, data := 1#32, groups := [] }] }

theorem wit_ReductionAndEviction :
    (∃ e x, (stRed []).redQueue[2]? = some e ∧ (stRed []).redQueue[1]? = some x ∧ x.line = e.line ∧
      (∀ k < 1, ∀ y, (stRed []).redQueue[k]? = some y → y.line ≠ e.line) ∧ Machine.marked (stRed []).memP x.addr 4 = false) ∧
    (∃ e x, (stRed [32]).redQueue[1]? = some e ∧ (stRed [32]).redQueue[1]? = some x ∧ Machine.marked (stRed [32]).memP x.addr 4 = true) ∧
    (∃ e l, (stRed []).hostReds[1]? = some e ∧ (stRed []).hostReds[0]? = some { peer := 0, word := 64, f := 24, data := 1#32, groups := [] } ∧
      HostRed.onLines { peer := 0, word := 64, f := 24, data := 1#32, groups := [] } e.peer (4 * e.word) 4 = true ∧
      ((stRed []).hostFill 0 (64 / 32)).hostLine? 0 (64 / 32) = some l) ∧
    (∃ l, HeldLine (stRed []) 0 l) := by
  refine ⟨⟨_, _, rfl, rfl, by decide, ?_, by decide⟩, ⟨_, _, rfl, rfl, by decide⟩, ⟨_, _, rfl, rfl, by decide, rfl⟩, ?_⟩
  · intro k hk y hy
    obtain rfl : k = 0 := by omega
    obtain rfl : y = { word := 0, f := 24, data := 1#32, groups := [] } := by simpa [stRed] using hy.symm
    decide
  · exact ⟨_, rfl, rfl, by decide, by decide +kernel, by decide +kernel⟩

noncomputable def stFar : State := onW (fun wv => { wv with v := wv.v.set 127 (List.replicate 16 0x4000#32) }) st

/-- A `CSTORE` header at the base address 0 with a capacity; an end of the page at 0x4000. -/
noncomputable def stHead (cap : Word) : State := onW (fun wv => wv.vset 126 0 1#32 false) (st.pokeWords 0x14000 [0#32, cap])

/-- The address of the header in s30 and s31 is 0x4000, which no page maps. -/
noncomputable def noHead (s : State) : State := onW (fun wv => wv.ssets 30 [0x4000#32, 0#32]) s

theorem wit_QueryStoreIssue :
    (∃ c, Runs stFar c 0#7 ([rdV 127#7] ++ baseUse 15#4 ++ [wrV 120#7 6]) ∧ (4 = 4 ∧ 120 % 4 = 0) ∧ c.wave.counters.getD 0 0 < 63 ∧
      fenced c = false ∧
      (ldrqLanes c 16 (started stFar c) (wanted false 127#7 15#4 c)).1.filterMap (fun x => x.2.2.st?) ≠ [] ∧
      (ldrqLanes c 16 (started stFar c) (wanted false 127#7 15#4 c)).1.filterMap (fun x => x.2.2.flt?) = []) ∧
    (∃ c, Runs (oneLane st) c 0#7 ([rdV 127#7] ++ baseUse 0#4 ++ [wrV 126#7 2]) ∧ c.wave.counters.getD 0 0 < 63 ∧
      fenced c = false ∧ (ldrqLanes c 4 (started (oneLane st) c) (wanted false 127#7 0#4 c)).1.filterMap (fun x => x.2.2.flt?) = [] ∧
      (ldrqLanes c 4 (started (oneLane st) c) (wanted false 127#7 0#4 c)).1.filterMap (fun x => x.2.2.loc?) ≠ []) ∧
    (∃ c, Runs (stHead 4080#32) c 0#7 (baseUse 15#4 ++ [rdV 126#7, wrV 127#7]) ∧ c.wave.counters.getD 2 0 < 63 ∧ fenced c = false ∧
      headerHold 15#4 (stHead 4080#32) = false ∧
      let P := c.header 15#4
      let q := coreReq c.grp.core c.grp.job true false
      let r := (started (stHead 4080#32) c).xaccess q P 8 64
      r.1 = .loc (.phys 0x14000) ∧ P = 0#64 ∧ r.2.pageEnd q P = 64 + 4 * 4080) ∧
    (∃ c, Runs (noHead st) c 0#7 (baseUse 15#4 ++ [rdV 126#7, wrV 127#7]) ∧ headerHold 15#4 (noHead st) = false ∧ c.cur.sp ≠ trapIdx ∧
      (match (started (noHead st) c).xaccess (coreReq c.grp.core c.grp.job true false) (c.header 15#4) 8 64 with
        | (.fault f, _) => serviceable f.cause
        | _ => false) = true) ∧
    (∃ c, Runs (onW (fun wv => wv.ssets 30 [8#32, 0#32]) st) c 0#7 (baseUse 15#4 ++ [rdV 126#7, wrV 127#7]) ∧
      (match (started (onW (fun wv => wv.ssets 30 [8#32, 0#32]) st) c).xaccess (coreReq c.grp.core c.grp.job true false)
          (c.header 15#4) 8 64 with
        | (.fault f, _) => !serviceable f.cause
        | _ => false) = true) ∧
    (∃ c, Runs st c 0#7 ([rdV 127#7] ++ baseUse 15#4)) := by
  and_intros <;> first | exact runs_of (by decide +kernel) | exact runs_with (by decide +kernel)

theorem wit_QueryStoreIssue_fits :
    let x : Acc := { lane := 0, va := 0#64, loc := .phys 0x14000, live := true, data := [0x4000#32, 0#32, 0x4000#32, 0#32, 1#32, 0#32, 0#32, 7#32] }
    x.cstoreFaults 0 4080 = [] ∧ x.cstoreFaults 0 4081 ≠ [] := by decide +kernel

/-- `meets`, as a test evaluates it. -/
def met (c : Ctx) (x : Use) (uni : Bool) (regs : List Nat) (lanes : Mask) : Bool :=
  x.uni == uni && regs.any x.has && (uni || c.act &&& lanes != 0#64)

theorem met_iff (c : Ctx) (x : Use) (uni : Bool) (regs : List Nat) (lanes : Mask) :
    met c x uni regs lanes = true ↔ meets c x uni regs lanes := by
  simp [met, meets, and_assoc]

/-- `Unheld` of the context, and `Breach`. -/
def unheld (c : Ctx) (b : BitVec 7) (uses : List Use) : Bool :=
  (c.cur.lit.isNone || b == 0#7) && inAlloc c (used c uses) && c.ent.windows.all (fun x => x.left != 0 || (c.wave.pend? x.pend).isNone) &&
    c.wave.pend.all (fun p => c.ent.windows.any (fun x => x.pend == p.id && decide (0 < x.left)) ||
      (used c uses).all (fun x => !met c x p.uni p.regs p.lanes))
def breach (c : Ctx) (uses : List Use) : Bool :=
  c.ent.windows.any (fun x => decide (0 < x.left) && (used c uses).any (fun y => met c y x.uni x.regs x.lanes))

theorem breach_iff (c : Ctx) (uses : List Use) : breach c uses = true ↔ Breach c uses := by
  simp [breach, Breach, met_iff]

theorem unheld_of {s : State} {b : BitVec 7} {uses : List Use} {P : Ctx → Bool} (h : At s (fun c => unheld c b uses && P c)) :
    ∃ c, Unheld s c b uses ∧ P c = true := by
  obtain ⟨c, hc, h⟩ := ctx_of (P := fun c => (unheld c b uses && P c) = true) (s := s) (by simpa using h)
  simp only [unheld, Bool.and_eq_true, Bool.or_eq_true, List.all_eq_true, Option.isNone_iff_eq_none, beq_iff_eq, bne_iff_ne, ne_eq] at h
  obtain ⟨⟨⟨⟨h1, h2⟩, h3⟩, h4⟩, h5⟩ := h
  refine ⟨c, ⟨hc, h1, h2, fun x hx h0 => ?_, fun p hp => ?_⟩, h5⟩
  · rcases h3 x hx with h | h
    · exact absurd h0 h
    · exact h
  · rcases h4 p hp with h | h
    · simp only [List.any_eq_true, Bool.and_eq_true, beq_iff_eq, decide_eq_true_eq] at h
      exact .inl h
    · exact .inr fun x hx hm => by simpa [(met_iff c x p.uni p.regs p.lanes).mpr hm] using h x hx

def aWindow : Win := { pend := 0, left := 14, uni := false, regs := [127], lanes := 0x8000#64 }

/-- A load of v127 in lane 15 is pending, in a window of 14 more instructions; sr.strict as asked. -/
noncomputable def stWindow (strict : Bool) : State :=
  onW (fun wv => { wv with
    pend := [{ pendOf (.load 4 false) (.clm 0) [] with regs := [127], lanes := 0x8000#64 }], nextPend := 1, sr := { wv.sr with strict := strict }
    splits := wv.splits.modify 0 (fun e => { e with windows := [aWindow] }) }) st

/-- Lane 0 alone; descriptor 0 of a table of one at 0x1000 names a texture of 1 by 1 at 0x8000, of 32-bit texels. -/
noncomputable def stTex : State :=
  let s := word 16 0x1000#32 (word 18 1#32 (oneLane st))
  let s := s.poke64 0x10010 (BitVec.ofNat 64 (0x18000 + 0x180F))
  s.pokeWords 0x15000 [0x8000#32, 0#32, 0#32, 0x10#32]

def texel : Pend :=
  { pendOf (.load 4 false) (.phys 0x18000) [4#32, 0#32, 0#32, 1#32, 1#32, 0#32] with cls := 7, kind := .texture 1 }

theorem wit_TextureResults :
    (∃ c, Runs stTex c 127#7 [rdV 122#7 6, rdB false 127#7, wrV 120#7 5] ∧ c.wave.counters.getD 7 0 < 63 ∧ fenced c = false ∧
      texHold 127#7 stTex = false ∧ c.lanes ≠ [] ∧
      ∀ x ∈ (texLanes c (fun t i fr => t.plan (quiet (c.wave.vget 122 i)) (quiet (c.wave.vget 123 i))
          (c.wave.vget 124 i).toNat fr) false 127#7 (started stTex c) c.lanes).1, x.2.served = true) ∧
    (∃ c, Runs stTex c 127#7 [rdV 125#7 3, rdB false 127#7, wrV 120#7 5] ∧ c.lanes ≠ [] ∧
      ∀ x ∈ (texLanes c (fun t i _ => t.fetchPlan (c.wave.vget 125 i).toInt (c.wave.vget 126 i).toInt (c.wave.vget 127 i).toNat)
          false 127#7 (started stTex c) c.lanes).1, x.2.served = true) ∧
    (∃ G wv q, (onW (fun wv => { wv with pend := [texel] }) st).groups[0]? = some G ∧ G.waves[0]? = some wv ∧
      wv.pend? 0 = some q ∧ q.kind = .texture 1 ∧ q.lanes.getLsbD 0 = true ∧
      ((onW (fun wv => { wv with pend := [texel] }) st).core G.core).held = false ∧
      ∀ a ∈ q.accs.filter (fun a => a.lane == 0), a.live = true →
        (onW (fun wv => { wv with pend := [texel] }) st).mayPerform 0 0 G wv q a = true) := by
  refine ⟨runs_with (by decide +kernel), runs_with (by decide +kernel), ?_⟩
  exact ⟨_, _, _, rfl, rfl, rfl, rfl, rfl, by decide +kernel, by decide +kernel⟩

/-- A ray of lane 0, at a stage of its traversal. -/
def slotOf (st : RayState) (cand : Option (Hit × Bool)) (stack : List RayTask) (hdr : DWord) (flags : Word) (term : Bool) : RaySlot :=
  { idx := 0, st := st, group := 0, wave := 0, lane := 0, pend := 0, dreg := 0
    ray := { org := [0#64, 0#64, 0#64], dir := [0x3F800000#32, 0#32, 0#32], tmin := 0#32, tmax := 0x42000000#32, hdr := hdr,
             flags := flags, ctx := 0#32 }
    hit := none, cand := cand, stack := stack, term := term, spilled := false, lastUse := 0, request := none }

noncomputable def stRay (r : RaySlot) : State :=
  (oneLane st).modCore 0 (fun k => { k with rays := [r] })

def aHit : Hit := { t := 0x3F800000#32, u := 0#32, v := 0#32, prim := 0#32, inst := 0#32, geom := 0#32, front := false, hk := 0#8 }
noncomputable def stCand : State := stRay (slotOf .candidate (some (aHit, true)) [] 0#64 0#32 false)

theorem wit_RayInstructions :
    (∃ c, Runs st c 0#7 [rdV 112#7 11, rdV 124#7 4, wrV 120#7 8] ∧ inAlloc c [rdV 112#7 12] = true ∧ shading c.grp.core = true ∧
      c.wave.counters.getD 6 0 < 63 ∧ fenced c = false ∧ spillHold st = false ∧ c.lanes.length ≤ st.rayRoom c.grp.core ∧
      ∀ i ∈ c.lanes, c.wave.rays.getLsbD i = false) ∧
    (∃ c, Runs st c 0#7 [rdV 120#7 8, rdV 124#7 4, wrV 120#7 8] ∧ inAlloc c [rdV 120#7 8] = true) ∧
    (∃ c, Runs stCand c 127#7 [rdB false 127#7, wrV 120#7 8] ∧ shading c.grp.core = true ∧ c.wave.counters.getD 6 0 < 63 ∧
      spillHold stCand = false ∧ (∀ i ∈ c.lanes, c.candidate ((started stCand c).unspillAll c) i =
        some (slotOf .candidate (some (aHit, true)) [] 0#64 0#32 false, aHit, true)) ∧ ∀ i ∈ c.lanes, (c.B false 127#7 i).toNat ≤ 2) ∧
    (∃ c, Runs stCand c 0#7 [wrV 120#7 8]) ∧
    (∃ c, Runs stCand c 127#7 [rdV 126#7, rdB false 127#7, wrV 127#7]) ∧
    (∃ c, Runs stCand c 0#7 [] ∧ shading c.grp.core = true ∧ c.wave.counters.getD 6 0 < 63) := by
  and_intros <;> first | exact runs_with (by decide +kernel) | exact runs_of (by decide +kernel)

/-- What a visit comes to: 0 goes on, 1 a candidate, 2 ended, 3 a fault, 4 waits. -/
def visitCase : RayOut → Nat
  | .go _ => 0
  | .candidate _ => 1
  | .done _ => 2
  | .fault _ => 3
  | .wait => 4

def topFr : RayFrame := { o := [0#32, 0#32, 0#32], d := [0x3F800000#32, 0#32, 0#32], two := false, inst := none }

theorem wit_RayTraversal :
    let at_ := fun (r : RaySlot) => ((stRay r).core 0).placed.find? (fun x => x.idx == 0)
    let header := slotOf .traversing none [.header] 0x40#64 0#32 false
    let far := slotOf .traversing none [.header] 0x4000#64 0#32 false
    let bad := slotOf .traversing none [.header] 0x40#64 0xC0#32 false
    let box := slotOf .traversing none [.leaf topFr 2 0x200 0 1 0 1] 0x40#64 0#32 false
    let ended := slotOf .traversing none [] 0x40#64 0#32 true
    (∀ r ∈ [header, far, bad, box, ended], (stRay r).rayHeld r = false ∧ ((stRay r).core 0).held = false) ∧
    at_ ended = some ended ∧ (ended.term = true ∨ ended.stack = []) ∧
    at_ header = some header ∧ visitCase ((stRay header).visit 0 0 header).1 = 0 ∧
    at_ box = some box ∧ visitCase ((stRay box).visit 0 0 box).1 = 1 ∧
    at_ bad = some bad ∧ visitCase ((stRay bad).visit 0 0 bad).1 = 2 ∧
    at_ far = some far ∧ visitCase ((stRay far).visit 0 0 far).1 = 3 := by
  decide +kernel

/-- Uniform registers from `r` on hold these words. -/
noncomputable def regs (r : Nat) (ws : List Word) : State → State := onW (fun wv => wv.ssets r ws)

/-- `CPY` moves one word between global 0 and local 0. -/
noncomputable def stCpy : State := regs 120 [0#32, 0x80000000#32, 0#32, 0x10001#32, 0x1001#32] st

theorem wit_CopyCommandIssue :
    (∃ c, Runs stCpy c 0#7 [rdS 120#7 8, wrS 127#7] ∧ (c.wave.counters.getD 3 0 < 63 ∧ fenced c = false) ∧
      stCpy.queueFull c.grp.core 3 = false ∧ stCpy.scoreFull c.grp.core = false ∧ scratchBusy stCpy (copyIvs 120#7 stCpy) = false ∧
      ((CopyDesc.ofWords (c.wave.sblock 120 8)).check c (started stCpy c)).isRight = true) ∧
    (∃ c, Runs st c 0#7 [] ∧ (c.wave.counters.getD 3 0 < 63 ∧ fenced c = false) ∧ st.queueFull c.grp.core 3 = false) ∧
    (∃ c, Runs st c 0#7 [wrS 127#7]) :=
  ⟨runs_with (by decide +kernel), runs_with (by decide +kernel), runs_of (by decide +kernel)⟩

/-- A matrix command at slot 7 (E2M3), with its block at s120 and all bonds 1. -/
noncomputable def stMat (ws : List Word) : State :=
  regs 120 ws (onW (fun wv => { wv with sr := { wv.sr with bd := List.replicate 8 1#16 } }) stSlot)

/-- A matrix command passes its checks and the queue has room. -/
def MatrixFits (check : Ctx → State → List Word → Nat ⊕ List Iv) (n : Nat) (bd : Bool) (ws : List Word) (uses : List Use) : Prop :=
  ∃ c, Runs (stMat ws) c 0#7 uses ∧ (c.wave.counters.getD 3 0 < 63 ∧ fenced c = false) ∧ shading c.grp.core = true ∧
    c.lau.acm ≠ 0 ∧
    let w := matrixWords c 120#7 n bd
    ((stMat ws).queueFull c.grp.core selMatrix = false ∧
      (matrixIvs check c (stMat ws) w = [] ∨ (stMat ws).scoreFull c.grp.core = false) ∧
      scratchBusy (stMat ws) (matrixIvs check c (stMat ws) w) = false) ∧
    (check c (started (stMat ws) c) w).isRight = true

theorem wit_MatrixCommandIssue :
    MatrixFits checkLoad 2 false [0#32, 0x170#32] [rdS 120#7 2] ∧
    MatrixFits checkStream 8 false [0#32, 0x170#32, 0#32, 0#32, 0x10#32] [rdS 120#7 8] ∧
    MatrixFits checkDrain 4 false [0#32, 0x10070#32] [rdS 120#7 4] ∧
    MatrixFits checkTtstep 8 true [0x200#32, 0x70#32, 1#32, 0#32, 0x100#32, 4#32, 0#32, 1#32] [rdS 120#7 8] ∧
    MatrixFits checkZero 1 false [0x200#32] [rdS 120#7 1] ∧ MatrixFits checkSwap 0 false [] [] ∧
    MatrixFits checkTtrun 4 true [0#32, 1#32, 1#32, 0#32] [rdS 120#7 4, wrS 126#7 2] ∧
    (∃ c, Runs st c 0#7 [wrS 127#7] ∧ shading c.grp.core = true) := by
  and_intros <;> first | exact runs_with (by decide +kernel)

theorem wit_HamperCommandIssue :
    (∃ c, Runs st c 0#7 [rdS 127#7, wrS 127#7] ∧ (c.wave.counters.getD 3 0 < 63 ∧ fenced c = false) ∧ shading c.grp.core = true) ∧
    (∃ c, Runs st c 0#7 [rdS 124#7 4] ∧ c.wave.counters.getD 3 0 < 63 ∧ fenced c = false) :=
  ⟨runs_with (by decide +kernel), runs_with (by decide +kernel)⟩

theorem wit_BranchResults :
    (∃ c, Runs st c 0#7 [] ∧ c.wave.cget 0 = true) ∧ (∃ c, Runs st c 0#7 [] ∧ c.wave.cget 7 = false) ∧
    (∃ c, Runs st c 0#7 [wrS 126#7 2]) ∧
    (∃ c, Runs (regs 126 [0x100#32] st) c 0#7 [rdS 126#7 2] ∧ (c.wave.spair 126).extractLsb' 0 4 = 0#4) ∧
    (∃ c, Runs (regs 126 [0x108#32] st) c 0#7 [rdS 126#7 2] ∧ (c.wave.spair 126).extractLsb' 0 4 ≠ 0#4) := by
  and_intros <;> first | exact runs_with (by decide +kernel) | exact runs_of (by decide +kernel)

/-- k1 holds lanes 0 to 3. -/
noncomputable def stMask : State := onW (fun wv => { wv with k := wv.k.set 1 0xF#64 }) st

/-- The same with a window open. -/
noncomputable def stMaskWindow : State := onW (fun wv => { wv with k := wv.k.set 1 0xF#64 }) (stWindow true)

/-- Splits 0 and 1 wait in Join, each for the lanes `exp`, at one bundle or at two. -/
noncomputable def stJoin (exp : Mask) (two : Bool) : State :=
  let e : Split := { Split.empty with mask := 0xFF#64, exp := exp, pc := 0x110#64, slot := 1, rja := 0x100#64, st := .join }
  onW (fun wv => { wv with splits := (wv.splits.set 0 e).set 1 { e with
    mask := 0xFF00#64, rja := if two then 0x200#64 else 0x100#64 } }) st

/-- The merge of a complete join, a complete join that is not merged yet, and a release where both wait in vain. -/
theorem wit_DivergenceResults_joins :
    (∃ wv, (stJoin 0xFFFF#64 false).wave? 0 0 = some wv ∧ wv.splits.length ≤ 64 ∧
      wv.splits[1]?.map (fun e => e.mask &&& ~~~e.exp) = some 0#64 ∧ wv.joinDone 1 = true) ∧
    (∃ wv, (stJoin 0xFFFF#64 false).wave? 0 0 = some wv ∧ wv.splits.length ≤ 64 ∧
      (∀ e ∈ wv.splits, e.st = .join → e.mask &&& ~~~e.exp = 0#64) ∧ (wv.joins 65).splits[0]?.map (fun e => e.st) = some .ready) ∧
    (∃ wv, (stJoin 0xFFFF#64 true).wave? 0 0 = some wv ∧ wv.splits.length ≤ 64 ∧ wv.state = .resident ∧
      wv.valid.head?.map Prod.fst = some 0 ∧ ∀ x ∈ wv.valid, x.2.st = .join ∧ wv.joinDone x.1 = false) := by
  and_intros <;> exact some_of (by decide +kernel)

theorem wit_DivergenceResults_windows :
    ∃ c, Unheld stMaskWindow c 0#7 [] ∧ (!c.wave.trapLevel c.cur.sp && c.act &&& c.wave.kget c.act 1 != 0#64 &&
      c.act &&& c.wave.kget c.act 1 != c.act && c.ent.windows == [aWindow]) = true := unheld_of (by decide +kernel)

theorem wit_DivergenceResults :
    (∃ c, Runs st c 0#7 [] ∧ c.wave.trapLevel c.cur.sp = false ∧ c.act &&& c.wave.kget c.act 1 = 0#64 ∧
      c.act &&& ~~~(c.wave.kget c.act 1) = c.act ∧ c.act ≠ 0#64) ∧
    (∃ c, Runs stMask c 0#7 [] ∧ c.act &&& c.wave.kget c.act 1 ≠ 0#64 ∧ c.act &&& c.wave.kget c.act 1 ≠ c.act) ∧
    (∃ c, Runs st c 0#7 [] ∧ c.wave.trapLevel c.cur.sp = false ∧ c.ent.rpta = false ∧ joinWaits st = false) ∧
    (∃ c, stTrap.ctx? = some c ∧ c.wave.trapLevel c.cur.sp = true) := by
  and_intros <;> first | exact runs_with (by decide +kernel) | exact ctx_of (by decide +kernel)

noncomputable def stOwn : State := st.modCore 0 (fun k => { k with dbg := { k.dbg with own := true } })

theorem wit_SplitControlResults :
    (∃ c, Runs st c 0#7 [] ∧ c.wave.counters.getD 7 0 ≤ (0#7).toNat ∧ c.ent.rpta = false ∧
      (c.cur.words.drop (c.cur.slot + 1)).all (fun w => w == nopWord) = true) ∧
    (∃ c, Runs (onW (fun wv => { wv with counters := wv.counters.set 7 1 }) st) c 0#7 [] ∧
      ¬c.wave.counters.getD 7 0 ≤ (0#7).toNat) ∧
    (∃ c, Runs st c 0#7 [rdS 127#7] ∧ (c.wave.sget 127).toNat = 0) ∧
    (∃ c, Runs (regs 127 [0xFFFFFFFF#32] st) c 0#7 [rdS 127#7] ∧ (c.wave.sget 127).toNat ≠ 0) ∧
    (∃ c, Runs stTrap c 0#7 [] ∧ c.cur.sp = 64) ∧
    (∃ c, Runs stOwn c 0#7 [] ∧ (stOwn.core c.grp.core).dbg.own = true) ∧ (∃ c, st.ctx? = some c ∧ c.cur.slot = 1) := by
  and_intros <;> first | exact runs_with (by decide +kernel) | exact ctx_of (by decide +kernel)

theorem wit_SoftwareTraps : ∃ c, Runs st c 0#7 [] ∧ (st.core c.grp.core).dbg.own = false := runs_with (by decide +kernel)

/-- A parked split 1 of lanes 8 to 15 whose service was refused, or of every lane, beside the handler. -/
noncomputable def stPark (m : Mask) (o : Word) : State :=
  regs 126 [1#32, o] (onW (fun wv => { wv with splits := wv.splits.set 1 { Split.empty with
    mask := m, pc := 0x100#64, slot := 1, st := .parked, refused := true } }) stTrap)

theorem wit_TrapLevelResults :
    (∃ c, stTrap.ctx? = some c ∧ c.wave.trapLevel c.cur.sp = true ∧ clear c 0#7 [wrS 127#7] = true ∧
      clear c 0#7 [rdS 127#7] = true ∧ clear c 0#7 [rdS 127#7, wrS 120#7 8] = true) ∧
    (∃ c, stTrap.ctx? = some c ∧ clear c 0#7 [rdS 124#7 4] = true ∧ c.wave.sget (124 + 3) = 0#32 ∧ invalHolds 124#7 stTrap = false) ∧
    (∃ c, Runs (stPark 0xFF00#64 3#32) c 0#7 [rdS 126#7 2] ∧ (c.wave.sget 127).toNat % 4 = 3) ∧
    (∃ c, Runs (stPark 0xFF00#64 1#32) c 0#7 [rdS 126#7 2] ∧ (c.wave.splits.getD (c.wave.sget 126).toNat Split.empty).st = .parked ∧
      (c.wave.splits.getD (c.wave.sget 126).toNat Split.empty).refused = true ∧ (c.wave.sget 127).toNat % 4 < 2) ∧
    (∃ c, Runs (stPark 0xFF00#64 2#32) c 0#7 [rdS 126#7 2] ∧ (c.wave.sget 127).toNat % 4 = 2 ∧
      (c.wave.live &&& ~~~(c.wave.splits.getD (c.wave.sget 126).toNat Split.empty).mask) ≠ 0#64) ∧
    (∃ c, Runs stTrap c 0#7 [] ∧ c.wave.trap.wrote = false) ∧
    (∃ c, Runs (onW (fun wv => { wv with trap := { wv.trap with tpc := 0x110#64, wrote := true } }) stTrap) c 0#7 [] ∧
      c.wave.trap.tpc.extractLsb' 0 4 = 0#4) ∧
    (∃ c, Runs (onW (fun wv => { wv with trap := { wv.trap with tpc := 0x118#64, wrote := true } }) stTrap) c 0#7 [] ∧
      c.wave.trap.wrote = true ∧ c.wave.trap.tpc.extractLsb' 0 4 ≠ 0#4) ∧
    (∃ c, Runs (stPark 0xFFFF#64 2#32) c 0#7 [rdS 126#7 2] ∧ (c.wave.sget 127).toNat % 4 = 2 ∧
      (c.wave.splits.getD (c.wave.sget 126).toNat Split.empty).st = .parked ∧
      (c.wave.live &&& ~~~(c.wave.splits.getD (c.wave.sget 126).toNat Split.empty).mask) = 0#64) ∧
    (∃ c, st.ctx? = some c ∧ c.wave.trapLevel c.cur.sp = false) := by
  and_intros <;> first | exact ctx_of (by decide +kernel) | exact runs_with (by decide +kernel)

/-- Barrier object 63 of the group changed; object 63 counts to 2 in phase 0. -/
noncomputable def bar (f : Barrier → Barrier) : State → State := onG (fun G => { G with bars := G.bars.modify 63 f })
noncomputable def stBar : State := bar (fun o => { o with st := .counting, expa := 2 }) st

/-- The launch has tree context 0, armed, quiet, with one arrival for core 0 to come, and object 63 is linked. -/
noncomputable def stTree : State :=
  let s := onL (fun L => { L with tree := some 0 }) (bar (fun o => { o with st := .counting, lnk := true }) st)
  { s with trees := s.trees.set 0 { Tree.empty with owner := some 0, armed := true, rld := [1], cnt0 := [1], cnt1 := [1] } }

/-- What `BINIT` asks of its object and its word (spec/07 R206). -/
def mayInit (c : Ctx) (a : Nat) (w : Word) : Prop :=
  let o := c.grp.bar a
  (o.st ≠ .counting ∨ (o.arr = 0 ∧ o.bytes = 0 ∧ o.wait = 0#16 ∧ o.obs = 0#16)) ∧ w.extractLsb' 20 12 = 0#12 ∧
    w.extractLsb' 12 4 = 0#4 ∧ 1 ≤ (w.extractLsb' 16 3).toNat ∧ (w.extractLsb' 16 3).toNat ≤ 4 ∧
    (if w.getLsbD 19 then c.grp.bars.zipIdx.any (fun p => p.1.lnk && p.2 != a) = false else w.extractLsb' 0 12 ≠ 0#12)

theorem wit_BarrierResults :
    (∃ c, Runs (regs 126 [0x40FFF#32] st) c 0#7 [rdS 126#7 2] ∧ 63 < c.lau.bars ∧ (c.wave.sget 126).getLsbD 19 = false ∧
      mayInit c 63 (c.wave.sget 126)) ∧
    (∃ c, Runs (regs 126 [0x90000#32] stTree) c 0#7 [rdS 126#7 2] ∧ (c.tree (regs 126 [0x90000#32] stTree)).isSome = true ∧
      mayInit c 63 (c.wave.sget 126)) ∧
    (∃ c, Runs (regs 126 [0x50001#32] st) c 0#7 [rdS 126#7 2] ∧ ¬mayInit c 63 (c.wave.sget 126)) ∧
    (∃ c, Runs (regs 126 [0x90000#32] st) c 0#7 [rdS 126#7 2] ∧ c.tree (regs 126 [0x90000#32] st) = none) ∧
    (∃ c, Runs stBar c 0#7 [wrS 127#7] ∧ (63 < c.lau.bars ∧ (c.grp.bar 63).st = .counting ∧ (c.grp.bar 63).lnk = false) ∧
      (c.grp.bar 63).obs = 0#16 ∧ (c.grp.bar 63).arr ≠ (c.grp.bar 63).expa) ∧
    (∃ c, Runs (bar (fun o => { o with arr := 2 }) stBar) c 0#7 [wrS 127#7] ∧ (c.grp.bar 63).arr = (c.grp.bar 63).expa) ∧
    (∃ c, Runs (regs 127 [0xFFFF#32] stBar) c 0#7 [rdS 127#7] ∧ ((c.grp.bar 63).phase - (c.wave.sget 127).setWidth 16).toNat = 1) ∧
    (∃ c, Runs (regs 127 [0x8001#32] stBar) c 0#7 [rdS 127#7] ∧
      ((c.grp.bar 63).phase - (c.wave.sget 127).setWidth 16).toNat = 32767) ∧
    (∃ c, Runs (regs 127 [0x8000#32] stBar) c 0#7 [rdS 127#7] ∧
      ((c.grp.bar 63).phase - (c.wave.sget 127).setWidth 16).toNat = 32768) ∧
    (∃ c, Runs stBar c 0#7 [rdS 127#7] ∧ ((c.grp.bar 63).phase - (c.wave.sget 127).setWidth 16).toNat = 0) ∧
    (∃ c, Runs st c 0#7 [rdS 124#7 4]) ∧ (∃ c, Runs st c 0#7 [wrS 127#7]) := by
  unfold mayInit
  and_intros <;> first | exact runs_with (by decide +kernel) | exact runs_of (by decide +kernel)

theorem wit_FenceAndTreeResults :
    (∃ c, Runs st c 0#7 []) ∧
    (∃ c, Runs stTree c 0#7 [rdS 126#7 2] ∧ c.openAccesses = [] ∧ c.lau.tree = some 0 ∧ stTree.trees[0]?.isSome = true ∧
      stTree.laccess c.cur.g c.grp c.lau (c.wave.spair 126) 256 64 = .loc (.clm 0) ∧ stTree.locPoison c.grp (.clm 0) 256 = false) ∧
    (∃ c, Runs (regs 127 [1#32] stTree) c 0#7 [rdS 126#7, rdS 127#7] ∧ c.openAccesses = [] ∧ c.lau.tree = some 0 ∧
      (c.grp.bars.find? (fun o => o.lnk)).isSome = true ∧ (stTree.trees[0]?.map Tree.armed) = some true ∧
      (c.wave.sget 126).toNat < 112 ∧ stTree.corePresent (c.wave.sget 126).toNat = true) ∧
    (∃ t, ({ stTree with trees := stTree.trees.modify 0 (fun t => { t with cnt0 := [0] }) } : State).trees[0]? = some t ∧
      t.complete = true) ∧
    headerEngineHold 126#7 stTree = false ∧
    (∃ G, (onG (fun G => { G with barRel := [{ nb := 63, wave := 0, pends := [5] }] }) stBar).groups[0]? = some G ∧
      G.barRel[0]? = some { nb := 63, wave := 0, pends := [5] } ∧ G.state = .resident ∧
      ∀ wv ∈ G.waves, wv.pend? 5 = none) ∧
    (∃ G, (onG (fun G => { G with state := .saved, barRel := [{ nb := 63, wave := 0, pends := [0] }] })
        (onW (fun wv => { wv with pend := [{ pendOf .estore (.clm 0) [] with accs := [] }] }) stBar)).groups[0]? = some G ∧
      G.barRel[0]? = some { nb := 63, wave := 0, pends := [0] } ∧ G.state = .saved ∧
      ∀ wv ∈ G.waves, ∀ p, wv.pend? 0 = some p → p.open = false) := by
  and_intros <;> first | exact runs_of (by decide +kernel) | exact runs_with (by decide +kernel) | exact some_of (by decide +kernel) | decide +kernel

/-- A persistent launch with an item left and tile 3 shared, its fix-up words at 0x1000. -/
noncomputable def stWork : State :=
  onG (fun G => { G with items := [(3, 0, 1, 2#32)], shared := [3] }) (word 26 0x1000#32 (word 0 0x2001#32 st))

theorem wit_WorkResults :
    (∃ c, Runs (onG (fun G => { G with items := [] }) stWork) c 0#7 [wrS 124#7 4] ∧ c.lau.pers = true ∧ c.grp.items = []) ∧
    (∃ c, Runs stWork c 0#7 [wrS 0#7 4] ∧ c.lau.pers = true ∧ c.grp.items = [(3, 0, 1, 2#32)]) ∧
    (∃ c, Runs (regs 127 [3#32] stWork) c 0#7 [rdS 127#7] ∧ c.wave.counters.getD 2 0 < 63 ∧ fenced c = false ∧
      (c.wave.sget 127).toNat ∈ c.grp.shared ∧
      ((started (regs 127 [3#32] stWork) c).xaccess (coreReq c.grp.core c.grp.job true false)
        (c.lau.fixb + BitVec.ofNat 64 (4 * (c.wave.sget 127).toNat)) 4 4).1 = .loc (.phys 0x1500C)) ∧
    (∃ c, Runs (regs 126 [3#32] st) c 0#7 [rdS 126#7 2, wrS 127#7] ∧ (c.wave.sget 126).toNat < 4) ∧
    (∃ c, Runs st c 0#7 [rdS 127#7, wrS 127#7] ∧ (c.wave.sget 127).toNat < 4) ∧
    (∃ c, Runs (regs 126 [0x1000#32] st) c 0#7 [rdS 126#7 2, rdS 125#7, wrS 124#7] ∧
      (c.wave.counters.getD 3 0 < 63 ∧ fenced c = false) ∧ c.openAccesses = [] ∧ enqWaits 126#7 (regs 126 [0x1000#32] st) = false ∧
      ((started (regs 126 [0x1000#32] st) c).xaccess (coreReq c.grp.core c.grp.job false false) (c.wave.spair 126) 256 256).1 =
        .loc (.phys 0x15000)) := by
  and_intros <;> first | exact runs_with (by decide +kernel)

/-- The group has a network table of 6 entries, 4 inputs and 3 outputs, at 0x1000. -/
noncomputable def stNet : State := word 14 0x1000#32 (onG (fun G => { G with net := some (6, 4, 3) }) st)

theorem wit_GatherIssue :
    (∃ c, Runs stNet c 127#7 [marked (rdB false 127#7), marked (rdV 120#7 4), wrV 125#7 3] ∧ c.grp.net = some (6, 4, 3) ∧
      shading c.grp.core = true ∧ c.wave.counters.getD 5 0 < 63 ∧ (stNet.core c.grp.core).pooled + c.lanes.length ≤ 512 ∧
      (∀ i ∈ c.lanes, c.wave.vpoison 127 i = false) ∧ ∀ i ∈ c.lanes, decide ((c.B false 127#7 i).toNat < 6) = true) ∧
    (∃ c, Runs (onW (fun wv => wv.vset 127 0 6#32 false) stNet) c 127#7 [marked (rdB false 127#7), marked (rdV 120#7 4), wrV 124#7 3] ∧
      c.lanes.any (fun i => !decide ((c.B false 127#7 i).toNat < 6)) = true) ∧
    (∃ c, Runs st c 127#7 [marked (rdB false 127#7)] ∧ c.grp.net = none ∧ shading c.grp.core = true ∧
      (st.core c.grp.core).pooled + c.lanes.length ≤ 512) ∧
    (∃ c, Runs st c 0#7 [] ∧ shading c.grp.core = true) ∧
    (∃ c, Runs (regs 127 [16#32] st) c 0#7 [rdS 127#7] ∧ (c.wave.sget 127).toNat = 16) ∧
    (∃ c, Runs (regs 127 [4096#32] st) c 0#7 [rdS 127#7] ∧ (c.wave.sget 127).toNat = 4096) ∧
    (∃ c, Runs (regs 127 [15#32] st) c 0#7 [rdS 127#7] ∧ (c.wave.sget 127).toNat = 15) ∧
    (∃ c, Runs (regs 127 [4097#32] st) c 0#7 [rdS 127#7] ∧ (c.wave.sget 127).toNat = 4097) := by
  and_intros <;> first | exact runs_with (by decide +kernel)

/-- A pending gather request of lane 0 on key 0 of the table at 0x1000, or of another table. -/
def req (tbase : DWord) (eligible : Bool) : NReq :=
  { key := { tag := 0, tbase := tbase, handle := 0 }, group := 0, wave := 0, pend := 0, lane := 0, half := false,
    inputs := [0#32, 0#32, 0#32, 0#32], poison := false, dreg := 120, entry := 0, window := 16, eligible := eligible, parked := false,
    request := none }

/-- Its core has run 16 cycles; the descriptor of the key names one layer of 4 inputs and 3 outputs in slot 7. -/
noncomputable def stGather (pool : List NReq) (tile : Option NTile) : State :=
  ((word 46 0x7#32 stNet).pokeWords 0x15080 [0x1C#32, 0#32, 0#32, 0#32, 0#32, 0#32, 0x304#32]).modCore 0
    (fun k => { k with ccycle := 16#64, pool := pool, tile := tile })

def tileAt (st : TileStage) (ws : List Word) : NTile :=
  { key := (req 0x1000#64 true).key, stage := st, rows := [req 0x1000#64 true], desc := ws,
    results := [(req 0x1000#64 true, [1#32, 2#32, 3#32], false)] }

theorem wit_GatherEvents :
    (∃ r, ((stGather [req 0x1000#64 false] none).core 0).pool[0]? = some r ∧ r.parked = false ∧ r.eligible = false ∧
      r.entry + r.window ≤ ((stGather [req 0x1000#64 false] none).core 0).ccycle.toNat ∧
      (((stGather [req 0x1000#64 false] none).core 0).underKey r.key).head? = some r) ∧
    (∃ k, ((stGather [req 0x1000#64 true] none).core 0).nextKey = some k ∧ ((stGather [req 0x1000#64 true] none).core 0).tile = none ∧
      (match ((stGather [req 0x1000#64 true] none).netDesc 0 0 k).1 with
        | .ok b p => !p && ((stGather [req 0x1000#64 true] none).netFor (req 0x1000#64 true) (leWords 32 b)).isSome
        | _ => false) = true) ∧
    (∃ k, ((stGather [req 0x4000#64 true] none).core 0).nextKey = some k ∧
      (match ((stGather [req 0x4000#64 true] none).netDesc 0 0 k).1 with
        | .fault _ => true
        | _ => false) = true) ∧
    (∃ t, ((stGather [] (some (tileAt .fetching [0x1C#32, 0#32, 0x8000#32, 0#32, 0#32, 0#32, 0x304#32]))).core 0).tile = some t ∧
      t.stage = .fetching ∧ ((stGather [] (some (tileAt .fetching []))).core 0).held = false ∧
      (((stGather [] (some (tileAt .fetching [0x1C#32, 0#32, 0x8000#32, 0#32, 0#32, 0#32, 0x304#32]))).evalRows 0 0 t.desc
        t.rows).1).isLeft = true) ∧
    (∃ t, ((stGather [] (some (tileAt .fetching [0x1C#32, 0#32, 0#32, 0#32, 0#32, 0#32, 0x304#32]))).core 0).tile = some t ∧
      t.stage = .fetching ∧
      (match ((stGather [] (some (tileAt .fetching [0x1C#32, 0#32, 0#32, 0#32, 0#32, 0#32, 0x304#32]))).evalRows 0 0 t.desc t.rows).1 with
        | .inr (some out) => !out.isEmpty
        | _ => false) = true) ∧
    (∃ t, ((stGather [] (some (tileAt .scattering []))).core 0).tile = some t ∧ t.stage = .scattering ∧ t.results[0]?.isSome = true) := by
  and_intros <;> first | exact some_of (by decide +kernel)

/-- A queued command of wave 0 of the loaded group. -/
def aCmd (op : CmdOp) (desc : List Word) : Cmd :=
  { ord := 0, group := 0, wave := 0, pend := 0, seq := 0, op := op, desc := desc, ivs := [], started := false, done := 0, rows := 0,
    dreg := 0, status := 0, stop := none, run := 0, gen := 0#32 }

noncomputable def stCmd (sel : Nat) (x : Cmd) : State := stSlot.modCore 0 (fun k => { k with queues := k.queues.set sel [x] })

/-- The queue is in HALT for group 0. -/
noncomputable def halt (sel : Nat) (s : State) : State :=
  s.modCore 0 (fun k => { k with qstat := [{ group := 0, sel := sel, code := 3, halt := true, ticket := 0 }] })

def copyWords : List Word := [0#32, 0x80000000#32, 0#32, 0x10001#32, 0x1001#32, 0#32, 0#32, 0#32]

theorem wit_CopyEvents :
    (∃ p, (stCmd 3 (aCmd .copy copyWords)).copyHead 0 3 = some p ∧ p.1.done < (CopyDesc.ofWords p.1.desc).count ∧
      (CopyDesc.ofWords p.1.desc).compressed = false ∧
      ((stCmd 3 (aCmd .copy copyWords)).copyElement 0 3 p.1 p.2 (CopyDesc.ofWords p.1.desc)).isSome = true) ∧
    (CopyDesc.ofWords copyWords).mode ≠ 1 ∧ (CopyDesc.ofWords copyWords).mode ≠ 2 ∧
    (∃ x, (stCmd 3 { aCmd .copy copyWords with stop := some (1, 0#64) }).cmdHead 0 3 = some x ∧ x.op = .copy ∧
      x.stop.isSome = true ∧ (stCmd 3 { aCmd .copy copyWords with stop := some (1, 0#64) }).unanswered x = false) ∧
    (∃ x, (halt 3 (stCmd 3 (aCmd .copy copyWords))).cmdHead 0 3 = some x ∧ x.op = .copy ∧ x.stop = none ∧
      (halt 3 (stCmd 3 (aCmd .copy copyWords))).halted 0 3 x.group = true ∧ x.started = false ∧ x.status = 0) ∧
    (∃ x, (stCmd 3 { aCmd .copy copyWords with started := true, done := 1 }).cmdHead 0 3 = some x ∧ x.op = .copy ∧ x.stop = none ∧
      (CopyDesc.ofWords x.desc).count ≤ x.done ∧ x.started = true) ∧
    (∃ x, (stCmd 0 (aCmd (.qfence [(0, 1, 5)]) [])).cmdHead 0 0 = some x ∧ x.op = .qfence [(0, 1, 5)] ∧
      (stCmd 0 (aCmd (.qfence [(0, 1, 5)]) [])).halted 0 0 x.group = false ∧
      (stCmd 0 (aCmd (.qfence [(0, 1, 5)]) [])).fenceWaits (0, 1, 5) = false) ∧
    (∃ x, (halt 0 (stCmd 0 (aCmd (.qfence []) []))).cmdHead 0 0 = some x ∧
      (halt 0 (stCmd 0 (aCmd (.qfence []) []))).halted 0 0 x.group = true) := by
  and_intros <;> first | exact some_of (by decide +kernel) | decide +kernel

/-- An `HPART` to `n` ways, with a holder of other ways. -/
noncomputable def stPart (n : Word) (h : Option Nat) : State :=
  (stCmd selHamper (aCmd .hpart [n])).modCore 0 (fun k => { k with holder := h, ways := if h.isSome then 2 else 0 })

theorem wit_HamperEvents :
    (∃ x, (stPart 13#32 none).cmdHead 0 selHamper = some x ∧ (stPart 13#32 none).groups[x.group]?.isSome = true ∧ x.op = .hpart ∧
      12 < (x.desc.headD 0#32).toNat % 16) ∧
    (∃ x, (stPart 12#32 (some 7)).cmdHead 0 selHamper = some x ∧ (x.desc.headD 0#32).toNat % 16 = 12 ∧
      ((stPart 12#32 (some 7)).core 0).holder = some 7 ∧ 7 ≠ x.group) ∧
    (∃ x, (stPart 12#32 none).cmdHead 0 selHamper = some x ∧ ((stPart 12#32 none).core 0).holder = none ∧
      (stPart 12#32 none).waysOf x.group 0 ≠ 12 ∧
      ((stPart 12#32 none).groups[x.group]?.map (fun G => (stPart 12#32 none).scratchInFlight x.group G)) = some false) ∧
    (∃ x, (stPart 0#32 none).cmdHead 0 selHamper = some x ∧ (x.desc.headD 0#32).toNat % 16 = (stPart 0#32 none).waysOf x.group 0) ∧
    (∃ x, (stCmd selHamper (aCmd .cinv [0#32, 0#32, 0#32, 7#32])).cmdHead 0 selHamper = some x ∧ x.op = .cinv ∧
      ¬(8 ≤ (x.desc.getD 3 0#32).toNat) ∧ (x.desc.getD 3 0#32).getLsbD 2 = true ∧ (x.desc.getD 3 0#32).getLsbD 1 = true) ∧
    (∃ x, (stCmd selHamper (aCmd .cflush [0#32, 0#32, 0#32, 8#32])).cmdHead 0 selHamper = some x ∧ x.op = .cflush ∧
      8 ≤ (x.desc.getD 3 0#32).toNat) ∧
    (∃ x, (stCmd selHamper (aCmd .cflush [0#32, 0#32, 0#32, 5#32])).cmdHead 0 selHamper = some x ∧ x.op = .cflush ∧
      ¬(8 ≤ (x.desc.getD 3 0#32).toNat ∨ ((x.desc.getD 3 0#32).getLsbD 2 = true ∧ (x.desc.getD 3 0#32).getLsbD 1 = true))) := by
  and_intros <;> first | exact some_of (by decide +kernel)

/-- A matrix command that may start, with the active plane of slot 7 at KBLK 1, full or of another kind. -/
noncomputable def stMq (x : Cmd) (p : Plane) : State := (stCmd selMatrix x).modCore 0 (fun k => { k with active := p })
def fullPlane : Plane := { Plane.empty with st := .full, fs := 0x7#64, kblk := 1 }
def streamCmd : Cmd := aCmd .mstream [0#32, 0x170#32, 0#32, 0#32, 0x10#32]

/-- The command that may start meets what a test asks of it. -/
def Starts (s : State) (P : Cmd → Group → Prop) : Prop := ∃ p, s.mqStart 0 = some p ∧ P p.1 p.2
/-- The command that has started, of a kind. -/
def RunsOn (s : State) (op : CmdOp) (P : Cmd → Group → Prop) : Prop := ∃ p, s.mqRunning 0 op = some p ∧ P p.1 p.2
def isAt : Reach → Bool
  | .at_ _ _ => true
  | _ => false

theorem wit_MatrixEvents :
    Starts (halt selMatrix (stMq streamCmd Plane.empty)) (fun x _ => x.op = .mstream ∧
      (halt selMatrix (stMq streamCmd Plane.empty)).halted 0 selMatrix x.group = true) ∧
    Starts (stMq (aCmd .mloadw [0#32, 0x170#32]) Plane.empty) (fun x _ => x.op = .mloadw ∧
      (stMq (aCmd .mloadw [0#32, 0x170#32]) Plane.empty).halted 0 selMatrix x.group = false) ∧
    Starts (stMq (aCmd .mswap []) Plane.empty) (fun x _ => x.op = .mswap) ∧
    Starts (stMq (aCmd .mzero [0x200#32]) Plane.empty) (fun x _ => x.op = .mzero) ∧
    Starts (stMq streamCmd Plane.empty) (fun x _ => x.op = .mstream ∧ ((stMq streamCmd Plane.empty).core 0).active.st = .empty) ∧
    Starts (stMq streamCmd { fullPlane with kblk := 2 }) (fun x _ => x.op = .mstream ∧ (StreamDesc.ofWords x.desc).kblk = 1) ∧
    Starts (stMq streamCmd { fullPlane with fs := 0x2#64 }) (fun x G => x.op = .mstream ∧
      pairAccepted (((stMq streamCmd Plane.empty).launch G.launch).slot (StreamDesc.ofWords x.desc).slot) (Slot.ofRecord 0x2#64) = false) ∧
    Starts (stMq streamCmd fullPlane) (fun x G => x.op = .mstream ∧
      pairAccepted (((stMq streamCmd Plane.empty).launch G.launch).slot (StreamDesc.ofWords x.desc).slot) (Slot.ofRecord 0x7#64) = true) ∧
    Starts (stMq (aCmd .mdrain [0#32, 0x10070#32]) Plane.empty) (fun x G => x.op = .mdrain ∧
      ((stMq (aCmd .mdrain [0#32, 0x10070#32]) Plane.empty).drainStep 0 x G).isSome = true) ∧
    RunsOn (stMq { aCmd .mloadw [0#32, 0x170#32] with started := true } Plane.empty) .mloadw (fun x G => x.status = 0 ∧
      isAt ((stMq { aCmd .mloadw [0#32, 0x170#32] with started := true } Plane.empty).reachLocal x.group G 0
        (imageBytes (Slot.ofRecord 0x7#64) 1)) = true) ∧
    RunsOn (stMq { streamCmd with started := true } fullPlane) .mstream (fun x G => x.status = 0 ∧
      isAt ((stMq { streamCmd with started := true } fullPlane).reachLocal x.group G 0 24) = true) ∧
    (stMq (aCmd .mdrain [0#32, 0x10070#32]) Plane.empty).mqRunning 0 .mdrain = none ∧
    (∃ x, ((stMq (aCmd .mdrain [0#32, 0x10070#32]) Plane.empty).cmds 0 selMatrix).find? (fun y => y.ord == 0) = some x ∧ x.ord = 0 ∧
      x.stop = none ∧ x.status = 0 ∧ x.done < x.drainCount ∧
      ((stMq (aCmd .mdrain [0#32, 0x10070#32]) Plane.empty).groups[x.group]?.bind
        (fun G => (stMq (aCmd .mdrain [0#32, 0x10070#32]) Plane.empty).drainStep 0 x G)).isSome = true) ∧
    (∃ x, ((stMq { aCmd .mdrain [0#32, 0x10070#32] with done := 128 } Plane.empty).cmds 0 selMatrix).find? (fun y => y.ord == 0) = some x ∧
      x.stop = none ∧ x.drainCount ≤ x.done ∧
      (stMq { aCmd .mdrain [0#32, 0x10070#32] with done := 128 } Plane.empty).groups[x.group]?.isSome = true) ∧
    RunsOn (stMq { aCmd .mdrain [0#32, 0x10070#32] with started := true } Plane.empty) .mdrain (fun x G =>
      ((stMq { aCmd .mdrain [0#32, 0x10070#32] with started := true } Plane.empty).drainStep 0 x G).isSome = true) := by
  and_intros <;> first | exact some_of (by decide +kernel) | decide +kernel

/-- A chain command with every bond 1: one `TTSTEP`, or a `TTRUN` of two entries at local 0x400. -/
def stepCmd : Cmd := aCmd .ttstep ([0x200#32, 0x70#32, 1#32, 0#32, 0x100#32, 4#32, 0#32, 1#32] ++ List.replicate 8 1#32)
def runCmd : Cmd := { aCmd .ttrun ([0x400#32, 2#32, 1#32, 0#32] ++ List.replicate 8 1#32) with rows := 1 }
noncomputable def stRun : State :=
  (stMq runCmd Plane.empty).modCore 0 (fun k => { k with clm := cellWrites k.clm 0x400 (wordsBytes
    [0x200#32, 0x70#32, 1#32, 0#32, 0x100#32, 4#32, 0#32, 0#32]) })

theorem wit_MatrixEvents_chain :
    (∃ p, (stMq stepCmd Plane.empty).chainNext 0 = some p ∧ p.1.status = 0 ∧ p.2.2 = false ∧
      (stMq stepCmd Plane.empty).halted 0 selMatrix p.1.group = false ∧ p.1.op = .ttstep ∧
      (match (stMq stepCmd Plane.empty).chainDo p.1.group p.2.1
          (Step.ofWords p.1.desc (p.1.desc.getD 7 0#32).toNat 0#32 (p.1.desc.drop 8)) with
        | .done out _ => !out.isEmpty
        | _ => false) = true) ∧
    (∃ p, (halt selMatrix (stMq stepCmd Plane.empty)).chainNext 0 = some p ∧ p.2.2 = false ∧
      (halt selMatrix (stMq stepCmd Plane.empty)).halted 0 selMatrix p.1.group = true) ∧
    (∃ p, (stMq { stepCmd with started := true, status := 5 } Plane.empty).chainNext 0 = some p ∧ p.1.status ≠ 0) ∧
    (∃ p, stRun.chainNext 0 = some p ∧ p.1.op = .ttrun ∧
      (stRun.localLoc p.1.group p.2.1 (stRun.launch p.2.1.launch) 0x400 32) = some (.clm 0x400) ∧
      (let e := Step.ofWords (leWords 8 (stRun.locRead p.2.1 (.clm 0x400) 32)) p.1.rows 0#32 (p.1.desc.drop 4)
       e.check (stRun.launch p.2.1.launch) (fun a n =>
          n == 0 || (stRun.localLoc p.1.group p.2.1 (stRun.launch p.2.1.launch) a n).isSome) = none ∧
        (match stRun.chainDo p.1.group p.2.1 e with
          | .done out _ => !out.isEmpty
          | _ => false) = true) ∧ p.1.done + 1 < (p.1.desc.getD 1 0#32).toNat % 65536) := by
  and_intros <;> first | exact some_of (by decide +kernel)

/-- Outputs that have still to land: two of a `TTSTEP`, the last of the first step of a `TTRUN` and of its last one. -/
theorem wit_MatrixEvents_landing :
    (∀ x ∈ [({ stepCmd with started := true, ahead := [(1, false), (2, true)], dest := 0x100 } : Cmd),
        { runCmd with started := true, ahead := [(1, false)], dest := 0x100 }, { runCmd with started := true, done := 1, ahead := [(1, true)] }],
      ∃ p, (stMq x Plane.empty).chainNext 0 = some p ∧ p.1.status = 0 ∧ p.2.2 = true ∧ p.1.ahead = x.ahead ∧
        isAt ((stMq x Plane.empty).reachLocal p.1.group p.2.1 p.1.dest 4) = true) := by
  intro x hx
  fin_cases hx <;> exact some_of (by decide +kernel)

/-- The same wave on a geometry core. -/
noncomputable def stGeo (ws : List Word) : State := onG (fun G => { G with core := 96 }) (regs 120 ws st)

theorem wit_PacketAndRefitIssue :
    (∃ c, Runs (stGeo [0#32, 16#32]) c 0#7 [rdS 120#7 4, wrS 127#7] ∧ (c.wave.counters.getD 3 0 < 63 ∧ fenced c = false) ∧
      runsOn .geometry (stGeo [0#32, 16#32]) c.grp.core = true ∧ (stGeo [0#32, 16#32]).scoreFull c.grp.core = false ∧
      16 ≤ ((c.wave.sblock 120 4).getD 1 0#32).toNat) ∧
    (∃ c, Runs (stGeo [8#32, 15#32]) c 0#7 [rdS 120#7 4, wrS 127#7] ∧ ((c.wave.sblock 120 4).getD 0 0#32).toNat % 16 ≠ 0 ∧
      ¬(16 ≤ ((c.wave.sblock 120 4).getD 1 0#32).toNat ∨ (c.wave.sblock 120 4).getD 3 0#32 ≠ 0#32)) ∧
    (∃ c, Runs (stGeo [0x7F1F0#32]) c 0#7 [rdS 120#7 4, wrS 127#7] ∧
      ((c.wave.sblock 120 4).getD 0 0#32).toNat % 16 = 0 ∧
      ((c.wave.sblock 120 4).getD 0 0#32).toNat + blockBytes = c.lau.localBytes) ∧
    (∃ c, Runs (stGeo [0x7FFF0#32]) c 0#7 [rdS 120#7 4, wrS 127#7] ∧
      c.lau.localBytes < ((c.wave.sblock 120 4).getD 0 0#32).toNat + blockBytes) ∧
    (∃ c, Runs (stGeo [0#32, 31#32]) c 0#7 [rdS 120#7 2, wrS 127#7] ∧ ((c.wave.sblock 120 2).getD 1 0#32).toNat < 32) ∧
    (∃ c, Runs (stGeo [0#32, 32#32]) c 0#7 [rdS 120#7 2, wrS 127#7] ∧ 32 ≤ ((c.wave.sblock 120 2).getD 1 0#32).toNat) ∧
    (∃ c, Runs st c 0#7 [rdS 120#7 8, wrS 127#7] ∧ (c.wave.counters.getD 3 0 < 63 ∧ fenced c = false)) := by
  and_intros <;> first | exact runs_with (by decide +kernel)

/-- Stream 3 of job 0 is open, 1 pixel by 1, with one geometry die whose token is 5 and die 0 as the owner of its region. -/
def aDie (ready : Bool) (pkts : List Packet) : DieFrame := { tokens := [some 5], pkts := pkts, spilled := 0, ready := ready }
def aStream (w0 : Word) (f : DieFrame) : Stream :=
  { Stream.idle with isOpen := true, words := [w0], map := [0#8], tokens := [some 5], dies := [f] }
def aTri : Tri := { x := [0, 256, 0], y := [0, 0, 256], z := [0#32, 0#32, 0#32], tid := 0, rxlo := 0, rxhi := 0, rylo := 0, ryhi := 0 }
def aPacket : Packet := { seq := 4, mesh := 0, gdie := 0, tris := [aTri], bytes := 64 }
noncomputable def stStream (x : Stream) (cmds : List GCmd) (msgs : List XMsg) : State :=
  { st with streams := State.reset.streams.set 3 x, gcmds := cmds, xbar := msgs }
def gcmd (close : Bool) (ws : List Word) (result : Option Nat) : GCmd :=
  { gdie := 0, group := 0, wave := 0, pend := 0, dreg := 120, close := close, words := ws, final := result.isSome, result := result }

/-- A block of one triangle of 3 vertices at local 0. -/
noncomputable def stBlock (seq : Word) : State :=
  (stStream (aStream 0#32 (aDie true [])) [gcmd false [0#32, 3#32, seq, 0#32] none] []).modCore 0 (fun k => { k with
    clm := cellWrites k.clm 0 (wordsBytes [0x301#32, 0#32, 0#32, 0#32, 0#32, 0#32, 0#32, 0x3F800000#32, 0#32, 0#32, 0#32,
      0x3F800000#32, 0#32, 0x00020100#32]) })

/-- A stream with a spill area of `n` bytes. -/
def spilling (n : Word) (pkts : List Packet) : Stream :=
  { aStream 0#32 (aDie true pkts) with words := List.replicate 16 0#32 ++ [n] }

theorem wit_PacketEvents :
    (∃ x, (stBlock 5#32).packetHead 0 = some x ∧ x.close = false ∧ ((stBlock 5#32).cmds 0 selPacket).isEmpty = true ∧
      (stBlock 5#32).emitRefusal x (Block.ofBytes ((stBlock 5#32).packetBlock x blockBytes)) = none) ∧
    (∃ x, (stBlock 4#32).packetHead 0 = some x ∧ x.close = false ∧
      (stBlock 4#32).emitRefusal x (Block.ofBytes ((stBlock 4#32).packetBlock x blockBytes)) = some 3) ∧
    (∃ x, (stStream (aStream 0#32 (aDie true [])) [gcmd true [5#32, 3#32] none] []).packetHead 0 = some x ∧ x.close = true ∧
      (x.words.getD 1 0#32).getLsbD 4 = false ∧ (x.words.getD 1 0#32).toNat % 16 = 3 ∧ (x.words.getD 0 0#32).toNat = 5 ∧
      ((stStream (aStream 0#32 (aDie true [])) [gcmd true [5#32, 3#32] none] []).stream 3).tokens.getD 0 none = some 5) ∧
    (∃ x, (stStream (aStream 0#32 (aDie true [])) [gcmd true [4#32, 3#32] none] []).packetHead 0 = some x ∧
      (x.words.getD 0 0#32).toNat < 5) ∧
    (∃ x, (stStream (aStream 0#32 (aDie true [])) [gcmd true [4#32, 0x13#32] none] []).packetHead 0 = some x ∧
      (x.words.getD 1 0#32).getLsbD 4 = true) ∧
    (∃ x, (stStream (aStream 0#32 (aDie true [])) [gcmd true [4#32, 2#32] none] []).packetHead 0 = some x ∧
      ((stStream (aStream 0#32 (aDie true [])) [gcmd true [4#32, 2#32] none] []).stream ((x.words.getD 1 0#32).toNat % 16)).isOpen = false) ∧
    (∃ x, (stStream (aStream 0#32 (aDie true [])) [gcmd true [5#32, 0x13#32] (some 0)] []).gcmds.find?
      (fun x => x.gdie == 0 && x.result.isSome) = some x ∧ x.result = some 0) ∧
    (∃ p, (stStream (aStream 0#32 (aDie true [])) [] [{ stream := 3, gdie := 0, sdie := 0, body := .packet aPacket }]).pathHead 0 0 = some p ∧
      p.2.body = .packet aPacket ∧ (aDie true []).held + 64 ≤ onDie) ∧
    ((aDie true [{ aPacket with bytes := 2 ^ 20 - 64 }]).held + 64 ≤ onDie ∧
      ¬(aDie true [{ aPacket with bytes := 2 ^ 20 - 63 }]).held + 64 ≤ onDie) ∧
    (spilling 63#32 []).spillAt 64 = none ∧ (spilling 64#32 []).spillAt 64 = some 0 ∧
    (spilling 128#32 [{ aPacket with spill := some 0 }]).spillAt 64 = some 64 ∧
    (∃ p, (stStream (spilling 64#32 [{ aPacket with bytes := 2 ^ 20 }]) []
        [{ stream := 3, gdie := 0, sdie := 0, body := .packet aPacket }]).pathHead 0 0 = some p ∧ p.2.body = .packet aPacket) ∧
    (∃ p, (stStream (aStream 0#32 (aDie true [])) [] [{ stream := 3, gdie := 0, sdie := 0, body := .token none }]).pathHead 0 0 = some p ∧
      p.2.body = .token none) := by
  and_intros <;> first | exact some_of (by decide +kernel) | decide +kernel

/-- A refit of `n` nodes at 0 with its entries at `rbase`. -/
def aRefit (rbase n : Word) (started : Bool) : Refit :=
  { die := 12, job := 0, group := 0, wave := 0, pend := 0, dreg := 120, words := [0#32, 0#32, rbase, 0#32, n, 0#32, 0#32, 0#32],
    started := started, next := 0, ready := [], boxes := [], flagged := [], rootDone := false, status := 0, request := none }
noncomputable def stRefit (x : Refit) : State := { st with refits := [x] }
def gotOk {α : Type} (P : α → Bool) : Got α → Bool
  | .ok a => P a
  | _ => false

/-- Nodes 0 and 1 at 0, each with one leaf of a point at 0; the refit table at 0x1000 holds the entries of both. -/
noncomputable def stNodes (x : Refit) (e0 e1 : List Word) : State :=
  let node := (0x14000 : Nat)
  ((((stRefit x).pokeWords (node + 12) [0x01000000#32]).pokeWords (node + 64) [3#32]).pokeWords (node + 140) [0x01000000#32]).pokeWords
    (node + 192) [3#32] |>.pokeWords 0x15000 (e0 ++ e1)

/-- What the engine reads for a node until it has the new node: its entry, the result, the state. -/
noncomputable def reached (s : State) (x : Refit) (node : Nat) : Option (List Word × Refitted × State) :=
  match s.refitRead x (x.rbase + 16 * node) 16 with
  | (.ok b, t) =>
    match t.refitRead x (x.nbase + 128 * node) 128 with
    | (.ok old, t) =>
      match t.refitPlace x (x.nbase + 128 * node) 128 with
      | (.ok _, t) =>
        match t.childBoxes x (Node.ofBytes old) (Node.ofBytes old).present with
        | (.ok boxes, t) => (refitNode old (Node.ofBytes old) boxes).map (fun r => (leWords 4 b, r, t))
        | _ => none
      | _ => none
    | _ => none
  | _ => none

/-- The entry of the parent, where it can be read and written. -/
noncomputable def parentEnt (s : State) (x : Refit) (parent : Nat) : Option (List Word) :=
  match s.refitRead x (x.rbase + 16 * parent) 16 with
  | (.ok b, t) =>
    match t.refitPlace x (x.rbase + 16 * parent + 4) 4 with
    | (.ok _, _) => some (leWords 4 b)
    | _ => none
  | _ => none

/-- The node is reached with its entry `e0` while its parent's is `e1`: neither is bad, and `P` holds of what is found. -/
def Visits (s : State) (node : Nat) (P : Refit → List Word → Refitted → Option (List Word) → Bool) : Prop :=
  ∃ p, s.refitHead 12 = some p ∧ p.2.request = none ∧ p.2.status = 0 ∧ p.2.rootDone = false ∧ p.2.started = true ∧
    (reached s p.2 node).map (fun r => !badEnt r.1 && P p.2 r.1 r.2.1 (parentEnt r.2.2 p.2 (r.1.getD 0 0#32).toNat)) = some true

/-- A count of arrivals and one of arrivals expected. -/
def ent1 (arr ex : Nat) : Word := BitVec.ofNat 32 (4096 * arr + 256 * ex)

theorem wit_RefitEvents :
    (∃ p, (stRefit (aRefit 0x1000#32 0#32 false)).refitHead 12 = some p ∧ p.2.request = none ∧ p.2.status = 0 ∧ p.2.rootDone = false ∧
      p.2.started = false ∧ p.2.badDesc = true) ∧
    (∃ p, ((stRefit (aRefit 0x1000#32 1#32 false)).pokeWords 0x15000 [0#32, 0x100#32]).refitHead 12 = some p ∧ p.2.badDesc = false ∧
      p.2.next = 0 ∧ 0 < p.2.ncount ∧ p.2.ready.contains 0 = false ∧
      gotOk (fun b => !badEnt (leWords 4 b) && entExpect ((leWords 4 b).getD 1 0#32) != 0)
        (((stRefit (aRefit 0x1000#32 1#32 false)).pokeWords 0x15000 [0#32, 0x100#32]).refitRead p.2 (p.2.rbase + 16 * 0) 16).1 = true) ∧
    (∃ p, ((stRefit (aRefit 0x1000#32 1#32 true)).pokeWords 0x15000 [0#32, 0x900#32]).refitHead 12 = some p ∧
      gotOk (fun b => badEnt (leWords 4 b))
        (((stRefit (aRefit 0x1000#32 1#32 true)).pokeWords 0x15000 [0#32, 0x900#32]).refitRead p.2 (p.2.rbase + 16 * 0) 16).1 = true) := by
  and_intros <;> exact some_of (by decide +kernel)

/-- A root without children to wait for; a root that is ready, its cost past a threshold of 0 of a negative number. -/
theorem wit_RefitEvents_root :
    Visits (stNodes (aRefit 0x1000#32 2#32 true) [0xFFFFFFFF#32, 0#32, 0#32, 0#32] []) 0 (fun x e _ _ =>
      !x.ready.contains 0 && x.next == 0 && entExpect (e.getD 1 0#32) == 0 && e.getD 0 0#32 == 0xFFFFFFFF#32) ∧
    Visits (stNodes { aRefit 0x1000#32 2#32 true with ready := [0], words := [0#32, 0#32, 0x1000#32, 0#32, 2#32, 0x100#32, 0x2000#32, 0#32] }
        [0xFFFFFFFF#32, 0#32, 0xBF800000#32, 0#32] []) 0 (fun x e r _ =>
      x.ready.contains 0 && x.list != 0 && tooCostly r.cost (e.getD 2 0#32) x.thr) := by
  and_intros <;> exact some_of (by decide +kernel)

/-- Node 1 with a parent outside the table, with a bad entry, with a count that is full, that becomes full, or that does not. -/
theorem wit_RefitEvents_parent :
    Visits (stNodes { aRefit 0x1000#32 2#32 true with ready := [1] } [] [0#32, 0#32, 0#32, 0#32, 2#32, 0#32]) 1 (fun x e _ _ =>
      x.ncount == (e.getD 0 0#32).toNat) ∧
    Visits (stNodes { aRefit 0x1000#32 2#32 true with ready := [1] } [0#32, 0x900#32, 0#32, 0#32] [0#32, 0#32]) 1 (fun x e _ pe =>
      decide ((e.getD 0 0#32).toNat < x.ncount) && (pe.map badEnt).getD false) ∧
    Visits (stNodes { aRefit 0x1000#32 2#32 true with ready := [1] } [0#32, ent1 0 0, 0#32, 0#32] [0#32, 0#32]) 1 (fun _ _ _ pe =>
      (pe.map (fun w => !badEnt w && decide (entExpect (w.getD 1 0#32) < entArr (w.getD 1 0#32) + 1))).getD false) ∧
    Visits (stNodes { aRefit 0x1000#32 2#32 true with ready := [1] } [0#32, ent1 7 8, 0#32, 0#32] [0#32, 0#32]) 1 (fun _ _ _ pe =>
      (pe.map (fun w => !badEnt w && entArr (w.getD 1 0#32) + 1 == entExpect (w.getD 1 0#32))).getD false) ∧
    Visits (stNodes { aRefit 0x1000#32 2#32 true with ready := [1] } [0#32, ent1 6 8, 0#32, 0#32] [0#32, 0#32]) 1 (fun _ _ _ pe =>
      (pe.map (fun w => !badEnt w && decide (entArr (w.getD 1 0#32) + 1 < entExpect (w.getD 1 0#32)))).getD false) := by
  and_intros <;> exact some_of (by decide +kernel)

/-- A refit that is over, with node 0 flagged; the machine in the mode in which the host rebuilds, or not. -/
noncomputable def stFlagged (host : Bool) : State :=
  let s := stRefit { aRefit 0x1000#32 1#32 true with rootDone := true, flagged := [0] }
  let t : State := { s with
    jobs := s.jobs.map (fun J => { J with qtab := 0x20000, qcount := 1, saveb := 0x30000, savel := 64 })
    queues := [{ num := 0, job := 0, idx := 0, taken := [], comps := [] }] }
  if host then (t.pokeWords 0x20008 [0xC2#32]).cfgSet 0 0x1F#32 else s

theorem wit_RefitEvents_over :
    (∃ p, (stRefit { aRefit 0x1000#32 1#32 true with next := 1 }).refitHead 12 = some p ∧ p.2.request = none ∧ p.2.flagged = [] ∧
      (p.2.rootDone = true ∨ p.2.status ≠ 0 ∨ (p.2.started = true ∧ p.2.ncount ≤ p.2.next ∧ p.2.ready = []))) ∧
    (∃ p, (stFlagged false).refitHead 12 = some p ∧ p.2.flagged.length ≠ 0 ∧ (stFlagged false).mode 3 = false) ∧
    (∃ p, (stFlagged true).refitHead 12 = some p ∧ p.2.flagged.length ≠ 0 ∧ (stFlagged true).mode 3 = true ∧
      ((stFlagged true).jobRequest 3 p.2.job (.refit 12) 0 (wordsBytes [p.2.w 6, p.2.w 7, 1#32, 0#32]) 0#32 0#32).isSome = true) ∧
    (∃ p, ((stFlagged false).cfgSet 0 0x1F#32).refitHead 12 = some p ∧ p.2.flagged.length ≠ 0 ∧ ((stFlagged false).cfgSet 0 0x1F#32).mode 3 = true ∧
      ((stFlagged false).cfgSet 0 0x1F#32).jobRequest 3 p.2.job (.refit 12) 0 (wordsBytes [p.2.w 6, p.2.w 7, 1#32, 0#32]) 0#32 0#32 = none) := by
  and_intros <;> exact some_of (by decide +kernel)

theorem wit_FrameEvents :
    let fresh := fun (w0 : Word) => stStream (aStream w0 (aDie false [])) [] []
    (∃ f, ((fresh 0#32).stream 3).dies[0]? = some f ∧ ((fresh 0#32).stream 3).isOpen = true ∧ (fresh 0#32).shadingDies.contains 0 = true ∧
      f.ready = false ∧ ((fresh 0#32).stream 3).repro = false) ∧
    (∃ f, ((fresh 0x10#32).stream 3).dies[0]? = some f ∧ f.ready = false ∧ ((fresh 0x10#32).stream 3).repro = true ∧
      ((fresh 0x10#32).stream 3).sent = none) ∧
    (∃ f, ((stStream { aStream 0x10#32 (aDie false []) with sent := some [] } [] []).stream 3).dies[0]? = some f ∧ f.ready = false) ∧
    (∃ f, ((stStream (aStream 0#32 (aDie true [aPacket])) [] []).stream 3).dies[0]? = some f ∧ f.ready = true ∧
      (lowestKey ((f.pkts.zipIdx.map (fun x => (x.2, x.1))).filter (fun x =>
        (stStream (aStream 0#32 (aDie true [aPacket])) [] []).released f x.2))).map Prod.snd = some aPacket ∧ aPacket.tris = [aTri]) ∧
    (∃ f, ((stStream { aStream 0#32 { aDie true [] with tokens := [none] } with tokens := [none] } [] []).stream 3).dies[0]? = some f ∧
      (stStream { aStream 0#32 { aDie true [] with tokens := [none] } with tokens := [none] } [] []).frameOver
        ((stStream { aStream 0#32 { aDie true [] with tokens := [none] } with tokens := [none] } [] []).stream 3) = true) := by
  and_intros <;> first | exact some_of (by decide +kernel)

/-- A pending instruction of lane 0 of a kind. -/
noncomputable def stKind (k : PendKind) : State :=
  onW (fun wv => { wv with pend := [{ pendOf (.load 4 false) (.clm 0) [] with kind := k, accs := [] }] }) st

theorem wit_PendingResults :
    (∃ wv, (stKind (.special [(0, Flags.none)])).wave? 0 0 = some wv ∧ (stKind (.special [(0, Flags.none)])).coreHeld 0 = false ∧
      (wv.pend? 0).map Pend.kind = some (.special [(0, Flags.none)])) ∧
    (∃ wv, (stKind (.special [(15, Flags.invalid), (63, Flags.none)])).wave? 0 0 = some wv ∧
      (stKind (.special [(15, Flags.invalid), (63, Flags.none)])).coreHeld 0 = false ∧
      (wv.pend? 0).map Pend.kind = some (.special [(15, Flags.invalid), (63, Flags.none)]) ∧ wv.live.getLsbD 15 = true) ∧
    (∃ wv, (stKind .mangle).wave? 0 0 = some wv ∧ (stKind .mangle).coreHeld 0 = false ∧ (wv.pend? 0).map Pend.kind = some .mangle) :=
  ⟨some_of (by decide +kernel), some_of (by decide +kernel), some_of (by decide +kernel)⟩

/-- Queue 0 of job 0 with its context at 0x20000, its ring of four entries at 0x1000, one entry at HEAD; pages at 0x8000 and
0xC000 are there for what the entry names. -/
noncomputable def stQ (entry : List Word) (taken : List Taken) : State :=
  let s : State := { st with
    jobs := st.jobs.map (fun J => { J with qtab := 0x20000, qcount := 1 })
    queues := [{ num := 0, job := 0, idx := 0, taken := taken, comps := [] }] }
  let s := s.poke64 0x10010 (BitVec.ofNat 64 (0x18000 + 0x180F))
  let s := s.poke64 0x10018 (BitVec.ofNat 64 (0x1C000 + 0x180F))
  let s := s.pokeWords 0x20000 [0x1000#32, 0#32, 0x82#32, 0#32, 1#32, 0#32, 0#32, 0#32, 0#32, 2#32, 0#32, 0#32]
  s.pokeWords 0x15000 entry

def taking (kind : Nat) (ws : List Word) (deadline : Nat) : Taken :=
  { index := 0, kind := kind, after := false, words := ws, st := .started, ref := 0, deadline := deadline }

/-- An entry of a kind stands at HEAD and may be taken. -/
def Head (entry : List Word) (kind : Nat) (clean : Bool) : Prop :=
  ∃ x, (stQ entry []).queue? 0 = some x ∧ (stQ entry []).mayTake x = true ∧ x.taken = [] ∧
    ((stQ entry []).headEntry x).1.map (fun ws => (kindOf ws, entryClean (kindOf ws) ws)) = some (kind, clean)

noncomputable def stFrame (w13 : Word) : State := ((stQ [5#32, 0#32, 0x8000#32] []).poke64 0x10018 0x180F#64).pokeWords 0x18000
  ((List.replicate 13 0#32) ++ [w13] ++ List.replicate 12 0#32 ++ [0xC000#32])

/-- A frame record that can be read, with its map. -/
def FrameAt (s : State) (bad : Bool) : Prop :=
  ∃ x, s.queue? 0 = some x ∧ s.mayTake x = true ∧ s.frameWaits 0 = false ∧
    (match s.headEntry x with
      | (some _, t) => (match t.readFrame x.job 0x8000#64 with
        | (some (ws, some m), u) => u.frameBad 0x8000 ws (some m) == bad
        | _ => false)
      | _ => false) = true

noncomputable def stGraph (base : DWord) (ws : List Word) : State :=
  { (stQ [] []).pokeWords 0x18000 ws with
    graphs := [{ job := 0, queue := 0, index := 0, id := 0#32, nodes := 1, base := base, states := [.waiting], counter := 0#32,
                 status := 0, ended := false }] }
noncomputable def stComp (s : State) : State :=
  { s with queues := s.queues.map (fun x => { x with comps := [{ words := List.replicate 8 0#32 }] }) }

theorem frameBad_replicate (s : State) (va : Nat) (ws : List Word) (n : Nat) :
    s.frameBad va ws (some (List.replicate (n + 1) 0#8)) = s.frameBad va ws (some [0#8]) := by
  simp [State.frameBad, List.any_replicate]

theorem wit_QueueEvents_frame : ∃ x, (stFrame 0#32).queue? 0 = some x ∧ (stFrame 0#32).mayTake x = true ∧
    (match (stFrame 0#32).headEntry x with
      | (some _, t) => (match t.readFrame x.job 0x8000#64 with
        | (some (ws, some m), u) => m == List.replicate 4096 0#8 && !u.frameBad 0x8000 ws (some [0#8])
        | _ => false)
      | _ => false) = true :=
  some_of (by decide +kernel)

theorem wit_QueueEvents_overrun :
    ∃ x, (stQ [] []).queue? 0 = some x ∧ (stQ [] []).up = true ∧ (stQ [] []).qEnabled x = true ∧ (stQ [] []).qDevq x = false ∧
    (4#32 - (stQ [] []).qw x 3).toNat ≤ 2 ^ (stQ [] []).qRlog x ∧ 2 ^ (stQ [] []).qRlog x < (5#32 - (stQ [] []).qw x 3).toNat :=
  some_of (by decide +kernel)
theorem wit_QueueEvents_launch : Head [1#32] 1 true := some_of (by decide +kernel)
theorem wit_QueueEvents_graph : Head [2#32, 0#32, 0x8000#32] 2 true := some_of (by decide +kernel)
theorem wit_QueueEvents_wait : Head [3#32, 0#32, 0x8000#32] 3 true := some_of (by decide +kernel)
theorem wit_QueueEvents_cancel : Head [4#32, 3#32] 4 true := some_of (by decide +kernel)
theorem wit_QueueEvents_cancelBad : Head [4#32, 0#32] 4 false := some_of (by decide +kernel)
theorem wit_QueueEvents_inval : Head [6#32, 0#32, 0x8000#32] 6 true := some_of (by decide +kernel)
theorem wit_QueueEvents_resume : Head [7#32, 5#32, 1#32] 7 true := some_of (by decide +kernel)
theorem wit_QueueEvents_unknown : Head [0xFF#32] 0xFF false := some_of (by decide +kernel)
/-- The ring of queue 0 stands in a page that nothing maps. -/
noncomputable def stLost : State := (stQ [] []).pokeWords 0x20000 [0x4000#32]
theorem wit_QueueEvents_unreadable :
    ∃ x, stLost.queue? 0 = some x ∧ stLost.mayTake x = true ∧ x.taken = [] ∧ (stLost.headEntry x).1 = none := some_of (by decide +kernel)
theorem wit_QueueEvents_frameBad : FrameAt (stFrame 1#32) true := some_of (by decide +kernel)
theorem wit_QueueEvents_cancelOver : ∃ x, (stQ [] [taking 4 [4#32, 3#32] 0]).queue? 0 = some x ∧
    (x.taken.find? (fun t => t.kind == 4 && (stQ [] [taking 4 [4#32, 3#32] 0]).cancelOver 1 t)).isSome = true :=
  some_of (by decide +kernel)
theorem wit_QueueEvents_invalOver :
    ∃ x, (stQ [] [taking 6 [6#32, 0#32, 0x8000#32, 0#32, 1#32, 0#32] 0]).queue? 0 = some x ∧
    (x.taken.find? (fun t => t.kind == 6 && !((stQ [] [taking 6 [6#32] 0]).inFlight x.job (invalOf t.words).1
      (invalOf t.words).2))).isSome = true := some_of (by decide +kernel)
theorem wit_QueueEvents_waitHolds :
    ∃ x, (stQ [] [taking 3 [3#32, 0#32, 0x8000#32, 0#32, 0#32, 1#32, 0#32] 0]).queue? 0 = some x ∧
    (x.taken.find? (fun t => t.kind == 3)).map (fun e => (stQ [] []).waitHolds x.job e.words) = some true :=
  some_of (by decide +kernel)
theorem wit_QueueEvents_waitLate :
    ∃ x, ({ stQ [] [taking 3 [3#32, 0#32, 0x8000#32, 0#32, 5#32, 1#32, 1#32] 1000] with dtime := 1000#64 } : State).queue? 0 = some x ∧
    (x.taken.find? (fun t => t.kind == 3)).map (fun e => decide (e.deadline ≠ 0) && decide (e.deadline ≤ 1000)) = some true :=
  some_of (by decide +kernel)
theorem wit_QueueEvents_nodeAbsent :
    ∃ gr, (stGraph 0x4000#64 []).graphs[0]? = some gr ∧ (stGraph 0x4000#64 []).up = true ∧ gr.ended = false ∧ gr.status = 0 ∧
    gr.states[0]? = some .waiting ∧ (stGraph 0x4000#64 []).nodeWords gr 0 = none := some_of (by decide +kernel)
theorem wit_QueueEvents_nodeReady : ∃ gr, (stGraph 0x8000#64 loadRecord).graphs[0]? = some gr ∧
    ((stGraph 0x8000#64 loadRecord).nodeWords gr 0).map (fun ws => decide ((ws.getD 64 0#32).toNat ≤
      (stGraph 0x8000#64 loadRecord).predsDone gr 0)) = some true := some_of (by decide +kernel)
theorem wit_QueueEvents_nodeStarts : ((stGraph 0x8000#64 loadRecord).enlist 0 loadRecord 0 0 (some (0, 0))).1 = 0 :=
  by decide +kernel
theorem wit_QueueEvents_nodeRefused :
    ((stGraph 0x8000#64 []).enlist 0 (List.replicate 64 0#32) 0 0 (some (0, 0))).1 ≠ 0 := by decide +kernel
theorem wit_QueueEvents_completion :
    ∃ x, (stComp (stQ [] [])).queue? 0 = some x ∧ x.comps = [{ words := List.replicate 8 0#32 }] ∧ (stComp (stQ [] [])).qFull x = false :=
  some_of (by decide +kernel)

/-- Core 0 owned by a debugger, its bundle in the instruction cache with a break bit at slot 1; a stop for the next slot. -/
noncomputable def stBrk (cw : Word) (stop : Option (Nat × Nat × Mask)) : State :=
  (onW (fun wv => wv.modEntry 0 (fun e => { e with stopNext := stop })) stOwn).modCore 0 (fun k => { k with
    icache := [{ tag := 0, va := 0x100#64, words := [cw, nopWord, nopWord, nopWord] }] })
/-- The launch with its one group still to be placed; the machine in host-assisted mode. -/
noncomputable def stFree : State := { st with groups := [], launches := [loadLaunch], cores := State.reset.cores, cur := none }
noncomputable def hosted (s : State) : State := (s.cfgSet 0 0x1F#32).cfgSet 2 0x800#32
def place0 : Place := { core := 0, slot := 0, part := 0, clmb := 0, acmb := 0, nbb := 0 }

theorem wit_ScheduleEvents_place :
    (stFree.up = true ∧ stFree.deviceMode 1 = false ∧ (stFree.launch 0).unplaced 0 = true ∧ stFree.ahead 0 = false ∧
    stFree.bindAsked 0 0 = false ∧ (stFree.launch 0).cres = false ∧ stFree.admits (stFree.launch 0) place0 = true) := by decide +kernel
theorem wit_ScheduleEvents_hosted :
    ((hosted stFree).up = true ∧ (hosted stFree).deviceMode 1 = true ∧ ((hosted stFree).launch 0).unplaced 0 = true ∧
    ((hosted stFree).requestBinding 0 0).isSome = true) := by decide +kernel
def bindRequest : Request := { id := 7, typ := 1, job := 0, body := .bind 0 0, off := 0, len := 0, hw := false, recs := [] }
theorem wit_ScheduleEvents_bindRecord : (hosted stFree).up = true ∧ (hosted stFree).deviceMode 1 = true ∧
    stFree.deviceMode 1 = false ∧ ({ stFree with requests := [bindRequest] } : State).bindsAsked [1#32, BitVec.ofNat 32 loadLaunch.lrec, 0#32, 0#32, 0#32, 0#32, 0#32, 0#32] = true := by
  decide +kernel
theorem wit_ScheduleEvents_retire :
    ∃ G, (onW (fun wv => { wv with state := .retiring }) st).groups[0]? = some G ∧ G.state = .resident ∧
    ((onW (fun wv => { wv with state := .retiring }) st).core G.core).held = false ∧
    G.waves[0]?.map (fun wv => decide (wv.state = .retiring ∧ [0, 1, 2, 4, 5, 6, 7].all (fun k => wv.counters.getD k 0 == 0) = true)) = some true :=
  some_of (by decide +kernel)
theorem wit_ScheduleEvents_save :
    ∃ G, (onG (fun G => { G with stopping := some .save }) st).groups[0]? = some G ∧ G.state = .resident ∧
    G.stopping = some .save ∧ G.ending = none ∧ G.atBoundary = true ∧
    (onG (fun G => { G with stopping := some .save }) st).quiet 0 G = true := some_of (by decide +kernel)
theorem wit_ScheduleEvents_restore :
    ∃ G, (onG (fun G => { G with state := .saved }) st).groups[0]? = some G ∧ (onG (fun G => { G with state := .saved }) st).up = true ∧
    (onG (fun G => { G with state := .saved }) st).deviceMode 1 = false ∧ (onG (fun G => { G with state := .saved }) st).ahead 0 = false ∧
    (onG (fun G => { G with state := .saved }) st).bindAsked G.launch G.gidx = false ∧
    G.state = .saved ∧ (onG (fun G => { G with state := .saved }) st).saving G.launch = false ∧
    ((onG (fun G => { G with state := .saved }) st).launch G.launch).cancelled = false ∧
    ((onG (fun G => { G with state := .saved }) st).launch G.launch).cres = false ∧
    (onG (fun G => { G with state := .saved }) st).restorable 0 place0 = true := some_of (by decide +kernel)
/-- A fetch of split `sp` at its PC from a state: the bundle is in no cache, and what the translation and memory say is as asked. -/
def Fetches (s : State) (sp : Nat) (P : Machine.Group → DWord → Placed × State → Bool) : Prop :=
  ∃ G, s.groups[0]? = some G ∧ G.state = .resident ∧ (s.core G.core).held = false ∧
    G.waves[0]?.map (fun wv => wv.issuable sp && decide (s.bundle? G.core (s.job G.job).tag (wv.entry sp).pc = none) &&
      P G (wv.entry sp).pc (s.xaccess (coreReq G.core G.job false true) (wv.entry sp).pc 16 16)) = some true

/-- A bundle of device memory, with or without a mark, well formed or not. -/
noncomputable def fetched (mark_ bad : Bool) (G : Machine.Group) (pc : DWord) (r : Placed × State) : Bool :=
  match r.1 with
  | .loc (.phys pa) =>
    let v := ((r.2.drain pa 16).codeView G.core (st.job G.job).tag pc).1
    r.2.serves pa && Machine.marked v.memP pa 16 == mark_ && badBundle (leWords 4 (cellBytes v.mem pa 16)) == bad
  | _ => false
def faulted (causes : List Nat) (r : Placed × State) : Bool :=
  match r.1 with
  | .fault f => causes.contains f.cause
  | _ => false
/-- No group of the launch has started at core 0: its code is memory as it stands. -/
noncomputable def freshCode (s : State) : State := s.modCore 0 (fun k => { k with code := none, late := [] })
noncomputable def atPc (pc : DWord) : State := onW (fun wv => wv.modEntry 0 (fun e => { e with pc := pc })) st
noncomputable def handlerAt (pc : DWord) : State :=
  onW (fun wv => { wv with trap := { wv.trap with entry := { wv.trap.entry with pc := pc } } }) stTrap

theorem wit_ScheduleEvents_fetch : Fetches st 0 (fetched false false) ∧ Fetches (freshCode { st with memP := [0x2820] }) 0 (fetched true false) ∧
    Fetches (freshCode (st.pokeWords 0x14100 [0xFFFB0000#32])) 0 (fetched false true) ∧
    Fetches (atPc 0x4000#64) 0 (fun _ _ r => faulted [cPageFault] r) ∧ Fetches (atPc 0x10000000000000#64) 0 (fun _ _ r => faulted [cGlobalRange] r) ∧
    Fetches (handlerAt 0x4000#64) 64 (fun _ _ r => faulted [cPageFault] r) := by
  and_intros <;> exact some_of (by decide +kernel)
theorem wit_ScheduleEvents_malformed : ∃ G, (stBrk 0xFFFB0000#32 none).groups[0]? = some G ∧ G.state = .resident ∧
    ((stBrk 0xFFFB0000#32 none).core G.core).held = false ∧ G.waves[0]?.map (fun wv => wv.issuable 0) = some true ∧
    (stBrk 0xFFFB0000#32 none).bundle? G.core ((stBrk 0xFFFB0000#32 none).job G.job).tag 0x100#64 =
      some [0xFFFB0000#32, nopWord, nopWord, nopWord] ∧ badBundle [0xFFFB0000#32, nopWord, nopWord, nopWord] = true :=
  some_of (by decide +kernel)
theorem wit_ScheduleEvents_cached : ∃ G, (stBrk 0xFFF00000#32 none).groups[0]? = some G ∧ G.state = .resident ∧
    ((stBrk 0xFFF00000#32 none).core G.core).held = false ∧
    G.waves[0]?.map (fun wv => wv.issuable 0) = some true ∧
    (stBrk 0xFFF00000#32 none).bundle? G.core ((stBrk 0xFFF00000#32 none).job G.job).tag 0x100#64 =
      some [0xFFF00000#32, nopWord, nopWord, nopWord] ∧ badBundle [0xFFF00000#32, nopWord, nopWord, nopWord] = false :=
  some_of (by decide +kernel)
theorem wit_ScheduleEvents_code : ((State.reset.core 0).code = none ∧ (State.reset.core 0).late = []) ∧
    (((State.reset.modCore 0 (fun k => { k with code := some State.reset.codeNow })).core 0).code = some State.reset.codeNow ∧
      ((State.reset.modCore 0 (fun k => { k with code := some State.reset.codeNow })).core 0).late = []) := by decide +kernel
theorem wit_ScheduleEvents_passed :
    ∃ wv, (onW (fun wv => { wv with passed := 64 }) st).wave? 0 0 = some wv ∧ 64 ≤ wv.passed :=
  some_of (by decide +kernel)
theorem wit_ScheduleEvents_sleep :
    ∃ G, (onW (fun wv => wv.modEntry 0 (fun e => { e with st := .sleep, wake := 0 })) st).groups[0]? = some G ∧ G.suspended = false ∧
    G.state = .resident ∧ G.waves[0]?.map (fun wv => decide ((wv.entry 0).st = .sleep ∧ (wv.entry 0).wake ≤ st.now)) = some true :=
  some_of (by decide +kernel)

/-- A parked split whose record no request carries. -/
noncomputable def stUnreported : State :=
  onW (fun wv => { wv with svcDue := true, splits := wv.splits.modify 0 (fun e => { e with st := .parked, recs :=
    [{ cause := 1, lane := 0, split := 0, slot := 1, uni := false, wr := false, svc := true, rpti := 0, fpf := 0#4, pst := 1, lvl := 0,
       code := 0, va := 0x4000#64, pc := 0x100#64, insn := nopWord }] }) }) st
def aRequest : Request := { id := 7, typ := 0, job := 0, body := .wave 0 0, off := 0, len := 0, hw := true, recs := [] }

theorem wit_FaultServiceEvents_asked :
    ∃ G, stUnreported.groups[0]? = some G ∧ G.state = .resident ∧ G.waves[0]?.map (fun wv => wv.unreported && wv.svcDue &&
    (stUnreported.askService G.job (.wave 0 0) wv.unreportedRecs).isSome) = some true := some_of (by decide +kernel)
theorem wit_FaultServiceEvents_unasked :
    ∃ G, (stUnreported.cfgSet 0 1#32).groups[0]? = some G ∧ G.waves[0]?.map (fun wv =>
    ((stUnreported.cfgSet 0 1#32).askService G.job (.wave 0 0) wv.unreportedRecs).isNone) = some true :=
  some_of (by decide +kernel)
/-- A request for the page at 0x4000 of job 0, whose leaf stands at 0x10008. -/
noncomputable def stAsked : State := { st with requests := [aRequest] }
theorem wit_FaultServiceEvents_answer : ∃ r, stAsked.request? 7 = some r ∧ r.hw = true ∧ st.up = true ∧
    (stAsked.writeLeaves r [((0x10008 : Nat), 0x1800F#64)]).isSome = true ∧ (stAsked.writeLeaves r [((0x1000C : Nat), 0x1800F#64)]) = none ∧
    stAsked.mayWriteLeaf r ((0x10008 : Nat), 0x1800F#64) = true ∧ stAsked.mayWriteLeaf r ((0x1000C : Nat), 0x1800F#64) = false :=
  some_of (by decide +kernel)

/-- The leaf at 0x10008 is a column-pool page that has no frame yet; the request asks for it. -/
def poolRec : Rec :=
  { cause := 1, lane := 0, split := 0, slot := 1, uni := false, wr := true, svc := true, rpti := 0, fpf := 0#4, pst := 5, lvl := 0,
    code := 0, va := 0x4000#64, pc := 0x100#64, insn := nopWord }
noncomputable def stPool : State := { (stAsked.poke64 0x10008 0x1F#64) with requests := [{ aRequest with recs := [poolRec] }] }
/-- That leaf with the last frame of the column of core 0, used and dirty. -/
def poolLeaf : DWord := BitVec.ofNat 64 (colBase 0 + colSize - 16384 + 0x1C1F)
theorem wit_FaultServiceEvents_pool :
    (let old := stPool.peek64 0x10008; eV old = true ∧ eLeaf old = true ∧ eKind old = 1 ∧ eState old = 0 ∧ ePlaced old = false) ∧
    ∃ r, stPool.request? 7 = some r ∧ stPool.mayWriteLeaf r ((0x10008 : Nat), poolLeaf) = true :=
  ⟨by decide +kernel, some_of (by decide +kernel)⟩

noncomputable def sampling (scfg head : Word) (cycle : DWord) : State :=
  st.modCore 0 (fun k => { k with ccycle := cycle, dbg := { k.dbg with scfg := scfg, slog := 2#32, shead := head } })

/-- What is asked of a sample cycle. -/
def due (s : State) : Prop :=
  let d := (s.core 0).dbg
  let n := (d.scfg.extractLsb' 1 5).toNat
  d.scfg.getLsbD 0 = true ∧ 8 ≤ n ∧ n ≤ 20 ∧ (s.core 0).ccycle.toNat % 2 ^ n = 0 ∧ d.lastSample ≠ some (s.core 0).ccycle.toNat ∧
    s.corePresent 0 = true

theorem wit_DebugEvents_sample : due (sampling 0x11#32 0#32 256#64) ∧ due (sampling 0x29#32 0#32 0x300000#64) := by
  unfold due; decide +kernel
theorem wit_DebugEvents_logFull :
    (((sampling 0x11#32 4#32 0#64).core 0).dbg.shead - ((sampling 0x11#32 4#32 0#64).core 0).dbg.stail).toNat =
    2 ^ ((sampling 0x11#32 4#32 0#64).core 0).dbg.slog.toNat := by decide +kernel
theorem wit_DebugEvents_logFree :
    (((sampling 0x11#32 3#32 0#64).core 0).dbg.shead - ((sampling 0x11#32 3#32 0#64).core 0).dbg.stail).toNat ≠
    2 ^ ((sampling 0x11#32 3#32 0#64).core 0).dbg.slog.toNat := by decide +kernel
theorem wit_DebugEvents_breakBit :
    ∃ G, (stBrk 0xFFF20000#32 none).groups[0]? = some G ∧ G.state = .resident ∧ ((stBrk 0xFFF20000#32 none).core G.core).dbg.own = true ∧
    (stBrk 0xFFF20000#32 none).bundle? G.core ((stBrk 0xFFF20000#32 none).job G.job).tag 0x100#64 =
      some [0xFFF20000#32, nopWord, nopWord, nopWord] ∧ badBundle [0xFFF20000#32, nopWord, nopWord, nopWord] = false ∧
    (stBrk 0xFFF20000#32 none).cstoreHolds 0 0 0 = false ∧ litSlot 0xFFF20000#32 1 = false ∧ brkOf 0xFFF20000#32 1 = true ∧
    G.waves[0]?.map (fun wv => decide (wv.issuable 0 = true ∧ (wv.entry 0).stopNext = none ∧ (wv.entry 0).brkSkip = false)) = some true :=
  some_of (by decide +kernel)
theorem wit_DebugEvents_illegal : badBundle [0xFFFB0000#32, nopWord, nopWord, nopWord] = true ∧
    ∃ G, (stBrk 0xFFFB0000#32 none).groups[0]? = some G ∧
      (stBrk 0xFFFB0000#32 none).bundle? G.core ((stBrk 0xFFFB0000#32 none).job G.job).tag 0x100#64 =
        some [0xFFFB0000#32, nopWord, nopWord, nopWord] := ⟨by decide +kernel, some_of (by decide +kernel)⟩
theorem wit_DebugEvents_stopNext : ∃ G, (stBrk 0xFFF00000#32 (some (2, 0, 1#64))).groups[0]? = some G ∧
    G.waves[0]?.map (fun wv => decide (wv.issuable 0 = true ∧ (wv.entry 0).stopNext = some (2, 0, 1#64))) = some true :=
  some_of (by decide +kernel)
theorem wit_DebugEvents_stopNextTwo : ∃ G, (stBrk 0xFFF00000#32 (some (3, 1, 1#64))).groups[0]? = some G ∧
    G.waves[0]?.map (fun wv => decide (wv.issuable 0 = true ∧ (wv.entry 0).stopNext = some (3, 1, 1#64))) = some true :=
  some_of (by decide +kernel)
theorem wit_DebugEvents_owned : (stOwn.core 0).dbg.own = true := by decide +kernel
theorem wit_DebugEvents_unowned : (st.core 0).dbg.own = false := by decide +kernel

/-- The device is up. -/
def running : State := { State.reset with boot := .running }
/-- A device closed until a port is secured. -/
noncomputable def closed : State := running.cfgSet 1 1#32
def allocOf (units : Nat) : ColAlloc := { num := 9, job := 0, core := 0, base := 0, units := units }

/-- A request whose words obey the header's rules. -/
noncomputable def asks (op sub port : Nat) (w0 : Word) (body : List Byte) (s : State) : Bool :=
  s.asked op sub port w0 { tag := 1#32, len := BitVec.ofNat 32 body.length, w3 := 0#32 } body

/-- Words `a` and `a + 1` of a body, then some more. -/
def bodyOf (ws : List Nat) : List Byte := ws.flatMap (leBytes 4)

/-- PRIV of cores 0 to 3 becomes 12. -/
def privWrite : List Byte := bodyOf [32, 1, 0x0C0C0C0C]

theorem wit_HostServices :
    (running.up = true ∧ running.owes 0 = false ∧ (running.cfgWord 1).getLsbD 0 = false) ∧
    ((closed.cfgWord 1).getLsbD 0 = true ∧ closed.secured.getD 1 false = false) ∧
    (otherOp 3 0 1#32 = true ∧ otherOp 2 0 264#32 = true ∧ otherOp 3 0 3#32 = false ∧ otherOp 3 0 259#32 = true ∧
      (otherOp 10 0 0x1000A#32 = false ∧ (0x1000A#32).toNat ≠ 10) ∧ (otherOp 7 0 263#32 = false ∧ (263#32).toNat ≠ 7)) ∧
    (asks 3 0 1 3#32 (bodyOf [0, 1024]) running = true ∧ bodyW (bodyOf [0, 1024]) 0 + bodyW (bodyOf [0, 1024]) 1 ≤ 1024) ∧
    (asks 3 1 0 259#32 privWrite running = true ∧ privWrite.length = 8 + 4 * 1 ∧ (cfgMask 32).isSome = true ∧
      cfgBad 32 0x0C0C0C0C#32 = false ∧ (running.cfgSet 32 0x0C0C0C0C#32).cfgBases = true ∧
      ∀ x ∈ running.privChanges 32 [0x0C0C0C0C#32], running.privBusy x = false) ∧
    (asks 3 1 0 259#32 privWrite { st with colAllocs := [allocOf 1] } = true ∧ (st.cfgSet 32 0x0C0C0C0C#32).cfgBases = true ∧
      ∃ x ∈ State.privChanges { st with colAllocs := [allocOf 1] } 32 [0x0C0C0C0C#32],
        State.privBusy { st with colAllocs := [allocOf 1] } x = true) ∧
    (asks 4 0 1 4#32 (bodyOf [0, 0, 4096]) st = true ∧ asks 4 1 1 260#32 (bodyOf [0, 4092, 4, 7]) st = true ∧ st.corePresent 0 = true) ∧
    (asks 5 0 0 5#32 (bodyOf [500]) running = true ∧ bodyW (bodyOf [500]) 0 = 500 ∧ bodyW (bodyOf [2800]) 0 = running.mix.watts) ∧
    (asks 6 0 0 6#32 (bodyOf [0, 1024]) st = true ∧ st.diePresent (bodyW (bodyOf [0, 1024]) 0) = true) ∧
    asks 7 0 0 7#32 (List.replicate 64 0#8) running = true := by
  and_intros <;> decide +kernel

/-- Firmware has asked for repairs. -/
def repairing : State := { running with requests := [{ aRequest with body := .repair }] }

theorem wit_HostServices_repair :
    asks 8 0 0 8#32 [] running = true ∧
    (asks 8 1 0 264#32 (bodyOf [0, 0, 0, 0]) running = true ∧ running.repairAsked = false ∧
      ∀ x ∈ ((bodyOf [0, 0, 0, 0]).drop 4).take 12, x = 0#8) ∧
    (asks 8 1 0 264#32 (bodyOf [1, 0, 0, 0, 3, 16, 0, 0]) repairing = true ∧ repairing.repairAsked = true) ∧
    asks 10 0 1 10#32 [] running = true := by
  and_intros <;> decide +kernel

theorem wit_HostServices_columns :
    (asks 9 0 0 9#32 (bodyOf [0, 0, 12]) st = true ∧ st.jobOf 0 = some 0 ∧ st.corePresent 0 = true ∧ shading 0 = true ∧
      st.unitsFree 0 12 = none ∧ (st.cfgSet 32 12#32).unitsFree 0 12 = some 0) ∧
    (∃ a, ({ st with colAllocs := [allocOf 1] } : State).colAllocs.find? (fun a => a.num == 9) = some a ∧
      ({ st with colAllocs := [allocOf 1] } : State).allocBusy a = false ∧
      asks 9 1 0 265#32 (bodyOf [9]) { st with colAllocs := [allocOf 1] } = true) ∧
    (∃ a, ({ onL (fun L => { L with csetNums := [9] }) st with colAllocs := [allocOf 1] } : State).colAllocs.find?
        (fun a => a.num == 9) = some a ∧
      ({ onL (fun L => { L with csetNums := [9] }) st with colAllocs := [allocOf 1] } : State).allocBusy a = true) := by
  and_intros <;> first | exact some_of (by decide +kernel) | decide +kernel

/-- A job with a key, and the body of a `JOB_CREATE` for 2048 queues. -/
noncomputable def stKey : State := { st with jobs := st.jobs.map (fun J => { J with key := 5#32 }) }
def createBody : List Byte := leBytes 24 0 ++ leBytes 4 2048 ++ leBytes 4 0 ++ leBytes 16 0

/-- Bytes of the job's memory at 0x100, which the device serves. -/
noncomputable def served (wr : Bool) (n : Nat) : Bool :=
  match stKey.rdmaRange 0 0x100 wr n with
  | some (l, t) => l.all (fun pa => t.serves pa)
  | none => false

/-- A job that a request of port 1 ends, and that is over. -/
def ending : State := { running with jobs := [{ loadJob with ending := some (1, 5#32) }] }

theorem wit_JobsAndRdma :
    (asks 1 0 1 1#32 createBody running = true ∧ createBody.length = 48 ∧ bodyW createBody 7 = 0 ∧ bodyD createBody 2 % 32 = 0 ∧
      bodyD createBody 2 + 32 * 4096 ≤ running.mix.gddr ∧ bodyW createBody 6 = 2048 ∧ bodyW createBody 6 ≤ running.freeQueues.length ∧
      (running.freeTag running.draw.1).isSome = true) ∧
    (asks 2 0 1 2#32 (bodyOf [0]) st = true ∧ st.jobOf 0 = some 0 ∧ (st.job 0).ending = none) ∧
    (ending.up = true ∧ ending.jobEnding 1 5#32 = some 0 ∧ ending.jobOver 0 = true ∧ ending.owes 1 = true) ∧
    (stKey.up = true ∧ 5#32 ≠ stKey.cfgWord 18 ∧ 5#32 ≠ stKey.cfgWord 19 ∧
      stKey.jobs.findIdx? (fun J => J.live && J.key == 5#32) = some 0 ∧
      stKey.jobs.findIdx? (fun J => J.live && J.key == 6#32) = none ∧ served false 2 = true ∧
      served true 2 = true ∧ stKey.rdmaRange 0 0x4000 false 1 = none) := by
  and_intros <;> first | decide +kernel

/-- A device that receives an image, its last datagram a while ago. -/
def receiving (now : DWord) (got : List Byte) : State :=
  { State.reset with boot := .receiving 0 1024 false got 0, dtime := now }

theorem wit_BootEvents :
    (({ State.reset with boot := .off } : State).boot = .off ∧ State.reset.boot = .rom ∧ verified State.reset.norImage = none) ∧
    (State.reset.boot ≠ .off) ∧
    (({ State.reset with boot := .requesting 0 } : State).bootNow = .requesting 0 ∧ 64 * 2 ^ 20 ≤ 64 * 2 ^ 20 ∧
      64 * 2 ^ 20 < 64 * 2 ^ 20 + 1) ∧
    ((receiving 9999999999#64 []).bootNow = .receiving 0 1024 false [] 0 ∧ 1 ≤ (List.replicate 1024 (0#8)).length ∧
      (List.replicate 1024 (0#8)).length ≤ 1024 ∧ verified (List.replicate 1024 0#8) = none) ∧
    ((receiving 9999999999#64 [0#8]).bootNow = .receiving 0 1024 false [0#8] 0) ∧
    ((receiving 10000000000#64 []).bootNow = .requesting (receiving 10000000000#64 []).bootReason ∧
      0 + 10000000000 ≤ (receiving 10000000000#64 []).now) ∧
    (({ State.reset with boot := .storing [1#8] } : State).boot = .storing [1#8] ∧
      ∀ img, State.reset.boot ≠ .storing img) ∧
    running.up = true := by
  refine ⟨by decide +kernel, by decide +kernel, by decide +kernel, by decide +kernel, by decide +kernel, by decide +kernel,
    ⟨rfl, fun img h => by cases h⟩, by decide +kernel⟩

/-- Every column is ready; columns 0 to 11 are but for the last. -/
noncomputable def ready : State := { st with columns := List.replicate 96 .ready }
noncomputable def last : State := { ready with columns := ready.columns.set 11 .replaying }

/-- A patch of lane 7 of vault 15 of core 11, and the same of another lane. -/
noncomputable def patch (lane : Nat) : List Word := [BitVec.ofNat 32 (3 + 2 ^ 9 * (ready.physical 11 * 16 + 15)), 16#32, BitVec.ofNat 32 lane, 0#32]

/-- The patch would be the first of its kind. -/
noncomputable def unpatched (s : State) : Bool :=
  (s.darn ++ s.found).all (fun e => e.getD 0 0#32 &&& ~~~0x1000000#32 != BitVec.ofNat 32 (3 + 2 ^ 9 * (ready.physical 11 * 16 + 15)) ||
    (e.getD 2 0#32).toNat != 7) && decide (s.darn.length + s.found.length < 4096)

theorem wit_RepairEvents :
    (({ running with columns := State.reset.columns.set 95 .replaying } : State).columns.getD 95 .notReady = .replaying) ∧
    (last.columns.getD 11 .notReady = .replaying ∧
      ((List.range 12).all (fun i => (last.columns.set 11 .ready).getD (12 * (11 / 12) + i) .notReady == .ready)) = true) ∧
    last.inReplay = true ∧ (ready.inReplay = false ∧ ready.darnReply = none) ∧
    (({ ready with found := [patch 7], darnReply := some (0, 264#32, 5#32) } : State).inReplay = false ∧
      ∀ e ∈ [patch 7], (e.getD 0 0#32).toNat % 16 ≠ 1) ∧
    (ready.up = true ∧ ready.corePresent 11 = true ∧ shading 11 = true ∧ ready.columns.getD 11 .notReady ≠ .notReady) ∧
    unpatched ready = true ∧ unpatched { last with found := [patch 6] } = true ∧
    ((ready.core 11).retiring = false ∧
      ∀ e ∈ ready.darn ++ ready.found, (e.getD 0 0#32).toNat % 512 ≠ 1 + 16 * (11 / 12)) ∧ (st.diePresent 0 = true ∧ 65535 < 2 ^ 16) := by
  and_intros <;> decide +kernel

/-- A measurement history of nine samples of 2,000 W, ninety-nine of them low. -/
def cool (low : Nat) : State := { running with powerLog := List.replicate 9 2000, powerLow := low }
def meanOf (w : Nat) : Nat := (((cool 0).powerLog ++ [w]).drop ((cool 0).powerLog.length - 9)).foldl (· + ·) 0

/-- The ring of the small frames of core 95 has 16 places. -/
noncomputable def laid : State := st.cfgSet (ringWord 95 false + 1) 0x40000#32

theorem wit_ClimateEvents :
    (running.up = true ∧ 144 < 145 ∧ 800 % 25 = 0 ∧ 2700 % 25 = 0) ∧
    ((cool 0).powerLimit * 10 < meanOf 10001 ∧ meanOf 10000 ≤ (cool 0).powerLimit * 10 ∧
      100 * meanOf 2000 ≤ 95 * (cool 99).powerLimit * 10 ∧ 100 ≤ (cool 99).powerLow + 1 ∧ (cool 98).powerLow + 1 < 100) ∧
    (st.corePresent 0 = true ∧ 0 < 1 ∧ 0 < 3) ∧
    (((st.modCore 0 (fun k => { k with below := some 0, rclass := 1 })).core 0).below = some 0 ∧
      0 < ((st.modCore 0 (fun k => { k with below := some 0, rclass := 1 })).core 0).rclass ∧
      0 + 64000000 ≤ ({ st with dtime := 64000000#64 } : State).now) ∧
    ((st.core 0).slowed = false ∧ st.up = true ∧ shading 0 = true) ∧
    ((st.modCore 0 (fun k => { k with slowed := true })).core 0).slowed = true ∧
    ((-2147483 : Int) ≤ (0#32).toInt ∧ (49#32).toNat < 50 ∧ ((running.cfgWord 10).extractLsb' 0 2).toNat ≠ 2 ∧
      ((running.cfgSet 10 2#32).cfgWord 10).extractLsb' 0 2 = 2#2) ∧
    (columnOf (colBase 95) = some 95 ∧ colBase 95 % 16384 = 0 ∧
      ({ st with dies := st.dies.modify 7 (fun d => { d with pres := true }) } : State).inPool (colBase 95) 16384 = true ∧
      ({ st with columns := st.columns.set 95 .ready } : State).serves (colBase 95) = true ∧
      (laid.layRing (ringWord 95 false)).ringLog (ringWord 95 false) = 4 ∧
      (laid.layRing (ringWord 95 false)).cfgWord (ringWord 95 false + 3) = (laid.layRing (ringWord 95 false)).cfgWord (ringWord 95 false + 2)) ∧
    (8191 < 8192 ∧ portRate (running.rates.getD (8191 / 4096) 0) = 800 ∧ running.qpRates = [] ∧ 799 < running.qpRate 8191) := by
  and_intros <;> decide +kernel

/-- What the next opportunity of partition 0 of core 0 finds for the first split. -/
noncomputable def opening (w : Nat) : State :=
  State.clock { State.reset.withFetchWord 32 w with cur := none, stalled := none, agenda := [] }
noncomputable def issues (b : State) (bad : Bool) : Bool :=
  match b.before 0 0 0 with
  | (.cur c, t) => !mangleWord c.insn &&
    match decode c.insn with
    | .ok i => !bad && (match exec i { t with cur := some c, stalled := none } with | .next u => u.stalled.isNone | _ => false)
    | .error _ => bad && (((State.noInstruction { t with cur := some c, stalled := none }).boundary c.g).stalled).isNone
  | _ => false

theorem issues_of {b : State} (h : issues b false = true) : ∃ c t i u, b.before 0 0 0 = (.cur c, t) ∧
    (mangleWord c.insn = false ∨ t.mangleElse 0 0 = false) ∧ decode c.insn = .ok i ∧
    exec i { t with cur := some c, stalled := none } = .next u ∧ u.stalled = none := by
  unfold issues at h
  split at h
  case h_2 => cases h
  next c t hb =>
    obtain ⟨hm, h⟩ := Bool.and_eq_true _ _ ▸ h
    split at h
    case h_2 => simp at h
    next i hd =>
      split at h
      case h_2 => simp at h
      next u hu => exact ⟨c, t, i, u, hb, .inl (by simpa using hm), hd, hu, by simpa using h⟩

theorem issues_bad {b : State} (h : issues b true = true) : ∃ c t e, b.before 0 0 0 = (.cur c, t) ∧
    (mangleWord c.insn = false ∨ t.mangleElse 0 0 = false) ∧ decode c.insn = .error e ∧
    ((State.noInstruction { t with cur := some c, stalled := none }).boundary c.g).stalled = none := by
  unfold issues at h
  split at h
  case h_2 => cases h
  next c t hb =>
    obtain ⟨hm, h⟩ := Bool.and_eq_true _ _ ▸ h
    split at h
    case h_1 => simp at h
    next e hd => exact ⟨c, t, e, hb, .inl (by simpa using hm), hd, by simpa using h⟩

theorem wit_StepRuns :
    (({ State.reset with agenda := [.event (.refreshBurst 0 0)] } : State).agenda = .event (.refreshBurst 0 0) :: []) ∧
    (({ State.reset with agenda := [.issue 0 0] } : State).agenda = .issue 0 0 :: []) ∧
    (((opening 0xF7E00000).core 0).held = false ∧ (opening 0xF7E00000).candidates 0 0 = (0, 0, 0 :: []) :: [] ∧
      ∃ c t i u, (opening 0xF7E00000).before 0 0 0 = (.cur c, t) ∧ (mangleWord c.insn = false ∨ t.mangleElse 0 0 = false) ∧ decode c.insn = .ok i ∧
        exec i { t with cur := some c, stalled := none } = .next u ∧ u.stalled = none) ∧
    (((opening 0x70000000).core 0).held = false ∧ (opening 0x70000000).candidates 0 0 = (0, 0, 0 :: []) :: [] ∧
      ∃ c t e, (opening 0x70000000).before 0 0 0 = (.cur c, t) ∧ (mangleWord c.insn = false ∨ t.mangleElse 0 0 = false) ∧ decode c.insn = .error e ∧
        ((State.noInstruction { t with cur := some c, stalled := none }).boundary c.g).stalled = none) ∧
    (∃ G, (stBrk 0xFFF00000#32 none).groups[0]? = some G ∧
      (stBrk 0xFFF00000#32 none).bundle? G.core ((stBrk 0xFFF00000#32 none).job G.job).tag 0x100#64 =
        some [0xFFF00000#32, nopWord, nopWord, nopWord] ∧ badBundle [0xFFF00000#32, nopWord, nopWord, nopWord] = false ∧
      (stBrk 0xFFF00000#32 none).cstoreHolds 0 0 0 = false ∧ litSlot 0xFFF00000#32 1 = false ∧
      G.waves[0]?.map (fun wv => decide (dueStop true (wv.entry 0) 0xFFF00000#32 = none ∧ (wv.entry 0).pc = 0x100#64)) = some true) :=
  ⟨rfl, rfl, ⟨by decide +kernel, by decide +kernel, issues_of (by decide +kernel)⟩,
   ⟨by decide +kernel, by decide +kernel, issues_bad (by decide +kernel)⟩, some_of (by decide +kernel)⟩

theorem wit_EncodeOfDecode : decode 0xF7E00000#32 = .ok .nop ∧ encode .nop = some 0xF7E00000#32 := ⟨rfl, rfl⟩

/-- v127 of lane 15 or s127 carries a mark. -/
noncomputable def stMarked : State := onW (fun wv => (wv.vset 127 15 1#32 true).sset 127 1#32 true) st

theorem wit_IllFormedTraps :
    (∃ c, st.ctx? = some c ∧ c.wave.trapLevel c.cur.sp = false) ∧ (encode (.rett)).isSome = true ∧ trapLevelOnly .rett = true ∧
    (encode (.dadd true 1#7 0#7 0#7)).isSome = true ∧ (Instr.illFormed (.dadd true 1#7 0#7 0#7)).isSome = true ∧
    trapLevelOnly (.dadd true 1#7 0#7 0#7) = false ∧
    (∃ c, (onW (fun wv => { wv with state := .trap }) { st with cur := st.cur.map (fun x => { x with sp := trapIdx }) }).ctx? = some c ∧
      c.wave.trapLevel c.cur.sp = true) ∧
    (encode (.sysrd 0#7 127#7)).isSome = true := by
  and_intros <;> first | exact ctx_of (by decide +kernel) | decide +kernel

theorem wit_IllFormedTraps_unit :
    (∃ c, (onG (fun G => { G with core := 96 }) st).ctx? = some c ∧ (Instr.rayq 120#7 112#7 124#7).illFormed = none ∧ c.cur.lit = none ∧
      inAlloc c (used c [rdV 112#7 8, rdV 124#7 4, wrV 120#7 8]) = true ∧
      runsOn .shading (onG (fun G => { G with core := 96 }) st) c.grp.core = false) ∧
    (∃ c, st.ctx? = some c ∧ (Instr.emitvp 127#7 124#7).illFormed = none ∧ c.cur.lit = none ∧
      inAlloc c (used c [rdS 124#7 4, wrS 127#7]) = true ∧ runsOn .geometry st c.grp.core = false) := by
  and_intros <;> exact ctx_of (by decide +kernel)

/-- A launch of 64 lane and 64 uniform registers. -/
noncomputable def stFew : State := word 8 (BitVec.ofNat 32 (64 + 2 ^ 8 * 64 + 2 ^ 16 + 2 ^ 21 * 64)) st

theorem wit_IllFormedTraps_operands :
    (Instr.dmul false 126#7 64#7 2#7).illFormed = none ∧ (Instr.ffma true 127#7 1#7 1#7).illFormed = none ∧
    (∃ c, stLit.ctx? = some c ∧ c.cur.lit ≠ none ∧ (1#7 : BitVec 7) ≠ 0#7) ∧
    (∃ c, stFew.ctx? = some c ∧ inAlloc c (used c [rdR false 64#7, rdB false 0#7, wrR false 0#7]) = false) ∧
    (∃ c, stFew.ctx? = some c ∧ inAlloc c (used c [rdR true 0#7, rdB true 0#7, wrR true 64#7]) = false) := by
  and_intros <;> first | exact ctx_of (by decide +kernel) | decide +kernel

/-- A touch of the window with sr.strict and without; no touch; marks, of a lane and of the uniform register. -/
theorem wit_IllFormedTraps_issue :
    (∃ c, Unheld (stWindow true) c 127#7 [rdR false 127#7, rdB false 127#7, wrR false 0#7] ∧
      (breach c [rdR false 127#7, rdB false 127#7, wrR false 0#7] && c.wave.sr.strict) = true) ∧
    (∃ c, Unheld (stWindow false) c 126#7 [rdR false 126#7, rdB false 126#7, wrR false 127#7] ∧
      (breach c [rdR false 126#7, rdB false 126#7, wrR false 127#7] && !c.wave.sr.strict &&
        c.lanes.all (fun i => !poisoned c [rdR false 126#7, rdB false 126#7, wrR false 127#7] i)) = true) ∧
    (∃ c, Unheld (stWindow true) c 126#7 [rdR false 126#7, rdB false 126#7, wrR false 0#7] ∧
      (!breach c [rdR false 126#7, rdB false 126#7, wrR false 0#7]) = true) ∧
    (∃ c, Unheld stMarked c 127#7 [rdR false 127#7, rdB false 127#7, wrR false 0#7] ∧
      (!breach c [rdR false 127#7, rdB false 127#7, wrR false 0#7] &&
        c.lanes.any (poisoned c [rdR false 127#7, rdB false 127#7, wrR false 0#7])) = true) ∧
    (∃ c, Unheld stMarked c 0#7 [rdR true 127#7, rdB true 0#7, wrR true 1#7] ∧
      poisoned c [rdR true 127#7, rdB true 0#7, wrR true 1#7] 0 = true) := by
  and_intros <;> exact unheld_of (by decide +kernel)

theorem frame_of {s : State} {b : BitVec 7} {uses : List Use} {P : Ctx → Prop} [DecidablePred P] {i : Instr}
    (h : At s (fun c => clear c b uses && decide ((c.grp.stopping ≠ some .cancel ∧ c.grp.stopping ≠ some .flush) ∧ P c)))
    (hi : (match exec i s with | .next _ => true | _ => false) = true) :
    ∃ c t, Steady c ∧ Runs s c b uses ∧ P c ∧ exec i s = .next t := by
  obtain ⟨c, hr, hs, hp⟩ := runs_with (P := fun c => (c.grp.stopping ≠ some .cancel ∧ c.grp.stopping ≠ some .flush) ∧ P c) h
  split at hi
  case h_2 => cases hi
  next t ht => exact ⟨c, t, hs, hr, hp, ht⟩

/-- The hypotheses of a clause of `RegisterFrame` hold of the instruction, which goes on. -/
def Framed (s : State) (b : BitVec 7) (uses : List Use) (P : Ctx → Prop) (i : Instr) : Prop :=
  ∃ c t, Steady c ∧ Runs s c b uses ∧ P c ∧ exec i s = .next t

def anyway (_ : Ctx) : Bool := true
def quietMode (c : Ctx) : Bool := c.wave.sr.fpmode.extractLsb' 8 4 == 0#4 && laneCount (c.lau.slot 7) == 4

theorem framed_of {s : State} {b : BitVec 7} {uses : List Use} {P : Ctx → Bool} {i : Instr}
    (h : At s (fun c => clear c b uses && decide ((c.grp.stopping ≠ some .cancel ∧ c.grp.stopping ≠ some .flush) ∧ P c = true)))
    (hi : (match exec i s with | .next _ => true | _ => false) = true) : Framed s b uses (fun c => P c = true) i :=
  frame_of h hi

theorem wit_RegisterFrame_integer :
    Framed st 127#7 [rdR false 127#7, rdB false 127#7, wrR false 127#7] (fun c => anyway c = true) (.iadd false 127#7 127#7 127#7) ∧
    Framed stLit 0#7 [rdR true 127#7, rdB true 0#7, rdR true 5#7, wrR true 5#7] (fun c => anyway c = true) (.imad true 5#7 127#7 0#7) ∧
    Framed st 0#7 [rdR true 127#7, wrR true 0#7] (fun c => anyway c = true) (.clz true 0#7 127#7) ∧
    Framed st 0#7 [rdR false 127#7, wrR false 0#7] (fun c => anyway c = true) (.bfxNI false 0#7 127#7 64#7) ∧
    Framed st 0#7 [rdR true 127#7, rdR true 5#7, wrR true 5#7] (fun c => anyway c = true) (.bfiI true 5#7 127#7 63#7) ∧
    Framed st 127#7 [rdR false 127#7, rdB false 127#7, wrR false 0#7] (fun c => anyway c = true) (.sel false 7#3 0#7 127#7 127#7) ∧
    Framed st 127#7 [rdB true 127#7, wrR true 127#7] (fun c => anyway c = true) (.mov true 127#7 127#7) ∧
    Framed st 0#7 [wrR false 127#7] (fun c => anyway c = true) (.movi false 127#7 8192#14) ∧
    Framed st 126#7 [rdR true 126#7 2, rdB true 126#7 2, wrR true 126#7 2] (fun c => anyway c = true) (.isub64 true 126#7 126#7 126#7) ∧
    Framed st 127#7 [rdR false 127#7, rdB false 127#7, wrR false 126#7 2] (fun c => anyway c = true) (.imulwI false 126#7 127#7 127#7) ∧
    Framed st 127#7 [rdV 127#7, rdB false 127#7, wrV 127#7, rdV 127#7] (fun c => anyway c = true) (.pmaddH2 127#7 127#7 127#7) ∧
    Framed st 0#7 [rdV 127#7, wrV 0#7] (fun c => anyway c = true) (.paddH2I 0#7 127#7 64#7) := by
  and_intros <;> exact framed_of (by decide +kernel) (by decide +kernel)

theorem wit_RegisterFrame_float :
    Framed st 127#7 [rdR false 127#7, rdB false 127#7, wrR false 0#7, rdR false 0#7] (fun c =>
      noTrap c false (fun i => out32 (f32.fma c.wave.rm (c.A false 127#7 i).toNat (c.B false 127#7 i).toNat (c.A false 0#7 i).toNat)) = true)
      (.ffma false 0#7 127#7 127#7) ∧
    Framed st 126#7 [rdR true 126#7 2, rdB true 126#7 2, wrR true 2#7 2] (fun c =>
      noTrap c true (fun i => out64 (f64.mul c.wave.rm (c.A64 true 126#7 i).toNat (c.BD true 126#7 i).toNat)) = true)
      (.dmul true 2#7 126#7 126#7) ∧
    Framed st 127#7 [rdV 127#7, rdB false 127#7, wrV 0#7] (fun c => noTrap c false (fun i => halves (fun h =>
      f16.add c.wave.rm (half (c.A false 127#7 i) h) (half (c.B false 127#7 i) h))) = true) (.hadd2 0#7 127#7 127#7) ∧
    Framed st 0#7 [rdR true 127#7, wrR true 0#7] (fun c => anyway c = true) (.fneg true 0#7 127#7) ∧
    Framed st 0#7 [rdR false 126#7 2, wrR false 0#7 2] (fun c => anyway c = true) (.dabs false 0#7 126#7) ∧
    Framed st 0#7 [rdV 127#7, wrV 127#7] (fun c => anyway c = true) (.fclass 127#7 127#7) ∧
    Framed st 0#7 [rdV 126#7 2, wrV 126#7] (fun c => anyway c = true) (.dclass 126#7 126#7) ∧
    Framed st 0#7 [rdV 127#7, wrV 0#7] (fun c => noTrap c false (fun i => out32 (f32.integral (c.code 4#7) (c.A false 127#7 i).toNat)) = true)
      (.frnd 0#7 127#7 4#7) ∧
    Framed st 0#7 [rdV 126#7 2, wrV 0#7 2] (fun c => noTrap c false (fun i => out64 (f64.integral (c.code 0#7) (c.A64 false 126#7 i).toNat)) = true)
      (.drnd 0#7 126#7 0#7) := by
  and_intros <;> exact framed_of (by decide +kernel) (by decide +kernel)

theorem wit_RegisterFrame_conversion :
    Framed st 0#7 [rdV 127#7, wrV 0#7] (fun c => noTrap c false (fun i => int32Out (f32.toInt (c.code 4#7) 0 (2 ^ 32 - 1)
      (c.A false 127#7 i).toNat)) = true) (.f2iN 0#7 127#7 4#7) ∧
    Framed st 0#7 [rdV 127#7, wrV 0#7] (fun c => noTrap c false (fun i => out32 (f32.ofInt c.wave.rm (c.A false 127#7 i).toNat)) = true)
      (.i2fN 0#7 127#7) ∧
    Framed stLit 0#7 [rdV 127#7, rdB false 0#7, wrV 0#7] (fun c => noTrap c false (fun i => halves (fun h =>
      f32.convert bf16 c.wave.rm (if h = 0 then c.A false 127#7 i else c.B false 0#7 i).toNat)) = true) (.f2bf2 0#7 127#7 0#7) ∧
    Framed st 0#7 [rdV 127#7, wrV 0#7 2] (fun c => noTrap c false (fun i => out64 (f32.convert f64 .rne (c.A false 127#7 i).toNat)) = true)
      (.f2d 0#7 127#7) ∧
    Framed st 0#7 [rdV 127#7, wrV 0#7 2] (fun c => noTrap c false (fun i => out64 (f64.ofInt .rne (c.A false 127#7 i).toInt)) = true)
      (.i2dI 0#7 127#7) ∧
    Framed st 0#7 [rdV 126#7 2, wrV 0#7] (fun c => noTrap c false (fun i => out32 (f64.convert f32 c.wave.rm (c.A64 false 126#7 i).toNat)) = true)
      (.d2f 0#7 126#7) ∧
    Framed st 0#7 [rdV 126#7 2, wrV 0#7] (fun c => noTrap c false (fun i => int32Out (f64.toInt (c.code 4#7) (-(2 ^ 31)) (2 ^ 31 - 1)
      (c.A64 false 126#7 i).toNat)) = true) (.d2iI 0#7 126#7 4#7) ∧
    Framed stSlot 0#7 [rdV 127#7, wrV 124#7 4] (fun c => quietMode c = true) (.cvtw 7#3 124#7 127#7) ∧
    Framed stSlot 0#7 [rdV 124#7 4, wrV 127#7] (fun c => quietMode c = true) (.cvtn 7#3 127#7 124#7) := by
  and_intros <;> exact framed_of (by decide +kernel) (by decide +kernel)

theorem wit_RegisterFrame_masks :
    Framed st 127#7 [rdR false 127#7, rdB false 127#7] (fun c => anyway c = true) (.icmpIEq false 7#7 127#7 127#7) ∧
    Framed st 127#7 [rdR true 127#7, rdB true 127#7] (fun c =>
      noTrapM c true (fun i => f32.compare .lt (c.A true 127#7 i).toNat (c.B true 127#7 i).toNat) = true) (.fcmpLt true 7#7 127#7 127#7) ∧
    Framed st 126#7 [rdR false 126#7 2, rdB false 126#7 2] (fun c =>
      noTrapM c false (fun i => f64.compare .un (c.A64 false 126#7 i).toNat (c.BD false 126#7 i).toNat) = true) (.dcmpUn false 7#7 126#7 126#7) ∧
    Framed st 0#7 [] (fun c => anyway c = true) (.kand 7#7 7#7 0#7) ∧ Framed st 0#7 [] (fun c => anyway c = true) (.candn 7#7 7#7 0#7) ∧
    Framed st 0#7 [] (fun c => anyway c = true) (.knot 7#7 0#7) ∧ Framed st 0#7 [] (fun c => anyway c = true) (.cmov 7#7 0#7) ∧
    Framed st 0#7 [wrV 127#7] (fun c => anyway c = true) (.ktov 127#7 7#7) ∧
    Framed st 0#7 [rdV 127#7] (fun c => anyway c = true) (.vtok 7#7 127#7) := by
  and_intros <;> exact framed_of (by decide +kernel) (by decide +kernel)

theorem wit_FixedRegisters :
    (∃ c, Runs st c 127#7 [rdS 127#7, rdB true 127#7, wrS 0#7]) ∧ (∃ c, Runs st c 0#7 []) :=
  ⟨runs_of (by decide +kernel), runs_of (by decide +kernel)⟩

theorem next_of {o : Host.Outcome State Fault Refusal} (h : (match o with | .next _ => true | _ => false) = true) : ∃ t, o = .next t := by
  cases o with
  | next t => exact ⟨t, rfl⟩
  | fault _ => cases h
  | refused _ => cases h

theorem wit_ByteStoresKept : Canonical (State.reset.withFetchWord 32 0xF7E00000) ∧
    ∃ t, step (State.reset.withFetchWord 32 0xF7E00000) = .next t :=
  ⟨⟨by decide +kernel, by decide +kernel, by decide +kernel⟩, next_of (by decide +kernel)⟩

theorem wit_TrapEntry :
    (∃ G, (word 4 0x200#32 st).groups[0]? = some G ∧ G.state = .resident ∧ G.ending = none ∧ G.stopping ≠ some .cancel ∧
      ((word 4 0x200#32 st).launch G.launch).traph = 0x200#64 ∧ G.waves[0]?.map Wave.state = some .resident) ∧
    (∃ G, st.groups[0]? = some G ∧ (st.launch G.launch).traph = 0#64) ∧
    (∃ G, (onW (fun wv => { wv with state := .trap }) (word 4 0x200#32 st)).groups[0]? = some G ∧
      G.waves[0]?.map Wave.state = some .trap) ∧
    (∃ wv, (onW (fun wv => { wv with state := .retiring }) st).wave? 0 0 = some wv ∧ wv.state = .retiring) := by
  and_intros <;> exact some_of (by decide +kernel)

theorem wit_UniformMoveResults_masks : ∃ wv, st.wave? 0 0 = some wv ∧ 0 < 7 ∧ 7 < wv.k.length := some_of (by decide +kernel)

/-! ### The manual's own worked examples

The words and results of the examples of spec/01 to spec/11; each names its section. -/

/-- Words printed in the manual beside the instruction (spec/01, "An encoded loop"; spec/03 to spec/13, the examples of each
chapter). -/
theorem test_manual_words :
    decode 0x48828201#32 = .ok (.ldg32 false 10#7 4#7 0#3 1#4) ∧ decode 0x0400C085#32 = .ok (.iaddI false 3#7 1#7 5#7) ∧
    decode 0x1062030A#32 = .ok (.ffma false 8#7 6#7 10#7) ∧ decode 0x840142FF#32 = .ok (.iaddI true 5#7 5#7 127#7) ∧
    decode 0xA0804280#32 = .ok (.icmpIGt true 1#7 5#7 0#7) ∧ decode 0xE13FFFFE#32 = .ok (.brt 1#3 0x1FFFFE#21) ∧
    decode 0xE8400200#32 = .ok (.join 4#7) ∧ decode 0xE4200003#32 = .ok (.brd 1#3 3#21) ∧
    decode 0x49224201#32 = .ok (.stg32 false 9#7 4#7 0#3 1#4) ∧ decode 0x11804102#32 = .ok (.frnd 1#7 2#7 2#7) ∧
    decode 0x21808083#32 = .ok (.fcmpLt false 2#7 1#7 3#7) ∧ decode 0xA841C189#32 = .ok (.rdlane 7#7 3#7 9#7) ∧
    decode 0xA8810101#32 = .ok (.ktos 4#7 2#7 1#7) ∧ decode 0x08E5020C#32 = .ok (.pmaddH2 20#7 4#7 12#7) ∧
    decode 0x0D650A0F#32 = .ok (.shrrI 20#7 20#7 15#7) ∧ decode 0x09C54A16#32 = .ok (.packsH2 21#7 20#7 22#7) ∧
    decode 0x2A620000#32 = .ok (.cvtn 3#3 8#7 0#7) ∧ decode 0x30814080#32 = .ok (.slideuph 5#7 1#7 0#7) ∧
    decode 0x30E24103#32 = .ok (.vcompress 9#7 2#7 3#7) ∧ decode 0xD9400600#32 = .ok (.cflush 12#7) ∧
    decode 0x42818100#32 = .ok (.stlE4 6#7 2#7 0#3 0#4) ∧ decode 0xD9028400#32 = .ok (.hpart 10#7 8#7) ∧
    decode 0x4B20C281#32 = .ok (.redFadd false 3#7 5#7 0#3 1#4) ∧ decode 0x4BC18102#32 = .ok (.cstore 6#7 2#7 0#3 2#4) ∧
    decode 0xD0224101#32 = .ok (.barr 9#7 2#7 1#7) ∧ decode 0xD0400109#32 = .ok (.bwait 2#7 9#7) ∧
    decode 0xB0050401#32 = .ok (.cpy 20#7 8#7 1#7) ∧ decode 0xB0200081#32 = .ok (.qfence 1#7 1#7) ∧
    decode 0xB0410081#32 = .ok (.qstat 4#7 1#7 1#7) ∧ decode 0x68E0C080#32 = .ok (.xredAddF 3#7 1#7) ∧
    decode 0xB8000A00#32 = .ok (.mloadw 20#7) ∧ decode 0xB8200000#32 = .ok .mswap ∧ decode 0xB8400C00#32 = .ok (.mstream 24#7) ∧
    decode 0xB8601000#32 = .ok (.mdrain 32#7) ∧ decode 0xB8800600#32 = .ok (.mzero 12#7) ∧ decode 0xB8A24000#32 = .ok (.mstat 9#7) ∧
    decode 0xB8E10400#32 = .ok (.ttrun 4#7 8#7) ∧ decode 0xB9200300#32 = .ok (.ncfg 6#7) ∧
    decode 0x60040028#32 = .ok (.neval 16#7 0#7 40#7) ∧ decode 0x58040008#32 = .ok (.rayq 16#7 0#7 8#7) ∧
    decode 0xD8E10800#32 = .ok (.refit 4#7 16#7) ∧ decode 0xD8A10400#32 = .ok (.emitvp 4#7 8#7) ∧
    decode 0xD8C14500#32 = .ok (.vclose 5#7 10#7) ∧ decode 0x50040008#32 = .ok (.tex2d 16#7 0#7 8#7) ∧
    decode 0x50640208#32 = .ok (.texlod 16#7 4#7 8#7) ∧ decode 0xD8020000#32 = .ok (.getwork 8#7) ∧
    decode 0xD8200400#32 = .ok (.workdone 8#7) ∧ decode 0xF7E00000#32 = .ok .nop := by
  and_intros <;> rfl

/-- Lane registers of a state set, register by register, lanes from 0 on. -/
noncomputable def vregs (l : List (Nat × List Word)) : State → State := onW (fun wv =>
  l.foldl (fun wv p => p.2.zipIdx.foldl (fun wv x => wv.vset p.1 x.2 x.1 false) wv) wv)
/-- What the wave holds after an instruction. -/
def held {α : Type} (o : Out') (f : Wave → α) : Option α :=
  match o with
  | .next t => (t.wave? 0 0).map f
  | _ => none

/-- spec/04, the example of `BFX`: 8 bits at bit 4 of 0x0F30; 4 bits at bit 28. -/
theorem test_bfx : held (exec (.bfxI false 3#7 1#7 0#7) (vregs [(1, [0x0F30#32, 0xF30#32])] (atIssue (some 0x0804#32)))) (fun wv => (wv.vget 3 0, wv.vget 3 1)) =
      some (0xFFFFFFF3#32, 0xFFFFFFF3#32) ∧
    held (exec (.bfxI false 3#7 1#7 0#7) (vregs [(1, [0xA0000000#32])] (atIssue (some 0x081C#32)))) (fun wv => wv.vget 3 0) = some 0xFFFFFFFA#32 := by
  decide +kernel

/-- spec/04, the example of the packed group: the sum is clamped and SAT set; the rounding shift; the packing; a shift left
that clamps one half. -/
theorem test_packed :
    held (exec (.pmaddH2 20#7 4#7 12#7) (vregs [(4, [0x7FFF7FFF#32]), (12, [0x7FFF7FFF#32]), (20, [0x30D40#32])] st))
      (fun wv => (wv.vget 20 0, wv.sr.sticky.getLsbD 4)) = some (0x7FFFFFFF#32, true) ∧
    held (exec (.shrrI 20#7 20#7 15#7) (vregs [(20, [0x7FFFFFFF#32])] st)) (fun wv => wv.vget 20 0) = some 0x10000#32 ∧
    held (exec (.packsH2 21#7 20#7 22#7) (vregs [(20, [0x10000#32]), (22, [0xFFFF8000#32])] st))
      (fun wv => (wv.vget 21 0, wv.sr.sticky.getLsbD 4)) = some (0x80007FFF#32, true) ∧
    held (exec (.shrrsH2I 3#7 3#7 (-2)) (vregs [(3, [0x2000E000#32])] st))
      (fun wv => (wv.vget 3 0, wv.sr.sticky.getLsbD 4)) = some (0x7FFF8000#32, true) := by
  decide +kernel

/-- spec/04, the examples of compares and of a trap: a quiet NaN is less than nothing and sets INV; infinity less infinity
under TINV leaves lane 6 alone, writes the other lanes and takes the trap. -/
theorem test_invalid :
    held (exec (.fcmpLt false 2#7 1#7 3#7) (vregs [(1, [0x7FC00000#32, 0#32]), (3, [0x3F800000#32, 0x3F800000#32])] st))
      (fun wv => (wv.k.getD 2 0#64 &&& 3#64, wv.sr.sticky.getLsbD 0)) = some (2#64, true) ∧
    held (exec (.fadd false 1#7 2#7 3#7) (vregs [(1, List.replicate 16 7#32), (2, List.replicate 6 0#32 ++ [0x7F800000#32]),
        (3, List.replicate 6 0x3F800000#32 ++ [0xFF800000#32])]
      (onW (fun wv => { wv with sr := { wv.sr with fpmode := 0x100#32 } }) (word 4 0x200#32 st))))
      (fun wv => (wv.vget 1 5, wv.vget 1 6, wv.sr.sticky.getLsbD 0, wv.state, wv.trap.recs.map Machine.Rec.lane)) =
      some (0x3F800000#32, 7#32, true, .trap, [6]) := by
  decide +kernel

/-- spec/04, the example of conversions: eight values narrow to e2m1, with INV, OVF, UNF and INX; they widen again. -/
theorem test_convert :
    held (exec (.cvtn 3#3 8#7 0#7) (vregs [(0, [0x3F333333#32]), (1, [0xC0266666#32]), (2, [0x40A00000#32]), (3, [0x40E66666#32]),
        (4, [0x3E800000#32]), (5, [0x7FC00000#32]), (6, [0x80000000#32]), (7, [0x40600000#32])] (word 38 8#32 (word 10 1#32 st))))
      (fun wv => (wv.vget 8 0, wv.sr.sticky)) = some (0x687076D1#32, 0xF#32) ∧
    held (exec (.cvtw 3#3 16#7 8#7) (vregs [(8, [0x687076D1#32])] (word 38 8#32 st))) (fun wv => (List.range 8).map (fun j => wv.vget (16 + j) 0)) =
      some [0x3F000000#32, 0xC0400000#32, 0x40800000#32, 0x40C00000#32, 0#32, 0x40C00000#32, 0x80000000#32, 0x40800000#32] := by
  decide +kernel

/-- spec/02, the examples of rounding to e4m3: the nearest is 288, up is 320, and 1,000 overflows to the maximum or, with
OVI, to NaN with OVF and INX. -/
theorem test_narrow :
    narrow (f32.read 0x43960000) (Slot.ofRecord 0x4#64) 0 = (0x79, { Flags.none with inx := true }) ∧
    (narrow (f32.read 0x43960000) (Slot.ofRecord 0x84#64) 0).1 = 0x7A ∧
    (narrow (f32.read 0x43960000) (Slot.ofRecord 0x344#64) 0x4000).1 = 0x7A ∧
    (narrow (f32.read 0x43960000) (Slot.ofRecord 0x344#64) 0x7000).1 = 0x79 ∧
    (narrow (f32.read 0x447A0000) (Slot.ofRecord 0x4#64) 0).1 = 0x7E ∧
    narrow (f32.read 0x447A0000) (Slot.ofRecord 0x404#64) 0 = (0x7F, { Flags.none with ovf := true, inx := true }) := by
  decide +kernel

/-- Lane i of v1 holds the elements 2i and 2i + 1, of v0 those plus 100. -/
noncomputable def stSlide (lit : Option Word) : State :=
  vregs [(1, (List.range 16).map (fun i => BitVec.ofNat 32 ((2 * i + 1) * 0x10000 + 2 * i))),
    (0, (List.range 16).map (fun i => BitVec.ofNat 32 ((2 * i + 101) * 0x10000 + (2 * i + 100))))] (atIssue lit)

/-- spec/04, the examples of slides and of `VCOMPRESS`. -/
theorem test_cross_lane :
    held (exec (.slideuph 5#7 1#7 0#7) (stSlide none)) (fun wv => (wv.vget 5 0, wv.vget 5 1, wv.vget 5 15)) =
      some (0x83#32, 0x20001#32, 0x1E001D#32) ∧
    held (exec (.slideuph 5#7 1#7 0#7) (stSlide (some 3#32))) (fun wv => (wv.vget 5 0, wv.vget 5 1)) = some (0x820081#32, 0x83#32) ∧
    held (exec (.vcompress 9#7 2#7 3#7) (onW (fun wv => (wv.modEntry 0 (fun e => { e with mask := 0xFF0#64 })).kput 0xFF0#64 3 0xA5A#64)
        (vregs [(2, (List.range 16).map (fun i => BitVec.ofNat 32 (10 * i))), (9, List.replicate 16 1#32)] st)))
      (fun wv => ((List.range 16).map (fun l => wv.vget 9 l), wv.sr.last)) =
      some ([1, 1, 1, 1, 40, 60, 90, 110, 1, 1, 1, 1, 1, 1, 1, 1].map (BitVec.ofNat 32), 4#64) := by
  decide +kernel

/-- An instruction of group 13, then the mangle's reply. -/
noncomputable def replied (o : Out') : Out' :=
  match o with
  | .next t => exec (.mangleReply 0 0 ((((t.wave? 0 0).map (fun wv => wv.pend.map Pend.id)).getD []).headD 0)) t
  | x => x

/-- spec/08, the examples: the tree of additions and the scan of group 13; the DB block that needs one sector, and back. -/
theorem test_mangle :
    held (replied (exec (.xredAddF 3#7 1#7) (vregs [(1, 0x4B800000#32 :: List.replicate 15 0x3F800000#32)] st)))
      (fun wv => (wv.vget 3 0, wv.vget 3 15)) = some (0x4B800007#32, 0x4B800007#32) ∧
    held (replied (exec (.xscanAddF 3#7 1#7) (vregs [(1, 0x4B800000#32 :: List.replicate 15 0x3F800000#32)] st)))
      (fun wv => (wv.vget 3 0, wv.vget 3 15)) = some (0x4B800000#32, 0x4B800000#32) := by
  decide +kernel

theorem test_block :
    dbEncode 32 ((List.range 64).flatMap (fun j => leBytes 4 (1000 + 3 * j))) =
      (1, ([0x03, 0xE8, 0x03, 0, 0] ++ List.replicate 7 0 ++ [0x80] ++ List.replicate 15 0xFF ++ [0x1F] ++ List.replicate 3 0).map (BitVec.ofNat 8)) ∧
    dbDecode 32 (([0x03, 0xE8, 0x03, 0, 0] ++ List.replicate 7 0 ++ [0x80] ++ List.replicate 15 0xFF ++ [0x1F] ++ List.replicate 3 0).map (BitVec.ofNat 8)) =
      some ((List.range 64).flatMap (fun j => leBytes 4 (1000 + 3 * j))) := by
  decide +kernel


/-- The digest of the empty message, as FIPS 202 gives it: its first and its last four bytes. -/
theorem test_sha3 : (sha3_512 []).length = 64 ∧
    (sha3_512 []).take 4 = [0xa6#8, 0x9f#8, 0x73#8, 0xcc#8] ∧ (sha3_512 []).drop 60 = [0x28#8, 0x1d#8, 0xcd#8, 0x26#8] := by
  decide +kernel

end Sys2Proof.Tests
end

namespace Sys2Proof.Proofs

open Sys2Proof Sys2Proof.Machine Sys2Proof.Laws

/-! ### Fault service (spec/00 R5, spec/03 R91, spec/06 R171, spec/13 R363) -/

/-- A wave found through its group. -/
theorem wave?_of_get {s : State} {g w : Nat} {G : Group} {wv : Wave} (hG : s.groups[g]? = some G)
    (hw : G.waves[w]? = some wv) : s.wave? g w = some wv := by
  simp [State.wave?, hG, hw]

/-- A wave of a resident group asks once a record of it is unreported and either its service is due or none of its splits is
Ready: the request carries its unreported records, or the service is refused. -/
theorem execFaultServiceRequest_due {g w : Nat} {s : State} {G : Group} {wv : Wave} (hG : s.groups[g]? = some G)
    (hw : G.waves[w]? = some wv) (hres : G.state = .resident) (hrec : wv.unreported = true)
    (hdue : wv.svcDue = true ∨ wv.noneReady = true) :
    (∀ id t, s.askService G.job (.wave g w) wv.unreportedRecs = some (id, t) → execFaultServiceRequest g w s =
      .next (t.modWave g w (fun wv => { wv with svcDue := false, splits := wv.splits.map (fun e =>
        if e.unreported then { e with request := some id } else e) }))) ∧
    (s.askService G.job (.wave g w) wv.unreportedRecs = none → execFaultServiceRequest g w s =
      .next ((s.modWave g w (fun wv => { wv with svcDue := false })).refuseWave g w Split.unreported wv.unreportedRecs)) := by
  have hask : (G.state != .resident || !wv.unreported || !(wv.svcDue || wv.noneReady)) = false := by
    rcases hdue with h | h <;> simp [hres, hrec, h]
  simp only [execFaultServiceRequest, hG, wave?_of_get hG hw, hask]
  exact ⟨fun id t h => by rw [h]; rfl, fun h => by rw [h]; rfl⟩

/-- The answer of firmware to a request that waits for it. -/
theorem execFaultServiceDone_of_request {req : Nat} {done : Bool} {leaves : List (Nat × DWord)} {s : State} {r : Request}
    (hr : s.request? req = some r) (hhw : r.hw = true) (hup : s.up = true) :
    execFaultServiceDone req done leaves s =
      if done then happens s ((s.writeLeaves r leaves).map (fun t => t.answer r true 0)) else .next (s.answer r false 0) := by
  cases done <;> simp [execFaultServiceDone, hr, hhw, hup]

/-- What every entry that firmware may write keeps: its place, its V bit, and for a page of a column pool without a frame that
the entry places one. -/
theorem mayWriteLeaf_imp {s : State} {r : Request} {x : Nat × DWord} (h : s.mayWriteLeaf r x = true) :
    x.1 % 8 = 0 ∧ x.1 + 8 ≤ s.mix.gddr ∧ eV x.2 = true ∧
      (eV (s.peek64 x.1) = true → eLeaf (s.peek64 x.1) = true → eKind (s.peek64 x.1) = 1 → eState (s.peek64 x.1) = 0 →
        ePlaced (s.peek64 x.1) = false ∧ s.placesFrame r x.1 (s.peek64 x.1) x.2 = true) := by
  simp only [State.mayWriteLeaf, Bool.and_eq_true, beq_iff_eq, decide_eq_true_eq] at h
  obtain ⟨⟨⟨haligned, hgddr⟩, hvalid⟩, hkind⟩ := h
  refine ⟨haligned, hgddr, hvalid, fun hV hL hK hS => ?_⟩
  rw [if_pos ⟨⟨⟨hV, hL⟩, hK⟩, hS⟩] at hkind
  simpa using hkind

/-- Settles O43: each event is one branch of its function, and the entries are written one after another. -/
theorem faultServiceEvents : Obligations.FaultServiceEvents := by
  unfold Obligations.FaultServiceEvents
  refine ⟨?asked, ?answered, ?written, fun s r x h => mayWriteLeaf_imp h⟩
  case asked =>
    intro g w s G wv hG hw hres hrec hdue
    exact execFaultServiceRequest_due hG hw hres hrec hdue
  case answered =>
    intro req leaves s r hr hhw hup
    simp only [exec_faultServiceDone, execFaultServiceDone_of_request hr hhw hup]
    exact ⟨fun t h => by rw [h]; rfl, fun h => by rw [h]; rfl, rfl⟩
  case written =>
    exact fun s r x rest => ⟨rfl, fun h => if_pos h, fun h => if_neg (by simp [h])⟩

end Sys2Proof.Proofs

namespace Sys2Proof.Proofs

open Sys2Proof Sys2Proof.Machine Sys2Proof.Safety Sys2Proof.Claims Sys2Proof.Laws

/-! ### What `issue` is asked

An instruction runs through a shape (`intRR`, `memIssue`, …) that calls `issue`; each shape is unfolded here once. -/

/-- The outcome is that of `issue` for an instruction that breaks the rule `bad`, or none, and is of trap level if `priv`. -/
def IssuedAs (s : State) (bad : Option Malformed) (priv : Bool) (o : Out') : Prop :=
  ∃ op body, o = issue op s body ∧ op.bad = bad ∧ op.priv = priv

/-- The outcome is that of `issue` for a register instruction with operand B that waits for its registers alone. -/
def TwoSource (s : State) (u : Bool) (b : BitVec 7) (uses : List Use) (bad : Option Malformed) (o : Out') : Prop :=
  ∃ body, o = issue { uni := u, bad := bad, litB := b, uses := uses } s body

theorem TwoSource.issued {s u b uses bad o} (h : TwoSource s u b uses bad o) : IssuedAs s bad false o := by
  obtain ⟨body, h⟩ := h
  exact ⟨_, body, h, rfl, rfl⟩

section Shapes
variable {s : State} {u : Bool} {d a b : BitVec 7}

theorem intRR_twoSource {f} :
    TwoSource s u b [rdR u a, rdB u b, wrR u d] none (intRR u d a b s f) := ⟨_, rfl⟩
theorem intRRd_twoSource {f} :
    TwoSource s u b [rdR u a, rdB u b, rdR u d, wrR u d] none (intRRd u d a b s f) := ⟨_, rfl⟩
theorem packRR_twoSource {rd f} :
    TwoSource s false b ([rdV a, rdB false b, wrV d] ++ (if rd then [rdV d] else [])) none
      (packRR d a b rd s f) := ⟨_, rfl⟩
theorem fpRR_twoSource {rd f} :
    TwoSource s u b ([rdR u a, rdB u b, wrR u d] ++ (if rd then [rdR u d] else [])) none
      (fpRR u d a b rd s f) := ⟨_, rfl⟩
theorem hpRR_twoSource {rd f} :
    TwoSource s false b ([rdV a, rdB false b, wrV d] ++ (if rd then [rdV d] else [])) none
      (hpRR d a b rd s f) := ⟨_, rfl⟩
theorem dpRR_twoSource {rd f} :
    TwoSource s u b ([rdR u a 2, rdB u b 2, wrR u d 2] ++ (if rd then [rdR u d 2] else []))
      (firstBroken [multipleOf 2 d, multipleOf 2 a, multipleOf 2 b]) (dpRR u d a b rd s f) := ⟨_, rfl⟩
theorem cmp32_twoSource {f} :
    TwoSource s u b [rdR u a, rdB u b] (firstBroken [below 8 d]) (cmp32 u d a b s f) := ⟨_, rfl⟩
theorem icmp_twoSource {f} :
    TwoSource s u b [rdR u a, rdB u b] (firstBroken [below 8 d]) (icmp u d a b s f) := cmp32_twoSource
theorem fcmp_twoSource {r} :
    TwoSource s u b [rdR u a, rdB u b] (firstBroken [below 8 d]) (fcmp r u d a b s) := cmp32_twoSource
theorem dcmp_twoSource {r} :
    TwoSource s u b [rdR u a 2, rdB u b 2] (firstBroken [below 8 d, multipleOf 2 a, multipleOf 2 b])
      (dcmp r u d a b s) := ⟨_, rfl⟩

theorem intRI_issued {f} : IssuedAs s none false (intRI u d a b s f) := ⟨_, _, rfl, rfl, rfl⟩
theorem intRId_issued {f} : IssuedAs s none false (intRId u d a b s f) := ⟨_, _, rfl, rfl, rfl⟩
theorem intR_issued {f} : IssuedAs s none false (intR u d a s f) := ⟨_, _, rfl, rfl, rfl⟩
theorem int64_issued {f} : IssuedAs s (firstBroken [multipleOf 2 d, multipleOf 2 a, multipleOf 2 b]) false (int64 u d a b s f) :=
  ⟨_, _, rfl, rfl, rfl⟩
theorem intWide_issued {f} : IssuedAs s (firstBroken [multipleOf 2 d]) false (intWide u d a b s f) := ⟨_, _, rfl, rfl, rfl⟩
theorem packRI_issued {im rd f} : IssuedAs s none false (packRI d a im rd s f) := ⟨_, _, rfl, rfl, rfl⟩
theorem fpBits_issued {f} : IssuedAs s none false (fpBits u d a s f) := ⟨_, _, rfl, rfl, rfl⟩
theorem dpBits_issued {f} : IssuedAs s (firstBroken [multipleOf 2 d, multipleOf 2 a]) false (dpBits u d a s f) :=
  ⟨_, _, rfl, rfl, rfl⟩
theorem maskOp_issued {rules f} : IssuedAs s (firstBroken rules) false (maskOp d a b rules s f) := ⟨_, _, rfl, rfl, rfl⟩
theorem condOp_issued {rules f} : IssuedAs s (firstBroken rules) false (condOp d a b rules s f) := ⟨_, _, rfl, rfl, rfl⟩
theorem cvtCode_issued {f} : IssuedAs s (firstBroken [below 5 b]) false (cvtCode d a b s f) := ⟨_, _, rfl, rfl, rfl⟩
theorem cvtR_issued {f} : IssuedAs s none false (cvtR d a s f) := ⟨_, _, rfl, rfl, rfl⟩
theorem fromHalf_issued {F h} : IssuedAs s none false (fromHalf F h d a s) := cvtR_issued
theorem toHalves_issued {F} : IssuedAs s none false (toHalves F d a b s) := ⟨_, _, rfl, rfl, rfl⟩
theorem shuffle_issued {pick} : IssuedAs s none false (shuffle d a b s pick) := ⟨_, _, rfl, rfl, rfl⟩
theorem slide_issued {h src} : IssuedAs s none false (slide h d a b s src) := ⟨_, _, rfl, rfl, rfl⟩
theorem compress_issued {z} : IssuedAs s (firstBroken [below 8 b]) false (compress z d a b s) := ⟨_, _, rfl, rfl, rfl⟩
theorem vote_issued {f} : IssuedAs s (firstBroken [below 8 d]) false (vote d a s f) := ⟨_, _, rfl, rfl, rfl⟩
theorem special32_issued {f} : IssuedAs s none false (special32 d a s f) := ⟨_, _, rfl, rfl, rfl⟩
theorem special64_issued {f} : IssuedAs s (firstBroken [multipleOf 2 d, multipleOf 2 a]) false (special64 d a s f) :=
  ⟨_, _, rfl, rfl, rfl⟩
theorem memIssue_issued {m rules e4 o n} : IssuedAs s (firstBroken rules) false (memIssue m u rules e4 d a o n s) :=
  ⟨_, _, rfl, rfl, rfl⟩
theorem ldrq_issued {w rules n} : IssuedAs s (firstBroken rules) false (ldrq w rules d a n s) := by
  unfold ldrq
  exact ⟨_, _, rfl, rfl, rfl⟩
theorem texIssue_issued {fn k m plan} : IssuedAs s none false (texIssue fn k m plan d a b s) := ⟨_, _, rfl, rfl, rfl⟩
theorem rayq_issued {wide rules} : IssuedAs s (firstBroken rules) false (Machine.rayq wide d a b rules s) :=
  ⟨_, _, rfl, rfl, rfl⟩
theorem neval_issued {h} : IssuedAs s none false (Machine.neval h d a b s) := by
  unfold Machine.neval
  exact ⟨_, _, rfl, rfl, rfl⟩
theorem mangle_issued {k two rules f} : IssuedAs s (firstBroken rules) false (mangle k two rules d a b s f) :=
  ⟨_, _, rfl, rfl, rfl⟩
theorem mangleSort_issued {key} : IssuedAs s (firstBroken [multipleOf 2 d]) false (mangleSort key d a b s) := mangle_issued
theorem mangleEach_issued {f} : IssuedAs s none false (mangleEach d a s f) := mangle_issued
theorem mangleAll_issued {f} : IssuedAs s none false (mangleAll d a s f) := mangleEach_issued
theorem matrixIssue_issued {op rules n dreg nd bd check rows} :
    IssuedAs s (firstBroken rules) false (matrixIssue op rules a n dreg nd bd check rows s) := by
  unfold matrixIssue
  exact ⟨_, _, rfl, rfl, rfl⟩
theorem fence_issued : IssuedAs s none false (fence s) := ⟨_, _, rfl, rfl, rfl⟩
theorem maintain_issued {op} : IssuedAs s (firstBroken [blockOf 4 a]) false (maintain op a s) := ⟨_, _, rfl, rfl, rfl⟩

end Shapes

/-- Every instruction that has a word runs through `issue`, which knows the field rule it breaks and whether it is of trap
level. -/
theorem exec_issued {i : Instr} {w : Word} (s : State) (hw : encode i = some w) :
    IssuedAs s i.illFormed (trapLevelOnly i) (exec i s) := by
  unfold exec
  cases i
  case iadd | isub | imul | imulhI | imulhN | iand | ior | ixor | iandn | shl | shr | sar | iminI | iminN | imaxI | imaxN |
      bfxI | bfxN => exact intRR_twoSource.issued
  case iaddI | isubI | imulI | imulhII | imulhNI | iandI | iorI | ixorI | iandnI | shlI | shrI | sarI | iminII | iminNI |
      imaxII | imaxNI | bfxII | bfxNI => exact intRI_issued
  case imad | bfi => exact intRRd_twoSource.issued
  case imadI | bfiI => exact intRId_issued
  case iabs | clz | popc | brev => exact intR_issued
  case iadd64 | isub64 => exact int64_issued
  case imulwI | imulwN => exact intWide_issued
  case paddH2 | paddsH2 | psubH2 | psubsH2 | paddB4 | paddsB4 | psubsB4 | pmaddH2 | pmaddB4 | iadds | isubs | shrr | shrrsH2 |
      packH2 | packsH2 | pminH2 | pmaxH2 => exact packRR_twoSource.issued
  case paddH2I | paddsH2I | psubH2I | psubsH2I | paddB4I | paddsB4I | psubsB4I | pmaddH2I | pmaddB4I | iaddsI | isubsI | shrrI |
      shrrsH2I | packH2I | packsH2I | pminH2I | pmaxH2I => exact packRI_issued
  case fadd | fsub | fmul | ffma | fmin | fmax => exact fpRR_twoSource.issued
  case fabs | fneg => exact fpBits_issued
  case hadd2 | hmul2 | hfma2 | bfma2 => exact hpRR_twoSource.issued
  case dadd | dsub | dmul | dfma | dmin | dmax => exact dpRR_twoSource.issued
  case dabs | dneg => exact dpBits_issued
  case icmpIEq | icmpINe | icmpILt | icmpILe | icmpIGt | icmpIGe | icmpNLt | icmpNLe | icmpNGt | icmpNGe =>
    exact icmp_twoSource.issued
  case fcmpEq | fcmpNe | fcmpLt | fcmpLe | fcmpGt | fcmpGe | fcmpUn | fcmpOrd => exact fcmp_twoSource.issued
  case dcmpEq | dcmpNe | dcmpLt | dcmpLe | dcmpGt | dcmpGe | dcmpUn | dcmpOrd => exact dcmp_twoSource.issued
  case kand | kor | kxor | kandn | knot | kmov => exact maskOp_issued
  case cand | cor | cxor | candn | cnot | cmov => exact condOp_issued
  case f2iI | f2iN => exact cvtCode_issued
  case i2fI | i2fN => exact cvtR_issued
  case h2fLo | h2fHi | bf2fLo | bf2fHi => exact fromHalf_issued
  case f2h2 | f2bf2 => exact toHalves_issued
  case shfl | shflx => exact shuffle_issued
  case slideup | slidedn | slideuph | slidednh => exact slide_issued
  case vcompress | vcompressZ => exact compress_issued
  case voteany | voteall | ballot => exact vote_issued
  case rcp | rsq | sqrt | log2 | exp2 | sin | cos | tanh => exact special32_issued
  case drcp | dsqrt => exact special64_issued
  case ldlN8 | ldlI8 | ldlN16 | ldlI16 | ldl32 | ldl64 | ldl128 | stl8 | stl16 | stl32 | stl64 | stl128 | atlAdd | atlMinI |
      atlMaxI | atlAnd | atlOr | atlXor | atlXchg | atlCas | stlE4 | stlE6 | ldgN8 | ldgI8 | ldgN16 | ldgI16 | ldg32 | ldg64 |
      ldg128 | stg8 | stg16 | stg32 | stg64 | stg128 | atgAdd | atgMinI | atgMaxI | atgAnd | atgOr | atgXor | atgXchg | atgCas |
      stgE4 | stgE6 | atgCas64 | atgFadd | redAdd | redFadd | redMinI | redMaxI => exact memIssue_issued
  case ldrq32 | ldrq128 => exact ldrq_issued
  case tex2d | texfetch | texrq | texlod => exact texIssue_issued
  case rayq | rayq64 => exact rayq_issued
  case neval | nevalH => exact neval_issued
  case xsortI | xsortN | xsortF => exact mangleSort_issued
  case xscanAddI | xscanAddF | xscanMaxI | xhist | xrank => exact mangleEach_issued
  case xredAddI | xredAddF | xredMinI | xredMaxI => exact mangleAll_issued
  case xsearch | xmatch => exact mangle_issued
  case mloadw | mswap | mstream | mdrain | mzero | ttstep | ttrun => exact matrixIssue_issued
  case fenceG | fenceD | fenceV | fenceS => exact fence_issued
  case cinv | cflush => exact maintain_issued
  case nop | sel | mov | movi | movls | frnd | fclass | drnd | dclass | ktov | vtok | f2d | d2f | d2iI | i2dI | movs | movsw |
      rdlane | wrlane | ktos | stok | vexpand | cstore | pref | raycont | rayhit | raycommit | rayabort | qfence | qstat | mstat |
      nflush | ncfg | binit | barr | bwait | bexpb | bphase | bbind | bdrop | phinit | pharr | getwork | workdone | cancel |
      ccount | enq | emitvp | vclose | refit | hpart | bra | brt | brf | call | brd | brdn | jmpr | ret | join | waitc |
      yieldSplit | exitSplit | repeatN | trapSw | sleep | setpri | brk | rett | tlbinv | sysrd | syswr | parkres | fltrec |
      cvtw | bcast => exact ⟨_, _, rfl, rfl, rfl⟩
  case cvtn => unfold execCvtn; exact ⟨_, _, rfl, rfl, rfl⟩
  case cpy => unfold execCpy; exact ⟨_, _, rfl, rfl, rfl⟩
  all_goals exact (Option.some_ne_none w hw.symm).elim

/-! ### The conditions of issue (spec/01 R40 to R43, spec/03 R78 R97 R100) -/

/-- The instruction as `gate` sees it: a literal stands for operand B (spec/01 R29). -/
def literalOp (c : Ctx) (op : Op) : Op := { op with uses := used c op.uses }

/-- Two changes of one wave are one change. -/
theorem modWave_modWave (s : State) (g w : Nat) (f h : Wave → Wave) :
    (s.modWave g w f).modWave g w h = s.modWave g w (h ∘ f) := by
  simp only [State.modWave, modGroup_modGroup]
  congr 1
  funext G
  simp [List.modify_modify_eq]

section Gate
variable {op : Op} {s : State} {c : Ctx} {b : BitVec 7} {uses : List Use} {body : Ctx → State → State × Flow}

theorem literalOp_eq : (if c.cur.lit.isSome then { op with uses := op.uses.filter (fun x => !x.isB) } else op) =
    literalOp c op := by
  cases h : c.cur.lit.isSome <;> simp [literalOp, used, h]

/-- A cause that `gate` finds is taken before any effect. -/
theorem issue_of_gate_trap {recs : List Rec} (hc : s.ctx? = some c) (hg : gate (literalOp c op) c s = .trap recs) :
    issue op s body = .next (atIssue s c recs) := by
  unfold issue
  rw [hc]
  dsimp only
  rw [literalOp_eq, hg]
  rfl

/-- An instruction that may go runs its body; a breach that goes on is recorded first. -/
theorem issue_of_gate_go {br : Bool} {e : State → State} (hc : s.ctx? = some c) (hg : gate (literalOp c op) c s = .go br)
    (hnop : op.nop = false) (hl : op.long = false) (hb : ∀ t, body c t = (e t, .next)) :
    issue op s body =
      .next (after s c fun t => e (if br then onWave c (fun wv => wv.setSticky stickyLBR) t else t)) := by
  unfold issue
  rw [hc]
  dsimp only
  rw [literalOp_eq, hg]
  cases br <;> simp [literalOp, hnop, hl, hb, after, started, State.finish, onWave, modWave_modWave, Function.comp_def]

/-- The same for an instruction that lookahead windows do not count (spec/01 R17). -/
theorem issue_of_gate_go_nop {e : State → State} (hc : s.ctx? = some c) (hg : gate (literalOp c op) c s = .go false)
    (hnop : op.nop = true) (hl : op.long = false) (hb : ∀ t, body c t = (e t, .next)) :
    issue op s body = .next (((e (reached s c)).finish c op .next).boundary c.cur.g) := by
  unfold issue
  rw [hc]
  dsimp only
  rw [literalOp_eq, hg]
  simp [literalOp, hnop, hl, hb, reached, State.finish]

/-- A literal beside a field B that is not 0, or a register outside the allocation (spec/01 R29 R32). -/
theorem issue_misplaced (hc : s.ctx? = some c) (hp : op.priv = false)
    (h : (c.cur.lit ≠ none ∧ op.litB ≠ 0#7) ∨ inAlloc c (used c op.uses) = false) :
    issue op s body = .next (atIssue s c [c.splitRec cIllegalInsn]) := by
  refine issue_of_gate_trap hc ?_
  rcases h with ⟨hlit, hB⟩ | halloc
  · have hlit' := Option.isSome_iff_ne_none.mpr hlit
    simp [gate, literalOp, hp, hlit', hB]
  · have hall : (used c op.uses ++ op.also).all (Use.inRange c.lau.lregs c.lau.sregs) = false := by
      rw [List.all_append]
      exact Bool.and_eq_false_iff.mpr (.inl halloc)
    simp [gate, literalOp, hp, hall]

/-- Poison that a lane instruction reads: a record for each lane (spec/03 R78). -/
theorem poisonRecs_lanes (hu : op.uses = used c uses) (hside : op.uni = false) (hx : op.cross = fun _ => []) :
    poisonRecs op c =
      (c.lanes.filter (poisoned c uses)).map (fun i => c.laneRec i false (Flt.plain cPoison 0#64)) := by
  have hlane : ∀ i, poisoned c uses i =
      (op.uses.any (fun x => x.uni && !x.wr && (List.range x.cnt).any (fun k => c.wave.spoison (x.reg + k))) ||
        op.uses.any (fun x => !x.uni && !x.wr && (List.range x.cnt).any (fun k => c.wave.vpoison (x.reg + k) i))) := by
    intro i
    rw [poisoned, ← hu, Bool.eq_iff_iff]
    simp only [Bool.or_eq_true, List.any_eq_true, ← exists_or, ← and_or_left]
    refine exists_congr fun x => and_congr_right fun _ => ?_
    cases x.uni <;> simp
  simp only [poisonRecs, hside, hx, List.any_nil, Bool.or_false, Bool.false_eq_true, if_false, ← hlane]

/-- Poison that a uniform instruction reads: one record of the split. -/
theorem poisonRecs_uniform (hu : op.uses = used c uses) (hside : op.uni = true) (hx : op.cross = fun _ => [])
    (hall : ∀ x ∈ uses, x.uni = true) :
    poisonRecs op c = if poisoned c uses 0 then [c.splitRec cPoison] else [] := by
  have huni : ∀ x ∈ used c uses, x.uni = true := fun x hx => hall x (by
    rw [used] at hx
    split at hx
    · exact (List.mem_filter.mp hx).1
    · exact hx)
  have hread : op.uses.any (fun x => x.uni && !x.wr && (List.range x.cnt).any (fun k => c.wave.spoison (x.reg + k))) =
      poisoned c uses 0 := by
    rw [poisoned, hu, Bool.eq_iff_iff]
    simp only [List.any_eq_true]
    exact exists_congr fun x => and_congr_right fun hx => by simp [huni x hx]
  simp only [poisonRecs, hside, hx, hread, List.any_nil, Bool.and_false, Bool.or_false, if_true]

end Gate

/-! ### Two-source register instructions -/

section TwoSource
variable {s : State} {c : Ctx} {u : Bool} {b : BitVec 7} {uses : List Use} {o : Out'}

theorem TwoSource.misplaced (h : TwoSource s u b uses none o) (hc : s.ctx? = some c)
    (hbad : (c.cur.lit ≠ none ∧ b ≠ 0#7) ∨ inAlloc c (used c uses) = false) :
    o = .next (atIssue s c [c.splitRec cIllegalInsn]) := by
  obtain ⟨body, rfl⟩ := h
  exact issue_misplaced hc rfl hbad

/-- What the conditions of issue come to for one that nothing holds. -/
theorem gate_twoSource (hf : Unheld s c b uses) :
    let op : Op := literalOp c { uni := u, litB := b, uses := uses }
    (Breach c uses → c.wave.sr.strict = true → gate op c s = .trap [c.splitRec cLookahead]) ∧
    ((¬ Breach c uses ∨ c.wave.sr.strict = false) →
      (poisonRecs op c ≠ [] → gate op c s = .trap (poisonRecs op c)) ∧
      (poisonRecs op c = [] → (Breach c uses → gate op c s = .go true) ∧ (¬ Breach c uses → gate op c s = .go false))) :=
  gate_unheld hf rfl rfl rfl rfl rfl rfl rfl rfl rfl rfl (Nat.le_refl 8) rfl rfl rfl

theorem TwoSource.breach (h : TwoSource s u b uses none o) (hf : Unheld s c b uses) (hB : Breach c uses)
    (hstrict : c.wave.sr.strict = true) : o = .next (atIssue s c [c.splitRec cLookahead]) := by
  obtain ⟨body, rfl⟩ := h
  exact issue_of_gate_trap hf.ctx ((gate_twoSource hf).1 hB hstrict)

theorem TwoSource.poison_uniform (h : TwoSource s true b uses none o) (hf : Unheld s c b uses)
    (hgo : ¬ Breach c uses ∨ c.wave.sr.strict = false) (hside : ∀ x ∈ uses, x.uni = true)
    (hbad : poisoned c uses 0 = true) : o = .next (atIssue s c [c.splitRec cPoison]) := by
  obtain ⟨body, rfl⟩ := h
  have hrecs := poisonRecs_uniform (op := literalOp c { uni := true, litB := b, uses := uses }) rfl rfl rfl hside
  rw [if_pos hbad] at hrecs
  refine issue_of_gate_trap hf.ctx ?_
  rw [← hrecs]
  exact ((gate_twoSource hf).2 hgo).1 (by simp [hrecs])

theorem TwoSource.poison_lanes (h : TwoSource s false b uses none o) (hf : Unheld s c b uses)
    (hgo : ¬ Breach c uses ∨ c.wave.sr.strict = false) (hbad : ∃ i ∈ c.lanes, poisoned c uses i = true) :
    o = .next (atIssue s c
      ((c.lanes.filter (poisoned c uses)).map (fun i => c.laneRec i false (Flt.plain cPoison 0#64)))) := by
  obtain ⟨body, rfl⟩ := h
  have hrecs := poisonRecs_lanes (op := literalOp c { uni := false, litB := b, uses := uses }) rfl rfl rfl
  refine issue_of_gate_trap hf.ctx ?_
  rw [← hrecs]
  exact ((gate_twoSource hf).2 hgo).1 (by simpa [hrecs] using hbad)

/-- Without poison it may go, and a breach without sr.strict is noted. -/
theorem gate_twoSource_go (hf : Unheld s c b uses) (hside : ∀ x ∈ uses, x.uni = u)
    (hclean : ∀ i ∈ (if u then [0] else c.lanes), poisoned c uses i = false) :
    let op : Op := literalOp c { uni := u, litB := b, uses := uses }
    (Breach c uses → c.wave.sr.strict = false → gate op c s = .go true) ∧ (¬ Breach c uses → gate op c s = .go false) := by
  have hrecs : poisonRecs (literalOp c { uni := u, litB := b, uses := uses }) c = [] := by
    cases u
    · rw [poisonRecs_lanes rfl rfl rfl, List.map_eq_nil_iff, List.filter_eq_nil_iff]
      exact fun i hi => by simp [hclean i hi]
    · rw [poisonRecs_uniform rfl rfl rfl hside, hclean 0 (by simp)]
      rfl
  exact ⟨fun hB hs => (((gate_twoSource hf).2 (.inr hs)).2 hrecs).1 hB,
    fun hB => (((gate_twoSource hf).2 (.inl hB)).2 hrecs).2 hB⟩

end TwoSource

/-! ### The tables of the statement -/

/-- The integer functions of the table, as the model runs them. -/
theorem exec_intFns : ∀ p ∈ intFns, ∀ u d a b s, exec (p.1 u d a b) s = intRR u d a b s p.2 := by
  simp only [intFns, List.forall_mem_cons, List.not_mem_nil, IsEmpty.forall_iff, implies_true, and_true]
  and_intros <;> exact fun _ _ _ _ _ => rfl

theorem intFns_twoSource : ∀ p ∈ intFns, ∀ u d a b s,
    TwoSource s u b [rdR u a, rdB u b, wrR u d] (p.1 u d a b).illFormed (exec (p.1 u d a b) s) := by
  simp only [intFns, List.forall_mem_cons, List.not_mem_nil, IsEmpty.forall_iff, implies_true, and_true]
  and_intros <;> intros <;> unfold exec <;> exact intRR_twoSource

theorem intFns3_twoSource : ∀ p ∈ intFns3, ∀ u d a b s,
    TwoSource s u b [rdR u a, rdB u b, rdR u d, wrR u d] (p.1 u d a b).illFormed (exec (p.1 u d a b) s) := by
  simp only [intFns3, List.forall_mem_cons, List.not_mem_nil, IsEmpty.forall_iff, implies_true, and_true]
  and_intros <;> intros <;> unfold exec <;> exact intRRd_twoSource

theorem packFns_twoSource : ∀ p ∈ packFns, ∀ d a b s,
    TwoSource s false b ([rdV a, rdB false b, wrV d] ++ (if p.2.1 then [rdV d] else []))
      (p.1 d a b).illFormed (exec (p.1 d a b) s) := by
  simp only [packFns, List.forall_mem_cons, List.not_mem_nil, IsEmpty.forall_iff, implies_true, and_true]
  and_intros <;> intros <;> unfold exec <;> exact packRR_twoSource

theorem floatFns_twoSource : ∀ p ∈ floatFns, ∀ u d a b s,
    TwoSource s u b ([rdR u a, rdB u b, wrR u d] ++ (if p.2.1 then [rdR u d] else []))
      (p.1 u d a b).illFormed (exec (p.1 u d a b) s) := by
  simp only [floatFns, List.forall_mem_cons, List.not_mem_nil, IsEmpty.forall_iff, implies_true, and_true]
  and_intros <;> intros <;> unfold exec <;> exact fpRR_twoSource

theorem doubleFns_twoSource : ∀ p ∈ doubleFns, ∀ u d a b s,
    TwoSource s u b ([rdR u a 2, rdB u b 2, wrR u d 2] ++ (if p.2.1 then [rdR u d 2] else []))
      (p.1 u d a b).illFormed (exec (p.1 u d a b) s) := by
  simp only [doubleFns, List.forall_mem_cons, List.not_mem_nil, IsEmpty.forall_iff, implies_true, and_true]
  and_intros <;> intros <;> unfold exec <;> exact dpRR_twoSource

theorem halfFns_twoSource : ∀ p ∈ halfFns, ∀ d a b s,
    TwoSource s false b ([rdV a, rdB false b, wrV d] ++ (if p.2.1 then [rdV d] else []))
      (p.1 d a b).illFormed (exec (p.1 d a b) s) := by
  simp only [halfFns, List.forall_mem_cons, List.not_mem_nil, IsEmpty.forall_iff, implies_true, and_true]
  and_intros <;> intros <;> unfold exec <;> exact hpRR_twoSource

theorem icmpFns_twoSource : ∀ p ∈ icmpFns, ∀ u d a b s,
    TwoSource s u b [rdR u a, rdB u b] (p.1 u d a b).illFormed (exec (p.1 u d a b) s) := by
  simp only [icmpFns, List.forall_mem_cons, List.not_mem_nil, IsEmpty.forall_iff, implies_true, and_true]
  and_intros <;> intros <;> unfold exec <;> exact icmp_twoSource

theorem fcmpFns_twoSource : ∀ p ∈ fcmpFns, ∀ u d a b s,
    TwoSource s u b [rdR u a, rdB u b] (p.1 u d a b).illFormed (exec (p.1 u d a b) s) := by
  simp only [fcmpFns, List.forall_mem_cons, List.not_mem_nil, IsEmpty.forall_iff, implies_true, and_true]
  and_intros <;> intros <;> unfold exec <;> exact fcmp_twoSource

theorem dcmpFns_twoSource : ∀ p ∈ dcmpFns, ∀ u d a b s,
    TwoSource s u b [rdR u a 2, rdB u b 2] (p.1 u d a b).illFormed (exec (p.1 u d a b) s) := by
  simp only [dcmpFns, List.forall_mem_cons, List.not_mem_nil, IsEmpty.forall_iff, implies_true, and_true]
  and_intros <;> intros <;> unfold exec <;> exact dcmp_twoSource

/-- Every register instruction of groups 0 to 4 with two sources has the registers that its table gives. -/
theorem sourceFns_twoSource : ∀ p ∈ sourceFns, ∀ u d a b s, (u = false ∨ p.2.1 = true) →
    TwoSource s u b (p.2.2 u d a b) (p.1 u d a b).illFormed (exec (p.1 u d a b) s) := by
  simp only [sourceFns, List.forall_mem_append, List.forall_mem_map]
  refine ⟨⟨⟨⟨⟨⟨⟨⟨?int, ?int3⟩, ?pack⟩, ?float⟩, ?double⟩, ?half⟩, ?icmp⟩, ?fcmp⟩, ?dcmp⟩
  case int => exact fun p hp u d a b s _ => intFns_twoSource p hp u d a b s
  case int3 => exact fun p hp u d a b s _ => intFns3_twoSource p hp u d a b s
  case pack => rintro p hp u d a b s (rfl | h); exacts [packFns_twoSource p hp d a b s, absurd h Bool.false_ne_true]
  case float => exact fun p hp u d a b s _ => floatFns_twoSource p hp u d a b s
  case double => exact fun p hp u d a b s _ => doubleFns_twoSource p hp u d a b s
  case half => rintro p hp u d a b s (rfl | h); exacts [halfFns_twoSource p hp d a b s, absurd h Bool.false_ne_true]
  case icmp => exact fun p hp u d a b s _ => icmpFns_twoSource p hp u d a b s
  case fcmp => exact fun p hp u d a b s _ => fcmpFns_twoSource p hp u d a b s
  case dcmp => exact fun p hp u d a b s _ => dcmpFns_twoSource p hp u d a b s

/-- Its registers are all of its own side. -/
theorem sourceFns_side : ∀ p ∈ sourceFns, ∀ u d a b, ∀ x ∈ p.2.2 u d a b, x.uni = u := by
  simp only [sourceFns, List.forall_mem_append, List.forall_mem_map]
  simp [rdR, rdB, wrR]

/-! ### Units that the core has not (spec/00 R4, spec/01 R43) -/

/-- A ray instruction whose whole block at `a` lies in the allocation has the part of it that the unit reads there too. -/
theorem inAlloc_rayBlock {c : Ctx} {d a b : BitVec 7} {n : Nat}
    (h : inAlloc c (used c [rdV a n, rdV b 4, wrV d 8]) = true) (m : Nat) (hm : m ≤ n) :
    inAlloc c (used c [rdV a m, rdV b 4, wrV d 8]) = true ∧ inAlloc c [rdV a n] = true := by
  have hused : ∀ k, used c [rdV a k, rdV b 4, wrV d 8] = [rdV a k, rdV b 4, wrV d 8] := fun k => by
    simp [used, rdV, wrV]
  rw [hused] at h ⊢
  simp [inAlloc, Use.inRange, rdV, wrV] at h ⊢
  omega

theorem rayq_absent {s : State} {c : Ctx} {wide : Bool} {d a b : BitVec 7} {rules : List Rule} (hc : s.ctx? = some c)
    (hrun : runsOn .shading s c.grp.core = false) (hwell : firstBroken rules = none)
    (halloc : inAlloc c (used c [rdV a (if wide then 12 else 8), rdV b 4, wrV d 8]) = true) :
    Machine.rayq wide d a b rules s = .next (atIssue s c [c.splitRec cUnitAbsent]) := by
  obtain ⟨huses, halso⟩ := inAlloc_rayBlock halloc (if wide then 11 else 8) (by cases wide <;> decide)
  unfold Machine.rayq
  exact issue_absent hc hrun hwell rfl rfl rfl (.inr rfl) huses halso

theorem neval_absent {s : State} {c : Ctx} {h : Bool} {d a b : BitVec 7} (hc : s.ctx? = some c)
    (hrun : runsOn .shading s c.grp.core = false) (hlit : c.cur.lit = none ∨ b = 0#7)
    (halloc : inAlloc c (used c ([rdB false b] ++ ((c.grp.net).map (fun n => [rdV a n.2.1, wrV d n.2.2])).getD [])) = true) :
    Machine.neval h d a b s = .next (atIssue s c [c.splitRec cUnitAbsent]) := by
  have hnet : s.curNet = c.grp.net := by simp [State.curNet, hc]
  unfold Machine.neval
  refine issue_absent hc hrun rfl rfl rfl rfl hlit ?_ rfl
  rw [hnet]
  cases hn : c.grp.net <;> simpa [hn] using halloc

theorem matrixIssue_absent {s : State} {c : Ctx} {op rules a n dreg nd bd check rows} (hc : s.ctx? = some c)
    (hrun : runsOn .shading s c.grp.core = false) (hwell : firstBroken rules = none)
    (halloc : inAlloc c (used c ((if n = 0 then [] else [rdS a n]) ++ (dreg.map (fun d => [wrS d nd])).getD [])) = true) :
    matrixIssue op rules a n dreg nd bd check rows s = .next (atIssue s c [c.splitRec cUnitAbsent]) := by
  unfold matrixIssue
  refine issue_absent hc hrun hwell rfl rfl rfl (.inr rfl) ?_ rfl
  cases dreg <;> exact halloc

theorem unitFns_absent : ∀ p ∈ unitFns, ∀ d a b s c, (p.1 d a b).illFormed = none → s.ctx? = some c →
    (c.cur.lit = none ∨ b = 0#7) → inAlloc c (used c (p.2.2 c d a b)) = true → runsOn p.2.1 s c.grp.core = false →
    exec (p.1 d a b) s = .next (atIssue s c [c.splitRec cUnitAbsent]) := by
  simp only [unitFns, List.forall_mem_cons, List.not_mem_nil, IsEmpty.forall_iff, implies_true, and_true]
  refine ⟨?rayq, ?rayq64, ?raycont, ?rayhit, ?raycommit, ?rayabort, ?neval, ?nevalH, ?nflush, ?ncfg, ?hpart, ?mloadw, ?mswap,
    ?mstream, ?mdrain, ?mzero, ?mstat, ?ttstep, ?ttrun, ?emitvp, ?vclose⟩ <;>
    (intro d a b s c hwell hc hlit halloc hrun; unfold exec)
  case rayq | rayq64 => exact rayq_absent hc hrun hwell halloc
  case neval | nevalH => exact neval_absent hc hrun hlit halloc
  case mloadw | mswap | mstream | mdrain | mzero | ttstep | ttrun => exact matrixIssue_absent hc hrun hwell halloc
  case raycont | raycommit => exact issue_absent hc hrun hwell rfl rfl rfl hlit halloc rfl
  case rayhit | rayabort | nflush | ncfg | hpart | mstat | emitvp | vclose =>
    exact issue_absent hc hrun hwell rfl rfl rfl (.inr rfl) halloc rfl

/-! ### `NOP` -/

theorem exec_nop_next {s : State} {c : Ctx} (hc : s.ctx? = some c) :
    exec .nop s = .next ((State.finish (reached s c) c { uni := true, nop := true } .next).boundary c.cur.g) := by
  have hg : gate (literalOp c { uni := true, nop := true }) c s = .go false := by
    simp [gate, literalOp, used, runsOn]
  rw [exec_nop, execNop]
  exact issue_of_gate_go_nop (e := id) hc hg rfl rfl fun _ => rfl

/-- An integer function that may go, with the breach noted that goes on without sr.strict. -/
theorem intRR_of_gate_go {br : Bool} {u : Bool} {d a b : BitVec 7} {s : State} {c : Ctx} {f : Word → Word → Word}
    (hc : s.ctx? = some c)
    (hg : gate (literalOp c { uni := u, litB := b, uses := [rdR u a, rdB u b, wrR u d] }) c s = .go br) :
    intRR u d a b s f = .next (after s c fun t => onWave c (results c u d (pure1 fun i => f (c.A u a i) (c.B u b i)))
      (if br then onWave c (fun wv => wv.setSticky stickyLBR) t else t)) :=
  issue_of_gate_go (e := onWave c (results c u d (pure1 fun i => f (c.A u a i) (c.B u b i)))) hc hg rfl rfl
    fun _ => compute_clear (pure1_noTrap ..)

/-- Settles O54: each clause is one branch of the conditions of issue, for the instructions of its table. -/
theorem illFormedTraps : Obligations.IllFormedTraps := by
  unfold Obligations.IllFormedTraps
  refine ⟨unitFns_absent, ?sources, ?integers, ?words⟩
  case sources =>
    intro p hp u d a b s c hu hwell hc
    have hsrc := sourceFns_twoSource p hp u d a b s hu
    rw [hwell] at hsrc
    refine ⟨hsrc.misplaced hc, fun hf => ⟨hsrc.breach hf, fun hgo => ⟨?_, ?_⟩⟩⟩
    · rintro ⟨rfl, hbad⟩
      exact hsrc.poison_uniform hf hgo (sourceFns_side p hp true d a b) hbad
    · rintro rfl hbad
      exact hsrc.poison_lanes hf hgo hbad
  case integers =>
    intro p hp u d a b s c hf
    dsimp only
    intro hclean
    obtain ⟨hbreach, hno⟩ := gate_twoSource_go hf (by simp [rdR, rdB, wrR]) hclean
    rw [exec_intFns p hp]
    exact ⟨fun hB hs => (intRR_of_gate_go hf.ctx (hbreach hB hs)).trans rfl,
      fun hB => (intRR_of_gate_go hf.ctx (hno hB)).trans rfl⟩
  case words =>
    intro i w s c hw hc
    obtain ⟨op, body, hexec, hbad, hpriv⟩ := exec_issued s hw
    rw [hexec]
    refine ⟨fun htrap hlevel => issue_priv hc (hpriv.trans htrap) hlevel, fun m hm hlevel => ?_, exec_nop_next hc⟩
    exact issue_bad hc (hbad.trans hm) (hpriv ▸ hlevel)

end Sys2Proof.Proofs

namespace Sys2Proof.Proofs

open Sys2Proof Sys2Proof.Machine Sys2Proof.Laws

/-! ### A word that decodes (spec/01 R21 to R28, R42) -/

/-- What the decoder answers goes back to the word: the instruction that it gives, if any, has that word. -/
def ReadFrom (w : Word) (r : Except DecodeError Instr) : Prop := ∀ i, r = .ok i → encode i = some w

theorem readFrom_ok {w : Word} {i : Instr} : ReadFrom w (.ok i) ↔ encode i = some w := by
  simp [ReadFrom]

theorem readFrom_error {w : Word} {e : DecodeError} : ReadFrom w (.error e) := by
  simp [ReadFrom]

/-- Fields that must be 0 are 0 in the word that goes back. -/
theorem readFrom_zeroed {w : Word} {ok : Bool} {i : Instr} :
    ReadFrom w (zeroed ok i) ↔ (ok = true → encode i = some w) := by
  cases ok <;> simp [zeroed, ReadFrom]

/-- Every answer of a group of the encoding tables goes back to its word. -/
def GroupReadFrom (s : Bool) (g : BitVec 4)
    (group : BitVec 6 → BitVec 7 → BitVec 7 → BitVec 7 → Except DecodeError Instr) : Prop :=
  ∀ f d a b, ReadFrom (word s g f d a b) (group f d a b)

section
variable {s u : Bool} {g : BitVec 4} {f : BitVec 6} {d a b : BitVec 7}

theorem encode_movi_append : encode (.movi u d (a ++ b)) = some (word u 0x0#4 0x39#6 d a b) := by
  change some (word u 0x0#4 0x39#6 d ((a ++ b).extractLsb' 7 7) ((a ++ b).extractLsb' 0 7)) = _
  rw [BitVec.extractLsb'_append_eq_left, BitVec.extractLsb'_append_eq_right]

theorem encode_repeatN_append (h : a.extractLsb' 5 2 = 0#2) :
    encode (.repeatN (a.extractLsb' 0 5 ++ b)) = some (word true 0xD#4 0x6#6 0#7 a b) := by
  have ha : 0#2 ++ (a.extractLsb' 0 5 ++ b).extractLsb' 7 5 = a := by
    rw [BitVec.extractLsb'_append_eq_left, ← h]
    exact BitVec.extractLsb'_append_extractLsb' (w := 2) (len := 5)
  change some (word true 0xD#4 0x6#6 0#7 _ ((a.extractLsb' 0 5 ++ b).extractLsb' 0 7)) = _
  rw [ha, BitVec.extractLsb'_append_eq_right]

/-- The offset of a branch lies in the three register fields (spec/01 R28). -/
theorem word_offset {o : BitVec 21} (h : o = d ++ a ++ b) :
    word s g f (o.extractLsb' 14 7) (o.extractLsb' 7 7) (o.extractLsb' 0 7) = word s g f d a b := by
  have hd : o.extractLsb' 14 7 = d := by
    rw [h, BitVec.append_assoc]
    exact BitVec.extractLsb'_append_eq_left
  have ha : o.extractLsb' 7 7 = a := by
    rw [h, BitVec.extractLsb'_append_eq_of_le (by omega)]
    exact BitVec.extractLsb'_append_eq_right
  rw [hd, ha, h, BitVec.extractLsb'_append_eq_right]

/-- Loads and stores: the field B holds ORD and the base pair (spec/01 R25). -/
theorem memoryGroups_readFrom :
    GroupReadFrom false 0x8#4 laneG8 ∧ GroupReadFrom false 0x9#4 laneG9 ∧
    GroupReadFrom true 0x8#4 uniG8 ∧ GroupReadFrom true 0x9#4 uniG9 := by
  and_intros <;> intro f d a b <;>
    rw [← BitVec.extractLsb'_append_extractLsb' (w := 3) (len := 4) (x := b)]
  all_goals
    simp only [laneG8, laneG9, uniG8, uniG9, ord_append, base_append]
    split <;> simp only [readFrom_ok, readFrom_error]
  all_goals
    obtain ⟨-, rfl⟩ := BitVec.toNat_eq_nat.mp ‹f.toNat = _›
    rfl

/-- Branches: the function field holds the kind and the condition bit (spec/01 R28). -/
theorem branchGroup_readFrom : GroupReadFrom true 0xC#4 uniG12 := by
  intro f d a b
  rw [← BitVec.extractLsb'_append_extractLsb' (w := 3) (len := 3) (x := f)]
  generalize f.extractLsb' 3 3 = k
  generalize f.extractLsb' 0 3 = c
  simp only [uniG12, RoundTrip.high3, RoundTrip.low3]
  split <;> simp only [readFrom_ok, readFrom_error, readFrom_zeroed, beq_iff_eq]
  all_goals
    obtain ⟨-, rfl⟩ := BitVec.toNat_eq_nat.mp ‹k.toNat = _›
    intros
    subst_vars
    exact congrArg some (word_offset rfl)

/-- Every other group of the lane side: the function names the instruction, and the fields are its operands. -/
theorem laneGroups_readFrom :
    GroupReadFrom false 0x0#4 laneG0 ∧ GroupReadFrom false 0x1#4 laneG1 ∧ GroupReadFrom false 0x2#4 laneG2 ∧
    GroupReadFrom false 0x3#4 laneG3 ∧ GroupReadFrom false 0x4#4 laneG4 ∧ GroupReadFrom false 0x5#4 laneG5 ∧
    GroupReadFrom false 0x6#4 laneG6 ∧ GroupReadFrom false 0x7#4 laneG7 ∧ GroupReadFrom false 0xA#4 laneG10 ∧
    GroupReadFrom false 0xB#4 laneG11 ∧ GroupReadFrom false 0xC#4 laneG12 ∧ GroupReadFrom false 0xD#4 laneG13 := by
  and_intros <;> intro f d a b
  all_goals
    simp only [laneG0, laneG1, laneG2, laneG3, laneG4, laneG5, laneG6, laneG7, laneG10, laneG11, laneG12, laneG13]
    split <;> simp +contextual only [readFrom_ok, readFrom_error, readFrom_zeroed, Bool.and_eq_true, beq_iff_eq, and_imp,
      encode_movi_append]
  all_goals
    obtain ⟨-, rfl⟩ := BitVec.toNat_eq_nat.mp ‹f.toNat = _›
    intros
    rfl

/-- Every other group of the uniform side, `REPEAT` with its count across two fields. -/
theorem uniGroups_readFrom :
    GroupReadFrom true 0x0#4 uniG0 ∧ GroupReadFrom true 0x2#4 uniG2 ∧ GroupReadFrom true 0x3#4 uniG3 ∧
    GroupReadFrom true 0x4#4 uniG4 ∧ GroupReadFrom true 0x5#4 uniG5 ∧ GroupReadFrom true 0x6#4 uniG6 ∧
    GroupReadFrom true 0x7#4 uniG7 ∧ GroupReadFrom true 0xA#4 uniG10 ∧ GroupReadFrom true 0xB#4 uniG11 ∧
    GroupReadFrom true 0xD#4 uniG13 ∧ GroupReadFrom true 0xE#4 uniG14 := by
  and_intros <;> intro f d a b
  all_goals
    simp only [uniG0, uniG2, uniG3, uniG4, uniG5, uniG6, uniG7, uniG10, uniG11, uniG13, uniG14]
    split <;> simp +contextual only [readFrom_ok, readFrom_error, readFrom_zeroed, Bool.and_eq_true, beq_iff_eq, and_imp,
      encode_movi_append, encode_repeatN_append]
  all_goals
    obtain ⟨-, rfl⟩ := BitVec.toNat_eq_nat.mp ‹f.toNat = _›
    intros
    rfl

theorem decodeParts_readFrom : ReadFrom (word s g f d a b) (decodeParts s g f d a b) := by
  obtain ⟨m8, m9, n8, n9⟩ := memoryGroups_readFrom
  obtain ⟨l0, l1, l2, l3, l4, l5, l6, l7, l10, l11, l12, l13⟩ := laneGroups_readFrom
  obtain ⟨u0, u2, u3, u4, u5, u6, u7, u10, u11, u13, u14⟩ := uniGroups_readFrom
  have u12 := branchGroup_readFrom
  unfold decodeParts
  split
  case h_29 => exact readFrom_error
  all_goals obtain ⟨-, rfl⟩ := BitVec.toNat_eq_nat.mp ‹g.toNat = _›
  exacts [l0 f d a b, l1 f d a b, l2 f d a b, l3 f d a b, l4 f d a b, l5 f d a b, l6 f d a b, l7 f d a b, m8 f d a b, m9 f d a b,
    l10 f d a b, l11 f d a b, l12 f d a b, l13 f d a b, u0 f d a b, u2 f d a b, u3 f d a b, u4 f d a b, u5 f d a b, u6 f d a b,
    u7 f d a b, n8 f d a b, n9 f d a b, u10 f d a b, u11 f d a b, u12 f d a b, u13 f d a b, u14 f d a b]

end

/-- Settles O53: the decoder's tables go back to the word group by group, and a word is put together from its parts. -/
theorem encodeOfDecode : Obligations.EncodeOfDecode := by
  intro w i h
  have hw := decodeParts_readFrom i h
  rwa [word_parts] at hw

/-- Settles O52: one lemma for each instruction, in the order of `Instr`. -/
theorem decodeOfEncode : Obligations.DecodeOfEncode := by
  intro i
  cases i
  exacts [RoundTrip.powerOn, RoundTrip.bootReq, RoundTrip.bootOffer _ _ _, RoundTrip.bootData _ _ _,
    RoundTrip.bootTransferTimeout, RoundTrip.watchdogExpiry, RoundTrip.columnReady _, RoundTrip.backgroundTest _ _ _,
    RoundTrip.linkFlitError _ _ _ _, RoundTrip.ptpMessage _ _ _ _ _, RoundTrip.clockTargetUpdate _ _,
    RoundTrip.powerMeasure _, RoundTrip.tempSample _ _, RoundTrip.refreshClassFall _, RoundTrip.refreshBurst _ _,
    RoundTrip.refreshCharge _, RoundTrip.doorbellTail _ _, RoundTrip.doorbellChead _ _, RoundTrip.launchEntry _,
    RoundTrip.graphEntry _, RoundTrip.graphNodeStart _ _, RoundTrip.waitEntry _, RoundTrip.waitReread _,
    RoundTrip.waitTimeout _, RoundTrip.cancelEntry _, RoundTrip.frameEntry _, RoundTrip.invalEntry _,
    RoundTrip.resumeEntry _, RoundTrip.completionWrite _ _, RoundTrip.groupPlacement _ _ _ _ _ _ _ _,
    RoundTrip.bindRecordWrite _ _ _, RoundTrip.waveRetire _ _, RoundTrip.groupSave _,
    RoundTrip.groupRestore _ _ _ _ _ _ _, RoundTrip.bundleFetch _ _ _, RoundTrip.starvationPromote _ _,
    RoundTrip.loadDataReturn _ _ _ _, RoundTrip.storeComplete _ _ _ _ _, RoundTrip.reductionApply _,
    RoundTrip.faultServiceRequest _ _, RoundTrip.faultServiceDone _ _ _, RoundTrip.sleepWake _ _ _,
    RoundTrip.specialFunctionComplete _ _ _, RoundTrip.barrReleasePerformed _ _ _, RoundTrip.phaseTreeComplete _,
    RoundTrip.copyCommandRun _ _ _, RoundTrip.copyFaultResume _ _, RoundTrip.copyCommandComplete _ _,
    RoundTrip.qfenceComplete _ _, RoundTrip.hpartComplete _, RoundTrip.cacheMaintComplete _,
    RoundTrip.mangleReply _ _ _, RoundTrip.mloadwStart _, RoundTrip.mloadwComplete _, RoundTrip.mswapPerform _,
    RoundTrip.mstreamStart _, RoundTrip.mstreamComplete _, RoundTrip.mdrainRun _, RoundTrip.mzeroRun _,
    RoundTrip.chainStep _, RoundTrip.gatherWindowExpiry _ _, RoundTrip.gatherTileForm _,
    RoundTrip.gatherFetchComplete _, RoundTrip.gatherScatter _ _, RoundTrip.rayTraversalStop _ _,
    RoundTrip.textureFetchComplete _ _ _ _, RoundTrip.refitNodeProcess _ _, RoundTrip.refitComplete _,
    RoundTrip.emitvpComplete _, RoundTrip.vcloseComplete _, RoundTrip.packetArrival _ _, RoundTrip.tokenArrival _ _,
    RoundTrip.rasterise _ _, RoundTrip.reprojectionComplete _ _, RoundTrip.frameEnd _, RoundTrip.pcSample _,
    RoundTrip.breakBitStop _ _ _, RoundTrip.watchpointStop _ _ _, RoundTrip.dctlOwn _ _ _, RoundTrip.dctlHalt _ _,
    RoundTrip.dctlResume _ _, RoundTrip.dctlIcinv _, RoundTrip.dctlDump _ _, RoundTrip.spop _ _,
    RoundTrip.debugRegWrite _ _ _, RoundTrip.hostRdmaAccess _ _ _ _ _, RoundTrip.jobCreate _ _ _ _,
    RoundTrip.jobDestroy _ _ _ _, RoundTrip.cfgRd _ _ _ _, RoundTrip.cfgWr _ _ _ _, RoundTrip.dbgRd _ _ _ _,
    RoundTrip.dbgWr _ _ _ _, RoundTrip.powerLimit _ _ _ _, RoundTrip.errlog _ _ _ _, RoundTrip.attest _ _ _ _,
    RoundTrip.darnRd _ _ _ _, RoundTrip.darnApply _ _ _ _, RoundTrip.colAlloc _ _ _ _, RoundTrip.colFree _ _ _ _,
    RoundTrip.resetService _ _ _ _, RoundTrip.nop, RoundTrip.iadd _ _ _ _, RoundTrip.isub _ _ _ _,
    RoundTrip.imul _ _ _ _, RoundTrip.imulhI _ _ _ _, RoundTrip.imulhN _ _ _ _, RoundTrip.imad _ _ _ _,
    RoundTrip.iand _ _ _ _, RoundTrip.ior _ _ _ _, RoundTrip.ixor _ _ _ _, RoundTrip.iandn _ _ _ _,
    RoundTrip.shl _ _ _ _, RoundTrip.shr _ _ _ _, RoundTrip.sar _ _ _ _, RoundTrip.iminI _ _ _ _,
    RoundTrip.iminN _ _ _ _, RoundTrip.imaxI _ _ _ _, RoundTrip.imaxN _ _ _ _, RoundTrip.iabs _ _ _,
    RoundTrip.clz _ _ _, RoundTrip.popc _ _ _, RoundTrip.brev _ _ _, RoundTrip.bfxI _ _ _ _, RoundTrip.bfxN _ _ _ _,
    RoundTrip.bfi _ _ _ _, RoundTrip.sel _ _ _ _ _, RoundTrip.iaddI _ _ _ _, RoundTrip.isubI _ _ _ _,
    RoundTrip.imulI _ _ _ _, RoundTrip.imulhII _ _ _ _, RoundTrip.imulhNI _ _ _ _, RoundTrip.imadI _ _ _ _,
    RoundTrip.iandI _ _ _ _, RoundTrip.iorI _ _ _ _, RoundTrip.ixorI _ _ _ _, RoundTrip.iandnI _ _ _ _,
    RoundTrip.shlI _ _ _ _, RoundTrip.shrI _ _ _ _, RoundTrip.sarI _ _ _ _, RoundTrip.iminII _ _ _ _,
    RoundTrip.iminNI _ _ _ _, RoundTrip.imaxII _ _ _ _, RoundTrip.imaxNI _ _ _ _, RoundTrip.bfxII _ _ _ _,
    RoundTrip.bfxNI _ _ _ _, RoundTrip.bfiI _ _ _ _, RoundTrip.mov _ _ _, RoundTrip.movi _ _ _,
    RoundTrip.iadd64 _ _ _ _, RoundTrip.isub64 _ _ _ _, RoundTrip.imulwI _ _ _ _, RoundTrip.imulwN _ _ _ _,
    RoundTrip.movls _ _, RoundTrip.paddH2 _ _ _, RoundTrip.paddsH2 _ _ _, RoundTrip.psubH2 _ _ _,
    RoundTrip.psubsH2 _ _ _, RoundTrip.paddB4 _ _ _, RoundTrip.paddsB4 _ _ _, RoundTrip.psubsB4 _ _ _,
    RoundTrip.pmaddH2 _ _ _, RoundTrip.pmaddB4 _ _ _, RoundTrip.iadds _ _ _, RoundTrip.isubs _ _ _,
    RoundTrip.shrr _ _ _, RoundTrip.shrrsH2 _ _ _, RoundTrip.packH2 _ _ _, RoundTrip.packsH2 _ _ _,
    RoundTrip.pminH2 _ _ _, RoundTrip.pmaxH2 _ _ _, RoundTrip.paddH2I _ _ _, RoundTrip.paddsH2I _ _ _,
    RoundTrip.psubH2I _ _ _, RoundTrip.psubsH2I _ _ _, RoundTrip.paddB4I _ _ _, RoundTrip.paddsB4I _ _ _,
    RoundTrip.psubsB4I _ _ _, RoundTrip.pmaddH2I _ _ _, RoundTrip.pmaddB4I _ _ _, RoundTrip.iaddsI _ _ _,
    RoundTrip.isubsI _ _ _, RoundTrip.shrrI _ _ _, RoundTrip.shrrsH2I _ _ _, RoundTrip.packH2I _ _ _,
    RoundTrip.packsH2I _ _ _, RoundTrip.pminH2I _ _ _, RoundTrip.pmaxH2I _ _ _, RoundTrip.fadd _ _ _ _,
    RoundTrip.fsub _ _ _ _, RoundTrip.fmul _ _ _ _, RoundTrip.ffma _ _ _ _, RoundTrip.fmin _ _ _ _,
    RoundTrip.fmax _ _ _ _, RoundTrip.fabs _ _ _, RoundTrip.fneg _ _ _, RoundTrip.hadd2 _ _ _, RoundTrip.hmul2 _ _ _,
    RoundTrip.hfma2 _ _ _, RoundTrip.bfma2 _ _ _, RoundTrip.frnd _ _ _, RoundTrip.fclass _ _, RoundTrip.dadd _ _ _ _,
    RoundTrip.dsub _ _ _ _, RoundTrip.dmul _ _ _ _, RoundTrip.dfma _ _ _ _, RoundTrip.dmin _ _ _ _,
    RoundTrip.dmax _ _ _ _, RoundTrip.dabs _ _ _, RoundTrip.dneg _ _ _, RoundTrip.drnd _ _ _, RoundTrip.dclass _ _,
    RoundTrip.icmpIEq _ _ _ _, RoundTrip.icmpINe _ _ _ _, RoundTrip.icmpILt _ _ _ _, RoundTrip.icmpILe _ _ _ _,
    RoundTrip.icmpIGt _ _ _ _, RoundTrip.icmpIGe _ _ _ _, RoundTrip.icmpNLt _ _ _ _, RoundTrip.icmpNLe _ _ _ _,
    RoundTrip.icmpNGt _ _ _ _, RoundTrip.icmpNGe _ _ _ _, RoundTrip.fcmpEq _ _ _ _, RoundTrip.fcmpNe _ _ _ _,
    RoundTrip.fcmpLt _ _ _ _, RoundTrip.fcmpLe _ _ _ _, RoundTrip.fcmpGt _ _ _ _, RoundTrip.fcmpGe _ _ _ _,
    RoundTrip.fcmpUn _ _ _ _, RoundTrip.fcmpOrd _ _ _ _, RoundTrip.dcmpEq _ _ _ _, RoundTrip.dcmpNe _ _ _ _,
    RoundTrip.dcmpLt _ _ _ _, RoundTrip.dcmpLe _ _ _ _, RoundTrip.dcmpGt _ _ _ _, RoundTrip.dcmpGe _ _ _ _,
    RoundTrip.dcmpUn _ _ _ _, RoundTrip.dcmpOrd _ _ _ _, RoundTrip.kand _ _ _, RoundTrip.kor _ _ _,
    RoundTrip.kxor _ _ _, RoundTrip.kandn _ _ _, RoundTrip.knot _ _, RoundTrip.kmov _ _, RoundTrip.ktov _ _,
    RoundTrip.vtok _ _, RoundTrip.cand _ _ _, RoundTrip.cor _ _ _, RoundTrip.cxor _ _ _, RoundTrip.candn _ _ _,
    RoundTrip.cnot _ _, RoundTrip.cmov _ _, RoundTrip.f2iI _ _ _, RoundTrip.f2iN _ _ _, RoundTrip.i2fI _ _,
    RoundTrip.i2fN _ _, RoundTrip.f2d _ _, RoundTrip.d2f _ _, RoundTrip.d2iI _ _ _, RoundTrip.i2dI _ _,
    RoundTrip.f2h2 _ _ _, RoundTrip.h2fLo _ _, RoundTrip.h2fHi _ _, RoundTrip.f2bf2 _ _ _, RoundTrip.bf2fLo _ _,
    RoundTrip.bf2fHi _ _, RoundTrip.cvtn _ _ _, RoundTrip.cvtw _ _ _, RoundTrip.movs _ _, RoundTrip.movsw _ _,
    RoundTrip.rdlane _ _ _, RoundTrip.wrlane _ _ _, RoundTrip.ktos _ _ _, RoundTrip.stok _ _ _, RoundTrip.shfl _ _ _,
    RoundTrip.shflx _ _ _, RoundTrip.slideup _ _ _, RoundTrip.slidedn _ _ _, RoundTrip.slideuph _ _ _,
    RoundTrip.slidednh _ _ _, RoundTrip.bcast _ _ _, RoundTrip.vcompress _ _ _, RoundTrip.vcompressZ _ _ _,
    RoundTrip.vexpand _ _ _, RoundTrip.voteany _ _, RoundTrip.voteall _ _, RoundTrip.ballot _ _, RoundTrip.rcp _ _,
    RoundTrip.rsq _ _, RoundTrip.sqrt _ _, RoundTrip.log2 _ _, RoundTrip.exp2 _ _, RoundTrip.sin _ _,
    RoundTrip.cos _ _, RoundTrip.tanh _ _, RoundTrip.drcp _ _, RoundTrip.dsqrt _ _, RoundTrip.ldlN8 _ _ _ _ _,
    RoundTrip.ldlI8 _ _ _ _ _, RoundTrip.ldlN16 _ _ _ _ _, RoundTrip.ldlI16 _ _ _ _ _, RoundTrip.ldl32 _ _ _ _ _,
    RoundTrip.ldl64 _ _ _ _ _, RoundTrip.ldl128 _ _ _ _ _, RoundTrip.stl8 _ _ _ _ _, RoundTrip.stl16 _ _ _ _ _,
    RoundTrip.stl32 _ _ _ _ _, RoundTrip.stl64 _ _ _ _ _, RoundTrip.stl128 _ _ _ _ _, RoundTrip.atlAdd _ _ _ _ _,
    RoundTrip.atlMinI _ _ _ _ _, RoundTrip.atlMaxI _ _ _ _ _, RoundTrip.atlAnd _ _ _ _ _, RoundTrip.atlOr _ _ _ _ _,
    RoundTrip.atlXor _ _ _ _ _, RoundTrip.atlXchg _ _ _ _ _, RoundTrip.atlCas _ _ _ _ _, RoundTrip.stlE4 _ _ _ _,
    RoundTrip.stlE6 _ _ _ _, RoundTrip.ldgN8 _ _ _ _ _, RoundTrip.ldgI8 _ _ _ _ _, RoundTrip.ldgN16 _ _ _ _ _,
    RoundTrip.ldgI16 _ _ _ _ _, RoundTrip.ldg32 _ _ _ _ _, RoundTrip.ldg64 _ _ _ _ _, RoundTrip.ldg128 _ _ _ _ _,
    RoundTrip.stg8 _ _ _ _ _, RoundTrip.stg16 _ _ _ _ _, RoundTrip.stg32 _ _ _ _ _, RoundTrip.stg64 _ _ _ _ _,
    RoundTrip.stg128 _ _ _ _ _, RoundTrip.atgAdd _ _ _ _ _, RoundTrip.atgMinI _ _ _ _ _, RoundTrip.atgMaxI _ _ _ _ _,
    RoundTrip.atgAnd _ _ _ _ _, RoundTrip.atgOr _ _ _ _ _, RoundTrip.atgXor _ _ _ _ _, RoundTrip.atgXchg _ _ _ _ _,
    RoundTrip.atgCas _ _ _ _ _, RoundTrip.stgE4 _ _ _ _ _, RoundTrip.stgE6 _ _ _ _ _, RoundTrip.atgCas64 _ _ _ _ _,
    RoundTrip.atgFadd _ _ _ _ _, RoundTrip.redAdd _ _ _ _ _, RoundTrip.redFadd _ _ _ _ _,
    RoundTrip.redMinI _ _ _ _ _, RoundTrip.redMaxI _ _ _ _ _, RoundTrip.ldrq32 _ _ _ _, RoundTrip.ldrq128 _ _ _ _,
    RoundTrip.cstore _ _ _ _, RoundTrip.pref _ _ _ _, RoundTrip.tex2d _ _ _, RoundTrip.texfetch _ _ _,
    RoundTrip.texrq _ _ _, RoundTrip.texlod _ _ _, RoundTrip.rayq _ _ _, RoundTrip.rayq64 _ _ _,
    RoundTrip.raycont _ _, RoundTrip.rayhit _, RoundTrip.raycommit _ _ _, RoundTrip.rayabort, RoundTrip.neval _ _ _,
    RoundTrip.nevalH _ _ _, RoundTrip.xsortI _ _ _, RoundTrip.xsortN _ _ _, RoundTrip.xsortF _ _ _,
    RoundTrip.xscanAddI _ _, RoundTrip.xscanAddF _ _, RoundTrip.xscanMaxI _ _, RoundTrip.xredAddI _ _,
    RoundTrip.xredAddF _ _, RoundTrip.xredMinI _ _, RoundTrip.xredMaxI _ _, RoundTrip.xhist _ _, RoundTrip.xrank _ _,
    RoundTrip.xsearch _ _ _, RoundTrip.xmatch _ _, RoundTrip.cpy _ _ _, RoundTrip.qfence _ _, RoundTrip.qstat _ _ _,
    RoundTrip.mloadw _, RoundTrip.mswap, RoundTrip.mstream _, RoundTrip.mdrain _, RoundTrip.mzero _,
    RoundTrip.mstat _, RoundTrip.ttstep _, RoundTrip.ttrun _ _, RoundTrip.nflush, RoundTrip.ncfg _,
    RoundTrip.binit _ _ _, RoundTrip.barr _ _ _, RoundTrip.bwait _ _, RoundTrip.bexpb _ _, RoundTrip.bphase _ _,
    RoundTrip.bbind _ _ _, RoundTrip.bdrop _ _, RoundTrip.fenceG, RoundTrip.fenceD, RoundTrip.fenceV,
    RoundTrip.fenceS, RoundTrip.phinit _ _, RoundTrip.pharr _ _, RoundTrip.getwork _, RoundTrip.workdone _,
    RoundTrip.cancel _ _, RoundTrip.ccount _ _, RoundTrip.enq _ _ _, RoundTrip.emitvp _ _, RoundTrip.vclose _ _,
    RoundTrip.refit _ _, RoundTrip.hpart _ _, RoundTrip.cinv _, RoundTrip.cflush _, RoundTrip.bra _,
    RoundTrip.brt _ _, RoundTrip.brf _ _, RoundTrip.call _, RoundTrip.brd _ _, RoundTrip.brdn _ _, RoundTrip.jmpr _,
    RoundTrip.ret, RoundTrip.join _, RoundTrip.waitc _ _, RoundTrip.yieldSplit, RoundTrip.exitSplit,
    RoundTrip.repeatN _, RoundTrip.trapSw _, RoundTrip.sleep _, RoundTrip.setpri _, RoundTrip.brk, RoundTrip.rett,
    RoundTrip.tlbinv _, RoundTrip.sysrd _ _, RoundTrip.syswr _ _, RoundTrip.parkres _, RoundTrip.fltrec _ _,
    RoundTrip.powerOff, RoundTrip.firmwareUncorrectableError, RoundTrip.ptpHoldover, RoundTrip.eviction _,
    RoundTrip.frameRingFill _ _ _, RoundTrip.coreRetirement _, RoundTrip.congestionNotification _ _,
    RoundTrip.mkaKeyAgreement _ _]

end Sys2Proof.Proofs

namespace Sys2Proof.Proofs

open Sys2Proof Sys2Proof.Machine Sys2Proof.Safety Sys2Proof.Claims Sys2Proof.Laws

/-! ### Masks, condition bits and fixed registers (spec/01 R32 R33, spec/04 R125) -/

section
variable (wv : Wave) (act m : Mask) (x : Word) (p : Bool)

@[simp] theorem kget_zero : wv.kget act 0 = act := rfl
@[simp] theorem kput_zero : wv.kput act 0 m = wv := rfl
@[simp] theorem cget_zero : wv.cget 0 = true := rfl
@[simp] theorem cset_zero : wv.cset 0 p = wv := rfl
@[simp] theorem sget_zero : wv.sget 0 = 0#32 := rfl
@[simp] theorem spoison_zero : wv.spoison 0 = false := rfl
@[simp] theorem sset_zero : wv.sset 0 x p = wv := rfl

/-- A mask write changes the bits of active lanes only. -/
theorem kput_getLsbD {k : Nat} (i : Nat) (hpos : 0 < k) (hk : k < wv.k.length) :
    ((wv.kput act k m).k.getD k 0#64).getLsbD i = if act.getLsbD i then m.getLsbD i else (wv.k.getD k 0#64).getLsbD i := by
  have hput : (wv.kput act k m).k.getD k 0#64 = (wv.k.getD k 0#64 &&& ~~~act) ||| (m &&& act) := by
    simp [Wave.kput, Nat.ne_of_gt hpos, List.getD_eq_getElem?_getD, hk]
  rw [hput]
  simp only [BitVec.getLsbD_or, BitVec.getLsbD_and, BitVec.getLsbD_not]
  by_cases hi : i < 64
  · cases act.getLsbD i <;> simp [hi]
  · simp [BitVec.getLsbD_of_ge _ _ (Nat.le_of_not_lt hi)]

end

/-- A result for s0 leaves the registers as they are. -/
theorem results_uniform_zero (c : Ctx) (f : Nat → Word) : results c true 0#7 (pure1 f) = fun wv => wv.setSticky 0#32 := by
  have hflags : Flags.none.bits = 0#32 := by decide
  funext wv
  simp [results, pure1, Wave.ssets, hflags]

theorem noFlags_noTrapM (c : Ctx) (u : Bool) (f : Nat → Bool) : noTrapM c u (fun i => (f i, Flags.none)) = true := by
  simp [noTrapM, Flags.traps, Flags.ieee, Flags.none]

section
variable {s : State} {c : Ctx} {d a b : BitVec 7} {rules : List Rule}

theorem maskOp_clear {f : Mask → Mask → Mask} (hr : rules.all (fun r => r.1) = true) (hrun : Runs s c 0#7 []) :
    maskOp d a b rules s f = .next (after s c (onWave c fun wv =>
      wv.kput c.act d.toNat (f (wv.kget c.act a.toNat) (wv.kget c.act b.toNat)))) :=
  wave_issue rfl hrun.1 hrun.2 (plainRegs (bad := firstBroken_none hr))

theorem condOp_clear {f : Bool → Bool → Bool} (hr : rules.all (fun r => r.1) = true) (hrun : Runs s c 0#7 []) :
    condOp d a b rules s f = .next (after s c (onWave c fun wv =>
      wv.cset d.toNat (f (wv.cget a.toNat) (wv.cget b.toNat)))) :=
  wave_issue rfl hrun.1 hrun.2 (plainRegs (bad := firstBroken_none hr))

end

/-- The mask functions of the table, as the model runs them. -/
theorem exec_maskFns : ∀ p ∈ maskFns, ∀ d a b s,
    exec (p.1 d a b) s = maskOp d a b [below 8 d, below 8 a, below 8 b] s p.2 := by
  simp only [maskFns, List.forall_mem_cons, List.not_mem_nil, IsEmpty.forall_iff, implies_true, and_true]
  and_intros <;> exact fun _ _ _ _ => rfl

/-- The condition functions of the table. -/
theorem exec_condFns : ∀ p ∈ condFns, ∀ d a b s,
    exec (p.1 d a b) s = condOp d a b [below 8 d, below 8 a, below 8 b] s p.2 := by
  simp only [condFns, List.forall_mem_cons, List.not_mem_nil, IsEmpty.forall_iff, implies_true, and_true]
  and_intros <;> exact fun _ _ _ _ => rfl

theorem maskFns_clear {p} (hp : p ∈ maskFns) {d a b : BitVec 7} {s : State} {c : Ctx} (hd : d.toNat < 8) (ha : a.toNat < 8)
    (hb : b.toNat < 8) (hrun : Runs s c 0#7 []) :
    exec (p.1 d a b) s = .next (after s c (onWave c fun wv =>
      wv.kput c.act d.toNat (p.2 (wv.kget c.act a.toNat) (wv.kget c.act b.toNat)))) := by
  rw [exec_maskFns p hp]
  exact maskOp_clear (by simp [below, hd, ha, hb]) hrun

/-- Settles O6: each function is one shape of mask or condition logic, or a computation on lanes. -/
theorem maskResults : Obligations.MaskResults := by
  unfold Obligations.MaskResults
  refine ⟨?masks, ?conds, ?moves, ?toLanes, ?ofLanes⟩
  case masks => exact fun p hp d a b s c hd ha hb hrun => maskFns_clear hp hd ha hb hrun
  case conds =>
    intro p hp d a b s c hd ha hb hrun
    rw [exec_condFns p hp]
    exact condOp_clear (by simp [below, hd, ha, hb]) hrun
  case moves =>
    intro d a s c hd ha hrun
    have hr : [below 8 d, below 8 a].all (fun r => r.1) = true := by simp [below, hd, ha]
    exact ⟨(exec_knot d a s).trans (maskOp_clear (b := 0#7) (f := fun x _ => ~~~x) hr hrun),
      (exec_kmov d a s).trans (maskOp_clear (b := 0#7) (f := fun x _ => x) hr hrun),
      (exec_cnot d a s).trans (condOp_clear (b := 0#7) (f := fun x _ => !x) hr hrun),
      (exec_cmov d a s).trans (condOp_clear (b := 0#7) (f := fun x _ => x) hr hrun)⟩
  case toLanes =>
    intro d a s c ha hrun
    rw [exec_ktov]
    exact compute_issue rfl hrun.1 hrun.2 (plainRegs (bad := firstBroken_none (by simp [below, ha]))) (pure1_noTrap ..)
  case ofLanes =>
    intro d a s c hd hrun
    rw [exec_vtok]
    exact mask_issue rfl hrun.1 hrun.2 (plainRegs (bad := firstBroken_none (by simp [below, hd]))) (noFlags_noTrapM ..)

/-- Settles O56: reads and writes of the fixed registers by their definitions; a result for s0 or k0 is such a write. -/
theorem fixedRegisters : Obligations.FixedRegisters := by
  unfold Obligations.FixedRegisters
  refine ⟨fun wv act => ⟨sget_zero wv, spoison_zero wv, cget_zero wv, kget_zero wv act⟩, sset_zero, kput_zero, cset_zero,
    ?integers, ?masks⟩
  case integers =>
    intro p hp a b s c hrun
    rw [exec_intFns p hp, ← results_uniform_zero]
    exact intRR_clear hrun.1 hrun.2
  case masks =>
    intro p hp a b s c ha hb hrun
    exact maskFns_clear hp (d := 0#7) (by decide) ha hb hrun

end Sys2Proof.Proofs

namespace Sys2Proof.Proofs

open Sys2Proof Sys2Proof.Machine Sys2Proof.Safety Sys2Proof.Claims Sys2Proof.Laws

/-! ### Moves between the register files (spec/01 R34, spec/04 R136 to R138) -/

section
variable {s : State} {c : Ctx} {d a b h : BitVec 7}

theorem movs_clear (hr : readableSr a.toNat = true) (hw : stickyWaits s a = false) (hrun : Runs s c 0#7 [wrS d]) :
    execMovs d a s = .next (after s c fun s =>
      onWave c (results c true d (pure1 fun _ => srRead c s a.toNat 0)) (s.srHold c a.toNat)) :=
  issue_after rfl hrun.1 hrun.2 (plainRegs (bad := firstBroken_none (by simp [hr])) (hold := hw))
    fun _ => compute_clear (pure1_noTrap ..)

theorem movls_clear (hr : (readableSr a.toNat || a.toNat == 0x30) = true) (hw : stickyWaits s a = false)
    (hrun : Runs s c 0#7 [wrV d]) :
    execMovls d a s = .next (after s c fun s =>
      onWave c (results c false d (pure1 fun i => srRead c s a.toNat i)) (s.srHold c a.toNat)) :=
  issue_after rfl hrun.1 hrun.2 (plainRegs (bad := firstBroken_none (by simp [hr])) (hold := hw))
    fun _ => compute_clear (pure1_noTrap ..)

theorem movsw_clear (hr : writableSr a.toNat = true) (hw : stickyWaits s a = false) (hrun : Runs s c b [rdB true b]) :
    execMovsw a b s = .next (after s c (onWave c fun wv => wv.srWrite a.toNat (c.B true b 0))) :=
  wave_issue rfl hrun.1 hrun.2 (plainRegs (bad := firstBroken_none (by simp [hr])) (hold := hw))

/-- Nothing else holds back a uniform instruction that names one lane of a lane register. -/
theorem plainLane {op : Op} {r : Nat × Nat} (hu : op.uni = true) (hin : inAlloc c op.also = true)
    (hx : op.cross 0 = [r]) (hok : elemUsable c op.crossWr r = true) (bad : op.bad = none := by rfl)
    (illegal : op.illegal = false := by rfl) (priv : op.priv = false := by rfl) (noTrap : op.noTrap = false := by rfl)
    (on : op.on = .any := by rfl) (mem : op.mem = false := by rfl) (ctr : op.ctr = 8 := by rfl)
    (hold : op.hold = false := by rfl) (nop : op.nop = false := by rfl) : Plain op s c where
  bad := bad
  illegal := illegal
  also := hin
  priv := .inl priv
  noTrap := .inl noTrap
  on := by rw [on]; rfl
  cross := by
    intro i hi
    rw [if_pos hu, List.mem_singleton] at hi
    rw [hi, hx, List.all_cons, hok]
    rfl
  crossWr := fun _ => hu
  mem := .inl mem
  ctr := by simp [ctr]
  hold := hold
  nop := nop

theorem rdlane_clear (hin : inAlloc c [rdV a] = true) (hok : elemUsable c false (a.toNat, c.laneOf b) = true)
    (hrun : Runs s c b [rdB true b, wrS d]) :
    execRdlane d a b s = .next (after s c (onWave c (results c true d (pure1 fun _ => c.wave.vget a.toNat (c.laneOf b))))) :=
  compute_issue rfl hrun.1 hrun.2 (plainLane rfl hin (by simp [hrun.1, elems]) hok) (pure1_noTrap ..)

theorem wrlane_clear (hin : inAlloc c [wrV d] = true) (hok : elemUsable c true (d.toNat, c.laneOf b) = true)
    (hrun : Runs s c b [rdS a, rdB true b]) :
    execWrlane d a b s = .next (after s c (onWave c fun wv => wv.vset d.toNat (c.laneOf b) (c.A true a 0) false)) :=
  wave_issue rfl hrun.1 hrun.2 (plainLane rfl hin (by simp [hrun.1, elems]) hok)

theorem ktos_clear (ha : a.toNat < 8) (hh : h.toNat < 2) (hrun : Runs s c 0#7 [wrS d]) :
    execKtos d a h s = .next (after s c (onWave c (results c true d (pure1 fun _ =>
      if h = 0#7 then lo32 (c.wave.kget c.act a.toNat) else hi32 (c.wave.kget c.act a.toNat))))) :=
  compute_issue rfl hrun.1 hrun.2 (plainRegs (bad := firstBroken_none (by simp [below, ha, hh]))) (pure1_noTrap ..)

theorem stok_clear (hd : d.toNat < 8) (hh : h.toNat < 2) (hrun : Runs s c 0#7 [rdS a]) :
    execStok d a h s = .next (after s c (onWave c fun wv =>
      if h = 0#7 then wv.kput (c.act &&& 0xFFFFFFFF#64) d.toNat (pairOf (c.A true a 0) 0#32)
      else wv.kput (c.act &&& 0xFFFFFFFF00000000#64) d.toNat (pairOf 0#32 (c.A true a 0)))) := by
  refine issue_after rfl hrun.1 hrun.2 (plainRegs (bad := firstBroken_none (by simp [below, hd, hh]))) fun t => ?_
  by_cases h0 : h = 0#7 <;> simp [h0, onWave]

end

/-- Settles O8: one lemma for each move. -/
theorem uniformMoveResults : Obligations.UniformMoveResults := by
  unfold Obligations.UniformMoveResults
  refine ⟨fun d a s c hr hw hrun => (exec_movs d a s).trans (movs_clear hr hw hrun),
    fun d a s c hr hw hrun => (exec_movls d a s).trans (movls_clear hr hw hrun),
    fun a b s c hr hw hrun => (exec_movsw a b s).trans (movsw_clear hr hw hrun),
    fun d a b s c hin hok hrun => (exec_rdlane d a b s).trans (rdlane_clear hin hok hrun),
    fun d a b s c hin hok hrun => (exec_wrlane d a b s).trans (wrlane_clear hin hok hrun),
    fun d a h s c ha hh hrun => (exec_ktos d a h s).trans (ktos_clear ha hh hrun),
    fun d a h s c hd hh hrun => (exec_stok d a h s).trans (stok_clear hd hh hrun),
    fun wv act m k i hpos hk => kput_getLsbD wv act m i hpos hk, kput_zero⟩

/-! ### Trap level (spec/01 R40, spec/13 R356 to R361) -/

/-- A class S instruction whose body has the effect `e` on the state in which it runs. -/
theorem issue_after_started {op : Op} {s : State} {c : Ctx} {body : Ctx → State → State × Flow} {e : State → State}
    (hl : op.long = false) (hc : s.ctx? = some c) (hk : clear c op.litB op.uses = true) (hp : Plain op s c)
    (hb : body c (started s c) = (e (started s c), .next)) : issue op s body = .next (after s c e) := by
  rw [issue_clear _ hc hk hp, hb]
  simp only [after, State.finish, hl]
  rfl

section
variable {s : State} {c : Ctx} {d a n b : BitVec 7} (ht : c.wave.trapLevel c.cur.sp = true)
include ht

theorem sysrd_clear (hn : n.toNat < 8) (hrun : Runs s c 0#7 [wrS d]) :
    execSysrd d n s = .next (after s c (onWave c fun wv => wv.sset d.toNat (c.wave.trap.read n.toNat) false)) :=
  wave_issue rfl hrun.1 hrun.2 (plainP ht (bad := firstBroken_none (by simp [below, hn])))

theorem syswr_clear (hn : n.toNat < 8) (hrun : Runs s c 0#7 [rdS b]) :
    execSyswr n b s = .next (after s c (onWave c fun wv =>
      { wv with trap := wv.trap.write n.toNat (c.wave.sget b.toNat) })) :=
  wave_issue rfl hrun.1 hrun.2 (plainP ht (bad := firstBroken_none (by simp [below, hn])))

theorem fltrec_clear (hd : d.toNat % 8 = 0) (hrun : Runs s c 0#7 [rdS a, wrS d 8]) :
    execFltrec d a s = .next (after s c (onWave c fun wv =>
      wv.ssets d.toNat (match c.wave.trap.recs[(c.wave.sget a.toNat).toNat]? with
        | some r => r.words
        | none => List.replicate 8 0#32))) :=
  wave_issue rfl hrun.1 hrun.2 (plainP ht (bad := firstBroken_none (by simp [multipleOf, hd])))

theorem tlbinv_clear (ha : a.toNat % 4 = 0) (hpos : a.toNat ≠ 0) (hrun : Runs s c 0#7 [rdS a 4])
    (hzero : c.wave.sget (a.toNat + 3) = 0#32) (hold : invalHolds a s = false) :
    let r := invalRange (c.wave.spair a.toNat) ((c.wave.sget (a.toNat + 2)).setWidth 64)
    execTlbinv a s = .next (after s c fun t => t.tlbDrop (s.job c.grp.job).tag r.1 r.2) := by
  refine issue_after_started rfl hrun.1 hrun.2
    (plainP ht (bad := firstBroken_none (by simp [blockOf, ha, hpos])) (hold := hold)) ?_
  simp only [hzero, bne_self_eq_false, Bool.false_eq_true, if_false]
  rfl

end

section Parkres
variable {s : State} {c : Ctx} {a : BitVec 7} {e : Split} {o : Nat} (ht : c.wave.trapLevel c.cur.sp = true)
  (ha : a.toNat % 2 = 0) (hrun : Runs s c 0#7 [rdS a 2])
  (he : e = c.wave.splits.getD (c.wave.sget a.toNat).toNat Split.empty) (ho : o = (c.wave.sget (a.toNat + 1)).toNat % 4)

theorem parkres_skips (h : e.st ≠ .parked ∨ e.refused = false ∨ o = 3) :
    (e.st != .parked || !e.refused || o == 3) = true := by
  simpa [or_assoc] using h

theorem parkres_takes (hst : e.st = .parked) (href : e.refused = true) (ho : o ≠ 3) :
    ¬(e.st != .parked || !e.refused || o == 3) = true := by
  simp [hst, href, ho]

include ht ha hrun he ho

theorem parkres_ignored (h : e.st ≠ .parked ∨ e.refused = false ∨ o = 3) : execParkres a s = .next (after s c id) := by
  subst he ho
  exact issue_after rfl hrun.1 hrun.2 (plainP ht (bad := firstBroken_none (by simp [multipleOf, ha])))
    fun t => if_pos (parkres_skips h)

theorem parkres_settles (hst : e.st = .parked) (href : e.refused = true) (hlow : o < 2) :
    execParkres a s = .next (after s c (onWave c fun wv => wv.parkres (c.wave.sget a.toNat).toNat o)) := by
  have htakes := parkres_takes hst href (show o ≠ 3 by omega)
  subst he ho
  exact issue_after rfl hrun.1 hrun.2 (plainP ht (bad := firstBroken_none (by simp [multipleOf, ha])))
    fun t => (if_neg htakes).trans (if_pos hlow)

theorem parkres_ends (hst : e.st = .parked) (href : e.refused = true) (hlast : o = 2) :
    let ended := fun (t : State) => (onWave c (fun wv => wv.parkEnd (c.wave.sget a.toNat).toNat)
      (t.dropRays c.grp.core c.cur.g c.cur.w e.mask)).modGroup c.cur.g Group.refreshWaits
    execParkres a s = .next (if (c.wave.live &&& ~~~e.mask) = 0#64 then stayed s c ended else after s c ended) := by
  have htakes := parkres_takes hst href (show o ≠ 3 by omega)
  have hhigh : ¬ o < 2 := by omega
  have hplain : Plain { uni := true, priv := true, bad := firstBroken [multipleOf 2 a], uses := [rdS a 2] } s c :=
    plainP ht (bad := firstBroken_none (by simp [multipleOf, ha]))
  subst he ho
  split
  case isTrue hdead =>
    exact issue_stay rfl hrun.1 hrun.2 hplain fun t => (if_neg htakes).trans
      ((if_neg hhigh).trans (congrArg (Prod.mk _) (if_pos (beq_iff_eq.mpr hdead))))
  case isFalse hlive =>
    exact issue_after rfl hrun.1 hrun.2 hplain fun t => (if_neg htakes).trans
      ((if_neg hhigh).trans (congrArg (Prod.mk _) (if_neg (mt beq_iff_eq.mp hlive))))

end Parkres

section
variable {s : State} {c : Ctx} (ht : c.wave.trapLevel c.cur.sp = true)
include ht

theorem rett_returns (hrun : Runs s c 0#7 [])
    (htpc : c.wave.trap.wrote = false ∨ c.wave.trap.tpc.extractLsb' 0 4 = 0#4) :
    execRett s = .next (stayed s c fun t => onWave c (fun wv => wv.returnTrap c.lau.traph) (t.yld c)) := by
  refine issue_stay rfl hrun.1 hrun.2 (plainP ht) fun t => ?_
  rcases htpc with h | h <;> simp [h, onWave]

theorem rett_misaligned (hrun : Runs s c 0#7 []) (hwrote : c.wave.trap.wrote = true)
    (htpc : c.wave.trap.tpc.extractLsb' 0 4 ≠ 0#4) :
    execRett s = .next (trapped s c id [c.splitRec cMisalignedTarget]) := by
  refine issue_trap rfl hrun.1 hrun.2 (plainP ht) ?_
  simp [hwrote, htpc, raise]

end

/-- A function of trap level outside it. -/
theorem exec_trapLevelOnly {i : Instr} {w : Word} {s : State} {c : Ctx} (hw : encode i = some w)
    (hpriv : trapLevelOnly i = true) (hc : s.ctx? = some c) (hlevel : c.wave.trapLevel c.cur.sp = false) :
    exec i s = .next (atIssue s c [c.splitRec cPriv]) := by
  obtain ⟨op, body, hexec, -, hop⟩ := exec_issued s hw
  rw [hexec]
  exact issue_priv hc (hop.trans hpriv) hlevel

/-- Settles O27: one lemma for each function and each of its outcomes. -/
theorem trapLevelResults : Obligations.TrapLevelResults := by
  unfold Obligations.TrapLevelResults
  refine ⟨fun s c hc ht => ⟨?sysrd, ?syswr, ?fltrec, ?tlbinv, ?parkres, ?rett, ?misaligned⟩, ?outside⟩
  case sysrd => exact fun d n hn hrun => (exec_sysrd d n s).trans (sysrd_clear ht hn hrun)
  case syswr => exact fun n b hn hrun => (exec_syswr n b s).trans (syswr_clear ht hn hrun)
  case fltrec => exact fun d a hd hrun => (exec_fltrec d a s).trans (fltrec_clear ht hd hrun)
  case tlbinv =>
    exact fun a ha hpos hrun hzero hold => (exec_tlbinv a s).trans (tlbinv_clear ht ha hpos hrun hzero hold)
  case parkres =>
    intro a ha hrun
    rw [exec_parkres]
    exact ⟨fun h => parkres_ignored ht ha hrun rfl rfl h,
      fun hst href ho => parkres_settles ht ha hrun rfl rfl hst href ho,
      fun hst href ho => parkres_ends ht ha hrun rfl rfl hst href ho⟩
  case rett => exact fun hrun htpc => (exec_rett s).trans (rett_returns ht hrun htpc)
  case misaligned => exact fun hrun hwrote htpc => (exec_rett s).trans (rett_misaligned ht hrun hwrote htpc)
  case outside =>
    rintro i s c (rfl | ⟨a, rfl⟩ | ⟨d, n, rfl⟩ | ⟨n, b, rfl⟩ | ⟨a, rfl⟩ | ⟨d, a, rfl⟩) hc hlevel <;>
      exact exec_trapLevelOnly rfl rfl hc hlevel

end Sys2Proof.Proofs

namespace Sys2Proof.Proofs

open Sys2Proof Sys2Proof.Machine Sys2Proof.Laws

/-! ### What a step runs (spec/01 R13 R21, spec/03 R92 to R94) -/

/-- A bundle that the instruction cache holds and that breaks no rule is at hand. -/
theorem fetch_held {s : State} {g w sp : Nat} {G : Machine.Group} {wv : Wave} {ws : List Word} (hG : s.groups[g]? = some G)
    (hw : G.waves[w]? = some wv) (hws : s.bundle? G.core (s.job G.job).tag (wv.entry sp).pc = some ws)
    (hgood : badBundle ws = false) : s.fetch g w sp = (.held ws, s) := by
  simp [State.fetch, hG, wave?_of_get hG hw, hws, hgood]

/-- A split that nothing stops at an instruction slot gives the word of its slot, with the literal behind it. -/
theorem before_of_held {s : State} {g w sp : Nat} {G : Machine.Group} {wv : Wave} {ws : List Word}
    (hG : s.groups[g]? = some G) (hw : G.waves[w]? = some wv) (hcs : s.cstoreHolds g w sp = false)
    (hfetch : s.fetch g w sp = (.held ws, s)) (hlit : litSlot (ws.getD 0 0#32) (wv.entry sp).slot = false)
    (hstop : dueStop (s.core G.core).dbg.own (wv.entry sp) (ws.getD 0 0#32) = none) :
    s.before g w sp = (.cur
      { g := g, w := w, sp := sp, pc := (wv.entry sp).pc, slot := (wv.entry sp).slot, words := ws
        lit := if litSlot (ws.getD 0 0#32) ((wv.entry sp).slot + 1) then some (ws.getD ((wv.entry sp).slot + 1) 0#32) else none
        insn := ws.getD (wv.entry sp).slot 0#32 }, s) := by
  unfold State.before
  rw [hcs, hfetch]
  simp only [hG, wave?_of_get hG hw, hlit, hstop]
  rfl

section
variable {s t u : State} {g w sp : Nat} {sps : List Nat} {xs : List (Nat × Nat × List Nat)} {c : Cur} {core part : Nat}

/-- A split whose instruction does not have to wait issues it. -/
theorem trySplits_steps (hb : s.before g w sp = (.cur c, t)) (hm : mangleWord c.insn = false ∨ t.mangleElse g w = false)
    (hi : t.issueOne c = .next u) (hu : u.stalled = none) : trySplits g w s (sp :: sps) = .stepped g w sp (.next u) := by
  have hturn : (mangleWord c.insn && t.mangleElse g w) = false := by rcases hm with h | h <;> simp [h]
  simp only [trySplits, hb, hturn, hi, hu]
  rfl

theorem tryWaves_steps {out : Out'} (ht : trySplits g w s sps = .stepped g w sp out) :
    tryWaves s ((g, w, sps) :: xs) = .stepped g w sp out := by
  rw [tryWaves, ht]

/-- The first split that steps is that of the opportunity. -/
theorem opportunity_steps (hheld : (s.core core).held = false) (hc : s.candidates core part = (g, w, sps) :: xs)
    (ht : trySplits g w s sps = .stepped g w sp (.next u)) :
    (s.opportunity core part).1 =
      some (.next { u.chosen s ((g, w, sps) :: xs) g w sp with cur := none, stalled := none }) := by
  simp only [State.opportunity, hheld, hc, Bool.false_eq_true, if_false, tryWaves_steps ht]

/-- A turn that is an issue opportunity ends as the opportunity does. -/
theorem step_issue {rest : List Turn} {out : Out'} (ha : s.agenda = .issue core part :: rest)
    (ho : ((State.clock { s with cur := none, stalled := none, agenda := rest }).opportunity core part).1 = some out) :
    step s = out := by
  rcases hpair : (State.clock { s with cur := none, stalled := none, agenda := rest }).opportunity core part with ⟨r, t⟩
  obtain rfl : r = some out := by rw [← ho, hpair]
  simp only [step, State.turn, ha, hpair]

theorem issueOne_of_decode {i : Instr} (hd : decode c.insn = .ok i) :
    t.issueOne c = exec i { t with cur := some c, stalled := none } := by
  simp only [State.issueOne, hd]

theorem issueOne_of_error {e : DecodeError} (hd : decode c.insn = .error e) :
    t.issueOne c = .next ((State.noInstruction { t with cur := some c, stalled := none }).boundary c.g) := by
  simp only [State.issueOne, hd]

end

/-- Settles O50: the turn at the head of the agenda, and of an issue opportunity the first split that may issue. -/
theorem stepRuns : Obligations.StepRuns := by
  unfold Obligations.StepRuns
  refine ⟨?event, ?instruction, ?noInstruction, ?word⟩
  case event =>
    intro s i rest h
    simp only [step, State.turn, h]
  case instruction =>
    intro s core part rest g w sp sps xs c i t u ha b hheld hc hb hm hd hi hu
    exact step_issue ha (opportunity_steps hheld hc (trySplits_steps hb hm ((issueOne_of_decode hd).trans hi) hu))
  case noInstruction =>
    intro s core part rest g w sp sps xs c e t ha b hheld hc hb hm hd u hu
    exact step_issue ha (opportunity_steps hheld hc (trySplits_steps hb hm (issueOne_of_error hd) hu))
  case word =>
    intro s g w sp G wv ws hG hw e hcs hws hgood hlit hstop
    exact before_of_held hG hw hcs (fetch_held hG hw hws hgood) hlit hstop

/-! ### Words of the encoding tables -/

/-- Settles O51: the fixed words by evaluation, those with free fields by the parts of a word. -/
theorem decodedWords : Obligations.DecodedWords := by
  unfold Obligations.DecodedWords
  iterate 38 refine ⟨rfl, ?_⟩
  refine ⟨fun f d a b => ⟨?_, ?_, ?_, ?_⟩, fun d a b => ⟨?_, ?_⟩, fun k d a b => ⟨?_, ?_⟩, fun u d a b hb => ?_⟩
  · exact decode_word false 0xE#4 f d a b
  · exact decode_word false 0xF#4 f d a b
  · exact decode_word true 0x1#4 f d a b
  · exact decode_word true 0xF#4 f d a b
  · exact decode_word false 0x0#4 0x3F#6 d a b
  · exact decode_word true 0xE#4 0x8#6 d a b
  · refine (decode_word true 0xC#4 (0b110#3 ++ k) d a b).trans ?_
    simp only [decodeParts, uniG12, RoundTrip.high3]
    rfl
  · refine (decode_word true 0xC#4 (0b111#3 ++ k) d a b).trans ?_
    simp only [decodeParts, uniG12, RoundTrip.high3]
    rfl
  · refine (decode_word u 0x0#4 0b010001#6 d a b).trans ?_
    cases u <;> exact if_neg (by simpa using hb)

end Sys2Proof.Proofs

namespace Sys2Proof.Proofs

open Sys2Proof Sys2Proof.Machine Sys2Proof.Safety Sys2Proof.Claims Sys2Proof.Laws

/-! ### What a register instruction leaves as it was (spec/02 R60, spec/04 R108)

`WaveKept`, `GroupKept` and `StateKept` say what a change leaves to a wave, its group and the device. Each is reflexive and
transitive and holds of every update that an instruction of class S makes, so that it holds of the whole instruction. -/

/-- The registers that an instruction may write: lane registers in its active lanes, uniform registers, masks in the bits of
its active lanes, condition bits, generators of lanes. -/
structure Dests where
  lane : Nat → Bool := fun _ => false
  uni : Nat → Bool := fun _ => false
  mask : Nat → Bool := fun _ => false
  cond : Nat → Bool := fun _ => false
  rng : Nat → Bool := fun _ => false

/-- The wave `x` differs from `wv` in the destinations `D`, in bits of sr.sticky that it adds, in the issuing split, and in
its age and its passed opportunities (YLD). -/
structure WaveKept (c : Ctx) (D : Dests) (wv x : Wave) : Prop where
  rest : x = { wv with
    v := x.v, vp := x.vp, s := x.s, sp := x.sp, k := x.k, c := x.c, rng := x.rng, sr := { wv.sr with sticky := x.sr.sticky }
    splits := x.splits, trap := { wv.trap with entry := x.trap.entry }, age := x.age, passed := x.passed }
  lane : ∀ r i, (D.lane r && c.act.getLsbD i) = false → x.vget r i = wv.vget r i ∧ x.vpoison r i = wv.vpoison r i
  uni : ∀ r, D.uni r = false → x.sget r = wv.sget r ∧ x.spoison r = wv.spoison r
  mask : ∀ k i, (D.mask k && c.act.getLsbD i) = false → (x.k.getD k 0#64).getLsbD i = (wv.k.getD k 0#64).getLsbD i
  cond : ∀ n, D.cond n = false → x.cget n = wv.cget n
  rng : ∀ i, D.rng i = false → x.rng[i]? = wv.rng[i]?
  split : ∀ j, j ≠ c.cur.sp → x.entry j = wv.entry j
  sticky : ∀ i, wv.sr.sticky.getLsbD i = true → x.sr.sticky.getLsbD i = true

/-! ### Registers after a write of another element -/

section
variable {wv : Wave} {r q i j : Nat} {x : Word} {p : Bool}

theorem vset_vget_other (h : r ≠ q ∨ i ≠ j) : (wv.vset r i x p).vget q j = wv.vget q j := by
  simp only [Wave.vset, Wave.vget, List.getD_eq_getElem?_getD, List.getElem?_modify]
  split
  case isTrue hrq =>
    have hij : i ≠ j := h.resolve_left (not_not_intro hrq)
    cases wv.v[q]? <;> simp [List.getElem?_set_ne hij]
  case isFalse => simp

theorem getLsbD_bit_other (h : i ≠ j) : (Mask.bit i).getLsbD j = false := by
  simp only [Mask.bit, BitVec.shiftLeft_eq, BitVec.getLsbD_shiftLeft, BitVec.getLsbD_one]
  by_cases hj : j < i
  · simp [hj]
  · simp [show j - i ≠ 0 by omega]

theorem getLsbD_setBit_other {m : Mask} (h : i ≠ j) : (setBit m i p).getLsbD j = m.getLsbD j := by
  have hbit := getLsbD_bit_other h
  unfold setBit
  split
  · simp [hbit]
  · by_cases hj : j < 64
    · simp only [BitVec.getLsbD_and, BitVec.getLsbD_not, hbit, hj, decide_true, Bool.not_false, Bool.and_true]
    · simp [BitVec.getLsbD_of_ge _ _ (Nat.le_of_not_lt hj)]

theorem vset_vpoison_other (h : r ≠ q ∨ i ≠ j) : (wv.vset r i x p).vpoison q j = wv.vpoison q j := by
  simp only [Wave.vset, Wave.vpoison, List.getD_eq_getElem?_getD, List.getElem?_modify]
  split
  case isTrue hrq =>
    have hij : i ≠ j := h.resolve_left (not_not_intro hrq)
    cases wv.vp[q]? <;> simp [getLsbD_setBit_other hij]
  case isFalse => simp

theorem sset_sget_other (h : r ≠ q) : (wv.sset r x p).sget q = wv.sget q := by
  unfold Wave.sset
  split <;> simp [Wave.sget, List.getElem?_set_ne h]

theorem sset_spoison_other (h : r ≠ q) : (wv.sset r x p).spoison q = wv.spoison q := by
  unfold Wave.sset
  split <;> simp [Wave.spoison, List.getElem?_set_ne h]

theorem cset_cget_other (h : r ≠ q) : (wv.cset r p).cget q = wv.cget q := by
  unfold Wave.cset
  split <;> simp [Wave.cget, List.getElem?_set_ne h]

theorem kput_getLsbD_other {act m : Mask} (h : r ≠ q ∨ act.getLsbD i = false) :
    ((wv.kput act r m).k.getD q 0#64).getLsbD i = (wv.k.getD q 0#64).getLsbD i := by
  unfold Wave.kput
  split
  case isTrue => rfl
  case isFalse =>
    simp only [List.getD_eq_getElem?_getD, List.getElem?_modify]
    split
    case isTrue hrq =>
      have hact : act.getLsbD i = false := h.resolve_left (not_not_intro hrq)
      cases wv.k[q]? with
      | none => rfl
      | some o =>
        change ((o &&& ~~~act) ||| (m &&& act)).getLsbD i = o.getLsbD i
        by_cases hi : i < 64
        · simp only [BitVec.getLsbD_or, BitVec.getLsbD_and, BitVec.getLsbD_not, hact, hi, decide_true, Bool.not_false,
            Bool.and_true, Bool.and_false, Bool.or_false]
        · simp [BitVec.getLsbD_of_ge _ _ (Nat.le_of_not_lt hi)]
    case isFalse => simp

theorem setEntry_entry_other {e : Split} (h : j ≠ i) : (wv.setEntry i e).entry j = wv.entry j := by
  unfold Wave.setEntry
  split
  case isTrue hi => simp [Wave.entry, hi ▸ h]
  case isFalse => simp [Wave.entry, List.getElem?_set_ne (Ne.symm h)]

end

/-! ### The updates of a wave -/

namespace WaveKept
variable {c : Ctx} {D : Dests} {wv x y : Wave}

theorem refl (c : Ctx) (D : Dests) (wv : Wave) : WaveKept c D wv wv where
  rest := rfl
  lane := fun _ _ _ => ⟨rfl, rfl⟩
  uni := fun _ _ => ⟨rfl, rfl⟩
  mask := fun _ _ _ => rfl
  cond := fun _ _ => rfl
  rng := fun _ _ => rfl
  split := fun _ _ => rfl
  sticky := fun _ h => h

theorem trans (h : WaveKept c D wv x) (h' : WaveKept c D x y) : WaveKept c D wv y where
  rest := by
    have hy := h'.rest
    rw [h.rest] at hy
    exact hy
  lane := fun r i hr => ⟨(h'.lane r i hr).1.trans (h.lane r i hr).1, (h'.lane r i hr).2.trans (h.lane r i hr).2⟩
  uni := fun r hr => ⟨(h'.uni r hr).1.trans (h.uni r hr).1, (h'.uni r hr).2.trans (h.uni r hr).2⟩
  mask := fun k i hk => (h'.mask k i hk).trans (h.mask k i hk)
  cond := fun n hn => (h'.cond n hn).trans (h.cond n hn)
  rng := fun i hi => (h'.rng i hi).trans (h.rng i hi)
  split := fun j hj => (h'.split j hj).trans (h.split j hj)
  sticky := fun i hi => h'.sticky i (h.sticky i hi)

theorem foldl {α : Type} {f : Wave → α → Wave} :
    ∀ {l : List α} (wv : Wave), (∀ wv, ∀ a ∈ l, WaveKept c D wv (f wv a)) → WaveKept c D wv (l.foldl f wv)
  | [], wv, _ => refl c D wv
  | a :: _, wv, h =>
    (h wv a List.mem_cons_self).trans (foldl (f wv a) fun wv b hb => h wv b (List.mem_cons_of_mem a hb))

/-- A destination element differs from an element that is none, in its register or in its lane. -/
theorem other_element {r q i j : Nat} (hr : D.lane r = true) (hi : c.act.getLsbD i = true)
    (h : (D.lane q && c.act.getLsbD j) = false) : r ≠ q ∨ i ≠ j := by
  by_contra hsame
  push Not at hsame
  obtain ⟨rfl, rfl⟩ := hsame
  simp [hr, hi] at h

theorem vset {r i : Nat} (w : Word) (p : Bool) (hr : D.lane r = true) (hi : c.act.getLsbD i = true) :
    WaveKept c D wv (wv.vset r i w p) :=
  { refl c D wv with
    rest := rfl
    lane := fun _ _ h => ⟨vset_vget_other (other_element hr hi h), vset_vpoison_other (other_element hr hi h)⟩ }

theorem vsets {i : Nat} (hi : c.act.getLsbD i = true) :
    ∀ (l : List Word) (r : Nat) (wv : Wave), (∀ q, r ≤ q → q < r + l.length → D.lane q = true) →
      WaveKept c D wv (wv.vsets r i l)
  | [], _, wv, _ => refl c D wv
  | w :: l, r, wv, h => by
    have htail : ∀ q, r + 1 ≤ q → q < r + 1 + l.length → D.lane q = true := fun q hq hlt =>
      h q (by omega) (by rw [List.length_cons]; omega)
    exact (vset w false (h r (Nat.le_refl r) (by simp)) hi).trans (vsets hi l (r + 1) _ htail)

theorem sset {r : Nat} (w : Word) (p : Bool) (hr : D.uni r = true) : WaveKept c D wv (wv.sset r w p) := by
  have hother : ∀ q, D.uni q = false → r ≠ q := by
    rintro q hq rfl
    simp [hr] at hq
  have huni := fun q hq => And.intro (sset_sget_other (wv := wv) (x := w) (p := p) (hother q hq))
    (sset_spoison_other (wv := wv) (x := w) (p := p) (hother q hq))
  unfold Wave.sset at huni ⊢
  split
  case isTrue => exact refl c D wv
  case isFalse h0 =>
    rw [if_neg h0] at huni
    exact { refl c D wv with rest := rfl, uni := huni }

theorem ssets : ∀ (l : List Word) (r : Nat) (wv : Wave), (∀ q, r ≤ q → q < r + l.length → D.uni q = true) →
    WaveKept c D wv (wv.ssets r l)
  | [], _, wv, _ => refl c D wv
  | w :: l, r, wv, h => by
    have htail : ∀ q, r + 1 ≤ q → q < r + 1 + l.length → D.uni q = true := fun q hq hlt =>
      h q (by omega) (by rw [List.length_cons]; omega)
    exact (sset w false (h r (Nat.le_refl r) (by simp))).trans (ssets l (r + 1) _ htail)

theorem kput {act m : Mask} {k : Nat} (hk : D.mask k = true)
    (hact : ∀ i, act.getLsbD i = true → c.act.getLsbD i = true) :
    WaveKept c D wv (wv.kput act k m) := by
  have hmask : ∀ q i, (D.mask q && c.act.getLsbD i) = false →
      ((wv.kput act k m).k.getD q 0#64).getLsbD i = (wv.k.getD q 0#64).getLsbD i := by
    intro q i h
    refine kput_getLsbD_other ?_
    by_contra hsame
    push Not at hsame
    obtain ⟨rfl, hi⟩ := hsame
    simp [hk, hact i (by simpa using hi)] at h
  unfold Wave.kput at hmask ⊢
  split
  case isTrue => exact refl c D wv
  case isFalse h0 =>
    rw [if_neg h0] at hmask
    exact { refl c D wv with rest := rfl, mask := hmask }

theorem cset {n : Nat} (b : Bool) (hn : D.cond n = true) : WaveKept c D wv (wv.cset n b) := by
  have hcond : ∀ q, D.cond q = false → (wv.cset n b).cget q = wv.cget q := by
    intro q hq
    refine cset_cget_other ?_
    rintro rfl
    simp [hn] at hq
  unfold Wave.cset at hcond ⊢
  split
  case isTrue => exact refl c D wv
  case isFalse h0 =>
    rw [if_neg h0] at hcond
    exact { refl c D wv with rest := rfl, cond := hcond }

theorem setSticky (f : Word) : WaveKept c D wv (wv.setSticky f) :=
  { refl c D wv with
    rest := rfl
    sticky := fun i hi => by simp only [Wave.setSticky, BitVec.getLsbD_or, hi, Bool.true_or] }

/-- New generators for the lanes of `D`. -/
theorem setRng (f : Word × Nat → Word) (h : ∀ i, D.rng i = false → ∀ x, f (x, i) = x) :
    WaveKept c D wv { wv with rng := wv.rng.zipIdx.map f } :=
  { refl c D wv with
    rest := rfl
    rng := fun i hi => by
      cases hx : wv.rng[i]? <;> simp [List.getElem?_zipIdx, hx, h i hi] }

theorem modEntry (f : Split → Split) : WaveKept c D wv (wv.modEntry c.cur.sp f) := by
  have hsplit : ∀ j, j ≠ c.cur.sp → (wv.modEntry c.cur.sp f).entry j = wv.entry j := fun _ h => setEntry_entry_other h
  unfold Wave.modEntry Wave.setEntry at hsplit ⊢
  split
  case isTrue h => exact { refl c D wv with rest := rfl, split := fun j hj => by simpa only [if_pos h] using hsplit j hj }
  case isFalse h => exact { refl c D wv with rest := rfl, split := fun j hj => by simpa only [if_neg h] using hsplit j hj }

/-- YLD makes the wave the youngest (spec/01 R19). -/
theorem setAge (n : Nat) : WaveKept c D wv { wv with age := n, passed := 0 } := { refl c D wv with rest := rfl }

end WaveKept

/-! ### The results of an instruction -/

theorem mem_lanes_active {c : Ctx} {i : Nat} (h : i ∈ c.lanes) : c.act.getLsbD i = true := (List.mem_filter.mp h).2

theorem mem_of_foldl_bit {i : Nat} : ∀ (l : List Nat) (m : Mask), (l.foldl (fun m i => m ||| Mask.bit i) m).getLsbD i = true →
    m.getLsbD i = true ∨ i ∈ l
  | [], _, h => .inl h
  | a :: l, m, h => by
    by_cases hai : a = i
    · exact .inr (hai ▸ List.mem_cons_self)
    · have hm : (m ||| Mask.bit a).getLsbD i = m.getLsbD i := by
        rw [BitVec.getLsbD_or, getLsbD_bit_other hai, Bool.or_false]
      exact (mem_of_foldl_bit l _ h).imp hm.symm.trans (List.mem_cons_of_mem a)

/-- The bits of a mask of lanes are those of its lanes. -/
theorem mem_of_ofLanes_getLsbD {l : List Nat} {i : Nat} (h : (Mask.ofLanes l).getLsbD i = true) : i ∈ l :=
  (mem_of_foldl_bit l 0#64 h).resolve_left (by simp)

section
variable {c : Ctx} {u : Bool} {d : BitVec 7} {n : Nat}

/-- The destinations of results in registers. -/
def regDests (u : Bool) (d : BitVec 7) (n : Nat) : Dests := { lane := dest (!u) d n, uni := dest u d n }

/-- The destination of a compare or of mask and condition logic. -/
def bitDests (u : Bool) (d : BitVec 7) : Dests := { mask := dest (!u) d 1, cond := dest u d 1 }

theorem dest_of_mem {q : Nat} (h : d.toNat ≤ q) (h' : q < d.toNat + n) : dest true d n q = true := by simp [dest, h, h']

theorem dest_self : dest true d 1 d.toNat = true := dest_of_mem (Nat.le_refl _) (Nat.lt_succ_self _)

theorem waveKept_results {D : Dests} {f : Nat → List Word × Flags}
    (hlane : ∀ q, dest (!u) d n q = true → D.lane q = true)
    (huni : ∀ q, dest u d n q = true → D.uni q = true) (hlen : ∀ i, (f i).1.length ≤ n) (wv : Wave) :
    WaveKept c D wv (results c u d f wv) := by
  have hd : ∀ i q, d.toNat ≤ q → q < d.toNat + (f i).1.length → dest true d n q = true := fun i q hq hlt =>
    dest_of_mem hq (Nat.lt_of_lt_of_le hlt (Nat.add_le_add_left (hlen i) _))
  cases u
  case true => exact (WaveKept.setSticky _).trans (.ssets _ _ _ fun q hq hlt => huni q (hd 0 q hq hlt))
  case false =>
    exact (WaveKept.setSticky _).trans
      (.foldl _ fun wv i hi => .vsets (mem_lanes_active hi) _ _ wv fun q hq hlt => hlane q (hd i q hq hlt))

theorem waveKept_maskResults {f : Nat → Bool × Flags} (wv : Wave) :
    WaveKept c (bitDests u d) wv (Safety.maskResults c u d f wv) := by
  cases u
  case true => exact (WaveKept.setSticky _).trans (.cset _ dest_self)
  case false =>
    exact (WaveKept.setSticky _).trans (.kput dest_self fun i hi => mem_lanes_active (mem_of_ofLanes_getLsbD hi))

end

/-! ### The group and the device -/

/-- The group `H` differs from `G` in the instruction's wave, its time of first issue and its progress count. -/
structure GroupKept (c : Ctx) (D : Dests) (G H : Group) : Prop where
  rest : H = { G with waves := H.waves, first := H.first, progress := H.progress }
  other : ∀ w, w ≠ c.cur.w → H.waves[w]? = G.waves[w]?
  own : ∀ wv, G.waves[c.cur.w]? = some wv → ∃ x, H.waves[c.cur.w]? = some x ∧ WaveKept c D wv x

/-- The state `t` differs from `s` in the instruction's group, which keeps what `GroupKept` says. -/
def StateKept (c : Ctx) (D : Dests) (s t : State) : Prop :=
  ∃ F : Group → Group, t = s.modGroup c.cur.g F ∧ ∀ G, GroupKept c D G (F G)

theorem GroupKept.trans {c : Ctx} {D : Dests} {G H K : Group} (h : GroupKept c D G H) (h' : GroupKept c D H K) :
    GroupKept c D G K where
  rest := by
    have hK := h'.rest
    rw [h.rest] at hK
    exact hK
  other := fun w hw => (h'.other w hw).trans (h.other w hw)
  own := fun wv hwv => by
    obtain ⟨x, hx, hkept⟩ := h.own wv hwv
    obtain ⟨y, hy, hkept'⟩ := h'.own x hx
    exact ⟨y, hy, hkept.trans hkept'⟩

namespace StateKept
variable {c : Ctx} {D : Dests} {s t r : State}

theorem trans (h : StateKept c D s t) (h' : StateKept c D t r) : StateKept c D s r := by
  obtain ⟨F, rfl, hF⟩ := h
  obtain ⟨F', rfl, hF'⟩ := h'
  exact ⟨F' ∘ F, modGroup_modGroup s c.cur.g F F', fun G => (hF G).trans (hF' (F G))⟩

/-- A change of the group's time of first issue or progress count. -/
theorem modGroup {F : Group → Group}
    (hrest : ∀ G, F G = { G with waves := (F G).waves, first := (F G).first, progress := (F G).progress })
    (hwaves : ∀ G, (F G).waves = G.waves) : StateKept c D s (s.modGroup c.cur.g F) :=
  ⟨F, rfl, fun G => {
    rest := hrest G
    other := fun w _ => by rw [hwaves]
    own := fun wv hwv => ⟨wv, by rw [hwaves, hwv], .refl c D wv⟩ }⟩

theorem refl (c : Ctx) (D : Dests) (s : State) : StateKept c D s s := by
  have h : StateKept c D s (s.modGroup c.cur.g id) := modGroup (fun _ => rfl) fun _ => rfl
  rwa [State.modGroup, List.modify_id] at h

/-- A change of the instruction's wave. -/
theorem onWave {f : Wave → Wave} (hf : ∀ wv, WaveKept c D wv (f wv)) : StateKept c D s (onWave c f s) :=
  ⟨_, rfl, fun G => {
    rest := rfl
    other := fun w hw => List.getElem?_modify_ne f G.waves (Ne.symm hw)
    own := fun wv hwv => ⟨f wv, by simp [hwv], hf wv⟩ }⟩

theorem yld : StateKept c D s (s.yld c) := by
  unfold State.yld
  split
  · exact onWave fun _ => .setAge _
  · exact modGroup (fun _ => rfl) fun _ => rfl
  · exact refl c D s

/-- The split moves on, with what the end of a bundle changes (spec/01 R19, spec/03 R85). -/
theorem stepPast : StateKept c D s (s.stepPast c) := by
  have hentry : StateKept c D s (s.modEntry c fun e => e.advance (c.cur.words.getD 0 0#32)) := onWave fun _ => .modEntry _
  unfold State.stepPast
  dsimp only
  split
  · exact hentry.trans yld
  · exact hentry

/-- The end of an instruction of class S that goes on. -/
theorem finish {op : Op} (hl : op.long = false) : StateKept c D s (s.finish c op .next) := by
  have hfirst : StateKept c D s (s.modGroup c.cur.g fun G => { G with first := some (G.first.getD s.now) }) :=
    modGroup (fun _ => rfl) fun _ => rfl
  simp only [State.finish, hl, Bool.false_eq_true, if_false]
  exact hfirst.trans stepPast

/-- What issue does before the effect. -/
theorem started : StateKept c D { s with stalled := none } (started s c) := onWave fun wv => by
  unfold Ctx.countWindows
  exact .modEntry _

end StateKept

/-! ### The frame of an instruction of class S -/

section
variable {s t : State} {c : Ctx} {D : Dests} {e : State → State}

theorem ctx_get (hc : s.ctx? = some c) : s.groups[c.cur.g]? = some c.grp ∧ c.grp.waves[c.cur.w]? = some c.wave := by
  unfold State.ctx? at hc
  split at hc
  · cases hc
  · split at hc
    · cases hc
    · split at hc
      · cases hc
      · cases hc
        exact ⟨‹_›, ‹_›⟩

/-- A group that is not being cancelled or flushed goes on at the boundary of a bundle (spec/13 R341 R351). -/
theorem boundary_steady {G : Group} {g : Nat} (hG : s.groups[g]? = some G) (hcancel : G.stopping ≠ some .cancel)
    (hflush : G.stopping ≠ some .flush) : s.boundary g = s := by
  unfold State.boundary
  rw [hG]
  dsimp only
  split
  · split
    · exact absurd ‹_› hcancel
    · exact absurd ‹_› hflush
    · rfl
    · rfl
    · rfl
  · rfl

theorem StateKept.frame (hc : s.ctx? = some c) (hs : Steady c) (h : StateKept c D { s with stalled := none } t) :
    Frame s (t.boundary c.cur.g) c D.lane D.uni D.mask D.cond D.rng := by
  obtain ⟨hG, hwv⟩ := ctx_get hc
  obtain ⟨F, rfl, hF⟩ := h
  obtain ⟨hrest, hother, hown⟩ := hF c.grp
  obtain ⟨x, hx, hkept⟩ := hown c.wave hwv
  have hget : (State.modGroup { s with stalled := none } c.cur.g F).groups[c.cur.g]? = some (F c.grp) := by
    rw [modGroup_get, if_pos rfl]
    exact congrArg (Option.map F) hG
  have hstop : (F c.grp).stopping = c.grp.stopping := by rw [hrest]
  rw [boundary_steady hget (hstop ▸ hs.1) (hstop ▸ hs.2)]
  exact {
    rest := rfl
    groups := fun g hg => by rw [modGroup_get, if_neg (Ne.symm hg)]
    group := ⟨F c.grp, hget, hrest, hother⟩
    wave := ⟨x, wave?_of_get hget hx, hkept.rest, hkept.lane, hkept.uni, hkept.mask, hkept.cond, hkept.rng, hkept.split,
      hkept.sticky⟩ }

theorem frame_after (hc : s.ctx? = some c) (hs : Steady c) (he : ∀ t, StateKept c D t (e t)) :
    Frame s (after s c e) c D.lane D.uni D.mask D.cond D.rng :=
  StateKept.frame hc hs ((StateKept.started.trans (he _)).trans (.finish rfl))

end

/-! ### The shapes of register instructions -/

section
variable {op : Op} {s t : State} {c : Ctx} {u : Bool} {d : BitVec 7} {n : Nat}

theorem compute_frame {g : Ctx → Nat → List Word × Flags}
    (ht : issue op s (fun c s => compute u d.toNat (g c) c s) = .next t) (hs : Steady c) (hrun : Runs s c op.litB op.uses)
    (hp : Plain op s c) (hno : Safety.noTrap c u (g c) = true) (hlen : ∀ i, (g c i).1.length ≤ n)
    (hl : op.long = false := by rfl) : RegFrame s t c u d n := by
  rw [compute_issue hl hrun.1 hrun.2 hp hno] at ht
  cases ht
  exact frame_after (D := regDests u d n) hrun.1 hs fun _ => .onWave (waveKept_results (fun _ h => h) (fun _ h => h) hlen)

/-- An instruction that changes its wave before it writes its results. -/
theorem change_compute_issue {g : Ctx → Nat → List Word × Flags} {f : Ctx → Wave → Wave}
    (hrun : Runs s c op.litB op.uses)
    (hp : Plain op s c) (hno : Safety.noTrap c u (g c) = true) (hl : op.long = false := by rfl) :
    issue op s (fun c s => compute u d.toNat (g c) c (s.modWave c.cur.g c.cur.w (f c))) =
      .next (after s c fun t => onWave c (results c u d (g c)) (onWave c (f c) t)) :=
  issue_after hl hrun.1 hrun.2 hp fun _ => compute_clear hno

theorem computeMask_frame {g : Ctx → Nat → Bool × Flags}
    (ht : issue op s (fun c s => computeMask u d.toNat (g c) c s) = .next t) (hs : Steady c)
    (hrun : Runs s c op.litB op.uses) (hp : Plain op s c) (hno : noTrapM c u (g c) = true)
    (hl : op.long = false := by rfl) : BitFrame s t c u d := by
  rw [mask_issue hl hrun.1 hrun.2 hp hno] at ht
  cases ht
  exact frame_after (D := bitDests u d) hrun.1 hs fun _ => .onWave waveKept_maskResults

theorem maskOp_frame {a b : BitVec 7} {rules : List Rule} {f : Mask → Mask → Mask}
    (ht : maskOp d a b rules s f = .next t) (hs : Steady c) (hrun : Runs s c 0#7 []) (hr : rules.all (fun r => r.1) = true) :
    BitFrame s t c false d := by
  rw [maskOp_clear hr hrun] at ht
  cases ht
  exact frame_after (D := bitDests false d) hrun.1 hs fun _ => .onWave fun _ => .kput dest_self fun _ h => h

theorem condOp_frame {a b : BitVec 7} {rules : List Rule} {f : Bool → Bool → Bool}
    (ht : condOp d a b rules s f = .next t) (hs : Steady c) (hrun : Runs s c 0#7 []) (hr : rules.all (fun r => r.1) = true) :
    BitFrame s t c true d := by
  rw [condOp_clear hr hrun] at ht
  cases ht
  exact frame_after (D := bitDests true d) hrun.1 hs fun _ => .onWave fun _ => .cset _ dest_self

end

/-! ### Results that raise no trap -/

theorem noTrap_of_ieee {c : Ctx} {u : Bool} {f : Nat → List Word × Flags} (h : ∀ i, (f i).2.ieee = 0#4) :
    Safety.noTrap c u f = true := by
  simp [Safety.noTrap, Flags.traps, h]

/-- No enable is set in sr.fpmode (spec/04 R140). -/
theorem noTrap_of_disabled {c : Ctx} {u : Bool} {f : Nat → List Word × Flags}
    (h : c.wave.sr.fpmode.extractLsb' 8 4 = 0#4) : Safety.noTrap c u f = true := by
  simp [Safety.noTrap, Flags.traps, h]

/-- One result register and no flag but SAT (spec/04 R115). -/
def OneSat (r : List Word × Flags) : Prop := r.1.length = 1 ∧ r.2.ieee = 0#4

theorem packed_oneSat (w : Nat) (f : Nat → Int × Bool) : OneSat (packed w f) := ⟨rfl, ieee_ofSat _⟩
theorem sat32_oneSat (x : Int) : OneSat (sat32 x) := ⟨rfl, ieee_ofSat _⟩
theorem plain_oneSat (x : Word) : OneSat ([x], Flags.none) := ⟨rfl, ieee_none⟩

theorem packFns_oneSat : ∀ p ∈ packFns, ∀ z x y, OneSat (p.2.2 z x y) := by
  simp only [packFns, List.forall_mem_cons, List.not_mem_nil, IsEmpty.forall_iff, implies_true, and_true]
  refine ⟨?_, ?_, ?_, ?_, ?_, ?_, ?_, ?madH, ?madB, ?adds, ?subs, ?shrr, ?_, ?pack, ?_, ?_, ?_⟩
  case madH | madB | adds | subs => exact fun _ _ _ => sat32_oneSat _
  case shrr | pack => exact fun _ _ _ => plain_oneSat _
  all_goals exact fun _ _ _ => packed_oneSat _ _

/-- Form I of group 1 has the functions of the register form. -/
theorem packImmFns_oneSat : ∀ p ∈ packImmFns, ∀ z x y, OneSat (p.2.2.2 z x y) := by
  intro p hp
  have hsame : packImmFns.map (fun p => p.2.2) = packFns.map (fun p => p.2) := rfl
  have hmem : p.2.2 ∈ packImmFns.map (fun p => p.2.2) := List.mem_map.mpr ⟨p, hp, rfl⟩
  rw [hsame] at hmem
  obtain ⟨q, hq, hpq⟩ := List.mem_map.mp hmem
  rw [← hpq]
  exact packFns_oneSat q hq

/-! ### The tables of the statement, as the model runs them -/

theorem exec_intFns3 : ∀ p ∈ intFns3, ∀ u d a b s, exec (p.1 u d a b) s = intRRd u d a b s p.2 := by
  simp only [intFns3, List.forall_mem_cons, List.not_mem_nil, IsEmpty.forall_iff, implies_true, and_true]
  and_intros <;> exact fun _ _ _ _ _ => rfl

theorem exec_intFns1 : ∀ p ∈ intFns1, ∀ u d a s, exec (p.1 u d a) s = intR u d a s p.2 := by
  simp only [intFns1, List.forall_mem_cons, List.not_mem_nil, IsEmpty.forall_iff, implies_true, and_true]
  and_intros <;> exact fun _ _ _ _ => rfl

theorem exec_immFns : ∀ p ∈ immFns, ∀ u d a i s, exec (p.1 u d a i) s = intRI u d a i s p.2 := by
  simp only [immFns, List.forall_mem_cons, List.not_mem_nil, IsEmpty.forall_iff, implies_true, and_true]
  and_intros <;> exact fun _ _ _ _ _ => rfl

theorem exec_immFns3 : ∀ p ∈ immFns3, ∀ u d a i s, exec (p.1 u d a i) s = intRId u d a i s p.2 := by
  simp only [immFns3, List.forall_mem_cons, List.not_mem_nil, IsEmpty.forall_iff, implies_true, and_true]
  and_intros <;> exact fun _ _ _ _ _ => rfl

theorem exec_packFns : ∀ p ∈ packFns, ∀ d a b s, exec (p.1 d a b) s = packRR d a b p.2.1 s p.2.2 := by
  simp only [packFns, List.forall_mem_cons, List.not_mem_nil, IsEmpty.forall_iff, implies_true, and_true]
  and_intros <;> exact fun _ _ _ _ => rfl

theorem exec_packImmFns : ∀ p ∈ packImmFns, ∀ d a i s,
    exec (p.1 d a i) s = packRI d a (p.2.1 i) p.2.2.1 s p.2.2.2 := by
  simp only [packImmFns, List.forall_mem_cons, List.not_mem_nil, IsEmpty.forall_iff, implies_true, and_true]
  and_intros <;> exact fun _ _ _ _ => rfl

theorem exec_floatFns : ∀ p ∈ floatFns, ∀ u d a b s, exec (p.1 u d a b) s = fpRR u d a b p.2.1 s p.2.2 := by
  simp only [floatFns, List.forall_mem_cons, List.not_mem_nil, IsEmpty.forall_iff, implies_true, and_true]
  and_intros <;> exact fun _ _ _ _ _ => rfl

theorem exec_doubleFns : ∀ p ∈ doubleFns, ∀ u d a b s, exec (p.1 u d a b) s = dpRR u d a b p.2.1 s p.2.2 := by
  simp only [doubleFns, List.forall_mem_cons, List.not_mem_nil, IsEmpty.forall_iff, implies_true, and_true]
  and_intros <;> exact fun _ _ _ _ _ => rfl

theorem exec_halfFns : ∀ p ∈ halfFns, ∀ d a b s, exec (p.1 d a b) s = hpRR d a b p.2.1 s p.2.2 := by
  simp only [halfFns, List.forall_mem_cons, List.not_mem_nil, IsEmpty.forall_iff, implies_true, and_true]
  and_intros <;> exact fun _ _ _ _ => rfl

theorem exec_cvtCodeFns : ∀ p ∈ cvtCodeFns, ∀ d a r s, exec (p.1 d a r) s = cvtCode d a r s p.2 := by
  simp only [cvtCodeFns, List.forall_mem_cons, List.not_mem_nil, IsEmpty.forall_iff, implies_true, and_true]
  and_intros <;> exact fun _ _ _ _ => rfl

theorem cvtCodeFns_length : ∀ p ∈ cvtCodeFns, ∀ rm x, (p.2 rm x).1.length = 1 := by
  simp only [cvtCodeFns, List.forall_mem_cons, List.not_mem_nil, IsEmpty.forall_iff, implies_true, and_true]
  and_intros <;> exact fun _ _ => rfl

theorem exec_cvtFns : ∀ p ∈ cvtFns, ∀ d a s, exec (p.1 d a) s = cvtR d a s p.2 := by
  simp only [cvtFns, List.forall_mem_cons, List.not_mem_nil, IsEmpty.forall_iff, implies_true, and_true]
  and_intros <;> exact fun _ _ _ => rfl

theorem exec_narrowFns : ∀ p ∈ narrowFns, ∀ d a b s, exec (p.1 d a b) s = toHalves p.2 d a b s := by
  simp only [narrowFns, List.forall_mem_cons, List.not_mem_nil, IsEmpty.forall_iff, implies_true, and_true]
  and_intros <;> exact fun _ _ _ _ => rfl

theorem exec_icmpFns : ∀ p ∈ icmpFns, ∀ u d a b s, exec (p.1 u d a b) s = icmp u d a b s p.2 := by
  simp only [icmpFns, List.forall_mem_cons, List.not_mem_nil, IsEmpty.forall_iff, implies_true, and_true]
  and_intros <;> exact fun _ _ _ _ _ => rfl

theorem exec_fcmpFns : ∀ p ∈ fcmpFns, ∀ u d a b s, exec (p.1 u d a b) s = fcmp p.2 u d a b s := by
  simp only [fcmpFns, List.forall_mem_cons, List.not_mem_nil, IsEmpty.forall_iff, implies_true, and_true]
  and_intros <;> exact fun _ _ _ _ _ => rfl

theorem exec_dcmpFns : ∀ p ∈ dcmpFns, ∀ u d a b s, exec (p.1 u d a b) s = dcmp p.2 u d a b s := by
  simp only [dcmpFns, List.forall_mem_cons, List.not_mem_nil, IsEmpty.forall_iff, implies_true, and_true]
  and_intros <;> exact fun _ _ _ _ _ => rfl

/-! ### Conversions between lane registers and format slots (spec/02 R60, spec/04 R129) -/

section
variable {s t : State} {c : Ctx} {m : BitVec 3} {d a : BitVec 7}

theorem curLaunch_eq (hc : s.ctx? = some c) : s.curLaunch = c.lau := by simp [State.curLaunch, hc]

theorem cvtw_frame (ht : execCvtw m d a s = .next t) (hs : Steady c) (hk : laneCount (c.lau.slot m.toNat) ≠ 0)
    (hd : d.toNat % laneCount (c.lau.slot m.toNat) = 0)
    (hrun : Runs s c 0#7 [rdV a, wrV d (laneCount (c.lau.slot m.toNat))]) (hoff : c.wave.sr.fpmode.extractLsb' 8 4 = 0#4) :
    RegFrame s t c false d (laneCount (c.lau.slot m.toNat)) := by
  simp only [execCvtw, curLaunch_eq hrun.1] at ht
  exact compute_frame ht hs hrun (plainRegs (illegal := by simp [hk, hd])) (noTrap_of_disabled hoff) fun i => by simp

/-- Beside its destination it advances the generators of its active lanes. -/
theorem cvtn_frame (ht : execCvtn m d a s = .next t) (hs : Steady c) (hk : laneCount (c.lau.slot m.toNat) ≠ 0)
    (ha : a.toNat % laneCount (c.lau.slot m.toNat) = 0)
    (hrun : Runs s c 0#7 [rdV a (laneCount (c.lau.slot m.toNat)), wrV d])
    (hoff : c.wave.sr.fpmode.extractLsb' 8 4 = 0#4) :
    Frame s t c (dest true d 1) (fun _ => false) (fun _ => false) (fun _ => false) (fun i => c.act.getLsbD i) := by
  simp only [execCvtn, curLaunch_eq hrun.1] at ht
  rw [change_compute_issue hrun (plainRegs (illegal := by simp [hk, ha])) (noTrap_of_disabled hoff)] at ht
  cases ht
  exact frame_after (D := { lane := dest true d 1, rng := fun i => c.act.getLsbD i }) hrun.1 hs fun _ =>
    (StateKept.onWave fun _ => .setRng _ fun i hi x => if_neg (ne_true_of_eq_false hi)).trans
      (.onWave (waveKept_results (fun _ h => h) (fun _ h => by simp [dest] at h) fun _ => Nat.le_refl 1))

end

/-- Settles O55: each clause is the frame of the shape that its instructions run through. -/
theorem registerFrame : Obligations.RegisterFrame := by
  have one : ∀ (_ : Nat), 1 ≤ 1 := fun _ => Nat.le_refl 1
  have two : ∀ (_ : Nat), 2 ≤ 2 := fun _ => Nat.le_refl 2
  unfold Obligations.RegisterFrame
  refine ⟨?int, ?int3, ?int1, ?imm, ?sel, ?mov, ?wide, ?pack, ?float, ?double, ?imm3, ?movi, ?int64, ?packImm, ?half,
    ?fpBits, ?dpBits, ?fclass, ?dclass, ?frnd, ?drnd, ?cvtCode, ?cvt, ?narrow, ?toDouble, ?d2f, ?d2i, ?cvtw, ?cvtn, ?ktov,
    ?vtok, ?moves, ?dcmp, ?icmp, ?fcmp, ?masks, ?conds⟩
  case int =>
    exact fun p hp u d a b s c t hs hrun ht =>
      compute_frame ((exec_intFns p hp ..).symm.trans ht) hs hrun plainRegs (pure1_noTrap ..) one
  case int3 =>
    exact fun p hp u d a b s c t hs hrun ht =>
      compute_frame ((exec_intFns3 p hp ..).symm.trans ht) hs hrun plainRegs (pure1_noTrap ..) one
  case int1 =>
    exact fun p hp u d a s c t hs hrun ht =>
      compute_frame ((exec_intFns1 p hp ..).symm.trans ht) hs hrun plainRegs (pure1_noTrap ..) one
  case imm =>
    exact fun p hp u d a i s c t hs hrun ht =>
      compute_frame ((exec_immFns p hp ..).symm.trans ht) hs hrun plainRegs (pure1_noTrap ..) one
  case sel =>
    exact fun u n d a b s c t hs hrun ht =>
      compute_frame ((exec_sel ..).symm.trans ht) hs hrun plainRegs (pure1_noTrap ..) one
  case mov =>
    exact fun u d b s c t hs hrun ht =>
      compute_frame ((exec_mov ..).symm.trans ht) hs hrun plainRegs (pure1_noTrap ..) one
  case wide =>
    intro u d a b s c t hs hd hrun ht
    have hrules : firstBroken [multipleOf 2 d] = none := firstBroken_none (by simp [multipleOf, hd])
    rw [exec_imulwI, exec_imulwN] at ht
    rcases ht with ht | ht <;> exact compute_frame ht hs hrun (plainRegs (bad := hrules)) (pure2_noTrap ..) two
  case pack =>
    exact fun p hp d a b s c t hs hrun ht =>
      compute_frame ((exec_packFns p hp ..).symm.trans ht) hs hrun plainRegs
        (noTrap_of_ieee fun i => (packFns_oneSat p hp ..).2)
        fun i => (packFns_oneSat p hp ..).1.le
  case float =>
    exact fun p hp u d a b s c t hs hrun hno ht =>
      compute_frame ((exec_floatFns p hp ..).symm.trans ht) hs hrun plainRegs hno one
  case double =>
    exact fun p hp u d a b s c t hs hd ha hb hrun hno ht =>
      compute_frame ((exec_doubleFns p hp ..).symm.trans ht) hs hrun
        (plainRegs (bad := firstBroken_none (by simp [multipleOf, hd, ha, hb]))) hno two
  case imm3 =>
    exact fun p hp u d a i s c t hs hrun ht =>
      compute_frame ((exec_immFns3 p hp ..).symm.trans ht) hs hrun plainRegs (pure1_noTrap ..) one
  case movi =>
    exact fun u d i s c t hs hrun ht =>
      compute_frame ((exec_movi ..).symm.trans ht) hs hrun plainRegs (pure1_noTrap ..) one
  case int64 =>
    intro u d a b s c t hs hd ha hb hrun ht
    have hrules : firstBroken [multipleOf 2 d, multipleOf 2 a, multipleOf 2 b] = none :=
      firstBroken_none (by simp [multipleOf, hd, ha, hb])
    rw [exec_iadd64, exec_isub64] at ht
    rcases ht with ht | ht <;> exact compute_frame ht hs hrun (plainRegs (bad := hrules)) (pure2_noTrap ..) two
  case packImm =>
    exact fun p hp d a i s c t hs hrun ht =>
      compute_frame ((exec_packImmFns p hp ..).symm.trans ht) hs hrun plainRegs
        (noTrap_of_ieee fun i => (packImmFns_oneSat p hp ..).2)
        fun i => (packImmFns_oneSat p hp ..).1.le
  case half =>
    exact fun p hp d a b s c t hs hrun hno ht =>
      compute_frame ((exec_halfFns p hp ..).symm.trans ht) hs hrun plainRegs hno one
  case fpBits =>
    intro u d a s c t hs hrun ht
    rw [exec_fabs, exec_fneg] at ht
    rcases ht with ht | ht <;> exact compute_frame ht hs hrun plainRegs (pure1_noTrap ..) one
  case dpBits =>
    intro u d a s c t hs hd ha hrun ht
    have hrules : firstBroken [multipleOf 2 d, multipleOf 2 a] = none := firstBroken_none (by simp [multipleOf, hd, ha])
    rw [exec_dabs, exec_dneg] at ht
    rcases ht with ht | ht <;> exact compute_frame ht hs hrun (plainRegs (bad := hrules)) (pure2_noTrap ..) two
  case fclass =>
    exact fun d a s c t hs hrun ht =>
      compute_frame ((exec_fclass ..).symm.trans ht) hs hrun plainRegs (pure1_noTrap ..) one
  case dclass =>
    exact fun d a s c t hs ha hrun ht =>
      compute_frame ((exec_dclass ..).symm.trans ht) hs hrun
        (plainRegs (bad := firstBroken_none (by simp [multipleOf, ha]))) (pure1_noTrap ..) one
  case frnd =>
    exact fun d a r s c t hs hr hrun hno ht =>
      compute_frame ((exec_frnd ..).symm.trans ht) hs hrun
        (plainRegs (bad := firstBroken_none (by simp [below, hr]))) hno one
  case drnd =>
    exact fun d a r s c t hs hd ha hr hrun hno ht =>
      compute_frame ((exec_drnd ..).symm.trans ht) hs hrun
        (plainRegs (bad := firstBroken_none (by simp [multipleOf, below, hd, ha, hr]))) hno two
  case cvtCode =>
    exact fun p hp d a r s c t hs hr hrun hno ht =>
      compute_frame ((exec_cvtCodeFns p hp ..).symm.trans ht) hs hrun
        (plainRegs (bad := firstBroken_none (by simp [below, hr]))) hno
        fun i => (cvtCodeFns_length p hp ..).le
  case cvt =>
    exact fun p hp d a s c t hs hrun hno ht =>
      compute_frame ((exec_cvtFns p hp ..).symm.trans ht) hs hrun plainRegs hno one
  case narrow =>
    exact fun p hp d a b s c t hs hrun hno ht =>
      compute_frame ((exec_narrowFns p hp ..).symm.trans ht) hs hrun plainRegs hno one
  case toDouble =>
    intro d a s c t hs hd hrun
    have hrules : firstBroken [multipleOf 2 d] = none := firstBroken_none (by simp [multipleOf, hd])
    rw [exec_f2d, exec_i2dI]
    exact ⟨fun hno ht => compute_frame ht hs hrun (plainRegs (bad := hrules)) hno two,
      fun hno ht => compute_frame ht hs hrun (plainRegs (bad := hrules)) hno two⟩
  case d2f =>
    exact fun d a s c t hs ha hrun hno ht =>
      compute_frame ((exec_d2f ..).symm.trans ht) hs hrun
        (plainRegs (bad := firstBroken_none (by simp [multipleOf, ha]))) hno one
  case d2i =>
    exact fun d a r s c t hs ha hr hrun hno ht =>
      compute_frame ((exec_d2iI ..).symm.trans ht) hs hrun
        (plainRegs (bad := firstBroken_none (by simp [multipleOf, below, ha, hr]))) hno one
  case cvtw =>
    exact fun n d a s c t hs hk hd hrun hoff ht =>
      cvtw_frame ((exec_cvtw ..).symm.trans ht) hs hk hd hrun hoff
  case cvtn =>
    exact fun n d a s c t hs hk ha hrun hoff ht =>
      cvtn_frame ((exec_cvtn ..).symm.trans ht) hs hk ha hrun hoff
  case ktov =>
    exact fun d a s c t hs ha hrun ht =>
      compute_frame ((exec_ktov ..).symm.trans ht) hs hrun
        (plainRegs (bad := firstBroken_none (by simp [below, ha]))) (pure1_noTrap ..) one
  case vtok =>
    exact fun d a s c t hs hd hrun ht =>
      computeMask_frame ((exec_vtok ..).symm.trans ht) hs hrun
        (plainRegs (bad := firstBroken_none (by simp [below, hd]))) (noFlags_noTrapM ..)
  case moves =>
    intro d a s c t hs hd ha hrun
    have hr : [below 8 d, below 8 a].all (fun r => r.1) = true := by simp [below, hd, ha]
    rw [exec_knot, exec_kmov, exec_cnot, exec_cmov]
    exact ⟨fun ht => ht.elim (maskOp_frame · hs hrun hr) (maskOp_frame · hs hrun hr),
      fun ht => ht.elim (condOp_frame · hs hrun hr) (condOp_frame · hs hrun hr)⟩
  case dcmp =>
    exact fun p hp u d a b s c t hs hd ha hb hrun hno ht =>
      computeMask_frame ((exec_dcmpFns p hp ..).symm.trans ht) hs hrun
        (plainRegs (bad := firstBroken_none (by simp [below, multipleOf, hd, ha, hb]))) hno
  case icmp =>
    exact fun p hp u d a b s c t hs hd hrun ht =>
      computeMask_frame ((exec_icmpFns p hp ..).symm.trans ht) hs hrun
        (plainRegs (bad := firstBroken_none (by simp [below, hd]))) (noFlags_noTrapM ..)
  case fcmp =>
    exact fun p hp u d a b s c t hs hd hrun hno ht =>
      computeMask_frame ((exec_fcmpFns p hp ..).symm.trans ht) hs hrun
        (plainRegs (bad := firstBroken_none (by simp [below, hd]))) hno
  case masks =>
    exact fun p hp d a b s c t hs hd ha hb hrun ht =>
      maskOp_frame ((exec_maskFns p hp ..).symm.trans ht) hs hrun (by simp [below, hd, ha, hb])
  case conds =>
    exact fun p hp d a b s c t hs hd ha hb hrun ht =>
      condOp_frame ((exec_condFns p hp ..).symm.trans ht) hs hrun (by simp [below, hd, ha, hb])

end Sys2Proof.Proofs

namespace Sys2Proof.Proofs

open Sys2Proof Sys2Proof.Machine Sys2Proof.Safety Sys2Proof.Claims Sys2Proof.Laws

/-! ### Enabled floating-point flags (spec/04 R140 R141) -/

section
variable (c : Ctx) (u : Bool) (d : BitVec 7)

/-- The lanes that an instruction computes for: its active lanes, or the one place of the uniform side. -/
def flagLanes : List Nat := if u then [0] else c.lanes

/-- What `compute` writes: the results of the lanes that raise no enabled flag, and the flags of all. -/
def untrappedResults (f : Nat → List Word × Flags) (wv : Wave) : Wave :=
  ((flagLanes c u).filter (fun i => !(f i).2.traps c.wave.sr.fpmode)).foldl
    (fun wv i => if u then wv.ssets d.toNat (f i).1 else wv.vsets d.toNat i (f i).1)
    (wv.setSticky (Flags.unions ((flagLanes c u).map (fun i => (f i).2))).bits)

/-- What `computeMask` writes: the bits of such lanes. -/
def untrappedBits (f : Nat → Bool × Flags) (wv : Wave) : Wave :=
  let good := (flagLanes c u).filter (fun i => !(f i).2.traps c.wave.sr.fpmode)
  let wv := wv.setSticky (Flags.unions ((flagLanes c u).map (fun i => (f i).2))).bits
  if u then good.foldl (fun wv i => wv.cset d.toNat (f i).1) wv
  else wv.kput (Mask.ofLanes good) d.toNat (Mask.ofLanes (good.filter (fun i => (f i).1)))

/-- The records of the lanes whose flags trap. -/
def flagRecs (flags : Nat → Flags) : List Rec :=
  ((flagLanes c u).filter (fun i => (flags i).traps c.wave.sr.fpmode)).map (fun i => c.fpRec u i (flags i))

end

section
variable {c : Ctx} {u : Bool} {d : BitVec 7}

theorem flagRecs_ne_nil {flags : Nat → Flags}
    (h : (flagLanes c u).all (fun i => !(flags i).traps c.wave.sr.fpmode) = false) : flagRecs c u flags ≠ [] := by
  obtain ⟨i, hi, htraps⟩ := List.all_eq_false.mp h
  simp only [flagRecs, ne_eq, List.map_eq_nil_iff, List.filter_eq_nil_iff, not_forall]
  exact ⟨i, hi, by simpa using htraps⟩

theorem compute_traps {f : Nat → List Word × Flags} {s : State} (h : Safety.noTrap c u f = false) :
    compute u d.toNat f c s =
      (onWave c (untrappedResults c u d f) s, .trap true (flagRecs c u (fun i => (f i).2))) := by
  have hrecs := flagRecs_ne_nil (flags := fun i => (f i).2) h
  simp only [flagRecs, flagLanes] at hrecs ⊢
  simp only [compute, List.filter_map, List.foldl_map, List.map_map, Function.comp_def, List.isEmpty_iff, hrecs, if_false]
  rfl

theorem computeMask_traps {f : Nat → Bool × Flags} {s : State} (h : noTrapM c u f = false) :
    computeMask u d.toNat f c s = (onWave c (untrappedBits c u d f) s, .trap true (flagRecs c u (fun i => (f i).2))) := by
  have hrecs := flagRecs_ne_nil (flags := fun i => (f i).2) h
  simp only [flagRecs, flagLanes] at hrecs ⊢
  simp only [computeMask, List.filter_map, List.foldl_map, List.map_map, Function.comp_def, List.isEmpty_iff, hrecs, if_false,
    List.map_id']
  rfl

end

section
variable {op : Op} {s : State} {c : Ctx} {u : Bool} {d : BitVec 7}

/-- A class S instruction that traps after it has run (spec/04 R141). -/
theorem issue_trapAfter {body : Ctx → State → State × Flow} {e : State → State} {recs : List Rec}
    (hrun : Runs s c op.litB op.uses) (hp : Plain op s c) (hl : op.long = false)
    (hb : body c (started s c) = (e (started s c), .trap true recs)) :
    issue op s body = .next (((e (started s c)).finish c { uni := u } (.trap true recs)).boundary c.cur.g) := by
  rw [issue_clear _ hrun.1 hrun.2 hp, hb]
  simp only [State.finish, hl]
  rfl

/-- The two ends of an instruction that changes the state by `e` and then computes on registers. -/
theorem change_results_or_trap {g : Ctx → Nat → List Word × Flags} {e : Ctx → State → State} {o : Out'}
    {r : Nat → List Word × Flags} (hrun : Runs s c op.litB op.uses) (hp : Plain op s c)
    (ho : o = issue op s (fun c s => compute u d.toNat (g c) c (e c s))) (hr : r = g c) (hl : op.long = false := by rfl) :
    (Safety.noTrap c u r = true → o = .next (after s c fun t => onWave c (results c u d r) (e c t))) ∧
    (Safety.noTrap c u r = false → o = .next (fpTrapped s c u d r (e c))) := by
  subst ho hr
  exact ⟨fun hno => issue_after hl hrun.1 hrun.2 hp fun _ => compute_clear hno,
    fun htrap => issue_trapAfter (e := fun t => onWave c (untrappedResults c u d (g c)) (e c t)) hrun hp hl
      (compute_traps htrap)⟩

/-- The same for one that only computes. -/
theorem results_or_trap {g : Ctx → Nat → List Word × Flags} {o : Out'} {r : Nat → List Word × Flags}
    (hrun : Runs s c op.litB op.uses) (hp : Plain op s c)
    (ho : o = issue op s (fun c s => compute u d.toNat (g c) c s)) (hr : r = g c) (hl : op.long = false := by rfl) :
    (Safety.noTrap c u r = true → o = .next (after s c (onWave c (results c u d r)))) ∧
    (Safety.noTrap c u r = false → o = .next (fpTrapped s c u d r)) :=
  change_results_or_trap (e := fun _ => id) hrun hp ho hr hl

/-- The two ends of a compare. -/
theorem bits_or_trap {g : Ctx → Nat → Bool × Flags} {o : Out'} {r : Nat → Bool × Flags}
    (hrun : Runs s c op.litB op.uses) (hp : Plain op s c)
    (ho : o = issue op s (fun c s => computeMask u d.toNat (g c) c s)) (hr : r = g c) (hl : op.long = false := by rfl) :
    (noTrapM c u r = true → o = .next (after s c (onWave c (Safety.maskResults c u d r)))) ∧
    (noTrapM c u r = false → o = .next (fpTrappedM s c u d r)) := by
  subst ho hr
  exact ⟨mask_issue hl hrun.1 hrun.2 hp,
    fun htrap => issue_trapAfter (e := onWave c (untrappedBits c u d (g c))) hrun hp hl (computeMask_traps htrap)⟩

end

/-- Settles O1: each clause is one shape of group 0. -/
theorem integerResults : Obligations.IntegerResults := by
  unfold Obligations.IntegerResults
  refine ⟨?int, ?int3, ?int1, ?sel, ?mov, ?movi, ?int64, ?wide, ?imm, ?imm3⟩
  case int =>
    exact fun p hp u d a b s c hrun => (exec_intFns p hp ..).trans (intRR_clear hrun.1 hrun.2)
  case int3 =>
    exact fun p hp u d a b s c hrun => (exec_intFns3 p hp ..).trans (intRRd_clear hrun.1 hrun.2)
  case int1 =>
    exact fun p hp u d a s c hrun => (exec_intFns1 p hp ..).trans (intR_clear hrun.1 hrun.2)
  case sel =>
    exact fun u n d a b s c hrun =>
      (exec_sel ..).trans (compute_issue rfl hrun.1 hrun.2 plainRegs (pure1_noTrap ..))
  case mov =>
    exact fun u d b s c hrun => (exec_mov ..).trans (compute_issue rfl hrun.1 hrun.2 plainRegs (pure1_noTrap ..))
  case movi =>
    exact fun u d i s c hrun => (exec_movi ..).trans (compute_issue rfl hrun.1 hrun.2 plainRegs (pure1_noTrap ..))
  case int64 =>
    exact fun u d a b s c hd ha hb hrun => ⟨(exec_iadd64 ..).trans (int64_clear hrun.1 hd ha hb hrun.2),
      (exec_isub64 ..).trans (int64_clear hrun.1 hd ha hb hrun.2)⟩
  case wide =>
    exact fun u d a b s c hd hrun => ⟨(exec_imulwI ..).trans (intWide_clear hrun.1 hd hrun.2),
      (exec_imulwN ..).trans (intWide_clear hrun.1 hd hrun.2)⟩
  case imm =>
    exact fun p hp u d a i s c hrun => (exec_immFns p hp ..).trans (intRI_clear hrun.1 hrun.2)
  case imm3 =>
    exact fun p hp u d a i s c hrun => (exec_immFns3 p hp ..).trans (intRId_clear hrun.1 hrun.2)

/-- Settles O2: the functions of group 1 raise no flag but SAT, so that no lane traps. -/
theorem packedResults : Obligations.PackedResults := by
  unfold Obligations.PackedResults
  constructor
  case left =>
    exact fun p hp d a b s c hrun => (exec_packFns p hp ..).trans (compute_issue rfl hrun.1 hrun.2 plainRegs
      (noTrap_of_ieee fun i => (packFns_oneSat p hp ..).2))
  case right =>
    exact fun p hp d a i s c hrun => (exec_packImmFns p hp ..).trans (compute_issue rfl hrun.1 hrun.2 plainRegs
      (noTrap_of_ieee fun i => (packImmFns_oneSat p hp ..).2))

/-- Settles O3: each format is a computation with flags. -/
theorem floatResults : Obligations.FloatResults := by
  unfold Obligations.FloatResults
  refine ⟨?binary32, ?binary64, ?halves⟩
  case binary32 =>
    exact fun p hp u d a b s c hrun => results_or_trap hrun plainRegs (exec_floatFns p hp ..) rfl
  case binary64 =>
    exact fun p hp u d a b s c hd ha hb hrun =>
      results_or_trap hrun (plainRegs (bad := firstBroken_none (by simp [multipleOf, hd, ha, hb]))) (exec_doubleFns p hp ..) rfl
  case halves =>
    exact fun p hp d a b s c hrun => results_or_trap hrun plainRegs (exec_halfFns p hp ..) rfl

/-! ### Classes of numbers (spec/04 R122) -/

/-- The exponent field of an encoding. -/
def expField (F : Fmt) (a : Nat) : Nat := a % 2 ^ (F.ebits + F.mbits) / 2 ^ F.mbits

/-- The fraction of an encoding. -/
def fraction (F : Fmt) (a : Nat) : Nat := a % 2 ^ (F.ebits + F.mbits) % 2 ^ F.mbits

theorem fraction_lt (F : Fmt) (a : Nat) : fraction F a < 2 ^ F.mbits := Nat.mod_lt _ (Nat.two_pow_pos _)

/-- The top bit of a fraction is set from the first quiet fraction on. -/
theorem testBit_top {m n : Nat} (hn : 0 < n) (hm : m < 2 ^ n) : m.testBit (n - 1) = decide (2 ^ (n - 1) ≤ m) := by
  rw [← Nat.sub_add_cancel hn] at hm
  rw [Bool.eq_iff_iff, decide_eq_true_iff]
  exact ⟨Nat.ge_two_pow_of_testBit, fun h => Nat.testBit_of_two_pow_le_and_two_pow_add_one_gt h hm⟩

/-- What an encoding of an IEEE format stands for, by its exponent field and its fraction (spec/02 R53). -/
theorem read_ieee {F : Fmt} (htop : F.top = .ieee) (hm : 0 < F.mbits) (a : Nat) :
    F.read a = if expField F a = 2 ^ F.ebits - 1 then
        (if fraction F a = 0 then .inf (a.testBit (F.ebits + F.mbits)) else .nan (decide (fraction F a < 2 ^ (F.mbits - 1))))
      else if expField F a = 0 then
        .fin { neg := a.testBit (F.ebits + F.mbits), man := fraction F a, exp := F.emin - F.mbits }
      else .fin { neg := a.testBit (F.ebits + F.mbits), man := fraction F a + 2 ^ F.mbits,
                  exp := (expField F a : Int) - F.bias - F.mbits } := by
  have hquiet : (!(fraction F a).testBit (F.mbits - 1)) = decide (fraction F a < 2 ^ (F.mbits - 1)) := by
    rw [testBit_top hm (fraction_lt F a), ← decide_not, decide_eq_decide, Nat.not_le]
  simp only [Fmt.read, htop, ← hquiet]
  rfl

/-- The class mask of an IEEE format is the bit of the class table for its sign, exponent and fraction. -/
theorem classOf_ieee {F : Fmt} (htop : F.top = .ieee) (hm : 0 < F.mbits) (a : Nat) :
    F.classOf a = 2 ^ classBit (a.testBit (F.ebits + F.mbits)) (expField F a) (fraction F a) (2 ^ F.ebits - 1)
      (2 ^ (F.mbits - 1)) := by
  have hfrac := fraction_lt F a
  simp only [Fmt.classOf, read_ieee htop hm, classBit, pow_ite]
  by_cases hones : expField F a = 2 ^ F.ebits - 1
  · by_cases h0 : fraction F a = 0 <;> simp [hones, h0]
  · by_cases hzero : expField F a = 0
    · simp only [if_neg hones, if_pos hzero, hfrac, if_true]
    · simp [hones, hzero]

theorem expField_toNat {n : Nat} (F : Fmt) (x : BitVec n) : expField F x.toNat = (x.extractLsb' F.mbits F.ebits).toNat := by
  rw [expField, BitVec.extractLsb'_toNat, Nat.shiftRight_eq_div_pow, Nat.add_comm, Nat.pow_add, Nat.mod_mul_right_div_self]

theorem fraction_toNat {n : Nat} (F : Fmt) (x : BitVec n) : fraction F x.toNat = (x.extractLsb' 0 F.mbits).toNat := by
  rw [fraction, BitVec.extractLsb'_toNat, Nat.shiftRight_zero,
    Nat.mod_mod_of_dvd _ (Nat.pow_dvd_pow 2 (Nat.le_add_left F.mbits F.ebits))]

theorem classOf_f32 (x : Word) :
    f32.classOf x.toNat =
      2 ^ classBit (x.getLsbD 31) (x.extractLsb' 23 8).toNat (x.extractLsb' 0 23).toNat 255 (2 ^ 22) := by
  rw [classOf_ieee rfl (by decide), expField_toNat, fraction_toNat]
  rfl

theorem classOf_f64 (x : DWord) :
    f64.classOf x.toNat =
      2 ^ classBit (x.getLsbD 63) (x.extractLsb' 52 11).toNat (x.extractLsb' 0 52).toNat 2047 (2 ^ 51) := by
  rw [classOf_ieee rfl (by decide), expField_toNat, fraction_toNat]
  rfl

/-- Settles O4: sign operations and classes raise no flag, rounding to an integer is a computation with flags. -/
theorem floatUnaryResults : Obligations.FloatUnaryResults := by
  unfold Obligations.FloatUnaryResults
  refine ⟨?signs32, ?signs64, ?fclass, ?dclass, ?frnd, ?drnd⟩
  case signs32 =>
    exact fun u d a s c hrun =>
      ⟨(exec_fabs ..).trans (compute_issue rfl hrun.1 hrun.2 plainRegs (pure1_noTrap ..)),
        (exec_fneg ..).trans (compute_issue rfl hrun.1 hrun.2 plainRegs (pure1_noTrap ..))⟩
  case signs64 =>
    intro u d a s c hd ha hrun
    have hrules : firstBroken [multipleOf 2 d, multipleOf 2 a] = none := firstBroken_none (by simp [multipleOf, hd, ha])
    exact ⟨(exec_dabs ..).trans (compute_issue rfl hrun.1 hrun.2 (plainRegs (bad := hrules)) (pure2_noTrap ..)),
      (exec_dneg ..).trans (compute_issue rfl hrun.1 hrun.2 (plainRegs (bad := hrules)) (pure2_noTrap ..))⟩
  case fclass =>
    intro d a s c hrun
    simp only [← classOf_f32]
    exact (exec_fclass ..).trans (compute_issue rfl hrun.1 hrun.2 plainRegs (pure1_noTrap ..))
  case dclass =>
    intro d a s c ha hrun
    simp only [← classOf_f64]
    exact (exec_dclass ..).trans (compute_issue rfl hrun.1 hrun.2
      (plainRegs (bad := firstBroken_none (by simp [multipleOf, ha]))) (pure1_noTrap ..))
  case frnd =>
    exact fun d a r s c hr hrun =>
      results_or_trap hrun (plainRegs (bad := firstBroken_none (by simp [below, hr]))) (exec_frnd ..) rfl
  case drnd =>
    exact fun d a r s c hd ha hr hrun =>
      results_or_trap hrun (plainRegs (bad := firstBroken_none (by simp [multipleOf, below, hd, ha, hr]))) (exec_drnd ..) rfl

/-- Settles O5: integer compares raise no flag, the others are compares with flags. -/
theorem compareResults : Obligations.CompareResults := by
  unfold Obligations.CompareResults
  refine ⟨?integers, ?binary32, ?binary64⟩
  case integers =>
    exact fun p hp u d a b s c hd hrun => (exec_icmpFns p hp ..).trans (mask_issue rfl hrun.1 hrun.2
      (plainRegs (bad := firstBroken_none (by simp [below, hd]))) (noFlags_noTrapM ..))
  case binary32 =>
    exact fun p hp u d a b s c hd hrun =>
      bits_or_trap hrun (plainRegs (bad := firstBroken_none (by simp [below, hd]))) (exec_fcmpFns p hp ..) rfl
  case binary64 =>
    exact fun p hp u d a b s c hd ha hb hrun =>
      bits_or_trap hrun (plainRegs (bad := firstBroken_none (by simp [below, multipleOf, hd, ha, hb]))) (exec_dcmpFns p hp ..) rfl

/-- The elements, flags and new generator of a lane whose registers from `a` are narrowed to a slot format (spec/02 R60). -/
def narrowing (t : Slot) (a : BitVec 7) (c : Ctx) (i : Nat) : List Nat × Flags × Word :=
  narrowList t (c.wave.rng.getD i 0#32) ((List.range (laneCount t)).map (fun j => (c.wave.vget (a.toNat + j) i).toNat))

/-- The register that it makes of them. -/
def narrowed (t : Slot) (a : BitVec 7) (c : Ctx) (i : Nat) : List Word × Flags :=
  ([BitVec.ofNat 32 (packBits t.bits (narrowing t a c i).1)], (narrowing t a c i).2.1)

/-- The generators of the active lanes move on. -/
def stepGenerators (t : Slot) (a : BitVec 7) (c : Ctx) : State → State :=
  onWave c fun wv => { wv with rng := wv.rng.zipIdx.map (fun p => if c.act.getLsbD p.2 then (narrowing t a c p.2).2.2 else p.1) }

/-- The two ends of a narrowing into a format slot, which moves the generators on first. -/
theorem cvtn_ends {n : BitVec 3} {d a : BitVec 7} {s : State} {c : Ctx} (hk : laneCount (c.lau.slot n.toNat) ≠ 0)
    (ha : a.toNat % laneCount (c.lau.slot n.toNat) = 0)
    (hrun : Runs s c 0#7 [rdV a (laneCount (c.lau.slot n.toNat)), wrV d]) :
    (Safety.noTrap c false (narrowed (c.lau.slot n.toNat) a c) = true → exec (.cvtn n d a) s = .next (after s c fun s =>
      onWave c (results c false d (narrowed (c.lau.slot n.toNat) a c)) (stepGenerators (c.lau.slot n.toNat) a c s))) ∧
    (Safety.noTrap c false (narrowed (c.lau.slot n.toNat) a c) = false → exec (.cvtn n d a) s =
      .next (fpTrapped s c false d (narrowed (c.lau.slot n.toNat) a c) (stepGenerators (c.lau.slot n.toNat) a c))) := by
  rw [exec_cvtn, execCvtn, curLaunch_eq hrun.1]
  exact change_results_or_trap (g := narrowed (c.lau.slot n.toNat) a) (e := stepGenerators (c.lau.slot n.toNat) a) hrun
    (plainRegs (illegal := by simp [hk, ha])) rfl rfl

/-- Settles O7: each conversion is a computation with flags; a narrowing into a format slot advances the generators first. -/
theorem conversionResults : Obligations.ConversionResults := by
  unfold Obligations.ConversionResults
  refine ⟨?codes, ?cvt, ?narrow, ?toDouble, ?d2f, ?d2i, ?cvtw, ?cvtn, ?cvtnTraps⟩
  case codes =>
    exact fun p hp d a r s c hr hrun =>
      results_or_trap hrun (plainRegs (bad := firstBroken_none (by simp [below, hr]))) (exec_cvtCodeFns p hp ..) rfl
  case cvt =>
    exact fun p hp d a s c hrun => results_or_trap hrun plainRegs (exec_cvtFns p hp ..) rfl
  case narrow =>
    exact fun p hp d a b s c hrun => results_or_trap hrun plainRegs (exec_narrowFns p hp ..) rfl
  case toDouble =>
    intro d a s c hd hrun
    have hrules : firstBroken [multipleOf 2 d] = none := firstBroken_none (by simp [multipleOf, hd])
    exact ⟨results_or_trap hrun (plainRegs (bad := hrules)) (exec_f2d ..) rfl,
      (results_or_trap hrun (plainRegs (bad := hrules)) (exec_i2dI ..) rfl).1⟩
  case d2f =>
    exact fun d a s c ha hrun =>
      results_or_trap hrun (plainRegs (bad := firstBroken_none (by simp [multipleOf, ha]))) (exec_d2f ..) rfl
  case d2i =>
    exact fun d a r s c ha hr hrun =>
      results_or_trap hrun (plainRegs (bad := firstBroken_none (by simp [multipleOf, below, ha, hr]))) (exec_d2iI ..) rfl
  case cvtw =>
    intro n d a s c
    dsimp only
    intro hk hd hrun
    rw [exec_cvtw, execCvtw, curLaunch_eq hrun.1]
    exact results_or_trap hrun (plainRegs (illegal := by simp [hk, hd])) rfl rfl
  case cvtn => exact fun n d a s c hk ha hrun => (cvtn_ends hk ha hrun).1
  case cvtnTraps => exact fun n d a s c hk ha hrun => (cvtn_ends hk ha hrun).2

end Sys2Proof.Proofs

namespace Sys2Proof.Proofs

open Sys2Proof Sys2Proof.Machine Sys2Proof.Safety Sys2Proof.Claims Sys2Proof.Laws

/-! ### Elements of other lanes (spec/04 R130 to R133) -/

/-- Nothing else holds back a lane instruction that reads these elements of other lanes. -/
theorem plainCross {op : Op} {s : State} {c : Ctx} (hu : op.uni = false) (hin : inAlloc c op.also = true)
    (hx : ∀ i ∈ c.lanes, ∀ p ∈ op.cross i, elemUsable c false p = true) (bad : op.bad = none := by rfl)
    (illegal : op.illegal = false := by rfl) (priv : op.priv = false := by rfl) (noTrap : op.noTrap = false := by rfl)
    (on : op.on = .any := by rfl) (crossWr : op.crossWr = false := by rfl) (mem : op.mem = false := by rfl)
    (ctr : op.ctr = 8 := by rfl) (hold : op.hold = false := by rfl) (nop : op.nop = false := by rfl) : Plain op s c where
  bad := bad
  illegal := illegal
  also := hin
  priv := .inl priv
  noTrap := .inl noTrap
  on := by rw [on]; rfl
  cross := by
    intro i hi
    rw [hu] at hi
    rw [crossWr]
    exact List.all_eq_true.mpr (hx i hi)
  crossWr := fun h => absurd (crossWr.symm.trans h) Bool.false_ne_true
  mem := .inl mem
  ctr := by simp [ctr]
  hold := hold
  nop := nop

section
variable {s : State} {c : Ctx} {d a b : BitVec 7}

theorem shuffle_clear {pick : Ctx → Nat → Nat} (hin : inAlloc c [rdV a] = true)
    (hok : ∀ i ∈ c.lanes, elemUsable c false (a.toNat, pick c i) = true) (hrun : Runs s c b [rdB false b, wrV d]) :
    shuffle d a b s pick =
      .next (after s c (onWave c (results c false d (pure1 fun i => c.wave.vget a.toNat (pick c i))))) :=
  compute_issue rfl hrun.1 hrun.2 (plainCross rfl hin fun i hi p hp => by
    simp only [hrun.1, elems, List.map_singleton, List.mem_singleton] at hp
    exact hp ▸ hok i hi) (pure1_noTrap ..)

theorem bcast_clear (hin : inAlloc c [rdV a] = true)
    (hok : elemUsable c false (a.toNat, (c.cur.lit.getD (c.wave.sget b.toNat)).toNat % c.wave.width) = true)
    (hrun : Runs s c b [rdB true b, wrV d]) :
    execBcast d a b s = .next (after s c (onWave c (results c false d (pure1 fun _ =>
      c.wave.vget a.toNat ((c.cur.lit.getD (c.wave.sget b.toNat)).toNat % c.wave.width))))) :=
  compute_issue rfl hrun.1 hrun.2 (plainCross rfl hin fun i hi p hp => by
    simp only [hrun.1, elems, List.map_singleton, List.mem_singleton] at hp
    exact hp ▸ hok) (pure1_noTrap ..)

/-- Which element of which of the two registers comes to element `e` (spec/04 R131): true for the fill register. -/
def slideFrom (h : Nat) (c : Ctx) (src : Nat → Nat → Nat → Bool × Nat) (e : Nat) : Bool × Nat :=
  src (h * c.wave.width) ((c.cur.lit.map BitVec.toNat).getD 1) e

/-- The number of the register with the element number. -/
def slideSource (h : Nat) (a b : BitVec 7) (c : Ctx) (src : Nat → Nat → Nat → Bool × Nat) (e : Nat) : Nat × Nat :=
  if (slideFrom h c src e).1 then (b.toNat, (slideFrom h c src e).2) else (a.toNat, (slideFrom h c src e).2)

theorem slideSource_eq {h : Nat} {src : Nat → Nat → Nat → Bool × Nat} {e : Nat} :
    slideSource h a b c src e = (if (slideFrom h c src e).1 then b.toNat else a.toNat, (slideFrom h c src e).2) := by
  unfold slideSource
  split <;> rfl

theorem slide_clear {h : Nat} {src : Nat → Nat → Nat → Bool × Nat}
    (hcount : (c.cur.lit.map BitVec.toNat).getD 1 ≤ h * c.wave.width) (hin : inAlloc c [rdV a, rdV b] = true)
    (hok : ∀ i ∈ c.lanes, ∀ x < h, elemUsable c false
      ((slideSource h a b c src (h * i + x)).1, (slideSource h a b c src (h * i + x)).2 / h) = true)
    (hrun : Runs s c 0#7 [wrV d]) :
    slide h d a b s src = .next (after s c (onWave c (results c false d (pure1 fun i =>
      BitVec.ofNat 32 (packBits (32 / h) ((List.range h).map (fun x =>
        (c.wave.vget (slideSource h a b c src (h * i + x)).1 ((slideSource h a b c src (h * i + x)).2 / h)).toNat /
          2 ^ (32 / h * ((slideSource h a b c src (h * i + x)).2 % h))))))))) := by
  have hwidth : s.curWidth = c.wave.width := by simp [State.curWidth, hrun.1]
  have hn : slideCount s = (c.cur.lit.map BitVec.toNat).getD 1 := by simp [slideCount, State.curLit, hrun.1]
  simp only [slideSource_eq] at hok ⊢
  rw [slide, hn, hwidth]
  refine compute_issue rfl hrun.1 hrun.2 (plainCross rfl hin (fun i hi p hp => ?_)
    (illegal := decide_eq_false (Nat.not_lt.mpr hcount))) (pure1_noTrap ..)
  obtain ⟨x, hx, rfl⟩ := List.mem_map.mp hp
  exact hok i hi x (List.mem_range.mp hx)

theorem readsOf_usable {moves : Ctx → List (Nat × Nat)} (hc : s.ctx? = some c)
    (hok : ∀ p ∈ moves c, elemUsable c false (a.toNat, p.2) = true) :
    ∀ i ∈ c.lanes, ∀ q ∈ readsOf a s moves i, elemUsable c false q = true := by
  intro i _ q hq
  simp only [readsOf, hc, elems, List.map_map, List.mem_map, List.mem_filter] at hq
  obtain ⟨p, ⟨hp, -⟩, rfl⟩ := hq
  exact hok p hp

section
variable (hb : b.toNat < 8) (hin : inAlloc c [rdV a] = true) (hrun : Runs s c 0#7 [wrV d])
include hb hin hrun

theorem compress_clear {z : Bool} (hok : ∀ p ∈ c.lanes.zip (c.selected b), elemUsable c false (a.toNat, p.2) = true) :
    compress z d a b s = .next (after s c fun t =>
      (moveLanes d a (c.lanes.zip (c.selected b)) (if z then c.lanes.drop (c.selected b).length else []) c t).setLast c
        (BitVec.ofNat 64 (c.selected b).length)) :=
  issue_after rfl hrun.1 hrun.2 (plainCross rfl hin (readsOf_usable hrun.1 hok)
    (bad := firstBroken_none (by simp [below, hb]))) fun _ => rfl

theorem vexpand_clear (hok : ∀ p ∈ (c.selected b).zip c.lanes, elemUsable c false (a.toNat, p.2) = true) :
    execVexpand d a b s = .next (after s c fun t =>
      (moveLanes d a ((c.selected b).zip c.lanes) [] c t).setLast c (BitVec.ofNat 64 (c.selected b).length)) :=
  issue_after rfl hrun.1 hrun.2 (plainCross rfl hin (readsOf_usable hrun.1 hok)
    (bad := firstBroken_none (by simp [below, hb]))) fun _ => rfl

end

theorem vote_clear {f : Mask → Mask → Mask × DWord} (hd : d.toNat < 8) (hrun : Runs s c 0#7 [rdV a]) :
    let r := f c.act (Mask.ofLanes (c.lanes.filter (fun i => c.A false a i != 0#32)))
    vote d a s f = .next (after s c fun t => (onWave c (fun wv => wv.kput c.act d.toNat r.1) t).setLast c r.2) :=
  issue_after rfl hrun.1 hrun.2 (plainRegs (bad := firstBroken_none (by simp [below, hd]))) fun _ => rfl

end

/-- The shuffles of the table, as the model runs them. -/
theorem exec_shuffleFns : ∀ p ∈ shuffleFns, ∀ d a b s, exec (p.1 d a b) s = shuffle d a b s (fun c i => p.2 c b i) := by
  simp only [shuffleFns, List.forall_mem_cons, List.not_mem_nil, IsEmpty.forall_iff, implies_true, and_true]
  and_intros <;> exact fun _ _ _ _ => rfl

theorem exec_slideFns : ∀ p ∈ slideFns, ∀ d a b s, exec (p.1 d a b) s = slide p.2.1 d a b s p.2.2 := by
  simp only [slideFns, List.forall_mem_cons, List.not_mem_nil, IsEmpty.forall_iff, implies_true, and_true]
  and_intros <;> exact fun _ _ _ _ => rfl

theorem exec_voteFns : ∀ p ∈ voteFns, ∀ d a s, exec (p.1 d a) s = vote d a s p.2 := by
  simp only [voteFns, List.forall_mem_cons, List.not_mem_nil, IsEmpty.forall_iff, implies_true, and_true]
  and_intros <;> exact fun _ _ _ => rfl

/-- Settles O9: one lemma for each shape of group 6. -/
theorem crossLaneResults : Obligations.CrossLaneResults := by
  unfold Obligations.CrossLaneResults
  refine ⟨?shuffles, ?slides, ?broadcast, ?moves, ?votes⟩
  case shuffles =>
    exact fun p hp d a b s c hin hok hrun => (exec_shuffleFns p hp ..).trans (shuffle_clear hin hok hrun)
  case slides =>
    exact fun p hp d a b s c hcount hin hok hrun => (exec_slideFns p hp ..).trans (slide_clear hcount hin hok hrun)
  case broadcast =>
    exact fun d a b s c hin hok hrun => (exec_bcast ..).trans (bcast_clear hin hok hrun)
  case moves =>
    exact fun d a b s c hb hin hrun =>
      ⟨fun hok => ⟨(exec_vcompress ..).trans (compress_clear hb hin hrun hok),
          (exec_vcompressZ ..).trans (compress_clear hb hin hrun hok)⟩,
        fun hok => (exec_vexpand ..).trans (vexpand_clear hb hin hrun hok)⟩
  case votes =>
    exact fun p hp d a s c hd hrun => (exec_voteFns p hp ..).trans (vote_clear hd hrun)

/-! ### Pending results (spec/04 R139 R141, spec/08 R237) -/

/-- A trap for a pending instruction depends on its records of live lanes alone. -/
theorem trapFor_congr {s : State} {g w : Nat} {p : Pend} {recs recs' : List Rec}
    (h : ∀ wv, s.wave? g w = some wv → p.liveRecs wv recs = p.liveRecs wv recs') :
    s.trapFor g w p recs = s.trapFor g w p recs' := by
  unfold State.trapFor
  split
  · rfl
  · rw [h _ ‹_›]

/-- The record of a lane whose special function raised enabled flags. -/
def specialRec (q : Pend) (f : Nat × Flags) : Rec := { q.record f.1 false false (Flt.plain cFp 0#64) with fpf := f.2.ieee }

/-- Records of lanes that are not live may be left out before the trap. -/
theorem trapFor_specialRec_live {t : State} {g w : Nat} {q : Pend} (flags : List (Nat × Flags)) :
    t.trapFor g w q ((flags.filter (fun f => decide (f.1 < 64))).map (specialRec q)) =
      t.trapFor g w q ((flags.filter (fun f => decide (f.1 < 64) &&
        (((t.wave? g w).map (fun wv => wv.live.getLsbD f.1)).getD false))).map (specialRec q)) := by
  refine trapFor_congr fun wv hwv => ?_
  have hrec : (fun r : Rec => if r.uni then (q.mask &&& wv.live) != 0#64 else wv.live.getLsbD r.lane) ∘ specialRec q =
      fun f => wv.live.getLsbD f.1 := rfl
  simp only [Pend.liveRecs, List.filter_map, hrec, List.filter_filter, hwv, Option.map_some, Option.getD_some]
  congr 1
  refine List.filter_congr fun f _ => ?_
  cases wv.live.getLsbD f.1 <;> simp

/-- Settles O40: the pending instruction is found and its core runs; of the records of a special function only those of live lanes
count. -/
theorem pendingResults : Obligations.PendingResults := by
  unfold Obligations.PendingResults
  constructor
  case left =>
    intro g w p s wv q flags hwv hq hkind hheld
    rw [exec_specialFunctionComplete]
    simp only [execSpecialFunctionComplete, hwv, Option.bind_some, hq, hkind, hheld, Bool.false_eq_true, if_false]
    exact congrArg _ (trapFor_specialRec_live flags)
  case right =>
    intro g w p s wv q hwv hq hkind hheld
    rw [exec_mangleReply]
    simp [execMangleReply, hwv, hq, hkind, hheld]

end Sys2Proof.Proofs

namespace Sys2Proof.Proofs

open Sys2Proof Sys2Proof.Machine Sys2Proof.Safety Sys2Proof.Claims Sys2Proof.Laws

/-! ### The hamper control (spec/05 R150 to R153) -/

/-- Nothing else holds back a command of the hamper control. -/
theorem plainHamper {op : Op} {s : State} {c : Ctx} (he : EngineReady c) (hbad : op.bad = none)
    (hon : runsOn op.on s c.grp.core = true) (hctr : op.ctr = 3) (hold : op.hold = false := by rfl)
    (also : op.also = [] := by rfl) (illegal : op.illegal = false := by rfl) (priv : op.priv = false := by rfl)
    (noTrap : op.noTrap = false := by rfl) (cross : op.cross = fun _ => [] := by rfl)
    (crossWr : op.crossWr = false := by rfl) (nop : op.nop = false := by rfl) : Plain op s c :=
  plainU hbad (fun _ => hctr ▸ he.1) hon (.inr he.2) hold (by rw [also]; rfl) illegal priv noTrap cross crossWr nop

theorem execHpart_enters {d a : BitVec 7} {s : State} {c : Ctx} (hd : d ≠ 0#7) (hr : Runs s c 0#7 [rdS a, wrS d])
    (he : EngineReady c) (hs : shading c.grp.core = true) :
    execHpart d a s = .next (afterLong s c true fun t =>
      t.pushCmd c selHamper .hpart [c.wave.sget a.toNat] [] (some d.toNat) 0 0#32) := by
  have hpos : firstBroken [positive d] = none := firstBroken_none (by
    have : d.toNat ≠ 0 := fun h => hd (BitVec.eq_of_toNat_eq h)
    simp [positive]; omega)
  exact issue_afterLong rfl hr.1 hr.2 (plainHamper he hpos hs rfl) fun _ => rfl

theorem maintain_enters {op : CmdOp} {a : BitVec 7} {s : State} {c : Ctx} (h4 : a.toNat % 4 = 0) (h0 : a.toNat ≠ 0)
    (hr : Runs s c 0#7 [rdS a 4]) (he : EngineReady c) :
    maintain op a s = .next (afterLong s c true fun t =>
      t.pushCmd c selHamper op (c.wave.sblock a.toNat 4) [] none 0 0#32) := by
  have hblock : firstBroken [blockOf 4 a] = none := firstBroken_none (by simp [blockOf, h4, h0])
  exact issue_afterLong rfl hr.1 hr.2 (plainHamper he hblock rfl rfl) fun _ => rfl

/-- Settles O22: both kinds of command enter through `issue`, which nothing holds back. -/
theorem hamperCommandIssue : Obligations.HamperCommandIssue := by
  unfold Obligations.HamperCommandIssue
  refine ⟨fun d a s c hd hr he hs => ?_, fun a s c h4 h0 hr he => ⟨?_, ?_⟩⟩
  · exact (exec_hpart d a s).trans (execHpart_enters hd hr he hs)
  · exact (exec_cinv a s).trans (maintain_enters h4 h0 hr he)
  · exact (exec_cflush a s).trans (maintain_enters h4 h0 hr he)

/-- The flag word of a maintenance command is bad when it has a bit beside its three flags, or names all lines and host
windows at once (R153). -/
theorem maintFlags_bad (w : Word) : (w.extractLsb' 3 29 != 0#29 || (w.getLsbD 2 && w.getLsbD 1)) = true ↔
    8 ≤ w.toNat ∨ (w.getLsbD 2 = true ∧ w.getLsbD 1 = true) := by
  have hhigh : w.extractLsb' 3 29 = 0#29 ↔ w.toNat < 8 := by
    rw [← BitVec.toNat_inj, BitVec.extractLsb'_toNat, Nat.shiftRight_eq_div_pow]
    have := w.isLt
    simp
    omega
  simp [hhigh]

/-- Settles O34: the entry at the head is found, and each clause is one branch of its event. -/
theorem hamperEvents : Obligations.HamperEvents := by
  unfold Obligations.HamperEvents
  refine ⟨?hpart, ?maint⟩
  case hpart =>
    intro core s x G hx hG hop
    simp only [exec_hpartComplete, execHpartComplete, hx, hG, hop, bne_self_eq_false, Bool.false_eq_true, if_false,
      Nat.reducePow]
    generalize (x.desc.headD 0#32).toNat % 16 = n
    refine ⟨fun h => if_pos h, ?held, ?free⟩
    case held =>
      rintro hn h0 ⟨h, hh, hne⟩
      rw [if_neg (Nat.not_lt.mpr hn), if_pos (by simp [h0, hh, hne])]
    case free =>
      intro hn hfree hflight
      have hmine : ¬ (decide (0 < n) && (s.core core).holder.isSome && (s.core core).holder != some x.group) = true := by
        rcases hfree with h | h | h <;> simp [h]
      rw [if_neg (Nat.not_lt.mpr hn), if_neg hmine, hflight, if_neg Bool.false_ne_true]
      exact ⟨fun h => by rw [if_pos h], fun h => by rw [if_neg h]⟩
  case maint =>
    intro core s x G hx hG hop
    have hkind : (x.op != .cinv && x.op != .cflush) = false := by rcases hop with h | h <;> simp [h]
    simp only [exec_cacheMaintComplete, execCacheMaintComplete, hx, hG, hkind, Bool.false_eq_true, if_false, ← maintFlags_bad]
    exact ⟨fun h => if_pos h, fun h => if_neg h⟩

/-! ### The state at power-on (spec/16 R388) -/

/-- Every core number names a core as after power-on, within the device or past its last. -/
theorem core_reset (core : Nat) : State.reset.core core = Core.reset :=
  (List.getD_eq_getElem?_getD ..).trans (List.getElem?_getD_replicate_default_eq ..)

theorem cfgWord_reset (w : Nat) : State.reset.cfgWord w = 0#32 :=
  (List.getD_eq_getElem?_getD ..).trans (List.getElem?_getD_replicate_default_eq ..)

/-- Every word that the clear debug window lists is 0, at the offsets of its watchpoints too (spec/15 Table 15.1). -/
theorem debug_clear_read (off : Nat) : Debug.clear.read off = 0#32 := by
  have cond {p : Prop} [Decidable p] {x y : Word} (hx : x = 0#32) (hy : y = 0#32) : (if p then x else y) = 0#32 := by
    rw [hx, hy, ite_self]
  unfold Debug.read
  iterate 15 refine cond rfl ?_
  refine cond ?_ rfl
  split
  case h_1 => rfl
  case h_2 w h =>
    obtain rfl : w = { lo := 0#64, hi := 0#64, ctl := 0#32 } := List.eq_of_mem_replicate (List.mem_of_getElem? h)
    split <;> rfl

/-- Settles O58: the values by evaluation; no byte store lists a byte, and every core is as after power-on. -/
theorem resetState : Obligations.ResetState := by
  unfold Obligations.ResetState
  have hcore : ∀ c ∈ State.reset.cores, c = Core.reset := fun c hc => List.eq_of_mem_replicate hc
  have hcanonical : Canonical State.reset := ⟨rfl, fun c hc => hcore c hc ▸ rfl, fun c hc => hcore c hc ▸ rfl⟩
  refine ⟨rfl, cfgWord_reset, fun core hlt => List.getD_replicate _ hlt, rfl, rfl, rfl, rfl, rfl, rfl, rfl,
    fun core => ?_, fun x => rfl, hcanonical⟩
  rw [core_reset]
  exact ⟨rfl, rfl, debug_clear_read⟩

/-! ### Repair (spec/16 R391 R393 R395 R396) -/

/-- The low bits of the first word of an entry of the darn record: its type, and its die where that is below 32. -/
theorem darnEntry_head_mod (typ die unit failed spare : Nat) :
    (((darnEntry typ die unit failed spare).getD 0 0#32).toNat) % 16 = typ % 16 := by
  show (BitVec.ofNat 32 (typ + 2 ^ 4 * die + 2 ^ 9 * unit)).toNat % 16 = typ % 16
  rw [BitVec.toNat_ofNat]
  omega

/-- A repair that is not the swap of a core is applied as it is appended. -/
theorem repairNow_applied {s : State} {e : List Word} (h : (e.getD 0 0#32).toNat % 16 ≠ 1) :
    s.repairNow e = { s with rowset := s.rowset ++ [e], journal := s.journal ++ [e], softRepair := s.softRepair ++ [e] } :=
  if_neg h

/-- The repairs that a replay has found are appended in order. -/
theorem foldl_repairNow : ∀ (l : List (List Word)) (s : State), (∀ e ∈ l, (e.getD 0 0#32).toNat % 16 ≠ 1) →
    l.foldl State.repairNow s = { s with rowset := s.rowset ++ l, journal := s.journal ++ l, softRepair := s.softRepair ++ l }
  | [], s, _ => by simp
  | e :: l, s, h => by
    rw [List.foldl_cons, repairNow_applied (h e List.mem_cons_self),
      foldl_repairNow l _ fun x hx => h x (List.mem_cons_of_mem e hx)]
    simp

theorem afterReplay_of_inReplay {s : State} (h : s.inReplay = true) : s.afterReplay = s := if_pos h

/-- The end of a replay: the repairs that it found, then the answer that waits for it (R393). -/
theorem afterReplay_done {s : State} (h : s.inReplay = false) (hfound : ∀ e ∈ s.found, (e.getD 0 0#32).toNat % 16 ≠ 1) :
    let t : State := { s with found := [], rowset := s.rowset ++ s.found, journal := s.journal ++ s.found, softRepair := s.softRepair ++ s.found }
    (s.darnReply = none → s.afterReplay = t) ∧
    (∀ port w0 tag, s.darnReply = some (port, w0, tag) →
      s.afterReplay = State.serve { t with darnReply := none } port w0 tag 0 []) := by
  intro t
  have hfold : s.found.foldl State.repairNow { s with found := [] } = t := foldl_repairNow s.found _ hfound
  simp only [State.afterReplay, h, Bool.false_eq_true, if_false, hfold]
  exact ⟨fun hn => by rw [show t.darnReply = none from hn], fun port w0 tag hs => by rw [show t.darnReply = _ from hs]⟩

/-- A patch lane that no entry of the bus names is free. -/
theorem sparesUsed_not_contains {s : State} {typ die unit lane : Nat}
    (h : ∀ e ∈ s.darn ++ s.found, e.getD 0 0#32 &&& ~~~0x1000000#32 ≠ BitVec.ofNat 32 (typ + 2 ^ 4 * die + 2 ^ 9 * unit) ∨
      (e.getD 2 0#32).toNat ≠ lane) : (s.sparesUsed typ die unit).contains lane = false := by
  rw [← Bool.not_eq_true, List.contains_iff_mem, State.sparesUsed, List.mem_map]
  rintro ⟨e, he, hlane⟩
  obtain ⟨hmem, hhead⟩ := List.mem_filter.mp he
  exact (h e hmem).elim (fun hne => hne (eq_of_beq hhead)) (fun hne => hne hlane)

section
variable {core vault tsv lane : Nat} {s : State} (hup : s.up = true) (hpresent : s.corePresent core = true)
  (hshading : shading core = true)
include hup hpresent hshading

/-- The test of a vault whose column is repaired or being repaired takes place. -/
theorem backgroundTest_runs (hvault : vault < 16) (hcol : s.columns.getD core .notReady ≠ .notReady) :
    (!s.up || !s.corePresent core || !shading core || decide (16 ≤ vault) || s.columns.getD core .notReady == .notReady) =
      false := by
  rw [hup, hpresent, hshading, decide_eq_false (Nat.not_le.mpr hvault), beq_eq_false_iff_ne.mpr hcol]
  rfl

theorem execBackgroundTest_passed (hvault : vault < 16) (hcol : s.columns.getD core .notReady ≠ .notReady) :
    execBackgroundTest core vault none s = .next s := by
  rw [execBackgroundTest, backgroundTest_runs hup hpresent hshading hvault hcol, if_neg Bool.false_ne_true]

/-- A failed data TSV gets a patch lane that no entry names yet (R391 R392). -/
theorem execBackgroundTest_failed (hvault : vault < 16) (hcol : s.columns.getD core .notReady ≠ .notReady)
    (htsv : 16 ≤ tsv) (htsv' : tsv < 128) (hlane : lane < 8)
    (hfree : (s.sparesUsed 3 (core / 12) (s.physical core * 16 + vault)).contains lane = false) (hroom : s.darnRoom = true) :
    execBackgroundTest core vault (some (tsv, lane)) s =
      .next (s.repairFound (darnEntry 3 (core / 12) (s.physical core * 16 + vault) tsv lane)) := by
  have hbus : (decide (tsv < 16) || decide (128 ≤ tsv) || decide (8 ≤ lane) ||
      (s.sparesUsed 3 (core / 12) (s.physical core * 16 + vault)).contains lane || !s.darnRoom) = false := by
    rw [decide_eq_false (Nat.not_lt.mpr htsv), decide_eq_false (Nat.not_le.mpr htsv'), decide_eq_false (Nat.not_le.mpr hlane),
      hfree, hroom]
    rfl
  simp only [execBackgroundTest, backgroundTest_runs hup hpresent hshading hvault hcol, hbus, Bool.false_eq_true, if_false]

/-- A core retires once, as long as its die has its spare (R391). -/
theorem execCoreRetirement_retires (hret : (s.core core).retiring = false)
    (hspare : ∀ e ∈ s.darn ++ s.found, (e.getD 0 0#32).toNat % 512 ≠ 1 + 16 * (core / 12)) (hroom : s.darnRoom = true) :
    execCoreRetirement core s = .next ((s.repairFound (darnEntry 1 (core / 12) (core % 12) (core % 12) 12)).modCore core
      (fun c => { c with retiring := true })) := by
  have hused : (s.darn ++ s.found).any (fun e => (e.getD 0 0#32).toNat % 512 == 1 + 16 * (core / 12)) = false := by
    rw [List.any_eq_false]
    exact fun e he h => hspare e he (eq_of_beq h)
  simp only [execCoreRetirement, hup, hpresent, hshading, hret, hused, hroom]
  rfl

end

/-- The corrected errors of a unit within the last second schedule its repair (R396). -/
theorem correctedError_repairDue (s : State) (die unit addr : Nat) :
    let t := s.errEvent die unit addr 0
    let old := ((t.corrected.find? (fun x => x.1 == die && x.2.1 == unit)).map (fun x => x.2.2)).getD []
    let n := (old.filter (fun x => decide (t.now < x + 1000000000))).length + 1
    (1024 < n → (die, unit) ∈ (s.correctedError die unit addr).repairDue) ∧
    (n ≤ 1024 → (s.correctedError die unit addr).repairDue = t.repairDue) := by
  intro t old n
  have hdue : (s.correctedError die unit addr).repairDue =
      if 1024 < n ∧ !t.repairDue.contains (die, unit) then t.repairDue ++ [(die, unit)] else t.repairDue := rfl
  rw [hdue]
  refine ⟨fun h => ?_, fun h => if_neg fun hn => absurd hn.1 (by omega)⟩
  by_cases hold : (die, unit) ∈ t.repairDue <;> simp [h, hold]

theorem execLinkFlitError_cases {die link addr n : Nat} {s : State} (hdie : s.diePresent die = true) (hlink : link < 2 ^ 16)
    (hn : 1 ≤ n) :
    execLinkFlitError die link addr n s =
      if n < 8 then .next (s.correctedError die (unitNo kindLink link) addr)
      else if n = 8 then .next (s.errEvent die (unitNo kindLink link) addr 2)
      else .next { (s.errEvent die (unitNo kindLink link) addr 2).errEvent die (unitNo kindLink link) addr 1 with
        memP := mark (s.errEvent die (unitNo kindLink link) addr 2).memP addr } := by
  have hgo : ¬ (n = 0 ∨ 2 ^ 16 ≤ link ∨ (!s.diePresent die) = true) := by simp [hdie]; omega
  rw [execLinkFlitError, if_neg hgo]

/-- Settles O48: one lemma for each event; what a repair does is said by `afterReplay_done` and `repairNow_applied`. -/
theorem repairEvents : Obligations.RepairEvents := by
  unfold Obligations.RepairEvents
  refine ⟨?ready, ?replay, ?test, ?retire, ?link, fun die unit addr s => ?corrected⟩
  case ready =>
    intro core s h
    rw [exec_columnReady, execColumnReady, h, if_neg (by decide)]
  case replay => exact fun s => ⟨afterReplay_of_inReplay, afterReplay_done⟩
  case test =>
    intro core vault s hup hpresent hshading hvault hcol
    refine ⟨execBackgroundTest_passed hup hpresent hshading hvault hcol, fun tsv lane => ?_⟩
    intro unit head htsv htsv' hlane hfree hroom e
    have hexec := execBackgroundTest_failed hup hpresent hshading hvault hcol htsv htsv' hlane (sparesUsed_not_contains hfree)
      (decide_eq_true hroom)
    have hmod : (e.getD 0 0#32).toNat % 16 ≠ 1 := by
      rw [show e = darnEntry 3 (core / 12) unit tsv lane from rfl, darnEntry_head_mod]; decide
    refine ⟨fun h => ?_, fun h => ?_⟩
    · rw [exec_backgroundTest, hexec, State.repairFound, h, if_neg Bool.false_ne_true]
      exact congrArg _ (repairNow_applied hmod)
    · rw [exec_backgroundTest, hexec, State.repairFound, if_pos h]
      rfl
  case retire =>
    intro core s hup hshading hpresent hret hspare hroom hreplay e
    have happend : s.repairFound (darnEntry 1 (core / 12) (core % 12) (core % 12) 12) = s.darnAppend e := by
      rw [State.repairFound, hreplay, if_neg Bool.false_ne_true]
      exact if_pos (darnEntry_head_mod 1 ..)
    rw [exec_coreRetirement, execCoreRetirement_retires hup hpresent hshading hret hspare (decide_eq_true hroom), happend]
    rfl
  case link =>
    intro die link addr n s hdie hlink unit
    simp only [exec_linkFlitError]
    refine ⟨fun h1 h8 => ?_, ?_, fun h8 => ?_⟩
    · rw [execLinkFlitError_cases hdie hlink h1, if_pos h8]
    · rw [execLinkFlitError_cases hdie hlink (by decide)]
      rfl
    · rw [execLinkFlitError_cases hdie hlink (by omega), if_neg (by omega), if_neg (by omega)]
      rfl
  case corrected =>
    obtain ⟨hmany, hfew⟩ := correctedError_repairDue s die unit addr
    exact ⟨hmany, hfew, rfl⟩

end Sys2Proof.Proofs

namespace Sys2Proof.Proofs

open Sys2Proof Sys2Proof.Machine Sys2Proof.Safety Sys2Proof.Claims Sys2Proof.Laws

/-! ### Performing an access (spec/05 R159 to R162, spec/06 R182 to R187) -/

/-- The lanes of a `CSTORE` whose elements a watchpoint matches stop before the next slot of their split (spec/15 R378). -/
def stopNoted (g w sp : Nat) (hit : Option (Nat × Mask)) (s : State) : State :=
  match hit with
  | some (i, m) => s.modWave g w (fun wv => wv.modEntry sp (fun e => { e with stopNext := some (3, i, m) }))
  | none => s

/-- The pending instruction after one of its accesses: the lane is done, the faults that it met are noted. -/
def pendNoted (lane : Nat) (q : Pend) (a : Acc) (faults : List LaneFlt) (x : Pend) : Pend :=
  { x with
    accs := x.accs.map (fun b => if b.lane == lane then { b with live := false } else b)
    lanes := x.lanesAfter a
    recs := x.recs ++ faults.map (fun f => q.record f.lane f.uni (!q.isLoad) f.flt) }

/-- What a performed access leaves in its wave, beside: its elements. -/
def accessNoted (g w p lane : Nat) (q : Pend) (a : Acc) (r : Performed) : State :=
  r.s.modWave g w (fun wv => (wv.writeAll q.uni (q.elements a r.out)).modPend p (pendNoted lane q a r.faults))

/-- What the access does at its location, after the acquire of its instruction. -/
def accessEffect (s : State) (g : Nat) (G : Machine.Group) (q : Pend) (a : Acc) (merge : Bool) : Performed :=
  (begun q G a s).doAccess g G q a merge

/-- The state after an access is performed. -/
def accessPerformed (s : State) (g w p lane : Nat) (G : Machine.Group) (q : Pend) (a : Acc) (merge : Bool) : State :=
  (stopNoted g w q.sp (s.cellsWatched G q a) (accessNoted g w p lane q a (accessEffect s g G q a merge))).memDone g w p

/-- An operation whose result LOAD_DATA_RETURN brings; the others end with STORE_COMPLETE (spec/03 R96 R101). -/
def returnsData : MemOp → Bool
  | .load _ _ | .atomic _ | .ldrq _ => true
  | .store _ | .estore | .red _ | .cstore | .workdone => false

section
variable {s : State} {g w p lane : Nat} {G : Machine.Group} {wv : Wave} {q : Pend} {a : Acc}

theorem pend?_of_performable (h : Performable s g w p lane G wv q a) : (s.wave? g w).bind (fun wv => wv.pend? p) = some q := by
  rw [wave?_of_get h.group h.wave]
  exact h.pend

theorem performLane_of_performable (h : Performable s g w p lane G wv q a) (merge : Bool) :
    s.performLane g w p lane merge = some (accessPerformed s g w p lane G q a merge) := by
  simp only [State.performLane, h.group, wave?_of_get h.group h.wave, Option.bind_some, h.pend, h.acc, h.may,
    accessPerformed, stopNoted]
  rfl

theorem exec_loadDataReturn_of_performable (h : Performable s g w p lane G wv q a) :
    exec (.loadDataReturn g w p lane) s =
      if (q.op?).any returnsData then .next (accessPerformed s g w p lane G q a false) else idle s := by
  rw [exec_loadDataReturn, execLoadDataReturn, pend?_of_performable h]
  have hperf : happens s (s.performLane g w p lane false) = .next (accessPerformed s g w p lane G q a false) := by
    rw [performLane_of_performable h]; rfl
  rw [hperf]
  rcases hk : q.kind with op | _ | _ | _ | _ | _ | _
  case mem => cases op <;> simp [Pend.op?, hk, returnsData]
  all_goals simp [Pend.op?, hk]

theorem exec_storeComplete_of_performable (h : Performable s g w p lane G wv q a) (merge : Bool) :
    exec (.storeComplete g w p lane merge) s =
      if (q.op?).any (fun op => !returnsData op) then .next (accessPerformed s g w p lane G q a merge) else idle s := by
  rw [exec_storeComplete, execStoreComplete, pend?_of_performable h]
  have hperf : happens s (s.performLane g w p lane merge) = .next (accessPerformed s g w p lane G q a merge) := by
    rw [performLane_of_performable h]; rfl
  rw [hperf]
  rcases hk : q.kind with op | _ | _ | _ | _ | _ | _
  case mem => cases op <;> simp [Pend.op?, hk, returnsData]
  all_goals simp [Pend.op?, hk]

/-- Only a `CSTORE` looks at watchpoints when it is performed. -/
theorem accessPerformed_of_ne_cstore (h : q.kind ≠ .mem .cstore) (merge : Bool) :
    accessPerformed s g w p lane G q a merge =
      accessDone g w p lane q a (accessEffect s g G q a merge).out (accessEffect s g G q a merge).s
        (accessEffect s g G q a merge).faults := by
  have hhit : s.cellsWatched G q a = none := by simp [State.cellsWatched, h]
  rw [accessPerformed, hhit]
  rfl

/-- An access that returns data, as `accessDone` of its effect. -/
theorem exec_loadDataReturn_done (h : Performable s g w p lane G wv q a) {op : MemOp} (hk : q.kind = .mem op)
    (hop : returnsData op = true) {out : List (Word × Bool)} {t : State} {faults : List LaneFlt}
    (hr : accessEffect s g G q a false = { s := t, out := out, faults := faults }) :
    exec (.loadDataReturn g w p lane) s = .next (accessDone g w p lane q a out t faults) := by
  have hne : q.kind ≠ .mem .cstore := by rintro hc; rw [hk] at hc; cases hc; cases hop
  rw [exec_loadDataReturn_of_performable h, Pend.op?, hk, Option.any_some, hop, if_pos rfl, accessPerformed_of_ne_cstore hne, hr]

/-- An access that only stores, as `accessDone` of its effect. -/
theorem exec_storeComplete_done (h : Performable s g w p lane G wv q a) {op : MemOp} {merge : Bool} (hk : q.kind = .mem op)
    (hop : returnsData op = false) (hc : op ≠ .cstore) {out : List (Word × Bool)} {t : State} {faults : List LaneFlt}
    (hr : accessEffect s g G q a merge = { s := t, out := out, faults := faults }) :
    exec (.storeComplete g w p lane merge) s = .next (accessDone g w p lane q a out t faults) := by
  have hne : q.kind ≠ .mem .cstore := by rintro hk'; rw [hk] at hk'; cases hk'; exact hc rfl
  rw [exec_storeComplete_of_performable h, Pend.op?, hk, Option.any_some, hop, Bool.not_false, if_pos rfl,
    accessPerformed_of_ne_cstore hne, hr]

end

/-- The state of an acquire that begins, for what does not look at the copies of the hampers. -/
@[simp] theorem begun_cores (q : Pend) (G : Machine.Group) (a : Acc) (s : State) : (begun q G a s).cores = s.cores := by
  unfold begun; split <;> rfl

@[simp] theorem begun_core (q : Pend) (G : Machine.Group) (a : Acc) (s : State) (core : Nat) :
    (begun q G a s).core core = s.core core := by
  simp only [State.core, begun_cores]

/-! ### Words of a read (spec/05 R159) -/

theorem cellBytes_length (m : List Host.Cell) : ∀ (n a : Nat), (cellBytes m a n).length = n
  | 0, _ => rfl
  | n + 1, a => by rw [cellBytes, List.length_cons, cellBytes_length m n]

theorem leNat_lt : ∀ l : List Byte, leNat l < 2 ^ (8 * l.length)
  | [] => Nat.one_pos
  | b :: l => by
    have hl := leNat_lt l
    have hb := b.isLt
    rw [leNat, List.length_cons, Nat.mul_succ, Nat.pow_add]
    omega

/-- The 4-byte words of a byte list, by their numbers. -/
theorem leWords_eq_map : ∀ (n : Nat) (l : List Byte),
    leWords n l = (List.range n).map (fun j => BitVec.ofNat 32 (leNat ((l.drop (4 * j)).take 4)))
  | 0, _ => rfl
  | n + 1, l => by
    rw [leWords, leWords_eq_map n, List.range_succ_eq_map, List.map_cons, List.map_map]
    congr 1
    refine List.map_congr_left fun j _ => ?_
    simp only [Function.comp, List.drop_drop, Nat.mul_succ, Nat.add_comm]

/-- The model's sign extension of a short word. -/
theorem ofNat_signExtend {n x : Nat} (h0 : 0 < n) (hn : n < 32) (hx : x < 2 ^ n) :
    (if x.testBit (n - 1) then BitVec.ofNat 32 (x + (2 ^ 32 - 2 ^ n)) else BitVec.ofNat 32 x) =
      (BitVec.ofNat n x).signExtend 32 := by
  have hmsb : (BitVec.ofNat n x).msb = x.testBit (n - 1) := by
    rw [BitVec.msb_eq_getLsbD_last, BitVec.getLsbD_ofNat]
    simp [h0]
  have hle : 2 ^ n ≤ 2 ^ 31 := Nat.pow_le_pow_right (by decide) (by omega)
  apply BitVec.eq_of_toNat_eq
  rw [BitVec.toNat_signExtend, hmsb, BitVec.toNat_setWidth, BitVec.toNat_ofNat, Nat.mod_eq_of_lt hx]
  split <;> rw [BitVec.toNat_ofNat] <;> omega

/-- A list of values by number, each with what `f` says of its number. -/
theorem zipIdx_map_range {α β : Type} (k : Nat) (F : Nat → α) (f : Nat → β) :
    ((List.range k).map F).zipIdx.map (fun v => (v.1, f v.2)) = (List.range k).map (fun j => (F j, f j)) := by
  apply List.ext_getElem <;> simp

/-- `loadWords` by the numbers of its words, as `doLoad` computes them. -/
theorem loadWords_eq_map {z : Nat × Bool} (hz : z ∈ loadSizes) {l : List Byte} (hl : l.length = z.1) :
    loadWords z.1 z.2 l = (List.range ((z.1 + 3) / 4)).map (fun j =>
      if z.2 && (leNat ((l.drop (4 * j)).take 4)).testBit (8 * z.1 - 1)
      then BitVec.ofNat 32 (leNat ((l.drop (4 * j)).take 4) + (2 ^ 32 - 2 ^ (8 * z.1)))
      else BitVec.ofNat 32 (leNat ((l.drop (4 * j)).take 4))) := by
  obtain ⟨n, sext⟩ := z
  simp only at hl
  have hsizes : n = 1 ∨ n = 2 ∨ (sext = false ∧ (n = 4 ∨ n = 8 ∨ n = 16)) := by
    revert hz; simp [loadSizes]; grind
  by_cases hn : n < 4
  · have hone : 0 < n ∧ (n + 3) / 4 = 1 := by omega
    have hx := leNat_lt l
    rw [hl] at hx
    have htake : (l.drop (4 * 0)).take 4 = l := List.take_of_length_le (by simp; omega)
    simp only [loadWords, if_pos hn, hone.2, List.range_one, List.map_cons, List.map_nil, htake, List.cons.injEq, and_true]
    cases sext
    case false =>
      have hle : 2 ^ (8 * n) ≤ 2 ^ 32 := Nat.pow_le_pow_right (by decide) (by omega)
      simp [BitVec.toNat_eq, Nat.mod_eq_of_lt hx]
    case true => simpa using (ofNat_signExtend (by omega) (by omega) hx).symm
  · have hwhole : sext = false ∧ (n + 3) / 4 = n / 4 := by
      obtain h | h | ⟨h, h'⟩ := hsizes
      · omega
      · omega
      · exact ⟨h, by omega⟩
    obtain ⟨rfl, hcount⟩ := hwhole
    simp only [loadWords, if_neg hn, hcount, Bool.false_and, Bool.false_eq_true, if_false, leWords_eq_map]

/-! ### Local memory (spec/05 R142 R146 R147) -/

/-- The location is in CLM or in the scratch ways. -/
def IsLocal (l : Loc) : Prop := (∃ x, l = .clm x) ∨ ∃ x, l = .scratch x

section
variable {s : State} {G : Machine.Group} {l : Loc}

theorem locRead_local (hl : IsLocal l) (n : Nat) :
    s.locRead G l n = cellBytes (localBytes (s.cores.getD G.core Core.reset) l) (localAddr G l) n := by
  rcases hl with ⟨x, rfl⟩ | ⟨x, rfl⟩ <;> rfl

/-- The marks of `n` bytes from an offset of a local location. -/
theorem locPoison_local (hl : IsLocal l) (k n : Nat) :
    s.locPoison G (l.add k) n = Machine.marked (localMarks (s.cores.getD G.core Core.reset) l) (localAddr G l + k) n := by
  rcases hl with ⟨x, rfl⟩ | ⟨x, rfl⟩
  · simp only [State.locPoison, Loc.add, localAddr, localMarks, Group.clmBase, Nat.add_assoc]; rfl
  · rfl

theorem locTouch_local (hl : IsLocal l) (n : Nat) : s.locTouch l n = s := by
  rcases hl with ⟨x, rfl⟩ | ⟨x, rfl⟩ <;> rfl

/-- A store to local memory has no copies to care for. -/
theorem laneWrite_local (hl : IsLocal l) (store : Bool) (r : Reader) (b : List Byte) :
    s.laneWrite store G r l b = storeLocal G l b s := by
  rcases hl with ⟨x, rfl⟩ | ⟨x, rfl⟩ <;> rfl

end

/-- The bytes of one word. -/
theorem wordsBytes_singleton (x : Word) : wordsBytes [x] = leBytes 4 x.toNat := by
  simp [wordsBytes]

/-- The functions of the table of 4-byte atomics, as the model runs them. -/
theorem atomicFn_of_mem {z : Nat × (Word → Word → Word → Word)} (hz : z ∈ atomicFns) (o x y : Word) :
    atomicFn z.1 o x y = z.2 o x y := by
  revert z
  simp only [atomicFns, List.forall_mem_cons, List.not_mem_nil, IsEmpty.forall_iff, implies_true, and_true]
  and_intros <;> rfl

theorem atomicFns_ne_cas64 {z : Nat × (Word → Word → Word → Word)} (hz : z ∈ atomicFns) : z.1 ≠ 22 := by
  revert z
  simp [atomicFns]

section
variable {s : State} {G : Machine.Group} {l : Loc} {a : Acc} {mem : List Host.Cell} {y : Nat}
  (hl : IsLocal a.loc) (hread : ∀ n, s.locRead G a.loc n = cellBytes mem y n)
include hl hread

/-- A load returns the bytes, extended as its function says, with the marks of their words (R159). -/
theorem doLoad_local {marks : List Nat} (hmarks : ∀ k n, s.locPoison G (a.loc.add k) n = Machine.marked marks (y + k) n)
    {z : Nat × Bool} (hz : z ∈ loadSizes) (r : Reader) (glob acq : Bool) :
    s.doLoad G r glob acq a z.1 z.2 =
      { s := s, out := (loadWords z.1 z.2 (cellBytes mem y z.1)).zipIdx.map (fun v =>
          (v.1, Machine.marked marks (y + 4 * v.2) (min z.1 4))) } := by
  have hseen : s.laneRead G r glob acq a.va a.loc z.1 =
      { bytes := cellBytes mem y z.1
        bad := (List.range ((z.1 + 3) / 4)).map (fun j => Machine.marked marks (y + 4 * j) (min z.1 4))
        s := s } := by
    simp only [← hread, ← hmarks]
    rcases hl with ⟨x, hx⟩ | ⟨x, hx⟩ <;> rw [hx] <;> rfl
  simp only [State.doLoad, hseen, loadWords_eq_map hz (cellBytes_length ..),
    zipIdx_map_range _ _ (fun j => Machine.marked marks (y + 4 * j) (min z.1 4))]
  congr 1
  refine List.map_congr_left fun j hj => ?_
  rw [List.getD_eq_getElem?_getD, List.getElem?_map, List.getElem?_range (List.mem_range.mp hj)]
  rfl

omit hl in
/-- The word at the location, as an atomic or an element store reads it. -/
theorem locWord_local : leWords 1 (s.locRead G a.loc 4) = [BitVec.ofNat 32 (leNat (cellBytes mem y 4))] := by
  rw [hread, leWords, List.take_of_length_le (Nat.le_of_eq (cellBytes_length ..)), leWords]

/-- An atomic on a word without mark returns the old value and stores the function of it (R162). -/
theorem doAtomic_local {z : Nat × (Word → Word → Word → Word)} (hz : z ∈ atomicFns) (hclean : s.locPoison G a.loc 4 = false)
    (r : Reader) (q : Pend) :
    let old := BitVec.ofNat 32 (leNat (cellBytes mem y 4))
    s.doAtomic G r q a z.1 =
      { s := storeLocal G a.loc (leBytes 4 (z.2 old (a.data.getD 0 0#32) (a.data.getD 1 0#32)).toNat) s
        out := [(old, false)] } := by
  have hword := locWord_local hread
  simp only [State.doAtomic, if_neg (atomicFns_ne_cas64 hz), hclean, Bool.false_eq_true, if_false, hword, Nat.reduceDiv,
    locTouch_local hl, laneWrite_local hl, List.getD_cons_zero, wordsBytes_singleton, atomicFn_of_mem hz]

/-- An element store changes the enabled bits (R161). -/
theorem doElement_local (r : Reader) :
    let old := BitVec.ofNat 32 (leNat (cellBytes mem y 4))
    let en := a.data.getD 1 0#32
    s.doElement G r a =
      { s := if en = 0#32 then s
          else storeLocal G a.loc (leBytes 4 ((old &&& ~~~en) ||| (a.data.getD 0 0#32 &&& en)).toNat) s
        out := [] } := by
  simp only [State.doElement, hread, locTouch_local hl, laneWrite_local hl, wordsBytes_singleton]
  split <;> rfl

end

/-- An atomic on a word with a mark changes nothing (spec/05 R146). -/
theorem doAtomic_poisoned {s : State} {G : Machine.Group} {q : Pend} {a : Acc} {f : Nat} (r : Reader)
    (hbad : s.locPoison G a.loc (if f = 22 then 8 else 4) = true) :
    s.doAtomic G r q a f = { s := s, out := [], faults := poisonMet q a } := by
  simp only [State.doAtomic, hbad, if_true]
  rfl

/-- Settles O13: each operation at a local location, by its reads and its one store. -/
theorem localAccessPerformed : Obligations.LocalAccessPerformed := by
  unfold Obligations.LocalAccessPerformed
  intro s g w p lane G wv q a h hl y core mem marks s₁
  have hread : ∀ n, s₁.locRead G a.loc n = cellBytes mem y n := fun n => by
    rw [locRead_local hl, begun_cores]
  have hmarks : ∀ k n, s₁.locPoison G (a.loc.add k) n = Machine.marked marks (y + k) n := fun k n => by
    rw [locPoison_local hl, begun_cores]
  have hmarked : s₁.locPoison G a.loc 4 = Machine.marked marks y 4 := by
    have hadd : a.loc.add 0 = a.loc := by rcases hl with ⟨x, hx⟩ | ⟨x, hx⟩ <;> rw [hx] <;> rfl
    rw [← hadd, hmarks, Nat.add_zero]
  refine ⟨?load, ?store, ?atomic, ?element⟩
  case load =>
    intro z hz hk
    refine exec_loadDataReturn_done h hk rfl ?_
    rw [accessEffect, State.doAccess, hk]
    exact doLoad_local hl hread hmarks hz _ _ _
  case store =>
    intro n m hk
    refine exec_storeComplete_done h hk rfl (by simp) ?_
    rw [accessEffect, State.doAccess, hk]
    exact congrArg (Performed.mk · [] []) (laneWrite_local hl ..)
  case atomic =>
    intro z hz hk old
    have heffect : accessEffect s g G q a false = s₁.doAtomic G (q.reader G a) q a z.1 := by
      rw [accessEffect, State.doAccess, hk]
    refine ⟨fun hclean => ?_, fun hbad => ?_⟩
    · exact exec_loadDataReturn_done h hk rfl (heffect.trans (doAtomic_local hl hread hz (hmarked.trans hclean) _ q))
    · refine exec_loadDataReturn_done h hk rfl (heffect.trans (doAtomic_poisoned _ ?_))
      rw [if_neg (atomicFns_ne_cas64 hz), hmarked, hbad]
  case element =>
    intro m hk old en
    refine exec_storeComplete_done h hk rfl (by simp) ?_
    rw [accessEffect, State.doAccess, hk]
    exact doElement_local hl hread _

end Sys2Proof.Proofs

namespace Sys2Proof.Proofs

open Sys2Proof Sys2Proof.Machine Sys2Proof.Safety Sys2Proof.Claims Sys2Proof.Laws

/-! ### The bytes that the device reads (spec/06 R178) -/

/-- A byte depends on the bytes, the mark and the queued reductions of its word only. -/
theorem byteAt_congr {s t : State} {x : Nat} (hs : Memory.wf s.mem = true) (ht : Memory.wf t.mem = true)
    (hmem : ∀ y, y / 4 = x / 4 → cellRead t.mem y = cellRead s.mem y)
    (hmark : Machine.marked t.memP (4 * (x / 4)) 4 = Machine.marked s.memP (4 * (x / 4)) 4)
    (hred : t.redQueue.filter (fun e => e.word == x / 4) = s.redQueue.filter (fun e => e.word == x / 4)) :
    byteAt t x = byteAt s x := by
  simp only [byteAt, peek_byte hs, peek_byte ht, hred]
  rw [fold_word _ t s (x / 4) ht hs hmem hmark x rfl, List.filter_filter]
  simp

/-- With no reduction queued for its word it is the byte of memory. -/
theorem byteAt_settled {s : State} {x : Nat} (hs : Memory.wf s.mem = true)
    (hred : s.redQueue.filter (fun e => e.word == x / 4) = []) : byteAt s x = cellRead s.mem x := by
  rw [byteAt, peek_byte hs, hred]
  rfl

/-- Applying queued reductions early changes no byte. -/
theorem byteAt_drain {s : State} (hs : Memory.wf s.mem = true) (pa n x : Nat) : byteAt (s.drain pa n) x = byteAt s x :=
  peek_drain hs pa n x

/-- The lines of [pa, pa + n) have no reduction queued once they are applied. -/
theorem drain_settled (s : State) {pa n x : Nat} (hx : pa / 128 ≤ x / 128 ∧ x / 128 ≤ (pa + n - 1) / 128) :
    (s.drain pa n).redQueue.filter (fun e => e.word == x / 4) = [] := by
  have hqueue : (s.drain pa n).redQueue = s.redQueue.filter (fun e => !e.touches pa n) := rfl
  rw [hqueue, List.filter_filter, List.filter_eq_nil_iff]
  intro e _ he
  simp only [Bool.and_eq_true, beq_iff_eq, Bool.not_eq_true'] at he
  obtain ⟨hword, hkept⟩ := he
  have htouches : e.touches pa n = true := by
    simp only [RedEnt.touches, RedEnt.line, hword, Bool.and_eq_true, decide_eq_true_eq]
    omega
  rw [htouches] at hkept
  exact Bool.noConfusion hkept

/-- A store of whole words clears no mark of a word on another line. -/
theorem marked_unmark_other {p : List Nat} {pa n k : Nat}
    (hk : ¬ (pa / 128 ≤ k / 32 ∧ k / 32 ≤ (pa + n - 1) / 128)) :
    Machine.marked (Machine.unmark p pa n) (4 * k) 4 = Machine.marked p (4 * k) 4 := by
  simp only [Machine.marked, Machine.unmark, List.any_filter]
  congr 1
  funext w
  rw [Bool.eq_iff_iff]
  simp only [Bool.and_eq_true, Bool.not_eq_true', Bool.and_eq_false_iff, decide_eq_false_iff_not, decide_eq_true_eq]
  omega

/-- A store of bytes to device memory changes those bytes and no other. -/
theorem byteAt_poke {s : State} (hs : Memory.wf s.mem = true) (pa : Nat) (b : List Byte) (x : Nat) :
    byteAt (s.poke pa b) x = if pa ≤ x ∧ x < pa + b.length then b.getD (x - pa) 0#8 else byteAt s x := by
  have hdrain : Memory.wf (s.drain pa b.length).mem = true := drain_wf hs
  have hread : ∀ y, cellRead (s.poke pa b).mem y =
      if pa ≤ y ∧ y < pa + b.length then b.getD (y - pa) 0#8 else cellRead (s.drain pa b.length).mem y :=
    fun y => cellRead_cellWrites hdrain
  by_cases hline : pa / 128 ≤ x / 128 ∧ x / 128 ≤ (pa + b.length - 1) / 128
  · have hred := drain_settled s hline
    rw [byteAt_settled (poke_wf hs) hred, hread, ← byteAt_settled hdrain hred, byteAt_drain hs]
  · rw [if_neg (by omega), ← byteAt_drain hs pa b.length x]
    refine byteAt_congr hdrain (poke_wf hs) (fun y hy => ?_) (marked_unmark_other (by omega)) rfl
    rw [hread, if_neg (by omega)]

/-! ### Updates that leave every byte as it was -/

/-- Device memory with its marks and its write queues, and the memories of the cores, are as they were. -/
structure SameBytes (s t : State) : Prop where
  mem : t.mem = s.mem
  memP : t.memP = s.memP
  redQueue : t.redQueue = s.redQueue
  cores : t.cores = s.cores

namespace SameBytes
variable {s t u : State}

theorem refl (s : State) : SameBytes s s := ⟨rfl, rfl, rfl, rfl⟩

theorem trans (h : SameBytes s t) (h' : SameBytes t u) : SameBytes s u :=
  ⟨h'.mem.trans h.mem, h'.memP.trans h.memP, h'.redQueue.trans h.redQueue, h'.cores.trans h.cores⟩

theorem foldl {α : Type} {f : State → α → State} : ∀ (l : List α) (s : State), (∀ s x, SameBytes s (f s x)) →
    SameBytes s (l.foldl f s)
  | [], s, _ => refl s
  | x :: l, s, h => (h s x).trans (foldl l (f s x) h)

theorem canonical (h : SameBytes s t) (hs : Canonical s) : Canonical t :=
  ⟨h.mem ▸ hs.mem, h.cores ▸ hs.clm, h.cores ▸ hs.scr⟩

theorem byteAt_eq (h : SameBytes s t) (hs : Canonical s) (x : Nat) : byteAt t x = byteAt s x :=
  byteAt_congr hs.mem (h.canonical hs).mem (fun y _ => by rw [h.mem]) (by rw [h.memP]) (by rw [h.redQueue])

theorem core_eq (h : SameBytes s t) (core : Nat) : t.core core = s.core core := by
  simp only [State.core, h.cores]

end SameBytes

/-- The same of an update that leaves the groups as they were too, as everything that an access does at its location. -/
structure Untouched (s t : State) : Prop extends SameBytes s t where
  groups : t.groups = s.groups

namespace Untouched
variable {s t u : State}

theorem refl (s : State) : Untouched s s := ⟨.refl s, rfl⟩

theorem trans (h : Untouched s t) (h' : Untouched t u) : Untouched s u :=
  ⟨h.toSameBytes.trans h'.toSameBytes, h'.groups.trans h.groups⟩

theorem foldl {α : Type} {f : State → α → State} : ∀ (l : List α) (s : State), (∀ s x, Untouched s (f s x)) →
    Untouched s (l.foldl f s)
  | [], s, _ => refl s
  | x :: l, s, h => (h s x).trans (foldl l (f s x) h)

end Untouched

section
variable (s : State) (G : Machine.Group) (r : Reader)

theorem begun_untouched (q : Pend) (a : Acc) : Untouched s (begun q G a s) := by
  unfold begun
  split
  · exact ⟨⟨rfl, rfl, rfl, rfl⟩, rfl⟩
  · exact .refl s

/-- Before a write the copies of its lines are dropped or hidden. -/
theorem claim_untouched (store : Bool) (pa n : Nat) : Untouched s (s.claim store G r pa n) := by
  unfold State.claim
  cases store <;> exact ⟨⟨rfl, rfl, rfl, rfl⟩, rfl⟩

theorem seenAt_untouched (l : Loc) (n : Nat) : Untouched s (s.seenAt G r l n) := by
  cases l <;> exact ⟨⟨rfl, rfl, rfl, rfl⟩, rfl⟩

theorem keepCopy_untouched (core pa : Nat) (frame : Bool) : Untouched s (s.keepCopy core pa frame) := ⟨⟨rfl, rfl, rfl, rfl⟩, rfl⟩

end

/-! ### Host windows (spec/06 R176) -/

section
variable (s : State) (peer a : Nat)

theorem hostFill_untouched (line : Nat) : Untouched s (s.hostFill peer line) := by
  unfold State.hostFill
  split
  · exact .refl s
  · exact ⟨⟨rfl, rfl, rfl, rfl⟩, rfl⟩

theorem hostApply_untouched (e : HostRed) : Untouched s (s.hostApply e) := by
  refine (hostFill_untouched s e.peer (e.word / 32)).trans ?_
  unfold State.hostApply
  dsimp only
  split
  · exact .refl _
  · split <;> exact ⟨⟨rfl, rfl, rfl, rfl⟩, rfl⟩

theorem hostFills_untouched (n : Nat) : Untouched s (s.hostFills peer a n) := by
  have hlines : Untouched s ((List.range ((a + n - 1) / 128 - a / 128 + 1)).foldl
      (fun s i => s.hostFill peer (a / 128 + i)) s) := .foldl _ s fun s i => hostFill_untouched s peer (a / 128 + i)
  have hreds := fun (l : List HostRed) (t : State) => Untouched.foldl l t hostApply_untouched
  unfold State.hostFills
  dsimp only
  obtain ⟨⟨hmem, hmemP, hred, hcores⟩, hgroups⟩ := hlines.trans (hreds _ _)
  exact ⟨⟨hmem, hmemP, hred, hcores⟩, hgroups⟩

theorem hostStore_untouched (b : List Byte) : Untouched s (s.hostStore peer a b) :=
  (hostFills_untouched s peer a b.length).trans ⟨⟨rfl, rfl, rfl, rfl⟩, rfl⟩

theorem arriveHostRed_untouched (g f : Nat) (x : Word) (merge : Bool) : Untouched s (s.arriveHostRed g f peer a x merge) := by
  unfold State.arriveHostRed
  dsimp only
  split
  · split <;> exact ⟨⟨rfl, rfl, rfl, rfl⟩, rfl⟩
  · exact ⟨⟨rfl, rfl, rfl, rfl⟩, rfl⟩

end

/-! ### Updates of bytes at a location -/

/-- From `s` to `t` the bytes with the offsets `K` from a location of a group may have changed, and no others: of device memory,
of any CLM or of any scratch way. -/
structure Touched (s t : State) (G : Machine.Group) (l : Loc) (K : Nat → Prop) : Prop where
  canonical : Canonical t
  groups : t.groups = s.groups
  cores : (∀ y, l ≠ .clm y) → (∀ y, l ≠ .scratch y) → t.cores = s.cores
  mem : ∀ x, (∀ pa k, l = .phys pa → K k → x ≠ pa + k) → byteAt t x = byteAt s x
  clm : ∀ core x, (∀ y k, l = .clm y → core = G.core → K k → x ≠ G.clmb * 1024 + y + k) → clmAt t core x = clmAt s core x
  scr : ∀ core x, (∀ y k, l = .scratch y → core = G.core → K k → x ≠ y + k) → scrAt t core x = scrAt s core x

theorem Untouched.touched {s t : State} (h : Untouched s t) (hs : Canonical s) (G : Machine.Group) (l : Loc) (K : Nat → Prop) :
    Touched s t G l K where
  canonical := h.canonical hs
  groups := h.groups
  cores := fun _ _ => h.cores
  mem := fun x _ => h.byteAt_eq hs x
  clm := fun core x _ => by rw [clmAt, clmAt, h.core_eq]
  scr := fun core x _ => by rw [scrAt, scrAt, h.core_eq]

namespace Touched
variable {s t u : State} {G : Machine.Group} {l : Loc} {K K' : Nat → Prop}

theorem trans (h : Touched s t G l K) (h' : Touched t u G l K) : Touched s u G l K where
  canonical := h'.canonical
  groups := h'.groups.trans h.groups
  cores := fun hc hr => (h'.cores hc hr).trans (h.cores hc hr)
  mem := fun x hx => (h'.mem x hx).trans (h.mem x hx)
  clm := fun core x hx => (h'.clm core x hx).trans (h.clm core x hx)
  scr := fun core x hx => (h'.scr core x hx).trans (h.scr core x hx)

theorem mono (h : Touched s t G l K) (hK : ∀ k, K k → K' k) : Touched s t G l K' where
  canonical := h.canonical
  groups := h.groups
  cores := h.cores
  mem := fun x hx => h.mem x fun pa k hl hk => hx pa k hl (hK k hk)
  clm := fun core x hx => h.clm core x fun y k hl hc hk => hx y k hl hc (hK k hk)
  scr := fun core x hx => h.scr core x fun y k hl hc hk => hx y k hl hc (hK k hk)

/-- Bytes at an offset from a location. -/
theorem of_add {d : Nat} (h : Touched s t G (l.add d) K) (hK : ∀ k, K k → K' (d + k)) : Touched s t G l K' where
  canonical := h.canonical
  groups := h.groups
  cores := fun hc hr => h.cores (by cases l <;> simp_all [Loc.add]) (by cases l <;> simp_all [Loc.add])
  mem := fun x hx => h.mem x fun pa k hl hk => by
    cases l <;> simp [Loc.add] at hl
    have := hx _ _ rfl (hK k hk)
    omega
  clm := fun core x hx => h.clm core x fun y k hl hc hk => by
    cases l <;> simp [Loc.add] at hl
    have := hx _ _ rfl hc (hK k hk)
    omega
  scr := fun core x hx => h.scr core x fun y k hl hc hk => by
    cases l <;> simp [Loc.add] at hl
    have := hx _ _ rfl hc (hK k hk)
    omega

theorem foldl {α : Type} {f : State → α → State} : ∀ (xs : List α) (s : State), Canonical s →
    (∀ s, Canonical s → ∀ x ∈ xs, Touched s (f s x) G l K) → Touched s (xs.foldl f s) G l K
  | [], s, hs, _ => (Untouched.refl s).touched hs G l K
  | x :: xs, s, hs, h => by
    have hx := h s hs x List.mem_cons_self
    exact hx.trans (foldl xs (f s x) hx.canonical fun s hs y hy => h s hs y (List.mem_cons_of_mem x hy))

/-- As a frame of memory, once the instruction has gone on to where the bytes are as the access left them. -/
theorem memFrame (h : Touched s t G l K) (hs : SameBytes t u) {mem clm scr : Nat → Prop}
    (hmem : ∀ pa k, l = .phys pa → K k → mem (pa + k)) (hclm : ∀ y k, l = .clm y → K k → clm (G.clmb * 1024 + y + k))
    (hscr : ∀ y k, l = .scratch y → K k → scr (y + k)) : MemFrame s u G mem clm scr where
  mem := fun x hx => (hs.byteAt_eq h.canonical x).trans
    (h.mem x fun pa k hl hk he => hx (he ▸ hmem pa k hl hk))
  clm := fun core x hx => (congrArg (fun c => cellRead c.clm x) (hs.core_eq core)).trans
    (h.clm core x fun y k hl hc hk he => hx ⟨hc, he ▸ hclm y k hl hk⟩)
  scr := fun core x hx => (congrArg (fun c => cellRead c.scr x) (hs.core_eq core)).trans
    (h.scr core x fun y k hl hc hk he => hx ⟨hc, he ▸ hscr y k hl hk⟩)

end Touched

/-! ### Reads and writes at a location -/

/-- A core after a change of a core. -/
theorem core_modCore (s : State) (c : Nat) (f : Core → Core) (i : Nat) :
    (s.modCore c f).core i = if c = i ∧ i < s.cores.length then f (s.core i) else s.core i := by
  simp only [State.core, List.getD_eq_getElem?_getD, modCore_get]
  by_cases hc : c = i
  · by_cases hi : i < s.cores.length <;> simp [hc, hi]
  · simp [hc]

/-- A change of one core that keeps the canonical form of its byte stores. -/
theorem canonical_modCore {s : State} (hs : Canonical s) (c : Nat) {f : Core → Core}
    (hclm : ∀ k, Memory.wf k.clm = true → Memory.wf (f k).clm = true)
    (hscr : ∀ k, Memory.wf k.scr = true → Memory.wf (f k).scr = true) : Canonical (s.modCore c f) := by
  have hget : ∀ k ∈ (s.modCore c f).cores, ∃ x ∈ s.cores, k = x ∨ k = f x := by
    intro k hk
    obtain ⟨i, hi⟩ := List.mem_iff_getElem?.mp hk
    rw [modCore_get] at hi
    split at hi
    · obtain ⟨x, hx, rfl⟩ := Option.map_eq_some_iff.mp hi
      exact ⟨x, List.mem_of_getElem? hx, .inr rfl⟩
    · exact ⟨k, List.mem_of_getElem? hi, .inl rfl⟩
  refine ⟨hs.mem, fun k hk => ?_, fun k hk => ?_⟩ <;> obtain ⟨x, hx, rfl | rfl⟩ := hget k hk
  · exact hs.clm _ hx
  · exact hclm _ (hs.clm _ hx)
  · exact hs.scr _ hx
  · exact hscr _ (hs.scr _ hx)

/-- Every core number names byte stores in canonical form. -/
theorem canonical_core {s : State} (hs : Canonical s) (core : Nat) :
    Memory.wf (s.core core).clm = true ∧ Memory.wf (s.core core).scr = true := by
  rw [State.core, List.getD_eq_getElem?_getD]
  cases h : s.cores[core]? with
  | none => exact ⟨rfl, rfl⟩
  | some k => exact ⟨hs.clm k (List.mem_of_getElem? h), hs.scr k (List.mem_of_getElem? h)⟩

section
variable {s : State} (hs : Canonical s) (G : Machine.Group) (r : Reader) (l : Loc)
include hs

theorem drain_touched (pa n : Nat) (l : Loc) (K : Nat → Prop) : Touched s (s.drain pa n) G l K := by
  obtain ⟨m, q, ec, er, el, h⟩ := drain_frame s pa n
  have hcores : (s.drain pa n).cores = s.cores := by rw [h]
  exact
    { canonical := ⟨drain_wf hs.mem, hcores ▸ hs.clm, hcores ▸ hs.scr⟩
      groups := by rw [h]
      cores := fun _ _ => hcores
      mem := fun x _ => byteAt_drain hs.mem pa n x
      clm := fun core x _ => by rw [clmAt, clmAt, State.core, State.core, hcores]
      scr := fun core x _ => by rw [scrAt, scrAt, State.core, State.core, hcores] }

theorem poke_touched (pa : Nat) (b : List Byte) : Touched s (s.poke pa b) G (.phys pa) (fun k => k < b.length) := by
  obtain ⟨m, p, q, ec, er, el, h⟩ := poke_frame s pa b
  have hcores : (s.poke pa b).cores = s.cores := by rw [h]
  exact
    { canonical := ⟨poke_wf hs.mem, hcores ▸ hs.clm, hcores ▸ hs.scr⟩
      groups := by rw [h]
      cores := fun _ _ => hcores
      mem := fun x hx => by
        rw [byteAt_poke hs.mem, if_neg]
        exact fun hin => hx pa (x - pa) rfl (by omega) (by omega)
      clm := fun core x _ => by rw [clmAt, clmAt, State.core, State.core, hcores]
      scr := fun core x _ => by rw [scrAt, scrAt, State.core, State.core, hcores] }

/-- A byte of the CLM of a core after a store to the CLM of one. -/
theorem clmAt_storeClm (c y : Nat) (b : List Byte) (core x : Nat) :
    clmAt (storeClm c y b s) core x = if c = core ∧ core < s.cores.length ∧ y ≤ x ∧ x < y + b.length
      then b.getD (x - y) 0#8 else clmAt s core x := by
  rw [clmAt, storeClm, core_modCore]
  by_cases hc : c = core ∧ core < s.cores.length
  · rw [if_pos hc, cellRead_cellWrites (canonical_core hs core).1]
    simp [hc, clmAt]
  · rw [if_neg hc, if_neg fun h => hc ⟨h.1, h.2.1⟩, clmAt]

/-- A store to local memory changes the bytes that it stores. -/
theorem storeLocal_touched {l : Loc} (hl : IsLocal l) (b : List Byte) :
    Touched s (storeLocal G l b s) G l (fun k => k < b.length) := by
  rcases hl with ⟨y, rfl⟩ | ⟨y, rfl⟩
  · exact
      { canonical := canonical_modCore hs _ (fun _ hk => wf_cellWrites hk) (fun _ hk => hk)
        groups := rfl
        cores := fun hc _ => absurd rfl (hc y)
        mem := fun x _ => byteAt_congr hs.mem hs.mem (fun _ _ => rfl) rfl rfl
        clm := fun core x hx => by
          refine (clmAt_storeClm hs G.core _ b core x).trans (if_neg fun hin => ?_)
          exact hx y (x - (G.clmb * 1024 + y)) rfl hin.1.symm (by simp only [localAddr] at hin; omega)
            (by simp only [localAddr] at hin; omega)
        scr := fun core x _ => by
          rw [scrAt, storeLocal, storeClm, core_modCore]
          split <;> rfl }
  · have hstore : storeLocal G (.scratch y) b s = s.modCore G.core (fun c =>
        { c with scr := cellWrites c.scr y b, scrP := Machine.unmark c.scrP y b.length }) := rfl
    exact
      { canonical := canonical_modCore hs _ (fun _ hk => hk) (fun _ hk => wf_cellWrites hk)
        groups := rfl
        cores := fun _ hr => absurd rfl (hr y)
        mem := fun x _ => byteAt_congr hs.mem hs.mem (fun _ _ => rfl) rfl rfl
        clm := fun core x _ => by
          rw [clmAt, hstore, core_modCore]
          split <;> rfl
        scr := fun core x hx => by
          rw [scrAt, hstore, core_modCore]
          split
          case isTrue hc =>
            rw [cellRead_cellWrites (canonical_core hs core).2]
            exact if_neg fun hin => hx y (x - y) rfl hc.1.symm (by omega) (by omega)
          case isFalse => rfl }

theorem locTouch_touched (n : Nat) (K : Nat → Prop) : Touched s (s.locTouch l n) G l K := by
  cases l with
  | phys pa => exact drain_touched hs G pa n _ K
  | host p y => exact (hostFills_untouched s p y n).touched hs G _ K
  | clm _ | scratch _ => exact (Untouched.refl s).touched hs G _ K

/-- A lane's write changes the bytes that it writes. -/
theorem laneWrite_touched (store : Bool) (b : List Byte) :
    Touched s (s.laneWrite store G r l b) G l (fun k => k < b.length) := by
  cases l with
  | phys pa =>
    have hclaim := (claim_untouched s G r store pa b.length).touched hs G (.phys pa) (fun k => k < b.length)
    exact hclaim.trans (poke_touched hclaim.canonical G pa b)
  | host p y => exact (hostStore_untouched s p y b).touched hs G _ _
  | clm y => exact storeLocal_touched hs G (.inl ⟨y, rfl⟩) b
  | scratch y => exact storeLocal_touched hs G (.inr ⟨y, rfl⟩) b

end

/-- The states in which a lane reads a line: copies may have been dropped, a free choice drawn, and a copy of the line taken. -/
def ReadIn (s t : State) (core pa : Nat) : Prop := Untouched s t ∨ ∃ u, Untouched s u ∧ t = u.takeCopy core pa true

/-- A lane's read of device memory shows memory as it stands, or a copy that its core holds (spec/07 R195 R196). -/
theorem laneRead_phys (s : State) (G : Machine.Group) (r : Reader) (glob acq : Bool) (va : DWord) (pa n : Nat) :
    ∃ t, ReadIn (s.drain pa n) t G.core pa ∧ (s.laneRead G r glob acq va (.phys pa) n = t.seen pa n ∨
      ∃ h ∈ (s.drain pa n).hcopies, h.core = G.core ∧ s.laneRead G r glob acq va (.phys pa) n = h.seen t pa n) := by
  unfold State.laneRead
  dsimp only [State.drawBit]
  generalize s.drain pa n = d
  have hfree : Untouched d { d with free := d.free + 1 } := ⟨⟨rfl, rfl, rfl, rfl⟩, rfl⟩
  split
  · exact ⟨d, .inl (.refl d), .inl rfl⟩
  split
  case h_1 h hfind =>
    have hmem := List.mem_of_find?_eq_some hfind
    have hcore : h.core = G.core := by
      have := List.find?_some hfind
      simp only [Bool.and_eq_true, beq_iff_eq] at this
      exact this.1.1
    split
    · split
      · exact ⟨_, .inl hfree, .inr ⟨h, hmem, hcore, rfl⟩⟩
      · exact ⟨{ d with free := d.free + 1, hcopies := d.hcopies.filter (fun x => x != h) }, .inl ⟨⟨rfl, rfl, rfl, rfl⟩, rfl⟩,
          .inl rfl⟩
    · split
      · exact ⟨d, .inl (.refl d), .inl rfl⟩
      · exact ⟨d, .inl (.refl d), .inr ⟨h, hmem, hcore, rfl⟩⟩
  case h_2 =>
    split
    · split
      · exact ⟨_, .inr ⟨_, hfree, rfl⟩, .inl rfl⟩
      · exact ⟨_, .inl hfree, .inl rfl⟩
    · exact ⟨d, .inl (.refl d), .inl rfl⟩

theorem readIn_touched {s t : State} {core pa : Nat} (hs : Canonical s) (h : ReadIn s t core pa) (G : Machine.Group) (l : Loc)
    (K : Nat → Prop) : Touched s t G l K := by
  obtain h | ⟨u, hu, rfl⟩ := h
  · exact h.touched hs G l K
  have hline := (hu.touched hs G l K).trans (drain_touched (hu.canonical hs) G (pa / 128 * 128) 128 l K)
  unfold State.takeCopy
  dsimp only
  split
  · exact hline
  · exact hline.trans ((keepCopy_untouched ..).touched hline.canonical G l K)

theorem readIn_memP {s t : State} {core pa : Nat} (h : ReadIn s t core pa) : t.memP = s.memP := by
  obtain h | ⟨u, hu, rfl⟩ := h
  · exact h.memP
  have hline : (u.drain (pa / 128 * 128) 128).memP = s.memP := (drain_memP ..).trans hu.memP
  unfold State.takeCopy
  dsimp only
  split <;> exact hline

/-- What a lane's read leaves behind changes no byte. -/
theorem laneRead_touched {s : State} (hs : Canonical s) (G : Machine.Group) (r : Reader) (l : Loc) (glob acq : Bool) (va : DWord)
    (n : Nat) (K : Nat → Prop) : Touched s (s.laneRead G r glob acq va l n).s G l K := by
  cases l with
  | phys pa =>
    have hdrain := drain_touched hs G pa n (.phys pa) K
    obtain ⟨t, ht, h | ⟨_, _, _, h⟩⟩ := laneRead_phys s G r glob acq va pa n <;> rw [h] <;>
      exact hdrain.trans (readIn_touched hdrain.canonical ht G _ K)
  | host p y => exact locTouch_touched hs G (.host p y) n K
  | clm y => exact locTouch_touched hs G (.clm y) n K
  | scratch y => exact locTouch_touched hs G (.scratch y) n K

end Sys2Proof.Proofs

namespace Sys2Proof.Proofs

open Sys2Proof Sys2Proof.Machine Sys2Proof.Safety Sys2Proof.Claims Sys2Proof.Laws

/-! ### What each operation stores -/

theorem wordsBytes_length (ws : List Word) : (wordsBytes ws).length = 4 * ws.length := by
  induction ws with
  | nil => rfl
  | cons w ws ih =>
    rw [wordsBytes, List.flatMap_cons, List.length_append, leBytes_length, ← wordsBytes, ih, List.length_cons]
    omega

/-- Where the bytes begin that an access changes. -/
def homeLoc (q : Pend) (l : Loc) : Loc :=
  match l with
  | .phys pa => .phys (wordOf q pa)
  | l => l

/-- The last element that passes a test, as a fold finds it, is one of the list. -/
theorem foldl_last {α : Type} {P : α → Bool} : ∀ (l : List α) (o : Option α) {x : α},
    l.foldl (fun o y => if P y then some y else o) o = some x → o = some x ∨ (x ∈ l ∧ P x = true)
  | [], _, _, h => .inl h
  | y :: l, o, x, h => by
    rw [List.foldl_cons] at h
    obtain h | ⟨hx, hP⟩ := foldl_last l _ h
    · split at h
      case isTrue hy => exact .inr ⟨by cases h; exact List.mem_cons_self, by cases h; exact hy⟩
      case isFalse => exact .inl h
    · exact .inr ⟨List.mem_cons_of_mem y hx, hP⟩

/-- An element that fails the test of a filter, replaced by another that fails it. -/
theorem filter_set_of_failing {α : Type} {P : α → Bool} {y : α} (hy : P y = false) : ∀ {l : List α} {i : Nat} {x : α},
    l[i]? = some x → P x = false → (l.set i y).filter P = l.filter P
  | a :: l, 0, x, hx, hP => by
    obtain rfl : a = x := by simpa using hx
    simp [hy, hP]
  | a :: l, i + 1, x, hx, hP => by
    rw [List.set_cons_succ, List.filter_cons, List.filter_cons,
      filter_set_of_failing hy (l := l) (i := i) (by simpa using hx) hP]

/-- A reduction joins the write queue in an entry of its own word. -/
theorem arriveRed_queue (s : State) (g f pa : Nat) (x : Word) (merge : Bool) :
    ∃ red, s.arriveRed g f pa x merge = { s with redQueue := red } ∧
      ∀ k, k ≠ pa / 4 → red.filter (fun e => e.word == k) = s.redQueue.filter (fun e => e.word == k) := by
  have hnew : ∀ k, k ≠ pa / 4 → ∀ e : RedEnt, e.word = pa / 4 →
      (s.redQueue ++ [e]).filter (fun e => e.word == k) = s.redQueue.filter (fun e => e.word == k) := by
    intro k hk e he
    simp [he, Ne.symm hk]
  unfold State.arriveRed
  dsimp only
  split
  case h_1 e i hlast =>
    split
    · refine ⟨_, rfl, fun k hk => ?_⟩
      obtain h | ⟨hmem, hword⟩ := foldl_last (P := fun p : RedEnt × Nat => p.1.word == pa / 4) _ _ hlast
      · cases h
      have hother : (e.word == k) = false := by
        rw [eq_of_beq hword]
        exact beq_eq_false_iff_ne.mpr (Ne.symm hk)
      refine filter_set_of_failing (P := fun e : RedEnt => e.word == k) ?_ (List.mem_zipIdx_iff_getElem?.mp hmem) hother
      exact hother
    · exact ⟨_, rfl, fun k hk => hnew k hk _ rfl⟩
  case h_2 => exact ⟨_, rfl, fun k hk => hnew k hk _ rfl⟩

section
variable {s : State} (hs : Canonical s) (G : Machine.Group) (r : Reader) (a : Acc)
include hs

theorem doLoad_touched (glob acq : Bool) (n : Nat) (sext : Bool) (K : Nat → Prop) :
    Touched s (s.doLoad G r glob acq a n sext).s G a.loc K :=
  laneRead_touched hs G r a.loc glob acq a.va n K

theorem doLdrq_touched (q : Pend) (w : Nat) (K : Nat → Prop) : Touched s (s.doLdrq G r q a w).s G a.loc K :=
  laneRead_touched hs G r a.loc true false a.va (4 * w) K

/-- After what a read leaves behind, a write. -/
theorem laneWrite_locTouch_touched (store : Bool) (n : Nat) (b : List Byte) :
    Touched s ((s.locTouch a.loc n).laneWrite store G r a.loc b) G a.loc (fun k => k < b.length) := by
  have htouch := locTouch_touched hs G a.loc n (fun k => k < b.length)
  exact htouch.trans (laneWrite_touched htouch.canonical G r a.loc store b)

theorem doAtomic_touched (q : Pend) (f : Nat) :
    Touched s (s.doAtomic G r q a f).s G a.loc (fun k => k < if f = 22 then 8 else 4) := by
  have hwrite := fun ws n => laneWrite_locTouch_touched hs G r a false n (wordsBytes ws)
  simp only [wordsBytes_length] at hwrite
  unfold State.doAtomic
  by_cases hf : f = 22
  · have htouch := locTouch_touched hs G a.loc 8 (· < 8)
    simp only [hf, if_true]
    split
    · exact (Untouched.refl s).touched hs G a.loc _
    · dsimp only
      split
      · exact hwrite [_, _] 8
      · exact htouch.trans ((seenAt_untouched _ G r a.loc 8).touched htouch.canonical G a.loc _)
  · simp only [hf, if_false]
    split
    · exact (Untouched.refl s).touched hs G a.loc _
    · exact hwrite [_] 4

theorem doElement_touched : Touched s (s.doElement G r a).s G a.loc (· < 4) := by
  unfold State.doElement
  dsimp only
  split
  · exact (Untouched.refl s).touched hs G a.loc _
  · have hwrite := fun w => laneWrite_locTouch_touched hs G r a true 4 (wordsBytes [w])
    simp only [wordsBytes_length] at hwrite
    exact hwrite _

theorem arriveRed_touched (g f pa : Nat) (x : Word) (merge : Bool) :
    Touched s (s.arriveRed g f pa x merge) G (.phys (4 * (pa / 4))) (· < 4) := by
  obtain ⟨red, hred, hqueue⟩ := arriveRed_queue s g f pa x merge
  rw [hred]
  exact
    { canonical := ⟨hs.mem, hs.clm, hs.scr⟩
      groups := rfl
      cores := fun _ _ => rfl
      mem := fun y hy => by
        have hword : y / 4 ≠ pa / 4 := fun h => hy _ (y % 4) rfl (Nat.mod_lt y (by decide)) (by omega)
        exact byteAt_congr hs.mem hs.mem (fun _ _ => rfl) rfl (hqueue _ hword)
      clm := fun _ _ _ => rfl
      scr := fun _ _ _ => rfl }

theorem doRed_touched {q : Pend} {f : Nat} (hq : q.op? = some (.red f)) (g : Nat) (merge : Bool) :
    Touched s (s.doRed g G r a f merge).s G (homeLoc q a.loc) (· < 4) := by
  have hwrite := fun l w => laneWrite_touched hs G r l true (wordsBytes [w])
  simp only [wordsBytes_length] at hwrite
  unfold State.doRed homeLoc
  cases hl : a.loc with
  | phys pa =>
    have hclaim := claim_untouched s G r false pa 4
    simp only [wordOf, hq]
    exact (hclaim.touched hs G _ _).trans (arriveRed_touched (hclaim.canonical hs) G g f pa _ merge)
  | host p y => exact (arriveHostRed_untouched s p y g f _ merge).touched hs G _ _
  | clm y => exact hwrite (.clm y) _
  | scratch y => exact hwrite (.scratch y) _

theorem doCstore_touched (h : a.cstoreFaults (s.queueHead G a.loc).1 (s.queueHead G a.loc).2 = []) :
    Touched s (s.doCstore G r a).s G a.loc (fun k => k < 4 ∨
      ∃ y ∈ a.cells (s.queueHead G a.loc).1 (s.queueHead G a.loc).2, y.1 ≤ k ∧ k < y.1 + 4) := by
  have hwrite := fun (t : State) (ht : Canonical t) l w => laneWrite_touched ht G r l true (wordsBytes [w])
  simp only [wordsBytes_length, List.length_singleton, Nat.mul_one] at hwrite
  generalize hK : (fun k => k < 4 ∨ ∃ y ∈ a.cells (s.queueHead G a.loc).1 (s.queueHead G a.loc).2, y.1 ≤ k ∧ k < y.1 + 4) = K
  have htouch := locTouch_touched hs G a.loc 8 K
  have hcells := Touched.foldl (K := K) (a.cells (s.queueHead G a.loc).1 (s.queueHead G a.loc).2) (s.locTouch a.loc 8)
    htouch.canonical (f := fun s x => s.laneWrite true G r (a.loc.add x.1) (wordsBytes [x.2.2])) fun t ht x hx =>
      (hwrite t ht (a.loc.add x.1) x.2.2).of_add fun k hk => by
        subst hK
        exact .inr ⟨x, hx, by omega, by omega⟩
  have hall := htouch.trans hcells
  simp only [State.doCstore, h]
  split
  · exact hall.trans ((seenAt_untouched _ G r a.loc 8).touched hall.canonical G a.loc K)
  · exact hall.trans ((hwrite _ hall.canonical a.loc _).mono fun k hk => by subst hK; exact .inl hk)

end

/-! ### Reads do not look at the copies that an acquire hides -/

section
variable (s : State) (h : List HCopy)

theorem foldl_hcopies {α : Type} {f : State → α → State} (hf : ∀ s x, f { s with hcopies := h } x = { f s x with hcopies := h }) :
    ∀ (l : List α) (s : State), l.foldl f { s with hcopies := h } = { l.foldl f s with hcopies := h }
  | [], _ => rfl
  | x :: l, s => by rw [List.foldl_cons, hf, foldl_hcopies hf l, List.foldl_cons]

theorem applyRed_hcopies (e : RedEnt) : ({ s with hcopies := h } : State).applyRed e = { s.applyRed e with hcopies := h } := by
  unfold State.applyRed
  dsimp only
  split <;> rfl

theorem drain_hcopies (pa n : Nat) : ({ s with hcopies := h } : State).drain pa n = { s.drain pa n with hcopies := h } := by
  unfold State.drain
  dsimp only
  rw [foldl_hcopies h fun s e => applyRed_hcopies s h e]

theorem hostFill_hcopies (peer line : Nat) :
    ({ s with hcopies := h } : State).hostFill peer line = { s.hostFill peer line with hcopies := h } := by
  unfold State.hostFill State.hostLine?
  dsimp only
  split <;> rfl

theorem hostApply_hcopies (e : HostRed) : ({ s with hcopies := h } : State).hostApply e = { s.hostApply e with hcopies := h } := by
  unfold State.hostApply State.hostLine?
  rw [hostFill_hcopies]
  dsimp only
  split
  · rfl
  · split <;> rfl

theorem hostFills_hcopies (peer a n : Nat) :
    ({ s with hcopies := h } : State).hostFills peer a n = { s.hostFills peer a n with hcopies := h } := by
  unfold State.hostFills
  dsimp only
  rw [foldl_hcopies h fun s i => hostFill_hcopies s h peer _]
  dsimp only
  rw [foldl_hcopies h fun s e => hostApply_hcopies s h e]

theorem locRead_hcopies (G : Machine.Group) (l : Loc) (n : Nat) :
    ({ s with hcopies := h } : State).locRead G l n = s.locRead G l n := by
  cases l with
  | phys pa => simp only [State.locRead, State.peek, drain_hcopies]
  | host p y =>
    simp only [State.locRead, State.hostRead, hostFills_hcopies]
    rfl
  | clm _ | scratch _ => rfl

theorem locPoison_hcopies (G : Machine.Group) (l : Loc) (n : Nat) :
    ({ s with hcopies := h } : State).locPoison G l n = s.locPoison G l n := by
  cases l with
  | host p y =>
    simp only [State.locPoison, hostFills_hcopies]
    rfl
  | phys _ | clm _ | scratch _ => rfl

theorem queueHead_hcopies (G : Machine.Group) (l : Loc) :
    ({ s with hcopies := h } : State).queueHead G l = s.queueHead G l := by
  simp only [State.queueHead, locRead_hcopies]

end

/-- An acquire hides copies from its lanes, and takes none of their marks. -/
theorem begun_hcopies (q : Pend) (G : Machine.Group) (a : Acc) (s : State) :
    ∃ h, begun q G a s = { s with hcopies := h } ∧ ∀ x ∈ h, ∃ y ∈ s.hcopies, x.core = y.core ∧ x.marks = y.marks := by
  unfold begun
  split
  · refine ⟨_, rfl, fun x hx => ?_⟩
    obtain ⟨y, hy, rfl⟩ := List.mem_map.mp hx
    exact ⟨y, hy, by split <;> rfl, by split <;> rfl⟩
  · exact ⟨s.hcopies, rfl, fun x hx => ⟨x, hx, rfl, rfl⟩⟩

theorem stored_begun (q : Pend) (G : Machine.Group) (a : Acc) (s : State) : stored (begun q G a s) G q a = stored s G q a := by
  obtain ⟨h, hb, _⟩ := begun_hcopies q G a s
  funext k
  simp only [stored, hb, queueHead_hcopies]

theorem unharmed_begun {q : Pend} {G : Machine.Group} {a : Acc} {s : State} (hu : Unharmed s G q a) :
    Unharmed (begun q G a s) G q a := by
  obtain ⟨h, hb, hmarks⟩ := begun_hcopies q G a s
  unfold Unharmed at hu ⊢
  rw [hb]
  cases hop : q.op? with
  | none => trivial
  | some op =>
    simp only [hop] at hu ⊢
    cases op with
    | ldrq w =>
      refine ⟨by rw [locPoison_hcopies]; exact hu.1, fun x hx hcore => ?_⟩
      obtain ⟨y, hy, hxy, hm⟩ := hmarks x hx
      exact hm.trans (hu.2 y hy (hxy.symm.trans hcore))
    | atomic _ | workdone => exact (locPoison_hcopies ..).trans hu
    | cstore => rw [queueHead_hcopies]; exact hu
    | load _ _ | store _ | estore | red _ => trivial

/-! ### Marks that a read meets (spec/05 R146, spec/06 R180) -/

theorem marked_sub {p : List Nat} {a n b m : Nat} (h : Machine.marked p a n = false) (hab : a ≤ b) (hbm : b + m ≤ a + n) :
    Machine.marked p b m = false := by
  simp only [Machine.marked, List.any_eq_false, Bool.and_eq_true, decide_eq_true_eq] at h ⊢
  intro w hw hin
  exact h w hw (by omega)

/-- What the LLC holds of host windows, for their marks: the line and the numbers of its marked words. -/
def hostView (s : State) : List (Nat × Nat × List Nat) := s.llcHost.map (fun l => (l.peer, l.line, l.marks))

/-- The lines of a peer that the LLC holds are those that it held, and of lines that it did not hold it holds `lines`, marked as
at their home. -/
structure Filled (peer : Nat) (lines : Nat → Prop) (s t : State) : Prop where
  home : t.hostMemP = s.hostMemP
  view : ∀ v, v ∈ hostView t ↔ v ∈ hostView s ∨
    ∃ line, lines line ∧ v = (peerQp peer, line, s.hostMarks peer line) ∧ ∀ m, (peerQp peer, line, m) ∉ hostView s

namespace Filled
variable {peer : Nat} {A B : Nat → Prop} {s t u : State}

theorem hostMarks_eq (h : Filled peer A s t) (line : Nat) : t.hostMarks peer line = s.hostMarks peer line := by
  rw [State.hostMarks, State.hostMarks, h.home]

theorem refl (peer : Nat) (s : State) : Filled peer (fun _ => False) s s := ⟨rfl, fun v => by simp⟩

theorem trans (h : Filled peer A s t) (h' : Filled peer B t u) : Filled peer (fun line => A line ∨ B line) s u where
  home := h'.home.trans h.home
  view := fun v => by
    rw [h'.view, h.view]
    simp only [h.hostMarks_eq]
    constructor
    · rintro ((hv | ⟨line, hA, rfl, hno⟩) | ⟨line, hB, rfl, hno⟩)
      · exact .inl hv
      · exact .inr ⟨line, .inl hA, rfl, hno⟩
      · exact .inr ⟨line, .inr hB, rfl, fun m hm => hno m ((h.view _).mpr (.inl hm))⟩
    · rintro (hv | ⟨line, hAB, rfl, hno⟩)
      · exact .inl (.inl hv)
      · by_cases hA : A line
        · exact .inl (.inr ⟨line, hA, rfl, hno⟩)
        · refine .inr ⟨line, hAB.resolve_left hA, rfl, fun m hm => ?_⟩
          obtain hm | ⟨line', hA', he, _⟩ := (h.view _).mp hm
          · exact hno m hm
          · obtain rfl : line = line' := by simpa using congrArg (fun v => v.2.1) he
            exact hA hA'

theorem congr (h : Filled peer A s t) (hAB : ∀ line, A line ↔ B line) : Filled peer B s t :=
  (funext fun line => propext (hAB line)) ▸ h

theorem foldl {α : Type} {f : State → α → State} {line : α → Nat} : ∀ (l : List α) (s : State),
    (∀ s, ∀ x ∈ l, Filled peer (· = line x) s (f s x)) → Filled peer (fun n => ∃ x ∈ l, n = line x) s (l.foldl f s)
  | [], s, _ => (refl peer s).congr fun n => by simp
  | x :: l, s, h =>
    ((h s x List.mem_cons_self).trans (foldl l _ fun s y hy => h s y (List.mem_cons_of_mem x hy))).congr fun n => by simp

/-- More lines that are held make no mark go away, and every mark stays one of the same peer. -/
theorem marked_mono (h : Filled peer A s t) (h' : Filled peer B s u) (hAB : ∀ line, A line → B line) {v : Nat × Nat × List Nat}
    (hv : v ∈ hostView t) : v ∈ hostView u := by
  rw [h'.view]
  exact ((h.view v).mp hv).imp_right fun ⟨line, hA, hrest⟩ => ⟨line, hAB line hA, hrest⟩

end Filled

/-- Some word of the bytes that the LLC shows for a peer carries the mark. -/
theorem hostMarked_iff (s : State) (peer a n : Nat) :
    s.hostMarked peer a n = true ↔ ∃ v ∈ hostView s, v.1 = peerQp peer ∧ Machine.marked v.2.2 a n = true := by
  simp [State.hostMarked, hostView]

theorem hostLine?_isSome_iff (s : State) (peer line : Nat) :
    (s.hostLine? peer line).isSome = true ↔ ∃ m, (peerQp peer, line, m) ∈ hostView s := by
  simp only [State.hostLine?, List.find?_isSome, hostView, List.mem_map, HostLine.is, Bool.and_eq_true, beq_iff_eq, Prod.mk.injEq]
  constructor
  · rintro ⟨l, hl, hp, hn⟩
    exact ⟨l.marks, l, hl, hp, hn, rfl⟩
  · rintro ⟨m, l, hl, hp, hn, _⟩
    exact ⟨l, hl, hp, hn⟩

theorem hostFill_filled (s : State) {peer p : Nat} (hp : peerQp p = peerQp peer) (line : Nat) :
    Filled peer (· = line) s (s.hostFill p line) := by
  have hmarks : s.hostMarks p line = s.hostMarks peer line := by simp only [State.hostMarks, hp]
  have hheld := hostLine?_isSome_iff s p line
  rw [hp] at hheld
  unfold State.hostFill
  split
  case isTrue h =>
    obtain ⟨m, hm⟩ := hheld.mp h
    refine ⟨rfl, fun v => ⟨.inl, ?_⟩⟩
    rintro (hv | ⟨_, rfl, _, hno⟩)
    · exact hv
    · exact absurd hm (hno m)
  case isFalse h =>
    have hno : ∀ m, (peerQp peer, line, m) ∉ hostView s := fun m hm => h (hheld.mpr ⟨m, hm⟩)
    refine ⟨rfl, fun v => ?_⟩
    simp only [hostView, List.map_append, List.mem_append, List.map_cons, List.map_nil, List.mem_singleton, hp, hmarks]
    simp only [exists_eq_left]
    exact or_congr_right ⟨fun hv => ⟨hv, hno⟩, fun hv => hv.1⟩

/-- A reduction at the LLC changes bytes of its line, and no mark. -/
theorem hostApply_filled (s : State) {peer : Nat} {e : HostRed} (hp : peerQp e.peer = peerQp peer) :
    Filled peer (· = e.word / 32) s (s.hostApply e) := by
  have hfill := hostFill_filled s hp (e.word / 32)
  have hsame : ∀ t : State, t.hostMemP = (s.hostFill e.peer (e.word / 32)).hostMemP →
      hostView t = hostView (s.hostFill e.peer (e.word / 32)) → Filled peer (· = e.word / 32) s t :=
    fun t hm hv => ⟨hm.trans hfill.home, fun v => by rw [hv]; exact hfill.view v⟩
  unfold State.hostApply
  dsimp only
  split
  · exact hfill
  · split
    · exact hsame _ rfl rfl
    · refine hsame _ rfl ?_
      simp only [hostView, State.modHostLine, List.map_map]
      refine List.map_congr_left fun l _ => ?_
      simp only [Function.comp]
      split
      · have hkept : Machine.unmark l.marks (4 * e.word) 4 = l.marks := by
          refine List.filter_eq_self.mpr fun w _ => ?_
          simp only [Bool.not_eq_true', Bool.and_eq_false_iff, decide_eq_false_iff_not]
          omega
        simp only [HostLine.put, leBytes_length, hkept]
      · rfl

theorem hostFills_filled (s : State) (peer a n : Nat) :
    Filled peer (fun line => a / 128 ≤ line ∧ line ≤ (a + n - 1) / 128 ∨ line = a / 128) s (s.hostFills peer a n) := by
  have hlines := Filled.foldl (peer := peer) (line := fun i => a / 128 + i)
    (List.range ((a + n - 1) / 128 - a / 128 + 1)) s (f := fun s i => s.hostFill peer (a / 128 + i))
    fun s i _ => hostFill_filled s rfl _
  have hreds := fun (t : State) => Filled.foldl (peer := peer) (line := fun e : HostRed => e.word / 32)
    (t.hostReds.filter (fun e => e.onLines peer a n)) t (f := State.hostApply) fun s e he => by
      have hon := (List.mem_filter.mp he).2
      simp only [HostRed.onLines, Bool.and_eq_true, beq_iff_eq] at hon
      exact hostApply_filled s hon.1.1
  have hall := hlines.trans (hreds _)
  have hset : Filled peer _ s (s.hostFills peer a n) := ⟨hall.home, hall.view⟩
  refine hset.congr fun line => ?_
  simp only [List.mem_range, List.mem_filter, HostRed.onLines, Bool.and_eq_true, beq_iff_eq, decide_eq_true_eq]
  constructor
  · rintro (⟨i, hi, rfl⟩ | ⟨e, ⟨_, ⟨_, hlo⟩, hhi⟩, rfl⟩)
    · omega
    · exact .inl ⟨hlo, hhi⟩
  · exact fun h => .inl ⟨line - a / 128, by omega, by omega⟩

/-- A read without a mark among its bytes has none among the bytes of a part of it. -/
theorem locPoison_sub {s : State} {G : Machine.Group} {l : Loc} {n k m : Nat} (h : s.locPoison G l n = false) (hm : 0 < m)
    (hk : k + m ≤ n) : s.locPoison G (l.add k) m = false := by
  cases l with
  | clm y => exact marked_sub h (by rw [← Nat.add_assoc]; omega) (by omega)
  | scratch y => exact marked_sub h (by omega) (by omega)
  | phys y => exact marked_sub h (by omega) (by omega)
  | host p y =>
    rw [← Bool.not_eq_true]
    intro hbad
    obtain ⟨v, hv, hpeer, hmark⟩ := (hostMarked_iff ..).mp hbad
    have hv' := (hostFills_filled s p (y + k) m).marked_mono (hostFills_filled s p y n) (fun line hline => by omega) hv
    have hclean : ¬ (s.hostFills p y n).hostMarked p y n = true := Bool.eq_false_iff.mp h
    refine hclean ((hostMarked_iff ..).mpr ⟨v, hv', hpeer, ?_⟩)
    by_contra hno
    rw [marked_sub (Bool.eq_false_iff.mpr hno) (by omega) (by omega)] at hmark
    exact Bool.false_ne_true hmark

theorem badWords_clean {p : List Nat} {a w : Nat} (h : Machine.marked p a (4 * w) = false) : (badWords p a (4 * w)).any id = false := by
  simp only [badWords, List.any_map, List.any_eq_false, List.mem_range, Function.comp_apply, id_eq, Bool.not_eq_true]
  exact fun j hj => marked_sub h (by omega) (by omega)

/-- A read of whole words meets no mark where its location has none and the copies of its core have none. -/
theorem laneRead_clean {s : State} {G : Machine.Group} {l : Loc} {w : Nat} (h : s.locPoison G l (4 * w) = false)
    (hcopies : ∀ x ∈ s.hcopies, x.core = G.core → x.marks = []) (r : Reader) (glob acq : Bool) (va : DWord) :
    (s.laneRead G r glob acq va l (4 * w)).bad.any id = false := by
  have hlocal : ((List.range ((4 * w + 3) / 4)).map (fun j => s.locPoison G (l.add (4 * j)) (min (4 * w) 4))).any id = false := by
    simp only [List.any_map, List.any_eq_false, List.mem_range, Function.comp_apply, id_eq, Bool.not_eq_true]
    exact fun j hj => locPoison_sub h (by omega) (by omega)
  cases l with
  | phys pa =>
    obtain ⟨t, ht, hr | ⟨x, hx, hcore, hr⟩⟩ := laneRead_phys s G r glob acq va pa (4 * w) <;> rw [hr]
    · refine badWords_clean ?_
      rw [readIn_memP ht, drain_memP]
      exact h
    · refine badWords_clean ?_
      have hkept : (s.drain pa (4 * w)).hcopies = s.hcopies := by
        obtain ⟨m, q, ec, er, el, hd⟩ := drain_frame s pa (4 * w)
        rw [hd]
      rw [hcopies x (hkept ▸ hx) hcore]
      rfl
  | host _ _ | clm _ | scratch _ => exact hlocal

theorem homeLoc_of_ne_red {q : Pend} (h : ∀ f, q.op? ≠ some (.red f)) (l : Loc) : homeLoc q l = l := by
  have hword : ∀ pa, wordOf q pa = pa := fun pa => by
    unfold wordOf
    split
    case h_1 f hf => exact absurd hf (h f)
    case h_2 => rfl
  cases l with
  | phys pa => exact congrArg Loc.phys (hword pa)
  | host _ _ | clm _ | scratch _ => rfl

/-- An atomic meets no fault where its word has no mark. -/
theorem doAtomic_clean {s : State} {G : Machine.Group} {a : Acc} {f : Nat} (h : s.locPoison G a.loc (if f = 22 then 8 else 4) = false)
    (r : Reader) (q : Pend) : (s.doAtomic G r q a f).faults = [] := by
  simp only [State.doAtomic, h, Bool.false_eq_true, if_false]
  split <;> rfl

/-- An access that meets no fault changes the bytes that its operation stores. -/
theorem doAccess_touched {s : State} {G : Machine.Group} {q : Pend} {a : Acc} (hs : Canonical s) (hu : Unharmed s G q a)
    {op : MemOp} (hk : q.kind = .mem op) (g : Nat) (merge : Bool) :
    Touched s (s.doAccess g G q a merge).s G (homeLoc q a.loc) (stored s G q a) ∧ (s.doAccess g G q a merge).faults = [] := by
  have hop : q.op? = some op := by rw [Pend.op?, hk]
  have hhome : (∀ f, op ≠ .red f) → homeLoc q a.loc = a.loc :=
    fun h => homeLoc_of_ne_red (fun f hf => h f (Option.some.inj (hop.symm.trans hf))) _
  unfold Unharmed at hu
  unfold State.doAccess stored
  rw [hop] at hu
  rw [hk, hop]
  cases op with
  | load n sext =>
    rw [hhome nofun]
    exact ⟨doLoad_touched hs G _ a _ _ n sext _, rfl⟩
  | store n =>
    rw [hhome nofun]
    exact ⟨(laneWrite_touched hs G _ a.loc true _).mono fun k hk => hk.trans_le (List.length_take_le ..), rfl⟩
  | estore =>
    rw [hhome nofun]
    refine ⟨doElement_touched hs G _ a, ?_⟩
    unfold State.doElement
    dsimp only
    split <;> rfl
  | atomic f =>
    rw [hhome nofun]
    exact ⟨doAtomic_touched hs G _ a q f, doAtomic_clean hu _ q⟩
  | red f =>
    refine ⟨doRed_touched hs G _ a hop g merge, ?_⟩
    unfold State.doRed
    dsimp only
    split <;> rfl
  | ldrq w =>
    rw [hhome nofun]
    refine ⟨doLdrq_touched hs G _ a q w _, ?_⟩
    have hclean := laneRead_clean hu.1 hu.2 (q.reader G a) true false a.va
    simp only [State.doLdrq, hclean]
    rfl
  | cstore =>
    rw [hhome nofun]
    refine ⟨doCstore_touched hs G _ a hu, ?_⟩
    simp only [State.doCstore, hu]
  | workdone =>
    rw [hhome nofun]
    exact ⟨doAtomic_touched hs G _ a q 12, doAtomic_clean (f := 12) hu _ q⟩

/-! ### The end of an access without faults -/

theorem modWave_sameBytes (s : State) (g w : Nat) (f : Wave → Wave) : SameBytes s (s.modWave g w f) := ⟨rfl, rfl, rfl, rfl⟩

theorem writeAll_pend (uni : Bool) : ∀ (l : List Wr) (wv : Wave), (wv.writeAll uni l).pend = wv.pend
  | [], _ => rfl
  | x :: l, wv => by
    rw [Wave.writeAll, writeAll_pend uni l]
    split
    · unfold Wave.sset; split <;> rfl
    · split <;> rfl

/-- A pending instruction after a change that keeps its number. -/
theorem pend?_modPend {wv : Wave} {id : Nat} {f : Pend → Pend} (hf : ∀ x, (f x).id = x.id) :
    (wv.modPend id f).pend? id = (wv.pend? id).map f := by
  simp only [Wave.pend?, Wave.modPend, List.find?_map]
  have hsame : ((fun x : Pend => x.id == id) ∘ fun x => if x.id == id then f x else x) = fun x => x.id == id := by
    funext x
    simp only [Function.comp]
    split <;> simp [hf]
  rw [hsame]
  cases hx : wv.pend.find? (fun x => x.id == id) with
  | none => rfl
  | some x =>
    have hid : x.id = id := by simpa using List.find?_some hx
    simp [hid]

theorem modEntry_pend (wv : Wave) (sp : Nat) (f : Split → Split) : (wv.modEntry sp f).pend = wv.pend := by
  unfold Wave.modEntry Wave.setEntry
  split <;> rfl

theorem stopNoted_sameBytes (g w sp : Nat) (hit : Option (Nat × Mask)) (s : State) : SameBytes s (stopNoted g w sp hit s) := by
  cases hit <;> exact ⟨rfl, rfl, rfl, rfl⟩

theorem stopNoted_pend (g w sp : Nat) (hit : Option (Nat × Mask)) (s : State) (p : Nat) :
    ((stopNoted g w sp hit s).wave? g w).bind (fun wv => wv.pend? p) = (s.wave? g w).bind (fun wv => wv.pend? p) := by
  cases hit with
  | none => rfl
  | some x =>
    rw [stopNoted, wave_modWave, if_pos ⟨rfl, rfl⟩]
    cases s.wave? g w with
    | none => rfl
    | some wv => simp [Wave.pend?, modEntry_pend]

theorem fencePassed_sameBytes (s : State) (g w pid : Nat) : SameBytes s (s.fencePassed g w pid) := by
  unfold State.fencePassed
  split
  · exact .foldl _ s fun s m => ⟨rfl, rfl, rfl, rfl⟩
  · exact .refl s

/-- An instruction that has met no fault leaves its counter and changes no byte. -/
theorem memDone_sameBytes {s : State} {g w p : Nat}
    (hquiet : ∀ x, (s.wave? g w).bind (fun wv => wv.pend? p) = some x → x.recs = []) : SameBytes s (s.memDone g w p) := by
  unfold State.memDone
  split
  case h_1 G x _ hx =>
    split
    · exact .refl s
    · rw [hquiet x hx]
      exact (fencePassed_sameBytes s g w p).trans (modWave_sameBytes ..)
  case h_2 => exact .refl s

section
variable {s : State} {g w p lane : Nat} {G : Machine.Group} {wv : Wave} {q : Pend} {a : Acc}

/-- The instruction of an access that has met no fault, after the access. -/
theorem accessNoted_recs (h : Performable s g w p lane G wv q a) (hrecs : q.recs = []) {r : Performed}
    (hgroups : r.s.groups = s.groups) (hfaults : r.faults = []) {x : Pend}
    (hx : ((accessNoted g w p lane q a r).wave? g w).bind (fun wv => wv.pend? p) = some x) : x.recs = [] := by
  have hwave : r.s.wave? g w = some wv := by
    rw [State.wave?, hgroups]
    exact wave?_of_get h.group h.wave
  rw [accessNoted, wave_modWave, if_pos ⟨rfl, rfl⟩, hwave, Option.map_some, Option.bind_some,
    pend?_modPend (f := pendNoted lane q a r.faults) fun _ => rfl] at hx
  rw [show (wv.writeAll q.uni (q.elements a r.out)).pend? p = some q by rw [Wave.pend?, writeAll_pend]; exact h.pend] at hx
  obtain rfl := Option.some.inj hx
  simp [pendNoted, hrecs, hfaults]

/-- After the access itself nothing changes a byte. -/
theorem accessPerformed_sameBytes (h : Performable s g w p lane G wv q a) (hrecs : q.recs = []) {merge : Bool}
    (hgroups : (accessEffect s g G q a merge).s.groups = s.groups) (hfaults : (accessEffect s g G q a merge).faults = []) :
    SameBytes (accessEffect s g G q a merge).s (accessPerformed s g w p lane G q a merge) := by
  have hnoted : SameBytes (accessEffect s g G q a merge).s (accessNoted g w p lane q a (accessEffect s g G q a merge)) :=
    modWave_sameBytes ..
  refine (hnoted.trans (stopNoted_sameBytes ..)).trans (memDone_sameBytes fun x hx => ?_)
  rw [stopNoted_pend] at hx
  exact accessNoted_recs h hrecs hgroups hfaults hx

/-- An access that meets no fault changes the bytes that its operation stores, from acquire to the end of its instruction. -/
theorem accessEffect_touched (hs : Canonical s) (hu : Unharmed s G q a) {op : MemOp} (hk : q.kind = .mem op) (merge : Bool) :
    Touched s (accessEffect s g G q a merge).s G (homeLoc q a.loc) (stored s G q a) ∧
      (accessEffect s g G q a merge).faults = [] := by
  have hbegun := begun_untouched s G q a
  obtain ⟨hdone, hfaults⟩ := doAccess_touched (hbegun.canonical hs) (unharmed_begun hu) hk g merge
  rw [stored_begun] at hdone
  exact ⟨(hbegun.touched hs G _ _).trans hdone, hfaults⟩

theorem idle_sameBytes (s : State) {t : State} (h : idle s = .next t) : SameBytes s t := by
  obtain rfl : _ = t := by injection h
  exact ⟨rfl, rfl, rfl, rfl⟩

/-- The frame of an access that is performed, or of an event that finds nothing to do. -/
theorem performed_frame (h : Performable s g w p lane G wv q a) (hrecs : q.recs = []) (hs : Canonical s)
    (hu : Unharmed s G q a) {merge : Bool} {t : State}
    (ht : exec (.loadDataReturn g w p lane) s = .next t ∨ exec (.storeComplete g w p lane merge) s = .next t) :
    ∃ r, Touched s r G (homeLoc q a.loc) (stored s G q a) ∧ SameBytes r t := by
  have hnone : idle s = .next t → ∃ r, Touched s r G (homeLoc q a.loc) (stored s G q a) ∧ SameBytes r t :=
    fun hidle => ⟨s, (Untouched.refl s).touched hs G _ _, idle_sameBytes s hidle⟩
  have hsome : ∀ m op, q.kind = .mem op → (.next (accessPerformed s g w p lane G q a m) : Out') = .next t →
      ∃ r, Touched s r G (homeLoc q a.loc) (stored s G q a) ∧ SameBytes r t := by
    intro m op hk hnext
    obtain rfl : _ = t := by injection hnext
    obtain ⟨htouched, hfaults⟩ := accessEffect_touched (g := g) hs hu hk m
    exact ⟨_, htouched, accessPerformed_sameBytes h hrecs htouched.groups hfaults⟩
  have hkind : ∀ {P : MemOp → Bool}, (q.op?).any P = true → ∃ op, q.kind = .mem op := by
    intro P hP
    unfold Pend.op? at hP
    split at hP
    · exact ⟨_, ‹_›⟩
    · cases hP
  rcases ht with ht | ht
  · rw [exec_loadDataReturn_of_performable h] at ht
    split at ht
    case isTrue hP => exact (hkind hP).elim fun op hk => hsome _ op hk ht
    case isFalse => exact hnone ht
  · rw [exec_storeComplete_of_performable h] at ht
    split at ht
    case isTrue hP => exact (hkind hP).elim fun op hk => hsome _ op hk ht
    case isFalse => exact hnone ht

/-- A store leaves the bytes that it writes, and nothing after it changes them. -/
theorem stored_sameBytes (h : Performable s g w p lane G wv q a) (hrecs : q.recs = []) (hs : Canonical s) {n : Nat}
    (hk : q.kind = .mem (.store n)) {merge : Bool} {t : State} (ht : exec (.storeComplete g w p lane merge) s = .next t) :
    SameBytes ((begun q G a s).laneWrite true G (q.reader G a) a.loc ((wordsBytes a.data).take n)) t := by
  have heffect : (accessEffect s g G q a merge).s =
      (begun q G a s).laneWrite true G (q.reader G a) a.loc ((wordsBytes a.data).take n) := by
    rw [accessEffect, State.doAccess, hk]
  have hu : Unharmed s G q a := by rw [Unharmed, Pend.op?, hk]; trivial
  obtain ⟨htouched, hfaults⟩ := accessEffect_touched (g := g) hs hu hk merge
  rw [exec_storeComplete_of_performable h, Pend.op?, hk] at ht
  obtain rfl : _ = t := by injection ht
  rw [← heffect]
  exact accessPerformed_sameBytes h hrecs htouched.groups hfaults

end

/-! ### The frame of an access (spec/05 R159 to R162, spec/06 R176 to R187) -/

theorem getD_take {l : List Byte} {n k : Nat} (h : k < n) : (l.take n).getD k 0#8 = l.getD k 0#8 := by
  rw [List.getD_eq_getElem?_getD, List.getD_eq_getElem?_getD, List.getElem?_take_of_lt h]

section
variable {s t : State} {g w p lane : Nat} {G : Machine.Group} {wv : Wave} {q : Pend} {a : Acc} {merge : Bool}
  (h : Performable s g w p lane G wv q a) (hrecs : q.recs = []) (hs : Canonical s)
include h hrecs hs

/-- An access to device memory leaves the memories of the cores and all bytes but those that its operation stores. -/
theorem performed_frame_phys {pa : Nat} (hl : a.loc = .phys pa) (hu : Unharmed s G q a)
    (ht : exec (.loadDataReturn g w p lane) s = .next t ∨ exec (.storeComplete g w p lane merge) s = .next t) :
    t.cores = s.cores ∧ ∀ x, (∀ k, stored s G q a k → x ≠ wordOf q pa + k) → byteAt t x = byteAt s x := by
  obtain ⟨r, hr, hsame⟩ := performed_frame h hrecs hs hu ht
  rw [hl] at hr
  refine ⟨hsame.cores.trans (hr.cores nofun nofun), fun x hx => (hsame.byteAt_eq hr.canonical x).trans (hr.mem x ?_)⟩
  rintro _ k ⟨⟩ hk
  exact hx k hk

/-- A store to device memory leaves its bytes. -/
theorem storePhys_byteAt {pa n : Nat} (hl : a.loc = .phys pa) (hk : q.kind = .mem (.store n)) (hn : n ≤ 4 * a.data.length)
    (ht : exec (.storeComplete g w p lane merge) s = .next t) (x : Nat) :
    byteAt t x = if pa ≤ x ∧ x < pa + n then (wordsBytes a.data).getD (x - pa) 0#8 else byteAt s x := by
  have hsame := stored_sameBytes h hrecs hs hk ht
  have hlen : ((wordsBytes a.data).take n).length = n := by
    rw [List.length_take, wordsBytes_length]
    omega
  have hclaim := (begun_untouched s G q a).trans (claim_untouched _ G (q.reader G a) true pa ((wordsBytes a.data).take n).length)
  have hs' := hclaim.canonical hs
  rw [hl] at hsame
  rw [hsame.byteAt_eq (poke_touched hs' G pa _).canonical]
  refine (byteAt_poke hs'.mem pa _ x).trans ?_
  rw [hclaim.byteAt_eq hs, hlen]
  split
  case isTrue hin => exact getD_take (by omega)
  case isFalse => rfl

/-- A store to CLM leaves its bytes there. -/
theorem storeClm_clmAt {y n : Nat} (hl : a.loc = .clm y) (hk : q.kind = .mem (.store n)) (hn : n ≤ 4 * a.data.length)
    (ht : exec (.storeComplete g w p lane merge) s = .next t) (hcore : G.core < s.cores.length) (x : Nat) :
    clmAt t G.core x = if G.clmb * 1024 + y ≤ x ∧ x < G.clmb * 1024 + y + n
      then (wordsBytes a.data).getD (x - (G.clmb * 1024 + y)) 0#8 else clmAt s G.core x := by
  have hsame := stored_sameBytes h hrecs hs hk ht
  have hlen : ((wordsBytes a.data).take n).length = n := by
    rw [List.length_take, wordsBytes_length]
    omega
  have hbegun := begun_untouched s G q a
  rw [hl] at hsame
  rw [clmAt, hsame.core_eq]
  refine (clmAt_storeClm (hbegun.canonical hs) G.core (G.clmb * 1024 + y) _ G.core x).trans ?_
  rw [hlen, clmAt, hbegun.core_eq, begun_cores]
  by_cases hin : G.clmb * 1024 + y ≤ x ∧ x < G.clmb * 1024 + y + n
  · rw [if_pos ⟨rfl, hcore, hin⟩, if_pos hin, getD_take (by omega)]
  · rw [if_neg fun h => hin h.2.2, if_neg hin]
    rfl

end

/-- Settles O57: one frame for every operation, and the bytes of a store. -/
theorem memoryFrame : Obligations.MemoryFrame := by
  unfold Obligations.MemoryFrame
  refine ⟨fun s pa b x hs => byteAt_poke hs.mem pa b x, ?phys, ?clm, ?all⟩
  case phys =>
    intro s g w p lane G wv q a pa m t h hl _ hrecs hs
    have hframe := fun hu ht => performed_frame_phys h hrecs hs hl hu (t := t) (merge := m) ht
    simp only [Unharmed, stored, wordOf, Pend.op?] at hframe
    refine ⟨fun z _ hk ht => ?_, fun n hk hn ht => ?_, fun z hz hk hclean ht => ?_, fun f hk ht => ?_⟩ <;>
      simp only [hk] at hframe
    · exact (hframe trivial (.inl ht)).imp_right fun hmem x => hmem x fun k hk => hk.elim
    · exact ⟨(hframe trivial (.inr ht)).1, storePhys_byteAt h hrecs hs hl hk hn ht⟩
    · rw [if_neg (atomicFns_ne_cas64 hz), hl] at hframe
      exact (hframe hclean (.inl ht)).imp_right fun hmem x hx => hmem x fun k hk => by omega
    · exact (hframe trivial (.inr ht)).imp_right fun hmem x hx => hmem x fun k hk => by omega
  case clm =>
    intro s g w p lane G wv q a y n m t h hl hrecs hs hk hn ht lo
    have hu : Unharmed s G q a := by rw [Unharmed, Pend.op?, hk]; trivial
    obtain ⟨r, hr, hsame⟩ := performed_frame h hrecs hs hu (.inr ht)
    rw [hl] at hr
    refine ⟨fun x => ?_, fun core x hne => ?_, fun hcore x => storeClm_clmAt h hrecs hs hl hk hn ht hcore x⟩
    · exact (hsame.byteAt_eq hr.canonical x).trans (hr.mem x nofun)
    · rw [clmAt, hsame.core_eq]
      exact hr.clm core x fun _ _ _ hc => absurd hc hne
  case all =>
    intro s g w p lane G wv q a m t h hrecs hs hu ht
    obtain ⟨r, hr, hsame⟩ := performed_frame h hrecs hs hu ht
    cases hl : a.loc <;> rw [hl] at hr <;> refine hr.memFrame hsame ?_ ?_ ?_ <;> rintro _ k ⟨⟩ hk <;> exact ⟨k, hk, rfl⟩

end Sys2Proof.Proofs

namespace Sys2Proof.Proofs

open Sys2Proof Sys2Proof.Machine Sys2Proof.Safety Sys2Proof.Claims Sys2Proof.Laws

/-! ### A saved group's scratch image (spec/13 R354)

`Canonical` speaks of physical memory and of the memories of the cores, and not of the images that saved groups keep; a restore puts
the scratch image of its group back as it is. (GROUP_SAVE takes that image from the core, so that no run meets the state below.) -/

/-- A machine whose only group is saved, with a scratch image that lists a byte that is 0; it is restored next. -/
noncomputable def savedZero : State :=
  { (State.reset.loadWord nopWord).modGroup 0 (fun G => { G with state := .saved, savedWays := 1, savedScr := [(0, 0#8)] }) with
    agenda := [.event (.groupRestore 0 0 0 0 0 0 0)] }

theorem savedZero_canonical : Canonical savedZero := ⟨by decide +kernel, by decide +kernel, by decide +kernel⟩

/-- The scratch memory of core 0 after a step. -/
def scratchAfter : Host.Outcome State Fault Refusal → Option (List Host.Cell)
  | .next t => some (t.core 0).scr
  | .fault _ | .refused _ => none

theorem step_savedZero : ∃ t, step savedZero = .next t ∧ (t.core 0).scr = [(0, 0#8)] := by
  have hscr : scratchAfter (step savedZero) = some [(0, 0#8)] := by decide +kernel
  cases h : step savedZero with
  | next t => exact ⟨t, rfl, Option.some.inj (by rw [h] at hscr; exact hscr)⟩
  | fault _ | refused _ => rw [h] at hscr; cases hscr

/-- Refutes O59: the restore of `savedZero` brings back a scratch image that lists a zero byte. -/
theorem not_byteStoresKept : ¬ Obligations.ByteStoresKept := by
  unfold Obligations.ByteStoresKept
  intro hkept
  obtain ⟨t, hstep, hscr⟩ := step_savedZero
  have hwf := (canonical_core (hkept savedZero t savedZero_canonical hstep) 0).2
  rw [hscr] at hwf
  exact absurd hwf (by decide)

end Sys2Proof.Proofs

namespace Sys2Proof.Proofs

open Sys2Proof Sys2Proof.Machine Sys2Proof.Safety Sys2Proof.Claims Sys2Proof.Laws

/-! ### The oldest queued reduction of a line (spec/06 R178) -/

/-- The first element of a list that passes a test, with its place. -/
theorem zipIdx_find?_first {α : Type} {l : List α} {P : α → Bool} {j : Nat} {x : α} (hx : l[j]? = some x) (hP : P x = true)
    (hfirst : ∀ k < j, ∀ y, l[k]? = some y → P y = false) : l.zipIdx.find? (fun y => P y.1) = some (x, j) := by
  rw [List.find?_eq_some_iff_getElem]
  obtain ⟨hj, rfl⟩ := List.getElem?_eq_some_iff.mp hx
  refine ⟨hP, j, by simpa using hj, by simp, fun k hk => ?_⟩
  simpa using hfirst k hk l[k] (List.getElem?_eq_getElem (hk.trans hj))

theorem execReductionApply_device {s : State} {i j : Nat} {e x : RedEnt} (he : s.redQueue[i]? = some e)
    (hx : s.redQueue[j]? = some x) (hline : x.line = e.line)
    (hfirst : ∀ k < j, ∀ y, s.redQueue[k]? = some y → y.line ≠ e.line) :
    execReductionApply i s = .next { s.applyRed x with redQueue := s.redQueue.eraseIdx j } := by
  have hfind := zipIdx_find?_first (P := fun y : RedEnt => y.line == e.line) hx (beq_iff_eq.mpr hline)
    fun k hk y hy => beq_eq_false_iff_ne.mpr (hfirst k hk y hy)
  simp only [execReductionApply, he, hfind]

theorem execReductionApply_host {s : State} {i j : Nat} {e x : HostRed} (he : s.hostReds[i]? = some e)
    (hx : s.hostReds[j]? = some x) (hline : x.onLines e.peer (4 * e.word) 4 = true)
    (hfirst : ∀ k < j, ∀ y, s.hostReds[k]? = some y → y.onLines e.peer (4 * e.word) 4 = false) :
    execReductionApply (s.redQueue.length + i) s = .next { s.hostApply x with hostReds := s.hostReds.eraseIdx j } := by
  have hbeyond : s.redQueue[s.redQueue.length + i]? = none := List.getElem?_eq_none (Nat.le_add_right ..)
  have hfind := zipIdx_find?_first (P := fun y : HostRed => y.onLines e.peer (4 * e.word) 4) hx hline hfirst
  simp only [execReductionApply, hbeyond, Nat.add_sub_cancel_left, he, hfind]

/-! ### Writing a line back (spec/06 R176, spec/16 R394) -/

/-- Bytes that go to host memory change it, and no other part of the state. -/
theorem hostBytes_frame (peer : Nat) : ∀ (b : List Byte) (a : Nat) (s : State), ∃ m, s.hostBytes peer a b = { s with hostMem := m }
  | [], _, s => ⟨s.hostMem, rfl⟩
  | _ :: b, a, _ => hostBytes_frame peer b (a + 1) _

theorem hostBytes_cons (s : State) (peer a : Nat) (b : Byte) (bs : List Byte) :
    s.hostBytes peer a (b :: bs) = (s.hostBytes peer a [b]).hostBytes peer (a + 1) bs := rfl

/-- A byte of host memory after one is written. -/
theorem hostByte_hostBytes_singleton (s : State) (peer a : Nat) (b : Byte) (p x : Nat) :
    (s.hostBytes peer a [b]).hostByte p x = if peerQp peer = peerQp p ∧ x = a then b else s.hostByte p x := by
  have hrest : (s.hostMem.filter (fun c => !(c.1 == peerQp peer && c.2.1 == a))).find? (fun c => c.1 == peerQp p && c.2.1 == x) =
      if peerQp peer = peerQp p ∧ x = a then none else s.hostMem.find? (fun c => c.1 == peerQp p && c.2.1 == x) := by
    rw [List.find?_filter]
    split
    · rw [List.find?_eq_none]
      grind
    · congr 1
      grind
  have hmem : (s.hostBytes peer a [b]).hostMem =
      s.hostMem.filter (fun c => !(c.1 == peerQp peer && c.2.1 == a)) ++ if b = 0#8 then [] else [(peerQp peer, a, b)] := by
    simp only [State.hostBytes]
    split <;> simp
  simp only [State.hostByte, hmem, List.find?_append, hrest]
  by_cases h : peerQp peer = peerQp p ∧ x = a
  · obtain ⟨hp, rfl⟩ := h
    by_cases hb : b = 0#8 <;> simp [hp, hb]
  · have hnew : (if b = 0#8 then [] else [(peerQp peer, a, b)]).find? (fun c => c.1 == peerQp p && c.2.1 == x) = none := by
      rw [List.find?_eq_none]
      grind
    rw [if_neg h, if_neg h, hnew, Option.or_none]

/-- A byte of host memory after bytes are written. -/
theorem hostByte_hostBytes (peer : Nat) : ∀ (b : List Byte) (a : Nat) (s : State) (p x : Nat),
    (s.hostBytes peer a b).hostByte p x =
      if peerQp peer = peerQp p ∧ a ≤ x ∧ x < a + b.length then b.getD (x - a) 0#8 else s.hostByte p x
  | [], a, s, p, x => by
    rw [if_neg fun h => by simp at h; omega]
    rfl
  | b :: bs, a, s, p, x => by
    rw [hostBytes_cons, hostByte_hostBytes peer bs, hostByte_hostBytes_singleton, List.length_cons]
    by_cases hp : peerQp peer = peerQp p
    · by_cases hx : x = a
      · subst hx
        simp [hp]
      · by_cases hin : a + 1 ≤ x ∧ x < a + 1 + bs.length
        · obtain ⟨k, rfl⟩ : ∃ k, x = a + 1 + k := ⟨x - (a + 1), by omega⟩
          rw [if_pos ⟨hp, hin⟩, if_pos ⟨hp, by omega, by omega⟩, Nat.add_sub_cancel_left,
            show a + 1 + k - a = k + 1 by omega, List.getD_cons_succ]
        · rw [if_neg fun h => hin h.2, if_neg fun h => hx h.2, if_neg fun h => by omega]
    · simp [hp]

/-- An RDMA WRITE changes the memory of its queue pair. -/
theorem hostByte_hostSend (s : State) (l : HostLine) (run : Nat × List Byte) (p x : Nat) :
    (s.hostSend l run).hostByte p x = (s.hostBytes l.peer run.1 run.2).hostByte p x := rfl

/-- One RDMA WRITE of bytes leaves what one of the first and one of the others leave. -/
theorem hostByte_hostSend_cons (s : State) (l : HostLine) (a : Nat) (b : Byte) (bs : List Byte) (p x : Nat) :
    (s.hostSend l (a, b :: bs)).hostByte p x = ((s.hostSend l (a, [b])).hostSend l (a + 1, bs)).hostByte p x := by
  rw [hostByte_hostSend, hostBytes_cons, hostByte_hostBytes, hostByte_hostSend, hostByte_hostBytes, hostByte_hostBytes,
    hostByte_hostSend, hostByte_hostBytes]

/-- The RDMA WRITEs of runs of bytes. -/
def hostSends (s : State) (l : HostLine) (runs : List (Nat × List Byte)) : State := runs.foldl (fun s r => s.hostSend l r) s

theorem hostSends_cons (s : State) (l : HostLine) (r : Nat × List Byte) (runs : List (Nat × List Byte)) :
    hostSends s l (r :: runs) = hostSends (s.hostSend l r) l runs := rfl

/-- RDMA WRITEs change host memory and its marks, and are sent in order. -/
theorem hostSends_frame (l : HostLine) : ∀ (runs : List (Nat × List Byte)) (s : State), ∃ m p,
    hostSends s l runs = { s with
      hostMem := m
      hostMemP := p
      outbox := s.outbox ++ runs.map (fun r => .write (l.peer % 4096) (l.peer / 4096) l.key r.1 r.2) }
  | [], s => ⟨s.hostMem, s.hostMemP, by simp [hostSends]⟩
  | r :: runs, s => by
    obtain ⟨m, hbytes⟩ := hostBytes_frame l.peer r.2 r.1 s
    obtain ⟨m', p', hrest⟩ := hostSends_frame l runs (s.hostSend l r)
    refine ⟨m', p', ?_⟩
    rw [hostSends_cons, hrest]
    simp only [State.hostSend, State.hostPut, hbytes, List.map_cons, List.append_assoc, List.singleton_append]

/-- What RDMA WRITEs leave in host memory rests on what it held. -/
theorem hostByte_hostSends_congr (l : HostLine) (p : Nat) : ∀ (runs : List (Nat × List Byte)) (s t : State),
    (∀ x, s.hostByte p x = t.hostByte p x) → ∀ x, (hostSends s l runs).hostByte p x = (hostSends t l runs).hostByte p x
  | [], _, _, h => h
  | r :: runs, s, t, h => hostByte_hostSends_congr l p runs _ _ fun x => by
    simp only [hostByte_hostSend, hostByte_hostBytes, h]

/-- The RDMA WRITEs of a line change the memory of its queue pair only. -/
theorem hostByte_hostSends_other {l : HostLine} {p : Nat} (hp : peerQp l.peer ≠ peerQp p) : ∀ (runs : List (Nat × List Byte))
    (s : State) (x : Nat), (hostSends s l runs).hostByte p x = s.hostByte p x
  | [], _, _ => rfl
  | r :: runs, s, x => by
    rw [hostSends_cons, hostByte_hostSends_other hp runs, hostByte_hostSend, hostByte_hostBytes, if_neg fun h => hp h.1]

/-- A dirty byte in front of others is written before them, whether it begins a run of its own or joins theirs. -/
theorem hostByte_dirtyRuns_cons (l : HostLine) (p a : Nat) (b : Byte) (t : List (Nat × Byte × Bool)) (s : State) (x : Nat) :
    (hostSends s l (dirtyRuns ((a, b, true) :: t))).hostByte p x =
      (hostSends (s.hostSend l (a, [b])) l (dirtyRuns t)).hostByte p x := by
  simp only [dirtyRuns, Bool.not_true, Bool.false_eq_true, if_false]
  split
  case h_1 a' bs rest hruns =>
    split
    case isTrue hjoin =>
      subst hjoin
      rw [hruns, hostSends_cons, hostSends_cons]
      exact hostByte_hostSends_congr l p rest _ _ (hostByte_hostSend_cons s l a b bs p) x
    case isFalse => rw [hruns, hostSends_cons]
  case h_2 hruns => rw [hruns, hostSends_cons]

/-- Each dirty byte of a list with distinct addresses reaches host memory. -/
theorem hostByte_dirtyRuns {l : HostLine} {p : Nat} (hp : peerQp l.peer = peerQp p) : ∀ (bytes : List (Nat × Byte × Bool)) (s : State),
    (bytes.map Prod.fst).Nodup → ∀ x, (hostSends s l (dirtyRuns bytes)).hostByte p x =
      ((bytes.find? (fun b => b.1 == x && b.2.2)).map (fun b => b.2.1)).getD (s.hostByte p x)
  | [], _, _, _ => rfl
  | (a, b, false) :: t, s, hnodup, x => by
    rw [List.map_cons, List.nodup_cons] at hnodup
    simpa [dirtyRuns] using hostByte_dirtyRuns hp t s hnodup.2 x
  | (a, b, true) :: t, s, hnodup, x => by
    rw [List.map_cons, List.nodup_cons] at hnodup
    rw [hostByte_dirtyRuns_cons, hostByte_dirtyRuns hp t _ hnodup.2, hostByte_hostSend, hostByte_hostBytes]
    by_cases hx : a = x
    · subst hx
      have hnone : t.find? (fun b => b.1 == a && b.2.2) = none := by
        simp only [List.find?_eq_none, Bool.and_eq_true, beq_iff_eq]
        rintro y hy ⟨rfl, _⟩
        exact hnodup.1 (List.mem_map.mpr ⟨y, hy, rfl⟩)
      simp [hnone, hp]
    · have hout : ¬ (peerQp l.peer = peerQp p ∧ a ≤ x ∧ x < a + [b].length) := by
        rw [List.length_singleton]
        omega
      rw [if_neg hout]
      simp [hx]

/-! ### Eviction of a host-window line (spec/06 R176, spec/16 R394) -/

theorem hostSpoil_untouched (s : State) (l : HostLine) (words : List Nat) : Untouched s (s.hostSpoil l words) :=
  ⟨⟨rfl, rfl, rfl, rfl⟩, rfl⟩

theorem modHostLine_untouched (s : State) (peer line : Nat) (f : HostLine → HostLine) : Untouched s (s.modHostLine peer line f) :=
  ⟨⟨rfl, rfl, rfl, rfl⟩, rfl⟩

theorem hostSends_untouched (s : State) (l : HostLine) (runs : List (Nat × List Byte)) : Untouched s (hostSends s l runs) := by
  obtain ⟨m, p, h⟩ := hostSends_frame l runs s
  rw [h]
  exact ⟨⟨rfl, rfl, rfl, rfl⟩, rfl⟩

theorem hostFlush_untouched (s : State) (l : HostLine) : Untouched s (s.hostFlush l) := by
  unfold State.hostFlush
  dsimp only
  generalize ((s.hostFills l.peer (128 * l.line) 1).hostLine? l.peer l.line).getD l = k
  have hfills := hostFills_untouched s l.peer (128 * l.line) 1
  have hsends := hfills.trans (hostSends_untouched _ k (dirtyRuns k.bytes))
  rw [hostSends] at hsends
  exact (hsends.trans (hostSpoil_untouched ..)).trans (modHostLine_untouched ..)

/-- The line is dropped after it is written back. -/
def lineDropped (l : HostLine) (s : State) : State :=
  { s with llcHost := s.llcHost.filter (fun x => !(x.peer == l.peer && x.line == l.line)) }

theorem lineDropped_untouched (s : State) (l : HostLine) : Untouched s (lineDropped l s) := ⟨⟨rfl, rfl, rfl, rfl⟩, rfl⟩

theorem hostEvict_eq (s : State) (l : HostLine) : s.hostEvict l = lineDropped l (s.hostFlush l) := rfl

/-- Device memory and the groups stay as they were. -/
theorem hostEvict_untouched (s : State) (l : HostLine) : Untouched s (s.hostEvict l) := by
  rw [hostEvict_eq]
  exact (hostFlush_untouched s l).trans (lineDropped_untouched ..)

theorem hostEvict_drops (s : State) (l : HostLine) : ∀ x ∈ (s.hostEvict l).llcHost, ¬ (x.peer = l.peer ∧ x.line = l.line) := by
  intro x hx
  simpa [imp_iff_not_or] using (List.mem_filter.mp hx).2

section
variable {s : State} {i : Nat} {l : HostLine} (h : HeldLine s i l)
include h

/-- A held line on which no reduction waits is filled already. -/
theorem heldLine_hostFills : s.hostFills l.peer (128 * l.line) 1 = s := by
  have hfill : s.hostFill l.peer l.line = s := if_pos (by rw [h.held]; rfl)
  have hnone : s.hostReds.filter (fun e => e.onLines l.peer (128 * l.line) 1) = [] := by
    rw [List.filter_eq_nil_iff]
    exact fun e he => by simp [h.settled e he]
  have hkept : s.hostReds.filter (fun e => !e.onLines l.peer (128 * l.line) 1) = s.hostReds := by
    rw [List.filter_eq_self]
    exact fun e he => by simp [h.settled e he]
  have hfirst : 128 * l.line / 128 = l.line := by omega
  have hlast : (128 * l.line + 1 - 1) / 128 - l.line + 1 = 1 := by omega
  simp only [State.hostFills, hfirst, hlast, List.range_one, List.foldl_cons, List.foldl_nil, Nat.add_zero, hfill, hnone, hkept]

/-- The line is written back: its dirty bytes are sent, its marked words that hold such bytes stay marked at their home. -/
theorem heldLine_hostFlush : s.hostFlush l =
    ((hostSends s l (dirtyRuns l.bytes)).hostSpoil l (l.marks.filter l.dirtyWords.contains)).modHostLine l.peer l.line
      (fun x => { x with bytes := x.bytes.map (fun b => (b.1, b.2.1, false)) }) := by
  rw [State.hostFlush, heldLine_hostFills h, h.held]
  rfl

theorem heldLine_hostEvict_llcHost :
    (s.hostEvict l).llcHost = s.llcHost.filter (fun x => !(x.peer == l.peer && x.line == l.line)) := by
  obtain ⟨m, p, hsends⟩ := hostSends_frame l (dirtyRuns l.bytes) s
  have hlines : (s.hostFlush l).llcHost = s.llcHost.map (fun x =>
      if x.is l.peer l.line then { x with bytes := x.bytes.map (fun b => (b.1, b.2.1, false)) } else x) := by
    rw [heldLine_hostFlush h, hsends]
    rfl
  have hkey : ∀ x : HostLine, (x.is l.peer l.line) = (x.peer == l.peer && x.line == l.line) := fun x => by
    rw [HostLine.is, h.peer]
  rw [hostEvict_eq, lineDropped, hlines]
  simp only [hkey]
  induction s.llcHost with
  | nil => rfl
  | cons x t ih =>
    rw [List.map_cons, List.filter_cons, List.filter_cons, ih]
    by_cases hx : (x.peer == l.peer && x.line == l.line) = true <;> simp [hx]

theorem heldLine_nodup : (l.bytes.map Prod.fst).Nodup := by
  rw [h.bytes]
  exact List.nodup_range.map fun a b hab => by simpa using hab

theorem heldLine_hostEvict_hostByte (p x : Nat) :
    (s.hostEvict l).hostByte p x = (hostSends s l (dirtyRuns l.bytes)).hostByte p x := by
  rw [hostEvict_eq, heldLine_hostFlush h]
  rfl

theorem heldLine_hostEvict_marks {m : Nat} (hmark : m ∈ l.marks) (hdirty : m ∈ l.dirtyWords) :
    (l.peer, m) ∈ (s.hostEvict l).hostMemP := by
  have hwords : m ∈ l.marks.filter l.dirtyWords.contains :=
    List.mem_filter.mpr ⟨hmark, List.contains_iff_mem.mpr hdirty⟩
  rw [hostEvict_eq, heldLine_hostFlush h]
  simp only [lineDropped, State.modHostLine, State.hostSpoil, List.mem_append, List.mem_map, List.mem_filter (p := fun w => !_),
    Prod.mk.injEq, true_and, exists_eq_right]
  by_cases hthere : (l.peer, m) ∈ (hostSends s l (dirtyRuns l.bytes)).hostMemP
  · exact .inl hthere
  · exact .inr ⟨hwords, by simpa using hthere⟩

theorem heldLine_hostEvict_outbox : (s.hostEvict l).outbox =
    s.outbox ++ (dirtyRuns l.bytes).map (fun r => .write (l.peer % 4096) (l.peer / 4096) l.key r.1 r.2) := by
  obtain ⟨m, p, hsends⟩ := hostSends_frame l (dirtyRuns l.bytes) s
  rw [hostEvict_eq, heldLine_hostFlush h, hsends]
  rfl

end

theorem exec_eviction_held {s : State} {i : Nat} {l : HostLine} (h : s.llcHost[i]? = some l) :
    exec (.eviction i) s = .next (s.hostEvict l) := by
  rw [exec_eviction, execEviction, h]

/-- Settles O15: the oldest reduction of a line is the first of its queue, and an eviction sends the dirty bytes of its line run
by run. -/
theorem reductionAndEviction : Obligations.ReductionAndEviction := by
  unfold Obligations.ReductionAndEviction
  refine ⟨?device, ?host, ?evict, ?held⟩
  case device =>
    intro s i j e x he hx hline hfirst new t
    have happly : s.applyRed x = t := rfl
    rw [exec_reductionApply, execReductionApply_device he hx hline hfirst, happly]
  case host =>
    intro s i j e x l he hx hline hfirst b s' hl old t
    have happly : s.hostApply x = t := by
      simp only [State.hostApply, s', b, t, old, hl]
    rw [exec_reductionApply, execReductionApply_host he hx hline hfirst, happly]
  case evict =>
    intro s i l hl
    have hsame := hostEvict_untouched s l
    exact ⟨_, exec_eviction_held hl, hostEvict_drops s l, hsame.mem, hsame.groups⟩
  case held =>
    intro s i l h
    refine ⟨_, exec_eviction_held h.at_, heldLine_hostEvict_llcHost h, fun a => ?_, fun p a hne => ?_,
      fun m => heldLine_hostEvict_marks h, heldLine_hostEvict_outbox h⟩
    · rw [heldLine_hostEvict_hostByte h, hostByte_dirtyRuns rfl _ s (heldLine_nodup h)]
    · rw [heldLine_hostEvict_hostByte h, hostByte_hostSends_other (by rw [h.peer]; exact hne.symm)]

end Sys2Proof.Proofs

namespace Sys2Proof.Proofs

open Sys2Proof Sys2Proof.Machine Sys2Proof.Safety Sys2Proof.Claims Sys2Proof.Laws

/-! ### Clock targets (spec/14 R364 R373) -/

theorem target_setTarget (s : State) (r mhz r' : Nat) : (s.setTarget r mhz).target r' = if r' = r then mhz else s.target r' := by
  unfold State.setTarget State.target
  by_cases h : r' = r
  · simp [h]
  · have hkept : (s.clocks.filter (fun x => x.1 != r)).find? (fun x => x.1 == r') = s.clocks.find? (fun x => x.1 == r') := by
      rw [List.find?_filter]
      congr 1
      grind
    rw [List.find?_cons_of_neg (by simpa using Ne.symm h), hkept, if_neg h]

theorem execClockTargetUpdate_sets {r mhz : Nat} {s : State} (hup : s.up = true) (hr : r < 145) (hlow : 800 ≤ mhz)
    (hhigh : mhz ≤ 2700) (hstep : mhz % 25 = 0) : execClockTargetUpdate r mhz s = .next (s.setTarget r mhz) :=
  if_pos (by simp [hup, regions, hr, hlow, hhigh, hstep])

/-- The measurements that count after one more, and how many of them in a row were low (R373). -/
def powerNoted (s : State) (watts : Nat) : State :=
  let log := (s.powerLog ++ [watts]).drop (s.powerLog.length - 9)
  { s with
    powerLog := log
    powerLow := if 100 * log.foldl (· + ·) 0 ≤ 95 * s.powerLimit * log.length then s.powerLow + 1 else 0 }

theorem execPowerMeasure_eq {s : State} (watts : Nat) (hup : s.up = true) :
    let t := powerNoted s watts
    execPowerMeasure watts s = .next (
      if s.powerLimit * t.powerLog.length < t.powerLog.foldl (· + ·) 0 then t.allTargets lowerTarget
      else if 100 ≤ t.powerLow then t.allTargets raiseTarget else t) := by
  have hten : s.powerLog.length + 1 - 10 = s.powerLog.length - 9 := by omega
  simp only [execPowerMeasure, hup, hten, Bool.not_true, Bool.false_eq_true, if_false, decide_eq_true_eq]
  rfl

/-! ### Heat and refresh (spec/14 R369 R372) -/

theorem execTempSample_eq {core : Nat} {mc : Int} {s : State} (h : s.corePresent core = true) :
    execTempSample core mc s = .next (s.modCore core (fun c =>
      let k := if shading core then max c.rclass (classAbove (mc * 256)) else 0
      { c with
        temp := mc, rclass := k, below := belowSince k mc (if k = c.rclass then c.below else none) s.now
        held := if c.held then decide (110000 < mc) else decide (120000 ≤ mc)
        slowed := c.slowed || (decide (c.rclass < k) && decide (256000 < vaultTime k * 256 + s.committed core)) })) := by
  rw [execTempSample, h, Bool.not_true, if_neg Bool.false_ne_true]

theorem execRefreshClassFall_falls {core t : Nat} {s : State} (hbelow : (s.core core).below = some t)
    (hclass : 0 < (s.core core).rclass) (hnow : t + 64000000 ≤ s.now) :
    execRefreshClassFall core s = .next (s.modCore core (fun c => { c with
      rclass := c.rclass - 1, below := belowSince (c.rclass - 1) c.temp none s.now, slowed := false })) := by
  simp only [execRefreshClassFall, hbelow]
  exact if_neg (by omega)

/-- The charge of a core goes to its resident groups, each by its share (R372). -/
def charged (s : State) (core : Nat) : State :=
  let gs := s.groupsOn core
  let sum := (gs.map (fun G => (s.launch G.launch).refb)).foldl (· + ·) 0
  gs.foldl (fun t G => t.modLaunch G.launch (fun L => { L with
    charge := fracAdd L.charge (refreshShare (vaultTime (s.core core).rclass - 30) sum gs.length L.refb) })) s

theorem charged_cores (s : State) (core : Nat) : (charged s core).cores = s.cores := by
  unfold charged
  dsimp only
  exact List.foldlRecOn (motive := fun t : State => t.cores = s.cores) _ _ rfl fun t ht _ _ => ht

theorem execRefreshCharge_eq {core : Nat} {s : State} (hup : s.up = true) (hpresent : s.corePresent core = true)
    (hshading : shading core = true) :
    let t := charged s core
    execRefreshCharge core s = .next (
      if (s.core core).slowed then t.setTarget (t.regionOf core) (lowerTarget (t.target (t.regionOf core))) else t) := by
  intro t
  have hcore : t.core core = s.core core := by rw [State.core, charged_cores]; rfl
  rw [← hcore]
  exact if_neg (by simp [hup, hpresent, hshading])

/-- The sum of two fractions is their sum, over a denominator that is not 0. -/
theorem fracAdd_exact {x y : Nat × Nat} (hx : 0 < x.2) (hy : 0 < y.2) :
    (fracAdd x y).1 * (x.2 * y.2) = (x.1 * y.2 + y.1 * x.2) * (fracAdd x y).2 ∧ 0 < (fracAdd x y).2 := by
  have hdx : Nat.lcm x.2 y.2 / x.2 * x.2 = Nat.lcm x.2 y.2 := Nat.div_mul_cancel (Nat.dvd_lcm_left ..)
  have hdy : Nat.lcm x.2 y.2 / y.2 * y.2 = Nat.lcm x.2 y.2 := Nat.div_mul_cancel (Nat.dvd_lcm_right ..)
  refine ⟨?_, Nat.lcm_pos hx hy⟩
  simp only [fracAdd]
  generalize Nat.lcm x.2 y.2 = d at *
  calc (x.1 * (d / x.2) + y.1 * (d / y.2)) * (x.2 * y.2)
      = x.1 * y.2 * (d / x.2 * x.2) + y.1 * x.2 * (d / y.2 * y.2) := by ring
    _ = (x.1 * y.2 + y.1 * x.2) * d := by rw [hdx, hdy]; ring

/-! ### Device time (spec/14 R368) -/

/-- The time record after a message of a port: its lock, its error and its slew. -/
def ptpNoted (port : Nat) (err rate : BitVec 32) (s : State) (lock : Nat) : State :=
  ((s.cfgSet 10 (BitVec.ofNat 32 (lock + 4 * port))).cfgSet 11 err).cfgSet 12 rate

theorem execPtpMessage_eq {port lock : Nat} {off : BitVec 64} {err rate : BitVec 32} {locked : Bool} {s : State}
    (hlock : ((s.cfgWord 10).extractLsb' 0 2).toNat = lock) (hup : s.up = true) (hport : port < 2)
    (hlow : -2147483 ≤ rate.toInt) (hhigh : rate.toInt ≤ 2147483) (herr : err.toNat < 50) :
    execPtpMessage port off err rate locked s = .next (ptpNoted port err rate
      (if locked && lock != 2 then (s.cfgSet 8 (lo32 off)).cfgSet 9 (hi32 off) else s) (if locked || lock == 2 then 2 else 1)) := by
  subst hlock
  have hslew : (decide (-maxSlew ≤ rate.toInt) && decide (rate.toInt ≤ maxSlew)) = true := by simp [maxSlew, hlow, hhigh]
  have hgo : ¬ (!s.up || decide (1 < port) || !(decide (-maxSlew ≤ rate.toInt) && decide (rate.toInt ≤ maxSlew)) ||
      ((locked || ((s.cfgWord 10).extractLsb' 0 2).toNat == 2) && !decide (err.toNat < 50))) = true := by
    simp only [hup, hslew, decide_eq_true herr, decide_eq_false (Nat.not_lt.mpr (Nat.le_of_lt_succ hport)), Bool.not_true,
      Bool.and_false, Bool.or_false, Bool.false_eq_true, not_false_eq_true]
  exact if_neg hgo

theorem execPtpHoldover_holds {s : State} (hup : s.up = true) (hlock : (s.cfgWord 10).extractLsb' 0 2 = 2#2) :
    execPtpHoldover s = .next (s.cfgSet 10 (s.cfgWord 10 ||| 3#32)) := if_pos (by simp [hup, hlock])

/-! ### Frame rings (spec/06 R171) -/

theorem execFrameRingFill_fills {core : Nat} {big : Bool} {frame : Nat} {s : State} (hup : s.up = true) (hshading : shading core = true) :
    let w := ringWord core big
    let n := if big then 32 * 2 ^ 20 else 16384
    let t := s.layRing w
    columnOf frame = some core → frame % n = 0 → s.inPool frame n = true → s.serves frame = true →
    (t.cfgWord (w + 3) - t.cfgWord (w + 2)).toNat < 2 ^ t.ringLog w →
    let u := t.drain frame n
    execFrameRingFill core big frame s = .next ((State.poke64 { u with
        mem := cellClear u.mem frame (frame + n), memP := unmark u.memP frame n } (u.ringSlot w (t.cfgWord (w + 3)))
      (BitVec.ofNat 64 frame)).cfgSet (w + 3) (t.cfgWord (w + 3) + 1#32)) := by
  intro w n t hcolumn haligned hpool hserves hroom u
  have hgo : ¬ (!s.up || !shading core || columnOf frame != some core || frame % n != 0 || !s.inPool frame n || !s.serves frame ||
      decide (2 ^ t.ringLog w ≤ (t.cfgWord (w + 3) - t.cfgWord (w + 2)).toNat)) = true := by
    simp only [hup, hshading, hcolumn, haligned, hpool, hserves, decide_eq_false (Nat.not_le.mpr hroom), bne_self_eq_false,
      Bool.not_true, Bool.or_self, Bool.false_eq_true, not_false_eq_true]
  exact if_neg hgo

/-! ### Ports (spec/16 R383 R385) -/

theorem qpRate_le_portRate (s : State) (qp : Nat) : s.qpRate qp ≤ portRate (s.rates.getD (qp / 4096) 0) := Nat.min_le_right ..

/-- A queue pair whose rate has been lowered, on the port that it uses. -/
theorem qpRate_lowered (s : State) {qp rate q : Nat} {l : List (Nat × Nat)} (hq : q % 4096 = qp % 4096) :
    State.qpRate { s with qpRates := (qp, rate) :: l } q = min rate (portRate (s.rates.getD (q / 4096) 0)) := by
  simp [State.qpRate, hq]

theorem execCongestionNotification_lowers {qp rate : Nat} {s : State} (hup : s.up = true) (hqp : qp < 8192)
    (hrate : rate < s.qpRate qp) : execCongestionNotification qp rate s =
      .next { s with qpRates := (qp, rate) :: s.qpRates.filter (fun x => x.1 % 4096 != qp % 4096) } :=
  if_pos (by simp [hup, hqp, hrate])

theorem execMkaKeyAgreement_secures {port : Nat} {sec : Bool} {s : State} (hup : s.up = true) (hport : port < 2) :
    execMkaKeyAgreement port sec s = .next { s with secured := s.secured.set port sec } := if_pos (by simp [hup, hport])

/-- Settles O49: one lemma for each event. -/
theorem climateEvents : Obligations.ClimateEvents := by
  unfold Obligations.ClimateEvents
  refine ⟨?clock, ?power, ?temp, ?fall, ?burst, ?charge, fun x y => fracAdd_exact, ?ptp, ?holdover, ?ring, ?rate, ?key⟩
  case clock =>
    intro r mhz s hup hr hlow hhigh hstep
    refine ⟨execClockTargetUpdate_sets hup hr hlow hhigh hstep, ?_, fun r' hr' => ?_⟩
    · rw [target_setTarget, if_pos rfl]
    · rw [target_setTarget, if_neg hr']
  case power =>
    intro w s hup log sum low t
    have hexec : exec (.powerMeasure w) s = .next (
        if s.powerLimit * log.length < sum then t.allTargets lowerTarget
        else if 100 ≤ low then t.allTargets raiseTarget else t) := execPowerMeasure_eq w hup
    refine ⟨fun h => ?_, fun h hlow => ?_, fun h hlow => ?_⟩
    · rw [hexec, if_pos h]
      rfl
    · rw [hexec, if_neg (Nat.not_lt.mpr h), if_pos hlow]
      rfl
    · rw [hexec, if_neg (Nat.not_lt.mpr h), if_neg (Nat.not_le.mpr hlow)]
  case temp => exact fun core mc s => execTempSample_eq
  case fall => exact fun core s t => execRefreshClassFall_falls
  case burst =>
    intro core vault s hpresent hshading hvault
    exact if_pos (by simp [hpresent, hshading, hvault])
  case charge =>
    intro core s hup hpresent hshading gs charge bg sum t
    have hexec : exec (.refreshCharge core) s = .next (
        if (s.core core).slowed then t.setTarget (t.regionOf core) (lowerTarget (t.target (t.regionOf core))) else t) :=
      execRefreshCharge_eq hup hpresent hshading
    refine ⟨fun h => ?_, fun h => ?_⟩
    · rw [hexec, h, if_neg Bool.false_ne_true]
    · rw [hexec, h, if_pos rfl, lowerTarget]
  case ptp =>
    intro port off err rate locked s hup hport hlow hhigh herr lock t
    rw [exec_ptpMessage, execPtpMessage_eq (lock := lock) rfl hup hport hlow hhigh herr]
    refine ⟨fun hl hne => ?_, fun hl => ?_, fun hl hne => ?_⟩
    · rw [hl, bne_iff_ne.mpr hne]
      rfl
    · rw [hl, bne_self_eq_false, Bool.and_false, beq_self_eq_true, Bool.or_true]
      rfl
    · rw [hl, beq_eq_false_iff_ne.mpr hne]
      rfl
  case holdover => exact fun s => execPtpHoldover_holds
  case ring => exact fun core big frame s => execFrameRingFill_fills
  case rate =>
    intro qp rate s hup hqp
    refine ⟨qpRate_le_portRate s qp, fun hrate => ?_⟩
    intro t
    refine ⟨execCongestionNotification_lowers hup hqp hrate, ?_, fun other hother => ?_⟩
    · exact (qpRate_lowered s rfl).trans (min_eq_left (hrate.le.trans (qpRate_le_portRate s qp)))
    · exact (qpRate_lowered s hother).trans_le (Nat.min_le_left ..)
  case key => exact fun port sec s => execMkaKeyAgreement_secures

end Sys2Proof.Proofs

namespace Sys2Proof.Proofs

open Sys2Proof Sys2Proof.Machine Sys2Proof.Safety Sys2Proof.Claims Sys2Proof.Laws

/-! ### What an acquire and the queued reductions leave as it was (spec/06 R178, spec/07 R194) -/

theorem begun_memP (q : Pend) (G : Machine.Group) (a : Acc) (s : State) : (begun q G a s).memP = s.memP :=
  (begun_untouched s G q a).memP

theorem begun_streams (q : Pend) (G : Machine.Group) (a : Acc) (s : State) : (begun q G a s).streams = s.streams := by
  obtain ⟨h, hb, _⟩ := begun_hcopies q G a s
  rw [hb]

/-- Memory after queued reductions does not rest on what an acquire hides. -/
theorem begun_drain_mem (q : Pend) (G : Machine.Group) (a : Acc) (s : State) (pa n : Nat) :
    ((begun q G a s).drain pa n).mem = (s.drain pa n).mem := by
  obtain ⟨h, hb, _⟩ := begun_hcopies q G a s
  rw [hb, drain_hcopies]

theorem frameLine_congr {s t : State} (h : t.streams = s.streams) (G : Machine.Group) (va : Nat) :
    t.frameLine G va = s.frameLine G va := by rw [State.frameLine, h, State.frameLine]

theorem foreignLine_congr {s t : State} (h : t.streams = s.streams) (G : Machine.Group) (va : Nat) :
    t.foreignLine G va = s.foreignLine G va := by rw [State.foreignLine, h, State.foreignLine]

theorem drain_streams (s : State) (pa n : Nat) : (s.drain pa n).streams = s.streams := by
  obtain ⟨m, q, ec, er, el, h⟩ := drain_frame s pa n
  rw [h]

theorem drain_copies (s : State) (pa n : Nat) : (s.drain pa n).hcopies = s.hcopies := by
  obtain ⟨m, q, ec, er, el, h⟩ := drain_frame s pa n
  rw [h]

/-! ### Loads (spec/06 R182, spec/07 R195) -/

/-- The copy that the hamper of a core holds of a line and does not hide from a lane. -/
def copyOf (s : State) (G : Machine.Group) (r : Reader) (pa : Nat) : Option HCopy :=
  s.hcopies.find? (fun h => h.core == G.core && h.line == pa / 128 && !h.hides r)

section
variable {s : State} {G : Machine.Group} {r : Reader} {va : DWord} {pa n : Nat} {glob acq : Bool}

/-- Outside the buffers of an Open frame a read with no copy to show is one of memory. -/
theorem laneRead_memory (hframe : s.frameLine G va.toNat = false)
    (hcopy : glob = true → s.foreignLine G va.toNat = false → copyOf s G r pa = none) :
    s.laneRead G r glob acq va (.phys pa) n = (s.drain pa n).seen pa n := by
  have hstreams := drain_streams s pa n
  unfold State.laneRead
  dsimp only
  rw [foreignLine_congr hstreams, frameLine_congr hstreams, drain_copies, hframe]
  by_cases hdirect : (!glob || s.foreignLine G va.toNat) = true
  · rw [if_pos hdirect]
  · rw [if_neg hdirect]
    simp only [Bool.not_eq_true, Bool.or_eq_false_iff, Bool.not_eq_false'] at hdirect
    have hnone := hcopy hdirect.1 hdirect.2
    rw [copyOf] at hnone
    rw [hnone]
    rfl

/-- A plain load of global memory reads the copy that it is shown. -/
theorem laneRead_copy {h : HCopy} (hforeign : s.foreignLine G va.toNat = false) (hcopy : copyOf s G r pa = some h)
    (hframe : h.frame = false) : s.laneRead G r true false va (.phys pa) n = h.seen (s.drain pa n) pa n := by
  unfold State.laneRead
  dsimp only
  rw [foreignLine_congr (drain_streams s pa n), drain_copies, hforeign, Bool.not_true, Bool.or_false, if_neg Bool.false_ne_true]
  rw [copyOf] at hcopy
  rw [hcopy]
  dsimp only
  rw [hframe, if_neg Bool.false_ne_true, if_neg Bool.false_ne_true]

end

/-- Zero bytes at the end add nothing to a number. -/
theorem leNat_append_zeros (k : Nat) : ∀ l : List Byte, leNat (l ++ List.replicate k 0#8) = leNat l
  | [] => by
    induction k with
    | zero => rfl
    | succ k ih =>
      have hzeros : leNat (List.replicate k 0#8) = 0 := ih
      simp [List.replicate_succ, leNat, hzeros]
  | b :: l => by rw [List.cons_append, leNat, leNat_append_zeros k l, leNat]

theorem leNat_word_append_zeros (l : List Byte) (k j : Nat) :
    leNat (((l ++ List.replicate k 0#8).drop j).take 4) = leNat ((l.drop j).take 4) := by
  rw [List.drop_append, List.take_append, List.drop_replicate, List.take_replicate, leNat_append_zeros]

theorem loadWords_append_zeros (n : Nat) (sext : Bool) (l : List Byte) (k : Nat) :
    loadWords n sext (l ++ List.replicate k 0#8) = loadWords n sext l := by
  simp only [loadWords, leNat_append_zeros, leWords_eq_map, leNat_word_append_zeros]

/-- A load gives the words of the bytes that it reads, with the marks that it meets. -/
theorem doLoad_eq {s t : State} {G : Machine.Group} {r : Reader} {glob acq : Bool} {a : Acc} {z : Nat × Bool} (hz : z ∈ loadSizes)
    {b : List Byte} (hb : b.length ≤ z.1) (f : Nat → Bool)
    (hread : s.laneRead G r glob acq a.va a.loc z.1 = { bytes := b, bad := (List.range ((z.1 + 3) / 4)).map f, s := t }) :
    s.doLoad G r glob acq a z.1 z.2 =
      { s := t, out := (loadWords z.1 z.2 b).zipIdx.map (fun v => (v.1, f v.2)) } := by
  have hpad : (b ++ List.replicate (z.1 - b.length) 0#8).length = z.1 := by
    rw [List.length_append, List.length_replicate]
    omega
  have hwords := loadWords_eq_map hz hpad
  simp only [loadWords_append_zeros, leNat_word_append_zeros] at hwords
  simp only [State.doLoad, hread, hwords, zipIdx_map_range _ _ f]
  congr 1
  refine List.map_congr_left fun j hj => ?_
  rw [List.getD_eq_getElem?_getD, List.getElem?_map, List.getElem?_range (List.mem_range.mp hj)]
  rfl

/-! ### Atomics and element stores (spec/05 R161 R162, spec/06 R184) -/

/-- A 4-byte atomic on a word without mark returns the old value and writes the function of it. -/
theorem doAtomic_word {s : State} {G : Machine.Group} {a : Acc} {f : Nat} (hf : f ≠ 22) (hclean : s.locPoison G a.loc 4 = false)
    (r : Reader) (q : Pend) :
    let old := BitVec.ofNat 32 (leNat (s.locRead G a.loc 4))
    (s.locRead G a.loc 4).length = 4 →
    s.doAtomic G r q a f =
      { s := (s.locTouch a.loc 4).laneWrite false G r a.loc (leBytes 4 (atomicFn f old (a.data.getD 0 0#32) (a.data.getD 1 0#32)).toNat)
        out := [(old, false)] } := by
  intro old hlen
  have hword : leWords 1 (s.locRead G a.loc 4) = [old] := by
    rw [leWords, List.take_of_length_le (Nat.le_of_eq hlen), leWords]
  simp only [State.doAtomic, if_neg hf, hclean, Bool.false_eq_true, if_false, hword, Nat.reduceDiv, List.getD_cons_zero,
    wordsBytes_singleton]

/-- An element store writes the enabled bits of its word. -/
theorem doElement_word (s : State) (G : Machine.Group) (r : Reader) (a : Acc) :
    let old := BitVec.ofNat 32 (leNat (s.locRead G a.loc 4))
    let en := a.data.getD 1 0#32
    s.doElement G r a =
      { s := if en = 0#32 then s
          else (s.locTouch a.loc 4).laneWrite true G r a.loc (leBytes 4 ((old &&& ~~~en) ||| (a.data.getD 0 0#32 &&& en)).toNat)
        out := [] } := by
  simp only [State.doElement, wordsBytes_singleton]
  split <;> rfl

/-! ### Operations at device memory (spec/06 R182 to R187) -/

section
variable {s : State} {G : Machine.Group} {r : Reader} {q : Pend} {a : Acc} {pa : Nat} (hl : a.loc = .phys pa)
include hl

theorem doAtomic_phys {f : Nat} {old : Word} (hf : f ≠ 22) (hclean : Machine.marked s.memP pa 4 = false)
    (hold : BitVec.ofNat 32 (leNat (cellBytes (s.drain pa 4).mem pa 4)) = old) : s.doAtomic G r q a f =
      { s := ((s.drain pa 4).claim false G r pa 4).poke32 pa (atomicFn f old (a.data.getD 0 0#32) (a.data.getD 1 0#32))
        out := [(old, false)] } := by
  subst hold
  have hword := doAtomic_word (G := G) (a := a) hf (by rw [hl]; exact hclean) r q (by rw [hl]; exact cellBytes_length ..)
  rw [hl] at hword
  exact hword

/-- A compare and swap of 8 bytes writes where it finds the value that it asks for. -/
theorem doAtomic_cas64_phys {old : List Word} (hclean : Machine.marked s.memP pa 8 = false)
    (hold : leWords 2 (cellBytes (s.drain pa 8).mem pa 8) = old) : s.doAtomic G r q a 22 =
      { s := if old = [a.data.getD 2 0#32, a.data.getD 3 0#32]
          then ((s.drain pa 8).claim false G r pa 8).pokeWords pa [a.data.getD 0 0#32, a.data.getD 1 0#32]
          else (s.drain pa 8).ownSeen G.core r pa 8
        out := old.map (fun x => (x, false)) } := by
  have hsame : (old.getD 0 0#32 == a.data.getD 2 0#32 && old.getD 1 0#32 == a.data.getD 3 0#32) =
      decide (old = [a.data.getD 2 0#32, a.data.getD 3 0#32]) := by
    subst hold
    simp only [leWords, List.getD_cons_zero, List.getD_cons_succ, List.cons.injEq, and_true, Bool.decide_and]
    rfl
  have hclean' : s.locPoison G (.phys pa) 8 = false := hclean
  have hold' : leWords 2 (s.locRead G (.phys pa) 8) = old := hold
  simp only [State.doAtomic, hl, if_true, hclean', Bool.false_eq_true, if_false, Nat.reduceDiv, hold', hsame, decide_eq_true_eq]
  rfl

theorem doElement_phys {old : Word} (hold : BitVec.ofNat 32 (leNat (cellBytes (s.drain pa 4).mem pa 4)) = old) :
    s.doElement G r a =
      { s := if a.data.getD 1 0#32 = 0#32 then s
          else ((s.drain pa 4).claim true G r pa 4).poke32 pa
            ((old &&& ~~~a.data.getD 1 0#32) ||| (a.data.getD 0 0#32 &&& a.data.getD 1 0#32))
        out := [] } := by
  subst hold
  have hword := doElement_word s G r a
  rw [hl] at hword
  exact hword

/-- `LDRQ` of a line of which it is shown memory: the data, or zeros with the state 3 where a word is marked (R185). -/
theorem doLdrq_phys {n : Nat} (hread : s.laneRead G r true false a.va (.phys pa) (4 * n) = (s.drain pa (4 * n)).seen pa (4 * n))
    {bad : Bool} (hbad : (List.range n).any (fun j => Machine.marked s.memP (pa + 4 * j) 4) = bad) {bytes : List Byte}
    (hbytes : cellBytes (s.drain pa (4 * n)).mem pa (4 * n) = bytes) : s.doLdrq G r q a n =
      { s := s.drain pa (4 * n)
        out := ((if bad then List.replicate n 0#32 else leWords n bytes) ++
          (if n = 1 then [if bad then 3#32 else 0#32] else [0#32, if bad then 3#32 else 0#32])).map (fun x => (x, false))
        faults := if bad then [q.laneFlt a { cause := cPoison, va := a.va, pst := 3, lvl := 0 }] else [] } := by
  have hmarks : (badWords (s.drain pa (4 * n)).memP pa (4 * n)).any id = bad := by
    have hcount : (4 * n + 3) / 4 = n := by omega
    rw [← hbad, drain_memP, badWords, hcount, List.any_map, Bool.eq_iff_iff, List.any_eq_true, List.any_eq_true]
    refine exists_congr fun j => and_congr_right fun hj => ?_
    have hmin : min (4 * n) 4 = 4 := Nat.min_eq_right (by have := List.mem_range.mp hj; omega)
    rw [Function.comp, id, hmin]
  simp only [State.doLdrq, hl, hread, State.seen, hmarks, hbytes]

/-- INDEX and CAP of a header in device memory. -/
theorem queueHead_phys : s.queueHead G a.loc =
    (leNat (cellBytes (s.drain pa 8).mem pa 4), leNat (cellBytes (s.drain pa 8).mem (pa + 4) 4)) := by
  have hlow : ∀ b : List Byte, b.length = 4 → (BitVec.ofNat 32 (leNat b)).toNat = leNat b := fun b hb => by
    have hlt := leNat_lt b
    rw [hb] at hlt
    rw [BitVec.toNat_ofNat, Nat.mod_eq_of_lt hlt]
  rw [State.queueHead, hl]
  exact Prod.ext (hlow (cellBytes (s.drain pa 8).mem pa 4) (cellBytes_length ..))
    (hlow (cellBytes (s.drain pa 8).mem (pa + 4) 4) (cellBytes_length ..))

section
variable {old cap : Nat} (hold : leNat (cellBytes (s.drain pa 8).mem pa 4) = old)
  (hcap : leNat (cellBytes (s.drain pa 8).mem (pa + 4) 4) = cap)
include hold hcap

/-- `CSTORE` writes its elements, then INDEX (R187). -/
theorem doCstore_phys (hfits : a.cstoreFaults old cap = []) :
    let k := a.values.length
    let t := (a.cells old cap).foldl (fun t x => t.laneWrite true G r (.phys (pa + x.1)) (leBytes 4 x.2.2.toNat)) (s.drain pa 8)
    s.doCstore G r a =
      { s := if k = 0 then t.ownSeen G.core r pa 8 else t.laneWrite true G r (.phys pa) (leBytes 4 ((old + k) % 2 ^ 32))
        out := [(BitVec.ofNat 32 old, false)] } := by
  intro k t
  have hhead : s.queueHead G (.phys pa) = (old, cap) := by rw [← hl, queueHead_phys hl, hold, hcap]
  simp only [State.doCstore, hl, hhead, hfits, wordsBytes_singleton, BitVec.toNat_ofNat]
  rfl

theorem doCstore_faulting (hfaults : a.cstoreFaults old cap ≠ []) :
    s.doCstore G r a = { s := s, out := [], faults := a.cstoreFaults old cap } := by
  have hhead : s.queueHead G (.phys pa) = (old, cap) := by rw [← hl, queueHead_phys hl, hold, hcap]
  simp only [State.doCstore, hl, hhead]

end

end

/-! ### Operations at a host window (spec/06 R176) -/

theorem hostRead_length (s : State) (peer a n : Nat) : (s.hostRead peer a n).length = n := by
  simp [State.hostRead]

section
variable {s : State} {G : Machine.Group} {r : Reader} {q : Pend} {a : Acc} {x y : Nat} (hl : a.loc = .host x y)
include hl

theorem doLoad_host {z : Nat × Bool} (hz : z ∈ loadSizes) (glob acq : Bool) : s.doLoad G r glob acq a z.1 z.2 =
    { s := s.hostFills x y z.1
      out := (loadWords z.1 z.2 (s.hostRead x y z.1)).zipIdx.map (fun v =>
        (v.1, (s.hostFills x (y + 4 * v.2) (min z.1 4)).hostMarked x (y + 4 * v.2) (min z.1 4))) } :=
  doLoad_eq hz (Nat.le_of_eq (hostRead_length ..))
    (fun j => (s.hostFills x (y + 4 * j) (min z.1 4)).hostMarked x (y + 4 * j) (min z.1 4)) (by rw [hl]; rfl)

theorem doAtomic_host {f : Nat} (hf : f ≠ 22) (hclean : (s.hostFills x y 4).hostMarked x y 4 = false) :
    let old := BitVec.ofNat 32 (leNat (s.hostRead x y 4))
    s.doAtomic G r q a f =
      { s := (s.hostFills x y 4).hostStore x y (leBytes 4 (atomicFn f old (a.data.getD 0 0#32) (a.data.getD 1 0#32)).toNat)
        out := [(old, false)] } := by
  have hword := doAtomic_word (G := G) (a := a) hf (by rw [hl]; exact hclean) r q (by rw [hl]; exact hostRead_length ..)
  rw [hl] at hword
  exact hword

theorem doElement_host :
    let old := BitVec.ofNat 32 (leNat (s.hostRead x y 4))
    let en := a.data.getD 1 0#32
    s.doElement G r a =
      { s := if en = 0#32 then s
          else (s.hostFills x y 4).hostStore x y (leBytes 4 ((old &&& ~~~en) ||| (a.data.getD 0 0#32 &&& en)).toNat)
        out := [] } := by
  have hword := doElement_word s G r a
  rw [hl] at hword
  exact hword

end

/-! ### Accesses as they are performed -/

section
variable {s : State} {g w p lane : Nat} {G : Machine.Group} {wv : Wave} {q : Pend} {a : Acc}

/-- A `CSTORE` of which no element meets a watchpoint, as `accessDone` of its effect. -/
theorem exec_storeComplete_cstore (h : Performable s g w p lane G wv q a) {merge : Bool} (hk : q.kind = .mem .cstore)
    (hwatch : s.cellsWatched G q a = none) {out : List (Word × Bool)} {t : State} {faults : List LaneFlt}
    (hr : accessEffect s g G q a merge = { s := t, out := out, faults := faults }) :
    exec (.storeComplete g w p lane merge) s = .next (accessDone g w p lane q a out t faults) := by
  rw [exec_storeComplete_of_performable h, Pend.op?, hk, Option.any_some, returnsData, Bool.not_false, if_pos rfl,
    accessPerformed, hwatch, hr]
  rfl

/-- An atomic that meets a mark returns nothing and writes nothing (spec/05 R146). -/
theorem exec_atomic_poisoned (h : Performable s g w p lane G wv q a) {f : Nat} (hk : q.kind = .mem (.atomic f))
    (hbad : (begun q G a s).locPoison G a.loc (if f = 22 then 8 else 4) = true) :
    exec (.loadDataReturn g w p lane) s = .next (accessDone g w p lane q a [] (begun q G a s) (poisonMet q a)) := by
  refine exec_loadDataReturn_done h hk rfl ?_
  rw [accessEffect, State.doAccess, hk]
  exact doAtomic_poisoned _ hbad

end

/-- Settles O14: each operation at an address of device memory or of a host window, after the acquire of its instruction. -/
theorem globalAccessPerformed : Obligations.GlobalAccessPerformed := by
  unfold Obligations.GlobalAccessPerformed
  refine ⟨?device, ?host⟩
  case device =>
    intro s g w p lane G wv q a pa h hl hframe s₁ rd copy
    have hmemP : s₁.memP = s.memP := begun_memP q G a s
    have hmem : ∀ n, (s₁.drain pa n).mem = (s.drain pa n).mem := begun_drain_mem q G a s pa
    have hunmarked : ∀ {n}, Machine.marked s.memP pa n = false → Machine.marked s₁.memP pa n = false := fun hp => by rw [hmemP, hp]
    have hmarked : ∀ {n}, Machine.marked s.memP pa n = true → s₁.locPoison G a.loc n = true := fun hp => by
      rw [hl, State.locPoison, hmemP, hp]
    have hword : BitVec.ofNat 32 (leNat (cellBytes (s₁.drain pa 4).mem pa 4)) =
        BitVec.ofNat 32 (leNat (cellBytes (s.drain pa 4).mem pa 4)) := by rw [hmem]
    have hframe₁ : s₁.frameLine G a.va.toNat = false := (frameLine_congr (begun_streams q G a s) ..).trans hframe
    have hforeign₁ : s₁.foreignLine G a.va.toNat = s.foreignLine G a.va.toNat := foreignLine_congr (begun_streams q G a s) ..
    refine ⟨?load, ?copied, ?store, ?atomic, ?fadd, ?cas, ?poisoned, ?ldrq, ?cstore, ?workdone, ?element, ?red⟩
    case load =>
      intro z hz hk hcopy
      refine exec_loadDataReturn_done h hk rfl ?_
      rw [accessEffect, State.doAccess, hk, ← hmem, ← hmemP]
      refine doLoad_eq hz (Nat.le_of_eq (cellBytes_length ..)) (fun j => Machine.marked s₁.memP (pa + 4 * j) (min z.1 4)) ?_
      rw [hl, laneRead_memory hframe₁ fun hglob hforeign => hcopy (eq_of_beq hglob) (hforeign₁ ▸ hforeign), State.seen, drain_memP]
      rfl
    case copied =>
      intro z hz c hk hglob hforeign hcopy hcframe hacq
      refine exec_loadDataReturn_done h hk rfl ?_
      rw [accessEffect, State.doAccess, hk, hacq, hglob]
      refine doLoad_eq hz (List.length_take_le ..) (fun j => Machine.marked c.marks (pa + 4 * j) (min z.1 4)) ?_
      rw [hl]
      exact laneRead_copy (hforeign₁.trans hforeign) hcopy hcframe
    case store =>
      intro n m hk hn t
      refine exec_storeComplete_done h hk rfl nofun ?_
      have hlen : ((wordsBytes a.data).take n).length = n := by
        rw [List.length_take, wordsBytes_length]
        omega
      rw [accessEffect, State.doAccess, hk, hl]
      simp only [State.laneWrite, State.locWrite, State.poke, hlen]
      rfl
    case atomic =>
      intro z hz hk hclean old
      refine exec_loadDataReturn_done h hk rfl ?_
      rw [accessEffect, State.doAccess, hk, ← atomicFn_of_mem hz]
      exact doAtomic_phys hl (atomicFns_ne_cas64 hz) (hunmarked hclean) hword
    case fadd =>
      intro hk hclean old
      refine exec_loadDataReturn_done h hk rfl ?_
      rw [accessEffect, State.doAccess, hk]
      exact doAtomic_phys hl (by decide) (hunmarked hclean) hword
    case cas =>
      intro hk hclean old t
      refine exec_loadDataReturn_done h hk rfl ?_
      rw [accessEffect, State.doAccess, hk]
      exact doAtomic_cas64_phys hl (hunmarked hclean) (by rw [hmem])
    case poisoned => exact fun f hk hbad => exec_atomic_poisoned h hk (hmarked hbad)
    case ldrq =>
      intro n hk hshown bad st data
      refine exec_loadDataReturn_done h hk rfl ?_
      rw [accessEffect, State.doAccess, hk]
      have hread := laneRead_memory (r := rd) (pa := pa) (n := 4 * n) (glob := true) (acq := false) hframe₁ fun _ hforeign =>
        hshown.resolve_left (by rw [← hforeign₁, hforeign]; exact Bool.false_ne_true)
      exact doLdrq_phys hl hread (by rw [hmemP]) (by rw [hmem])
    case cstore =>
      intro m hk hwatch old cap k t
      have hold : leNat (cellBytes (s₁.drain pa 8).mem pa 4) = old := by rw [hmem]
      have hcap : leNat (cellBytes (s₁.drain pa 8).mem (pa + 4) 4) = cap := by rw [hmem]
      have heffect : accessEffect s g G q a m = s₁.doCstore G rd a := by rw [accessEffect, State.doAccess, hk]
      exact ⟨fun hfits => exec_storeComplete_cstore h hk hwatch (heffect.trans (doCstore_phys hl hold hcap hfits)),
        fun hfaults => exec_storeComplete_cstore h hk hwatch (heffect.trans (doCstore_faulting hl hold hcap hfaults))⟩
    case workdone =>
      intro m hk old
      have heffect : accessEffect s g G q a m = { s₁.doAtomic G rd q a 12 with out := [] } := by
        rw [accessEffect, State.doAccess, hk]
      refine ⟨fun hclean => exec_storeComplete_done h hk rfl nofun ?_, fun hbad => exec_storeComplete_done h hk rfl nofun ?_⟩
      · rw [heffect, doAtomic_phys hl (by decide) (hunmarked hclean) hword]
        rfl
      · rw [heffect, doAtomic_poisoned (f := 12) rd (hmarked hbad)]
    case element =>
      intro m hk old en
      refine exec_storeComplete_done h hk rfl nofun ?_
      rw [accessEffect, State.doAccess, hk]
      exact doElement_phys hl hword
    case red =>
      intro m f hk
      refine exec_storeComplete_done h hk rfl nofun ?_
      rw [accessEffect, State.doAccess, hk]
      simp only [State.doRed, hl]
      rfl
  case host =>
    intro s g w p lane G wv q a x y h hl s₁ bytes held old
    refine ⟨?load, ?store, ?atomic, ?poisoned, ?element, ?red⟩
    case load =>
      intro z hz hk
      refine exec_loadDataReturn_done h hk rfl ?_
      rw [accessEffect, State.doAccess, hk]
      exact doLoad_host hl hz _ _
    case store =>
      intro n m hk
      refine exec_storeComplete_done h hk rfl nofun ?_
      rw [accessEffect, State.doAccess, hk, hl]
      rfl
    case atomic =>
      intro z hz hk hclean
      refine exec_loadDataReturn_done h hk rfl ?_
      rw [accessEffect, State.doAccess, hk]
      exact (doAtomic_host hl (atomicFns_ne_cas64 hz) hclean).trans (by rw [atomicFn_of_mem hz])
    case poisoned =>
      intro f hk hbad
      refine exec_atomic_poisoned h hk ?_
      rw [hl]
      exact hbad
    case element =>
      intro m hk en
      refine exec_storeComplete_done h hk rfl nofun ?_
      rw [accessEffect, State.doAccess, hk]
      exact doElement_host hl
    case red =>
      intro m f hk
      refine exec_storeComplete_done h hk rfl nofun ?_
      rw [accessEffect, State.doAccess, hk]
      simp only [State.doRed, hl]
      rfl

end Sys2Proof.Proofs

namespace Sys2Proof.Proofs

open Sys2Proof Sys2Proof.Machine Sys2Proof.Safety Sys2Proof.Claims Sys2Proof.Laws

/-! ### Barrier objects (spec/07 R204 to R213) -/

/-- Object `a` and word `w` allow a `BINIT`, as the model checks them (R206). -/
def initChecks (c : Ctx) (a : Nat) (w : Word) : Bool :=
  ((c.grp.bar a).st != .counting ||
    ((c.grp.bar a).arr == 0 && (c.grp.bar a).bytes == 0 && (c.grp.bar a).wait == 0#16 && (c.grp.bar a).obs == 0#16)) &&
  (w.extractLsb' 20 12 == 0#12 && w.extractLsb' 12 4 == 0#4 && decide (1 ≤ (w.extractLsb' 16 3).toNat) &&
    decide ((w.extractLsb' 16 3).toNat ≤ 4)) &&
  (if w.getLsbD 19 then !(c.grp.bars.zipIdx.any (fun p => p.1.lnk && p.2 != a)) else w.extractLsb' 0 12 != 0#12)

theorem initChecks_iff (c : Ctx) (a : Nat) (w : Word) : initChecks c a w = true ↔
    ((c.grp.bar a).st ≠ .counting ∨
      ((c.grp.bar a).arr = 0 ∧ (c.grp.bar a).bytes = 0 ∧ (c.grp.bar a).wait = 0#16 ∧ (c.grp.bar a).obs = 0#16)) ∧
    w.extractLsb' 20 12 = 0#12 ∧ w.extractLsb' 12 4 = 0#4 ∧
    1 ≤ (w.extractLsb' 16 3).toNat ∧ (w.extractLsb' 16 3).toNat ≤ 4 ∧
    (if w.getLsbD 19 then c.grp.bars.zipIdx.any (fun p => p.1.lnk && p.2 != a) = false else w.extractLsb' 0 12 ≠ 0#12) := by
  have hshape : (if w.getLsbD 19 then !(c.grp.bars.zipIdx.any (fun p => p.1.lnk && p.2 != a))
      else w.extractLsb' 0 12 != 0#12) = true ↔
      (if w.getLsbD 19 then c.grp.bars.zipIdx.any (fun p => p.1.lnk && p.2 != a) = false else w.extractLsb' 0 12 ≠ 0#12) := by
    split
    · exact Bool.not_eq_true' _ ▸ Iff.rfl
    · exact bne_iff_ne
  simp only [initChecks, Bool.and_eq_true, Bool.or_eq_true, hshape, bne_iff_ne, beq_iff_eq, decide_eq_true_eq, and_assoc]

/-- The object that `BINIT` starts with word `w`, `n` expected bytes and a phase. -/
def initBar (w : Word) (n : Nat) (phase : BitVec 16) (o : Barrier) : Barrier :=
  { o with
    expa := (w.extractLsb' 0 12).toNat, scope := (w.extractLsb' 16 3).toNat, lnk := w.getLsbD 19, baseb := n, expb := n, arr := 0
    bytes := 0, prel := 0, bnd := false, st := .counting, phase := phase }

/-- A passed phase is 1 to 32,767 ahead (R210). -/
theorem passed_iff (phase v : BitVec 16) : passed phase v = true ↔ 1 ≤ (phase - v).toNat ∧ (phase - v).toNat ≤ 32767 := by
  simp only [passed, Bool.and_eq_true, decide_eq_true_eq]

section
variable {s : State} {c : Ctx} {d a b : BitVec 7}

section Binit
variable (hd : d.toNat < 8) (hb : b.toNat % 2 = 0) (hrun : Runs s c 0#7 [rdS b 2]) (ha : a.toNat < c.lau.bars)
include hd hb hrun ha

theorem binit_plain :
    Plain { uni := true, bad := firstBroken [below 8 d, multipleOf 2 b], uses := [rdS b 2], illegal := noBarrier a s } s c :=
  plainRegs (bad := firstBroken_none (by simp [below, multipleOf, hd, hb])) (illegal := nobar hrun.1 ha)

/-- Where a tree stands behind a link, `BINIT` starts the object or clears its condition bit; a linked object takes the phase of
its tree, an unlinked one keeps its own. -/
theorem binit_checked {w : Word} (hw : c.wave.sget b.toNat = w) (htree : w.getLsbD 19 = true → (c.tree s).isSome) :
    execBinit d a b s = .next (after s c fun t =>
      if initChecks c a.toNat w then onWave c (fun wv => wv.cset d.toNat true) (onBar c a (fun o =>
        initBar w (c.wave.sget (b.toNat + 1)).toNat (if w.getLsbD 19 then ((c.tree s).map Tree.tph).getD o.phase else o.phase) o) t)
      else onWave c (fun wv => wv.cset d.toNat false) t) := by
  subst hw
  refine issue_after_started rfl hrun.1 hrun.2 (binit_plain hd hb hrun ha) ?_
  dsimp only
  split
  case h_1 hlnk hnone => exact absurd (htree hlnk) (Option.not_isSome_iff_eq_none.mpr hnone)
  case h_2 => exact (apply_ite (fun t => (t, Flow.next)) _ _ _).symm

theorem binit_unlinked {w : Word} (hw : c.wave.sget b.toNat = w) (hlnk : w.getLsbD 19 = false)
    (hok : initChecks c a.toNat w = true) :
    execBinit d a b s = .next (after s c fun t => onWave c (fun wv => wv.cset d.toNat true)
      (onBar c a (fun o => initBar w (c.wave.sget (b.toNat + 1)).toNat o.phase o) t)) := by
  rw [binit_checked hd hb hrun ha hw fun h => absurd (hlnk.symm.trans h) (by decide)]
  simp only [hok, if_true, hlnk, Bool.false_eq_true, if_false]

theorem binit_linked {w : Word} {t : Machine.Tree} (hw : c.wave.sget b.toNat = w) (hlnk : w.getLsbD 19 = true)
    (ht : c.tree s = some t) (hok : initChecks c a.toNat w = true) :
    execBinit d a b s = .next (after s c fun t' => onWave c (fun wv => wv.cset d.toNat true)
      (onBar c a (initBar w (c.wave.sget (b.toNat + 1)).toNat t.tph) t')) := by
  rw [binit_checked hd hb hrun ha hw fun _ => ht ▸ rfl]
  simp only [hok, if_true, hlnk, ht, Option.map_some, Option.getD_some]

theorem binit_refused {w : Word} (hw : c.wave.sget b.toNat = w) (htree : w.getLsbD 19 = false ∨ (c.tree s).isSome)
    (hno : initChecks c a.toNat w = false) :
    execBinit d a b s = .next (after s c (onWave c fun wv => wv.cset d.toNat false)) := by
  rw [binit_checked hd hb hrun ha hw fun h => htree.resolve_left (ne_of_eq_of_ne h (by decide))]
  simp only [hno, Bool.false_eq_true, if_false]

theorem binit_treeless (hlnk : (c.wave.sget b.toNat).getLsbD 19 = true) (hnone : c.tree s = none) :
    execBinit d a b s = .next (trapped s c id [c.splitRec cBarrier]) := by
  refine issue_trap rfl hrun.1 hrun.2 (binit_plain hd hb hrun ha) ?_
  have hnone' : c.tree (started s c) = none := hnone
  simp only [hlnk, hnone', raise, id]

end Binit

section Barr
variable (hb : b.toNat < 8) (hrun : Runs s c 0#7 [wrS d]) (hcount : Counts c a)
include hb hrun hcount

theorem barr_plain : Plain { uni := true, bad := firstBroken [below 8 b], uses := [wrS d], illegal := noBarrier a s } s c :=
  plainRegs (bad := firstBroken_none (by simp [below, hb])) (illegal := nobar hrun.1 hcount.1)

/-- A phase that has all its arrivals, or whose waiters have not all risen, takes no arrival. -/
theorem barr_refused (h : (c.grp.bar a.toNat).obs ≠ 0#16 ∨ (c.grp.bar a.toNat).arr = (c.grp.bar a.toNat).expa) :
    execBarr d a b s = .next (after s c (onWave c fun wv => wv.cset b.toNat false)) := by
  have ⟨_, hst, hlnk⟩ := hcount
  have hfull : ((c.grp.bar a.toNat).obs != 0#16 || (c.grp.bar a.toNat).arr == (c.grp.bar a.toNat).expa) = true := by
    simpa using h
  refine issue_after rfl hrun.1 hrun.2 (barr_plain hb hrun hcount) fun t => ?_
  simp only [hst, hlnk, bne_self_eq_false, Bool.or_self, Bool.false_eq_true, if_false, hfull, if_true]
  rfl

theorem barr_arrives (hobs : (c.grp.bar a.toNat).obs = 0#16) (harr : (c.grp.bar a.toNat).arr ≠ (c.grp.bar a.toNat).expa) :
    let o := c.grp.bar a.toNat
    let rel := releases c o
    execBarr d a b s = .next (after s c fun t => (onWave c (fun wv => wv.cset b.toNat true) (onWave c (fun wv =>
      wv.sset d.toNat (o.phase.setWidth 32) false) (t.modGroup c.cur.g (fun G =>
        let G := G.modBar a.toNat (fun o => { o with arr := o.arr + 1, prel := o.prel + (if rel.isEmpty then 0 else 1) })
        if rel.isEmpty then G else { G with barRel := G.barRel ++ [{ nb := a.toNat, wave := c.cur.w, pends := rel }] })))).barCheck
          c.cur.g a.toNat) := by
  have ⟨_, hst, hlnk⟩ := hcount
  have hroom : ((c.grp.bar a.toNat).obs != 0#16 || (c.grp.bar a.toNat).arr == (c.grp.bar a.toNat).expa) = false := by
    simp [hobs, harr]
  refine issue_after rfl hrun.1 hrun.2 (barr_plain hb hrun hcount) fun t => ?_
  simp only [hst, hlnk, bne_self_eq_false, Bool.or_self, Bool.false_eq_true, if_false, hroom]
  rfl

end Barr

section Bwait
variable (ha : a.toNat < c.lau.bars) (hrun : Runs s c 0#7 [rdS b]) (hst : (c.grp.bar a.toNat).st = .counting)
include ha hrun hst

theorem bwait_passes (h : passed (c.grp.bar a.toNat).phase ((c.wave.sget b.toNat).setWidth 16) = true) :
    execBwait a b s = .next (after s c fun t => t.acquiredBy c.grp.core c.reader) := by
  rw [BitVec.setWidth_eq_extractLsb' (by decide)] at h
  refine issue_after rfl hrun.1 hrun.2 (plainRegs (illegal := nobar hrun.1 ha)) fun t => ?_
  simp only [hst, bne_self_eq_false, Bool.false_eq_true, if_false, h, if_true]

theorem bwait_waits (h : passed (c.grp.bar a.toNat).phase ((c.wave.sget b.toNat).setWidth 16) = false) :
    execBwait a b s = .next (after s c fun t =>
      (onSplit c (fun e => { e with st := .barrier, bobj := a.toNat, bval := (c.wave.sget b.toNat).setWidth 16
                                    origin := some c.origin }) t).modGroup c.cur.g
        (fun G => G.modBar a.toNat (fun o => { o with wait := G.waiters a.toNat }))) := by
  rw [BitVec.setWidth_eq_extractLsb' (by decide)] at h ⊢
  refine issue_after rfl hrun.1 hrun.2 (plainRegs (illegal := nobar hrun.1 ha)) fun t => ?_
  simp only [hst, bne_self_eq_false, Bool.false_eq_true, if_false, h]
  rfl

end Bwait

theorem bexpb_adds (hrun : Runs s c 0#7 [rdS b]) (hcount : Counts c a) :
    execBexpb a b s = .next (after s c fun t =>
      (onBar c a (fun o => { o with expb := o.expb + (c.wave.sget b.toNat).toNat }) t).barCheck c.cur.g a.toNat) := by
  obtain ⟨ha, hst, hlnk⟩ := hcount
  refine issue_after rfl hrun.1 hrun.2 (plainRegs (illegal := nobar hrun.1 ha)) fun t => ?_
  simp only [hst, hlnk, bne_self_eq_false, Bool.or_self, Bool.false_eq_true, if_false]
  rfl

theorem bphase_reads (hd : d ≠ 0#7) (hrun : Runs s c 0#7 [wrS d]) (ha : a.toNat < c.lau.bars) :
    execBphase d a s = .next (after s c (onWave c fun wv => wv.sset d.toNat (c.grp.bar a.toNat).snapshot false)) := by
  have hpos : d.toNat ≠ 0 := fun h => hd (BitVec.eq_of_toNat_eq h)
  exact wave_issue rfl hrun.1 hrun.2
    (plainRegs (bad := firstBroken_none (by simp [positive, hpos])) (illegal := nobar hrun.1 ha))

theorem bbind_binds (hd : d.toNat < 8) (hb : b.toNat % 4 = 0) (hrun : Runs s c 0#7 [rdS b 4]) (ha : a.toNat < c.lau.bars) :
    let rl := c.wave.sget (b.toNat + 2)
    let w := c.wave.sget (b.toNat + 3)
    execBbind d a b s = .next (after s c
      (if (c.grp.bar a.toNat).bindable ∧ rl ≠ 0#32 ∧ w.extractLsb' 1 31 = 0#31 then fun t => onWave c (fun wv => wv.cset d.toNat true)
        (onBar c a (fun o => { o with bnd := true, rb := c.wave.spair b.toNat, rl := rl, rsp := w.getLsbD 0 }) t)
      else onWave c fun wv => wv.cset d.toNat false)) := by
  intro rl w
  have hchecks : ((c.grp.bar a.toNat).bindable && rl != 0#32 && w.extractLsb' 1 31 == 0#31) = true ↔
      (c.grp.bar a.toNat).bindable ∧ rl ≠ 0#32 ∧ w.extractLsb' 1 31 = 0#31 := by simp [and_assoc]
  refine issue_after rfl hrun.1 hrun.2
    (plainRegs (bad := firstBroken_none (by simp [below, multipleOf, hd, hb])) (illegal := nobar hrun.1 ha)) fun t => ?_
  simp only [← hchecks]
  split <;> rfl

theorem bdrop_drops (hd : d.toNat < 8) (hrun : Runs s c 0#7 []) (ha : a.toNat < c.lau.bars) :
    execBdrop d a s = .next (after s c
      (if (c.grp.bar a.toNat).bindable then fun t => onWave c (fun wv => wv.cset d.toNat true)
        (onBar c a (fun o => { o with bnd := false, rb := 0#64, rl := 0#32, rsp := false }) t)
      else onWave c fun wv => wv.cset d.toNat false)) := by
  refine issue_after rfl hrun.1 hrun.2
    (plainRegs (bad := firstBroken_none (by simp [below, hd])) (illegal := nobar hrun.1 ha)) fun t => ?_
  split <;> rfl

end

/-- The number of a field of a word. -/
theorem extractLsb'_eq_ofNat {x : Word} (i : Nat) {n v : Nat} (h : x.toNat / 2 ^ i % 2 ^ n = v % 2 ^ n) :
    x.extractLsb' i n = BitVec.ofNat n v :=
  BitVec.eq_of_toNat_eq (by rw [BitVec.extractLsb'_toNat, Nat.shiftRight_eq_div_pow, BitVec.toNat_ofNat, h])

theorem getLsbD_eq_of_toNat {x : Word} (i : Nat) {p : Bool} (h : x.toNat / 2 ^ i % 2 = p.toNat) : x.getLsbD i = p := by
  rw [BitVec.getLsbD, Nat.testBit_eq_decide_div_mod_eq, h]
  cases p <;> rfl

/-- The fields of a snapshot (R212). -/
theorem snapshot_fields (o : Barrier) : o.snapshot.extractLsb' 0 16 = o.phase ∧
    o.snapshot.extractLsb' 16 12 = BitVec.ofNat 12 o.arr ∧ o.snapshot.extractLsb' 28 2 = BitVec.ofNat 2 o.st.code ∧
    o.snapshot.getLsbD 30 = o.lnk ∧ o.snapshot.getLsbD 31 = o.bnd := by
  have hphase := o.phase.isLt
  have hcode : o.st.code < 3 := by cases o.st <;> decide
  have hlnk := o.lnk.toNat_lt
  have hbnd := o.bnd.toNat_lt
  have hword : o.snapshot.toNat =
      o.phase.toNat + 2 ^ 16 * (o.arr % 4096) + 2 ^ 28 * o.st.code + 2 ^ 30 * o.lnk.toNat + 2 ^ 31 * o.bnd.toNat := by
    rw [Barrier.snapshot, BitVec.toNat_ofNat, Nat.mod_eq_of_lt (by omega)]
  refine ⟨(extractLsb'_eq_ofNat 0 ?_).trans (by rw [BitVec.ofNat_toNat, BitVec.setWidth_eq]), extractLsb'_eq_ofNat 16 ?_,
    extractLsb'_eq_ofNat 28 ?_, getLsbD_eq_of_toNat 30 ?_, getLsbD_eq_of_toNat 31 ?_⟩
  all_goals rw [hword]; omega

/-- Settles O28: one lemma for each instruction and each of its outcomes. -/
theorem barrierResults : Obligations.BarrierResults := by
  unfold Obligations.BarrierResults
  refine ⟨?binit, ?barr, ?bwait, fun a b s c hrun hcount => (exec_bexpb a b s).trans (bexpb_adds hrun hcount),
    fun d a s c hd hrun ha => (exec_bphase d a s).trans (bphase_reads hd hrun ha), ?snapshot,
    fun d a b s c hd hb hrun ha => (exec_bbind d a b s).trans (bbind_binds hd hb hrun ha),
    fun d a s c hd hrun ha => (exec_bdrop d a s).trans (bdrop_drops hd hrun ha)⟩
  case binit =>
    intro d a b s c hd hb hrun ha w n o scope other ok init
    have hchecks : initChecks c a.toNat w = true ↔ ok := initChecks_iff c a.toNat w
    exact ⟨fun hlnk hok => (exec_binit d a b s).trans (binit_unlinked hd hb hrun ha rfl hlnk (hchecks.mpr hok)),
      fun t hlnk ht hok => (exec_binit d a b s).trans (binit_linked hd hb hrun ha rfl hlnk ht (hchecks.mpr hok)),
      fun htree hno => (exec_binit d a b s).trans
        (binit_refused hd hb hrun ha rfl htree (Bool.eq_false_iff.mpr (mt hchecks.mp hno))),
      fun hlnk hnone => (exec_binit d a b s).trans (binit_treeless hd hb hrun ha hlnk hnone)⟩
  case barr =>
    intro d a b s c hb hrun hcount
    exact ⟨fun h => (exec_barr d a b s).trans (barr_refused hb hrun hcount h),
      fun hobs harr => (exec_barr d a b s).trans (barr_arrives hb hrun hcount hobs harr)⟩
  case bwait =>
    intro a b s c ha hrun hst
    exact ⟨fun h => (exec_bwait a b s).trans (bwait_passes ha hrun hst ((passed_iff ..).mpr h)),
      fun h => (exec_bwait a b s).trans (bwait_waits ha hrun hst (Bool.eq_false_iff.mpr (mt (passed_iff ..).mp h)))⟩
  case snapshot =>
    intro o
    obtain ⟨hphase, harr, hst, hlnk, hbnd⟩ := snapshot_fields o
    exact ⟨hphase, harr, hst.trans (by cases o.st <;> rfl), hlnk, hbnd⟩

end Sys2Proof.Proofs

namespace Sys2Proof.Proofs

open Sys2Proof Sys2Proof.Machine Sys2Proof.Safety Sys2Proof.Claims Sys2Proof.Laws

/-! ### Fences (spec/07 R202) -/

theorem fence_holds {s : State} {c : Ctx} (hrun : Runs s c 0#7 []) :
    fence s = .next (after s c fun t =>
      (onSplit c (fun e => { e with fence := c.openAccesses }) t).acquiredBy c.grp.core c.reader) :=
  issue_after rfl hrun.1 hrun.2 plainRegs fun _ => rfl

/-! ### The phase tree (spec/07 R208 R215 to R218) -/

/-- A local address lies in CLM, in the scratch ways or in the column of its core, behind no host window (spec/05 R142). -/
theorem localLoc_ne_host (s : State) (g : Nat) (G : Machine.Group) (L : Launch) (x n p y : Nat) :
    s.localLoc g G L x n ≠ some (.host p y) := by
  unfold State.localLoc
  split_ifs
  case pos => exact nofun
  case pos => exact nofun
  case pos => cases s.colAlloc? L G.core <;> exact nofun
  case neg => exact nofun

theorem laccess_ne_host {s : State} {g : Nat} {G : Machine.Group} {L : Launch} {va : DWord} {n align : Nat} {l : Loc}
    (h : s.laccess g G L va n align = .loc l) (p y : Nat) : l ≠ .host p y := by
  rintro rfl
  have hloc : s.localLoc g G L va.toNat n = some (.host p y) := by
    unfold State.laccess at h
    split at h
    · cases h
    split at h
    · cases h
    split at h
    · cases h
    · split at h <;> cases h
    · cases h
      assumption
  exact localLoc_ne_host _ _ _ _ _ _ _ _ hloc

theorem laccess_started (s : State) (c : Ctx) (g : Nat) (G : Machine.Group) (L : Launch) (va : DWord) (n align : Nat) :
    (started s c).laccess g G L va n align = s.laccess g G L va n align := rfl

theorem locPoison_started {s : State} {c : Ctx} {l : Loc} (h : ∀ p x, l ≠ .host p x) (G : Machine.Group) (n : Nat) :
    (started s c).locPoison G l n = s.locPoison G l n := by
  cases l
  case host p x => exact absurd rfl (h p x)
  all_goals rfl

section
variable {s : State} {c : Ctx} {d a b : BitVec 7} {ti : Nat} {t : Machine.Tree}

theorem tree_started (hti : c.lau.tree = some ti) (ht : s.trees[ti]? = some t) : c.tree (started s c) = some t := by
  rw [Ctx.tree, hti]
  exact ht

theorem phinit_arms {l : Loc} (hd : d.toNat < 8) (ha : a.toNat % 2 = 0) (hrun : Runs s c 0#7 [rdS a 2])
    (hopen : c.openAccesses = []) (hold : headerEngineHold a s = false) (hti : c.lau.tree = some ti) (ht : s.trees[ti]? = some t)
    (hl : s.laccess c.cur.g c.grp c.lau (c.wave.spair a.toNat) 256 64 = .loc l) (hclean : s.locPoison c.grp l 256 = false) :
    let h := (started s c).locRead c.grp l 256
    let rld := (List.range 112).map (halfAt h)
    let ok := (t.quiet || !t.armed) && (h.drop 224).all (fun x => x == 0#8) && rld.any (fun n => n != 0) &&
      (rld.zipIdx.all (fun p => p.1 == 0 || s.corePresent p.2))
    execPhinit d a s = .next (after s c fun s' =>
      let s' := s'.locTouch l 256
      if ok then onWave c (fun wv => wv.cset d.toNat true) { s' with trees := s'.trees.modify ti (fun t =>
        { t with armed := true, rld := rld, cnt0 := rld, cnt1 := rld }) }
      else onWave c (fun wv => wv.cset d.toNat false) s') := by
  intro h rld ok
  have hfree : (unreleased s || headerEngineHold a s) = false := by rw [hold_free hrun.1 hopen, hold]; rfl
  refine issue_after_started rfl hrun.1 hrun.2
    (plainRegs (bad := firstBroken_none (by simp [below, multipleOf, hd, ha])) (hold := hfree)) ?_
  simp only [hti, tree_started hti ht, laccess_started, hl, locPoison_started (laccess_ne_host hl), hclean,
    Bool.false_eq_true, if_false]
  exact (apply_ite (fun t => (t, Flow.next)) _ _ _).symm

theorem pharr_takes {o : Barrier} (hrun : Runs s c 0#7 [rdS a, rdS b]) (hopen : c.openAccesses = [])
    (hti : c.lau.tree = some ti) (ht : s.trees[ti]? = some t) (ho : c.grp.bars.find? (fun o => o.lnk) = some o)
    (harmed : t.armed = true) :
    let dst := (c.wave.sget a.toNat).toNat
    let n := (c.wave.sget b.toNat).toNat % 65536
    dst < 112 → s.corePresent dst = true →
    let q := o.phase.getLsbD 0
    let old := (t.cnt q).getD dst 0
    execPharr a b s = .next (after s c fun s' => State.modCore { s' with
      trees := s'.trees.modify ti (fun t => t.setCnt q ((t.cnt q).set dst (old - n))) } dst
        (fun k => { k with dbg := { k.dbg with ovarr := satAdd k.dbg.ovarr (n - old) } })) := by
  intro dst n hdst hpresent q old
  have hn : ((c.wave.sget b.toNat).extractLsb' 0 16).toNat = n := by
    rw [BitVec.extractLsb'_toNat]
    rfl
  have hdest : (!t.armed || decide (112 ≤ dst) || !(started s c).corePresent dst) = false := by
    rw [harmed, show (started s c).corePresent dst = true from hpresent, decide_eq_false (Nat.not_le.mpr hdst)]
    rfl
  refine issue_after_started rfl hrun.1 hrun.2 (plainRegs (hold := hold_free hrun.1 hopen)) ?_
  simp only [hti, tree_started hti ht, ho, hn]
  exact if_neg (Bool.eq_false_iff.mp hdest)

end

/-! A phase reaches the groups of a launch one after another; what it changes lies in their objects and waves, and in the copies
that the hampers of their cores hold. -/

/-- The fields of the device that a delivered phase leaves as they were, of those that the tree is told by. -/
theorem deliverPhase_frame (s : State) (g : Nat) (ph : BitVec 16) :
    (s.deliverPhase g ph).trees = s.trees ∧ (s.deliverPhase g ph).mem = s.mem := by
  unfold State.deliverPhase
  dsimp only
  generalize hm : s.modGroup g _ = m
  have htrees : m.trees = s.trees := hm ▸ rfl
  have hmem : m.mem = s.mem := hm ▸ rfl
  cases m.groups[g]?
  case none => exact ⟨htrees, hmem⟩
  case some G => exact ⟨htrees, hmem⟩

theorem foldl_deliverPhase_frame (owned : Machine.Group → Bool) (ph : BitVec 16) :
    ∀ (l : List (Machine.Group × Nat)) (s : State),
    let t := l.foldl (fun s p => if owned p.1 then s.deliverPhase p.2 ph else s) s
    t.trees = s.trees ∧ t.mem = s.mem
  | [], _ => ⟨rfl, rfl⟩
  | p :: l, s => by
    obtain ⟨htrees, hmem⟩ := foldl_deliverPhase_frame owned ph l (if owned p.1 then s.deliverPhase p.2 ph else s)
    have hstep : (if owned p.1 then s.deliverPhase p.2 ph else s).trees = s.trees ∧
        (if owned p.1 then s.deliverPhase p.2 ph else s).mem = s.mem := by
      split
      · exact deliverPhase_frame s p.2 ph
      · exact ⟨rfl, rfl⟩
    exact ⟨htrees.trans hstep.1, hmem.trans hstep.2⟩

theorem execPhaseTreeComplete_counts {s : State} {ti : Nat} {t : Machine.Tree} (ht : s.trees[ti]? = some t)
    (hcomplete : t.complete = true) :
    ∃ s', execPhaseTreeComplete ti s = .next s' ∧
      s'.trees = s.trees.set ti { (t.setCnt (t.tph.getLsbD 0) t.rld) with tph := t.tph + 1#16 } ∧ s'.mem = s.mem := by
  simp only [execPhaseTreeComplete, ht, hcomplete, Bool.not_true, Bool.false_eq_true, if_false]
  exact ⟨_, rfl, foldl_deliverPhase_frame
    (fun G => some G.launch == t.owner && (G.state == .resident || G.state == .saved)) _ _ _⟩

/-- A release whose accesses are all performed. -/
theorem execBarrReleasePerformed_leaves {s : State} {g nb idx : Nat} {G : Machine.Group} {r : BarRel}
    (hG : s.groups[g]? = some G) (hr : G.barRel[idx]? = some r) (hstate : G.state = .resident ∨ G.state = .saved)
    (hdone : ∀ wv, G.waves[r.wave]? = some wv → ∀ id ∈ r.pends, ∀ p, wv.pend? id = some p → p.open = false) :
    execBarrReleasePerformed g nb idx s = .next ((s.modGroup g (fun G =>
      { (G.modBar r.nb (fun b => { b with prel := b.prel - 1 })) with barRel := G.barRel.eraseIdx idx })).barCheck g r.nb) := by
  have hbusy : (match G.waves[r.wave]? with
      | some wv => r.pends.any (fun id => ((wv.pend? id).map (fun p => p.open)).getD false)
      | none => false) = false := by
    cases hw : G.waves[r.wave]?
    case none => rfl
    case some wv =>
      refine List.any_eq_false.mpr fun id hid => ?_
      cases hp : wv.pend? id
      case none => exact Bool.false_ne_true
      case some p => exact Bool.eq_false_iff.mp (hdone wv hw id hid p hp)
  have hplace : (G.state != .resident && G.state != .saved) = false := by rcases hstate with h | h <;> simp [h]
  simp only [execBarrReleasePerformed, hG, hr]
  refine if_neg ?_
  rw [hplace, Bool.or_false]
  exact Bool.eq_false_iff.mp hbusy

/-- Settles O29: one lemma for each instruction and event; a complete tree's phase is delivered to its groups one after another,
which leaves the trees and memory. -/
theorem fenceAndTreeResults : Obligations.FenceAndTreeResults := by
  unfold Obligations.FenceAndTreeResults
  refine ⟨?fences, ?phinit, ?pharr, ?complete, ?release⟩
  case fences =>
    simp only [List.forall_mem_cons, List.not_mem_nil, IsEmpty.forall_iff, implies_true, and_true]
    exact ⟨fun s c hrun => (exec_fenceG s).trans (fence_holds hrun), fun s c hrun => (exec_fenceD s).trans (fence_holds hrun),
      fun s c hrun => (exec_fenceV s).trans (fence_holds hrun), fun s c hrun => (exec_fenceS s).trans (fence_holds hrun)⟩
  case phinit =>
    exact fun d a s c ti t l hd ha hrun hopen hold hti ht hl hclean =>
      (exec_phinit d a s).trans (phinit_arms hd ha hrun hopen hold hti ht hl hclean)
  case pharr =>
    exact fun a b s c ti t o hrun hopen hti ht ho harmed hdst hpresent =>
      (exec_pharr a b s).trans (pharr_takes hrun hopen hti ht ho harmed hdst hpresent)
  case complete =>
    exact fun ti s t ht hcomplete => exec_phaseTreeComplete ti s ▸ execPhaseTreeComplete_counts ht hcomplete
  case release =>
    exact fun g nb idx s G r hG hr hstate hdone =>
      (exec_barrReleasePerformed g nb idx s).trans (execBarrReleasePerformed_leaves hG hr hstate hdone)

end Sys2Proof.Proofs

namespace Sys2Proof.Proofs

open Sys2Proof Sys2Proof.Machine Sys2Proof.Safety Sys2Proof.Claims Sys2Proof.Laws

/-! ### When a command of the matrix queue starts (spec/09 R247, spec/15 R380) -/

section Start
variable {s : State} {core : Nat} {x : Cmd} {G : Machine.Group} {op : CmdOp} {go : Cmd → Machine.Group → Out'}
  (hx : s.mqStart core = some (x, G)) (hop : x.op = op)
include hx hop

theorem mqBegin_halted (hhalt : s.halted core selMatrix x.group = true) :
    s.mqBegin core op go = .next (s.finishCmd core selMatrix x 11 []) := by
  simp only [State.mqBegin, hx, hop, bne_self_eq_false, Bool.false_eq_true, if_false, hhalt, if_true]

theorem mqBegin_goes (hhalt : s.halted core selMatrix x.group = false) : s.mqBegin core op go = go x G := by
  simp only [State.mqBegin, hx, hop, bne_self_eq_false, Bool.false_eq_true, if_false, hhalt]

end Start

section Events
variable {s : State} {core : Nat} {x : Cmd} {G : Machine.Group}

/-! ### Loading and streaming (spec/09 R248 R252 R253) -/

/-- The rows that `MZERO` clears. -/
theorem zeroRows_eq (w : Word) : zeroRows w = (w.toNat % 512, (w.toNat / 512) % 1024) := by
  simp only [zeroRows, BitVec.extractLsb'_toNat, Nat.shiftRight_eq_div_pow, Nat.pow_zero, Nat.div_one, Nat.reducePow]

theorem execMzeroRun_zeroes (hx : s.mqStart core = some (x, G)) (hop : x.op = .mzero)
    (hgo : s.halted core selMatrix x.group = false) :
    let w := x.desc.getD 0 0#32
    execMzeroRun core s = .next (((List.range ((w.toNat / 512) % 1024)).foldl (fun t i =>
      t.modCore core (fun c => c.acmSet (AcmRow.zero (G.acmb + w.toNat % 512 + i)))) s).finishCmd core selMatrix x 0 []) := by
  rw [execMzeroRun, mqBegin_goes hx hop hgo, zeroRows_eq]

/-- A stream starts when an active plane fits its depth and its format. -/
theorem execMstreamStart_checks (hx : s.mqStart core = some (x, G)) (hop : x.op = .mstream)
    (hgo : s.halted core selMatrix x.group = false) :
    let d := StreamDesc.ofWords x.desc
    let p := (s.core core).active
    execMstreamStart core s = .next (
      if p.st = .empty then s.finishCmd core selMatrix x 14 []
      else if p.kblk ≠ d.kblk then s.finishCmd core selMatrix x 15 []
      else if pairAccepted ((s.launch G.launch).slot d.slot) (Slot.ofRecord p.fs) then s.startCmd core x
      else s.finishCmd core selMatrix x 13 []) := by
  intro d p
  rw [execMstreamStart, mqBegin_goes hx hop hgo]
  by_cases hst : p.st = .empty
  · simp [p, hst]
  by_cases hk : p.kblk = d.kblk
  · cases hfits : pairAccepted ((s.launch G.launch).slot d.slot) (Slot.ofRecord p.fs) <;> simp [p, d, hst, hk, hfits]
  · simp [p, d, hst, hk]

theorem execMloadwComplete_fills (hx : s.mqRunning core .mloadw = some (x, G)) (hstatus : x.status = 0) {p : Page} {l : Loc} :
    let d := LoadDesc.ofWords x.desc
    let fs := (s.launch G.launch).slotRecord d.slot
    let n := imageBytes (Slot.ofRecord fs) d.kblk
    s.reachLocal x.group G d.l n = .at_ p l → execMloadwComplete core s =
      .next (((s.locTouch l n).modCore core (fun c => { c with
        shadow := s.loadPlane G (Slot.ofRecord fs) fs d.kblk l })).finishCmd core selMatrix x 0 []) := by
  intro d fs n hl
  rw [execMloadwComplete, hx]
  refine (if_neg (by simp [hstatus])).trans ?_
  dsimp only
  rw [hl]
  rfl

theorem execMstreamComplete_adds (hx : s.mqRunning core .mstream = some (x, G)) (hstatus : x.status = 0)
    {p q : Page} {la ls : Loc} :
    let d := StreamDesc.ofWords x.desc
    let t := (s.launch G.launch).slot d.slot
    let na := (d.m - 1) * d.astr + d.rowBytes t
    let ns := (d.m - 1) * d.sstr + d.scaleBytes t
    s.reachLocal x.group G d.a na = .at_ p la →
    (if t.smode = 0 then s.reachLocal x.group G d.a na else s.reachLocal x.group G d.s ns) = .at_ q ls →
    execMstreamComplete core s = .next (((List.range d.m).foldl (fun s m => s.streamStep core G d t la ls m)
      ((s.locTouch la na).locTouch ls ns)).finishCmd core selMatrix x 0 []) := by
  intro d t na ns hla hls
  rw [execMstreamComplete, hx]
  refine (if_neg (by simp [hstatus])).trans ?_
  dsimp only
  rw [hls, hla]

/-! ### Draining (spec/07 R200, spec/09 R258) -/

/-- A drain that has ended, or whose next element may be written. -/
theorem execMdrainRun_goesOn (hx : s.mqRunning core .mdrain = some (x, G))
    (h : x.status ≠ 0 ∨ x.drainCount ≤ x.done ∨ (s.drainStep core x G).isSome = true) :
    execMdrainRun core s = .next (drained core x s) := by
  have hgo : (x.status != 0 || decide (x.drainCount ≤ x.done) || (s.drainStep core x G).isSome) = true := by
    simpa [or_assoc] using h
  simp only [execMdrainRun, hx]
  exact if_pos hgo

theorem execMdrainRun_starts (hx : s.mqStart core = some (x, G)) (hop : x.op = .mdrain)
    (hgo : s.halted core selMatrix x.group = false) (hnone : s.mqRunning core .mdrain = none)
    (hstep : (s.drainStep core x G).isSome = true) :
    execMdrainRun core s = .next (drained core x (s.startCmd core x)) := by
  simp only [execMdrainRun, hnone, mqBegin_goes hx hop hgo]
  exact if_neg (by rw [Option.isNone_eq_false_iff.mpr hstep]; decide)

section DrainRun
variable {n : Nat} (hx : (s.cmds core selMatrix).find? (fun y => y.ord == x.ord) = some x) (hG : s.groups[x.group]? = some G)
  (hstop : x.stop = none)
include hx hG hstop

theorem drainRun_ends (h : x.status ≠ 0 ∨ x.drainCount ≤ x.done) :
    s.drainRun core x.ord (n + 1) = s.finishCmd core selMatrix x 0 [] := by
  have hend : (x.status != 0 || decide (x.drainCount ≤ x.done)) = true := by simpa using h
  simp only [State.drainRun, hx, hG, hstop, Option.isSome_none, Bool.false_eq_true, if_false, hend, if_true]

theorem drainRun_steps {t : State} (hstatus : x.status = 0) (hdone : x.done < x.drainCount)
    (hstep : s.drainStep core x G = some t) :
    s.drainRun core x.ord (n + 1) = t.drainRun core x.ord n := by
  have hgo : (x.status != 0 || decide (x.drainCount ≤ x.done)) = false := by simp [hstatus, hdone]
  simp only [State.drainRun, hx, hG, hstop, Option.isSome_none, Bool.false_eq_true, if_false, hgo, hstep]

end DrainRun

/-! ### Chains (spec/10 R279 R283) -/

section Chain
variable {run : Bool} (hx : s.chainNext core = some (x, G, run))
include hx

/-- A refused fault service ends a chain command. -/
theorem execChainStep_refused (hstatus : x.status ≠ 0) : execChainStep core s =
    .next (s.finishCmd core selMatrix x 0 [BitVec.ofNat 32 x.done, BitVec.ofNat 32 x.rows]) := by
  simp only [execChainStep, hx, bne_iff_ne.mpr hstatus, if_true]

theorem execChainStep_halted (hstatus : x.status = 0) (hrun : run = false) (hhalt : s.halted core selMatrix x.group = true) :
    execChainStep core s = .next (s.finishCmd core selMatrix x 11 []) := by
  simp [execChainStep, hx, hstatus, hrun, hhalt]

section Goes
variable (hstatus : x.status = 0) (hgo : run = true ∨ s.halted core selMatrix x.group = false)
include hstatus hgo

/-- One without an output to land begins a step. -/
theorem execChainStep_begins (hahead : x.ahead = []) : execChainStep core s = happens s
    (if x.op == .ttstep then (s.startCmd core x).ttstepStep core x G else (s.startCmd core x).ttrunStep core x G) := by
  have hhalt : (!run && s.halted core selMatrix x.group) = false := by rcases hgo with h | h <;> simp [h]
  simp only [execChainStep, hx, hstatus, bne_self_eq_false, Bool.false_eq_true, if_false, hhalt, hahead]

theorem execChainStep_lands {y : Nat × Bool} {rest : List (Nat × Bool)} (hahead : x.ahead = y :: rest) :
    execChainStep core s = happens s ((s.startCmd core x).chainLand core x G y
      (if x.op == .ttstep then State.ttstepDone core x else State.ttrunDone core x)) := by
  have hhalt : (!run && s.halted core selMatrix x.group) = false := by rcases hgo with h | h <;> simp [h]
  simp only [execChainStep, hx, hstatus, bne_self_eq_false, Bool.false_eq_true, if_false, hhalt, hahead]

end Goes

end Chain

theorem ttstepStep_begins {out : List (Nat × Bool)} {t : State} :
    let e := Step.ofWords x.desc (x.desc.getD 7 0#32).toNat 0#32 (x.desc.drop 8)
    s.chainDo x.group G e = .done out t → out ≠ [] → s.ttstepStep core x G = some (t.chainBegin core x e out) := by
  intro e hdo hout
  obtain ⟨y, rest, rfl⟩ := List.exists_cons_of_ne_nil hout
  rw [State.ttstepStep, hdo]

theorem ttrunStep_begins {out : List (Nat × Bool)} {t : State} {l : Loc}
    (hl : s.localLoc x.group G (s.launch G.launch) ((x.desc.getD 0 0#32).toNat + 32 * x.done) 32 = some l) :
    let ws := leWords 8 (s.locRead G l 32)
    let e := Step.ofWords ws x.rows (ws.getD 7 0#32) (x.desc.drop 4)
    e.check (s.launch G.launch) (fun a n => n == 0 || (s.localLoc x.group G (s.launch G.launch) a n).isSome) = none →
    s.chainDo x.group G e = .done out t → out ≠ [] → s.ttrunStep core x G = some (t.chainBegin core x e out) := by
  intro ws e hcheck hdo hout
  obtain ⟨y, rest, rfl⟩ := List.exists_cons_of_ne_nil hout
  rw [State.ttrunStep]
  dsimp only
  rw [hl]
  dsimp only
  rw [hcheck, hdo]

/-- The state when an output of a chain step has landed at `l`, and the command has moved on to the next. -/
def outputLanded (core : Nat) (x : Cmd) (G : Machine.Group) (y : Nat × Bool) (l : Loc) (s : State) : State :=
  ((s.store G l (leBytes 4 y.1) y.2).cleanBehind G l 32 (runAfter y.2 false x.run 32)).modCmd core selMatrix x.ord (fun z =>
    { z with ahead := z.ahead.drop 1, dest := z.dest + 4, run := runAfter y.2 false x.run 32 })

theorem chainLand_lands {y : Nat × Bool} {rest : List (Nat × Bool)} {p : Page} {l : Loc} {done : State → State}
    (hahead : x.ahead = y :: rest) (hl : s.reachLocal x.group G x.dest 4 = .at_ p l) :
    s.chainLand core x G y done = some (if rest ≠ [] then outputLanded core x G y l s
      else done ((outputLanded core x G y l s).setShadow core Plane.empty)) := by
  rw [State.chainLand, hl]
  cases rest <;> simp [hahead, outputLanded]

/-- With its last output a step is done: a `TTSTEP` ends, a `TTRUN` goes on with its next step or ends after the last. -/
theorem chainDone_eq (core : Nat) (x : Cmd) (s : State) :
    (if x.op == .ttstep then State.ttstepDone core x else State.ttrunDone core x) s =
      if x.op = .ttstep then s.finishCmd core selMatrix x 0 []
      else if (x.desc.getD 1 0#32).toNat % 65536 ≤ x.done + 1 then
        s.finishCmd core selMatrix { x with done := x.done + 1 } 0 [BitVec.ofNat 32 (x.done + 1), BitVec.ofNat 32 x.rows]
      else s.modCmd core selMatrix x.ord (fun z => { z with done := x.done + 1, run := 0 }) := by
  have hcnt : ((x.desc.getD 1 0#32).extractLsb' 0 16).toNat = (x.desc.getD 1 0#32).toNat % 65536 := BitVec.extractLsb'_toNat ..
  by_cases hop : x.op = .ttstep
  · simp only [hop, beq_self_eq_true, if_true, State.ttstepDone]
  · simp only [hop, beq_iff_eq, if_false, State.ttrunDone, hcnt]

end Events

/-- Settles O35: each event finds its command and is one branch of its function; a chain command begins a
step or lands an output. -/
theorem matrixEvents : Obligations.MatrixEvents := by
  unfold Obligations.MatrixEvents
  refine ⟨?start, ?load, ?stream, ?drain, ?drainRun, ?chain⟩
  case start =>
    intro core s x G hx
    refine ⟨fun hhalt => ⟨?_, ?_, ?_, ?_⟩, fun hgo => ⟨?mloadw, ?mswap, ?mstream, ?mzero⟩, ?mdrain⟩
    · exact fun hop => (exec_mloadwStart core s).trans (mqBegin_halted hx hop hhalt)
    · exact fun hop => (exec_mswapPerform core s).trans (mqBegin_halted hx hop hhalt)
    · exact fun hop => (exec_mstreamStart core s).trans (mqBegin_halted hx hop hhalt)
    · exact fun hop => (exec_mzeroRun core s).trans (mqBegin_halted hx hop hhalt)
    case mloadw => exact fun hop => (exec_mloadwStart core s).trans (mqBegin_goes hx hop hgo)
    case mswap => exact fun hop => (exec_mswapPerform core s).trans (mqBegin_goes hx hop hgo)
    case mstream =>
      intro hop d p end_ fits
      have hexec := (exec_mstreamStart core s).trans (execMstreamStart_checks hx hop hgo)
      refine ⟨fun hst => ?_, fun hst hk => ?_, fun hst hk hfits => ?_, fun hst hk hfits => ?_⟩
      · exact hexec.trans (by rw [if_pos hst])
      · exact hexec.trans (by rw [if_neg hst, if_pos hk])
      · exact hexec.trans (by rw [if_neg hst, if_neg (not_not.mpr hk), if_neg (Bool.eq_false_iff.mp hfits)])
      · exact hexec.trans (by rw [if_neg hst, if_neg (not_not.mpr hk), if_pos hfits]; rfl)
    case mzero => exact fun hop => (exec_mzeroRun core s).trans (execMzeroRun_zeroes hx hop hgo)
    case mdrain =>
      exact fun hgo hnone hop hstep => (exec_mdrainRun core s).trans (execMdrainRun_starts hx hop hgo hnone hstep)
  case load =>
    exact fun core s x G hx hstatus p l hl => (exec_mloadwComplete core s).trans (execMloadwComplete_fills hx hstatus hl)
  case stream =>
    exact fun core s x G hx hstatus p q la ls hla hls =>
      (exec_mstreamComplete core s).trans (execMstreamComplete_adds hx hstatus hla hls)
  case drain => exact fun core s x G hx h => (exec_mdrainRun core s).trans (execMdrainRun_goesOn hx h)
  case drainRun =>
    exact fun core s t x G n hx hG hstop =>
      ⟨drainRun_ends hx hG hstop, fun hstatus hdone hstep => drainRun_steps hx hG hstop hstatus hdone hstep⟩
  case chain =>
    intro core s x G run hx
    rw [exec_chainStep]
    refine ⟨execChainStep_refused hx, execChainStep_halted hx, fun hstatus hgo => ?_⟩
    refine ⟨fun hop hahead out t hdo hout => ?ttstep, fun hop hahead l out t hl hcheck hdo hout => ?ttrun,
      fun y rest p l hahead hl => ?land⟩
    case ttstep =>
      rw [execChainStep_begins hx hstatus hgo hahead, hop]
      exact congrArg (happens s) (ttstepStep_begins hdo hout)
    case ttrun =>
      rw [execChainStep_begins hx hstatus hgo hahead, hop]
      exact congrArg (happens s) (ttrunStep_begins hl hcheck hdo hout)
    case land =>
      rw [execChainStep_lands hx hstatus hgo hahead, chainLand_lands (s := s.startCmd core x) hahead hl, chainDone_eq]
      rfl

end Sys2Proof.Proofs

namespace Sys2Proof.Proofs

open Sys2Proof Sys2Proof.Machine Sys2Proof.Safety Sys2Proof.Claims Sys2Proof.Laws

/-! ### Textures (spec/12 R326 to R330) -/

/-- A class L instruction whose body has the effect `e` on the state in which it runs. -/
theorem issue_afterLong_started {op : Op} {s : State} {c : Ctx} {body : Ctx → State → State × Flow} {e : State → State}
    (hl : op.long = true) (hc : s.ctx? = some c) (hk : clear c op.litB op.uses = true) (hp : Plain op s c)
    (hb : body c (started s c) = (e (started s c), .next)) : issue op s body = .next (afterLong s c op.uni e op.instant) := by
  rw [issue_clear _ hc hk hp, hb]
  simp only [afterLong, State.finish, hl]

/-- The lanes of a texture instruction come out in their order. -/
theorem texLanes_lanes (c : Ctx) (plan : TexDesc → Nat → (Nat → Nat) → Plan) (query : Bool) (b : BitVec 7) :
    ∀ (lanes : List Nat) (s : State), (texLanes c plan query b s lanes).1.map Prod.fst = lanes
  | [], _ => rfl
  | i :: t, _ => congrArg (i :: ·) (texLanes_lanes c plan query b t _)

/-- A lane that is served has no record. -/
theorem rec?_of_served (c : Ctx) (lane : Nat) {x : TexLane} (h : x.served = true) : x.rec? c lane = none := by
  cases x
  case handle | fault => cases h
  case fetch | query => rfl

section Issue
variable {s : State} {c : Ctx} {d a b : BitVec 7} {k m : Nat} {plan : Ctx → TexDesc → Nat → (Nat → Nat) → Plan}

theorem texIssue_served (fn : Nat) (hrun : Runs s c b [rdV a k, rdB false b, wrV d m]) (hctr : c.wave.counters.getD 7 0 < 63)
    (hfence : fenced c = false) (hhold : texHold b s = false) (hlanes : c.lanes ≠ []) :
    let r := texLanes c (plan c) (fn == 2) b (started s c) c.lanes
    (∀ x ∈ r.1, x.2.served = true) →
    texIssue fn k m plan d a b s = .next (afterLong s c false fun _ =>
      (r.2.feedbacks c.grp c.lau (r.1.flatMap (fun x => x.2.pages))).addPend c 7 false (regsFrom d m)
        (Mask.ofLanes c.lanes) (Mask.ofLanes c.lanes) (.texture fn) false false (r.1.flatMap (fun x => x.2.accs))
        (r.1.flatMap (fun x => x.2.words d.toNat x.1))) := by
  intro r hserved
  have hrecs : r.1.filterMap (fun x => x.2.rec? c x.1) = [] :=
    List.filterMap_eq_nil_iff.mpr fun x hx => rec?_of_served c x.1 (hserved x hx)
  have hgood : (r.1.filter (fun x => x.2.served)).map Prod.fst = c.lanes := by
    rw [List.filter_eq_self.mpr hserved, texLanes_lanes]
  refine issue_afterLong_started rfl hrun.1 hrun.2 (plainU rfl (fun _ => hctr) rfl (.inr hfence) hhold rfl) ?_
  dsimp only
  rw [hrecs, hgood, List.isEmpty_eq_false_iff.mpr hlanes]
  rfl

end Issue

/-- The texture functions of the table, as the model runs them. -/
theorem exec_texFns : ∀ p ∈ texFns, ∀ d a b s,
    exec (p.1 d a b) s = texIssue p.2.1 p.2.2.1 p.2.2.2.1 (p.2.2.2.2 a) d a b s := by
  simp only [texFns, List.forall_mem_cons, List.not_mem_nil, IsEmpty.forall_iff, implies_true, and_true]
  and_intros <;> exact fun _ _ _ _ => rfl

/-- The texels of a lane arrive. -/
theorem execTextureFetchComplete_colours {s : State} {g w p lane fn : Nat} {G : Machine.Group} {wv : Wave} {q : Pend}
    (hG : s.groups[g]? = some G) (hw : G.waves[w]? = some wv) (hq : wv.pend? p = some q) (hkind : q.kind = .texture fn)
    (hlane : q.lanes.getLsbD lane = true) (hheld : (s.core G.core).held = false) :
    let mine := q.accs.filter (fun a => a.lane == lane)
    (∀ a ∈ mine, a.live = true → s.mayPerform g w G wv q a = true) →
    let t := s.texels G (G.reader w (Mask.bit lane)) mine
    let raw := ((mine.head?).map (fun a => a.data.getD 4 0#32 != 0#32)).getD true
    let f8 := ((mine.head?).map (fun a => (a.data.getD 5 0#32).toNat)).getD 0
    let colour := if fn = 2 then [] else (blend raw f8 t.1.1).zipIdx.map (fun x =>
      { lane := lane, reg := q.regs.headD 0 + x.2, val := BitVec.ofNat 32 x.1, poison := t.1.2 : Wr })
    let s' := if q.accs.any (fun a => a.lane != lane && a.live) then t.2 else t.2.fencePassed g w p
    execTextureFetchComplete g w p lane s = .next (s'.modWave g w (fun wv =>
      ((wv.writeAll false (colour ++ q.wrs.filter (fun x => x.lane == lane))).modPend p (fun q => { q with
        accs := q.accs.filter (fun a => a.lane != lane) })).shedLanes p (Mask.bit lane))) := by
  intro mine hmay t raw f8 colour s'
  have hready : ((s.core G.core).held || !q.lanes.getLsbD lane ||
      mine.any (fun a => a.live && !s.mayPerform g w G wv q a)) = false := by
    rw [hheld, hlane]
    refine List.any_eq_false.mpr fun a ha => ?_
    simpa using hmay a ha
  rw [execTextureFetchComplete, wave?_of_get hG hw, hG]
  dsimp only [Option.bind_some]
  rw [hq]
  dsimp only
  rw [hkind]
  exact if_neg (Bool.eq_false_iff.mp hready)

/-- Settles O17: no lane that is served leaves a record, so that all of them are pending; a lane that may be performed is read in
turn and blended. -/
theorem textureResults : Obligations.TextureResults := by
  unfold Obligations.TextureResults
  constructor
  case left =>
    intro p hp d a b s c hrun hctr hfence hhold r hlanes hserved
    rw [exec_texFns p hp]
    exact texIssue_served p.2.1 hrun hctr hfence hhold hlanes hserved
  case right =>
    exact fun s g w p lane G wv q fn hG hw hq hkind hlane hheld hmay =>
      (exec_textureFetchComplete g w p lane s).trans
        (execTextureFetchComplete_colours hG hw hq hkind hlane hheld hmay)

end Sys2Proof.Proofs

namespace Sys2Proof.Proofs

open Sys2Proof Sys2Proof.Machine Sys2Proof.Safety Sys2Proof.Claims Sys2Proof.Laws

/-! ### Copy commands at issue (spec/08 R219 to R222 R233)

What may hold back a command is the same for every engine queue, so that `plainHamper` serves here too. -/

/-- An instruction runs with the cores as they were when it was met. -/
theorem core_started (s : State) (c : Ctx) (core : Nat) : (started s c).core core = s.core core := rfl

section Issue
variable {s : State} {c : Ctx} {d a q m k : BitVec 7}

theorem execCpy_enters {ivs : List Iv} (h8 : a.toNat % 8 = 0) (h0 : a.toNat ≠ 0) (hq : q.toNat < 4)
    (hrun : Runs s c 0#7 [rdS a 8, wrS d]) (he : EngineReady c) (hqueue : s.queueFull c.grp.core q.toNat = false)
    (hscore : s.scoreFull c.grp.core = false) (hscratch : scratchBusy s (copyIvs a s) = false) :
    let ws := c.wave.sblock a.toNat 8
    (CopyDesc.ofWords ws).check c (started s c) = .inr ivs →
    execCpy d a q s = .next (afterLong s c true fun t =>
      (t.pushCmd c q.toNat .copy ws ivs none 0 (srInit c.wave.sr.seed (64 + q.toNat))).setUni c d
        (BitVec.ofNat 32 ((s.core c.grp.core).seqs.getD q.toNat 0 % 2 ^ 16 + 2 ^ 16 * q.toNat))) := by
  intro ws hcheck
  have hfields : firstBroken [blockOf 8 a, below 4 q] = none := firstBroken_none (by simp [blockOf, below, h8, h0, hq])
  have hhold : (s.queueFull s.curCore q.toNat || s.scoreFull s.curCore || scratchBusy s (copyIvs a s)) = false := by
    rw [curCore_eq hrun.1, hqueue, hscore, hscratch]
    rfl
  dsimp only [execCpy]
  refine issue_afterLong_started rfl hrun.1 hrun.2 (plainHamper he hfields rfl rfl hhold) ?_
  simp only [ws, hcheck, core_started]

theorem execQfence_enters (hq : q.toNat < 4) (hm : m.toNat < 16) (hrun : Runs s c 0#7 []) (he : EngineReady c)
    (hqueue : s.queueFull c.grp.core q.toNat = false) :
    execQfence q m s = .next (afterLong s c true fun t =>
      t.pushCmd c q.toNat (.qfence (if m.toNat = 2 ^ q.toNat then [] else (List.range 4).flatMap (fun i =>
        if m.getLsbD i then (t.entriesOf c.grp.core i).map Cmd.name else []))) [] [] none 0 0#32) := by
  have hfields : firstBroken [below 4 q, below 16 m] = none := firstBroken_none (by simp [below, hq, hm])
  have hhold : s.queueFull s.curCore q.toNat = false := by rw [curCore_eq hrun.1, hqueue]
  exact issue_afterLong rfl hrun.1 hrun.2 (plainHamper he hfields rfl rfl hhold) fun _ => rfl

theorem execQstat_reads (hq : q.toNat < 6) (hk : k.toNat < 2) (hd : d ≠ 0#7) (hrun : Runs s c 0#7 [wrS d]) :
    execQstat d q k s = .next (afterLong s c true (fun t =>
      (if k = 1#7 then t.modCore c.grp.core (fun n => { n with
          qstat := n.qstat.filter (fun x => !(x.group == c.cur.g && x.sel == q.toNat)) }) else t).setUni c d
        ((s.core c.grp.core).qstatWord c.cur.g q.toNat)) [d.toNat]) := by
  have hpos : d.toNat ≠ 0 := fun h => hd (BitVec.eq_of_toNat_eq h)
  have hfields : firstBroken [below 6 q, below 2 k, positive d] = none :=
    firstBroken_none (by simp [below, positive, hq, hk, hpos])
  refine issue_afterLong_started rfl hrun.1 hrun.2 (plainRegs (bad := hfields)) ?_
  simp only [core_started]

end Issue

/-- Settles O20: each command meets its field rules and nothing holds it back, so that its body runs. -/
theorem copyCommandIssue : Obligations.CopyCommandIssue := by
  unfold Obligations.CopyCommandIssue
  refine ⟨?cpy, ?qfence, ?qstat⟩
  case cpy =>
    exact fun d a q s c ivs h8 h0 hq hrun he hqueue hscore hscratch hcheck =>
      (exec_cpy d a q s).trans (execCpy_enters h8 h0 hq hrun he hqueue hscore hscratch hcheck)
  case qfence =>
    exact fun q m s c hq hm hrun he hqueue => (exec_qfence q m s).trans (execQfence_enters hq hm hrun he hqueue)
  case qstat => exact fun d q k s c hq hk hd hrun => (exec_qstat d q k s).trans (execQstat_reads hq hk hd hrun)

/-! ### The copy engine (spec/08 R222 R226 R231 to R234) -/

section Events
variable {s : State} {core q : Nat} {x : Cmd}

/-- Where the head command may move and has elements left, the next step is that of its descriptor. -/
theorem copyStep_moves {G : Machine.Group} (hx : s.copyHead core q = some (x, G)) :
    let d := CopyDesc.ofWords x.desc
    x.done < d.count →
      s.copyStep core q = if d.compressed then s.copyBlock core q x G d else s.copyElement core q x G d := by
  intro d hdone
  simp only [State.copyStep, hx]
  exact if_neg (Nat.not_le.mpr hdone)

/-- One element, then up to as many more as the event still counts. -/
theorem execCopyCommandRun_moves {n : Nat} {t : State} (hq : q < 4) (hstep : s.copyStep core q = some t) :
    execCopyCommandRun core q (n + 1) s = .next (t.copySteps core q n) := by
  rw [execCopyCommandRun, if_neg (by omega), hstep]
  rfl

/-- A mode that neither converts nor splits off a residue leaves the element and the generator as they are. -/
theorem element_unchanged (d : CopyDesc) (L : Launch) (gen : Word) (v : Nat) (h1 : d.mode ≠ 1) (h2 : d.mode ≠ 2) :
    d.element L gen v = (v, 0, gen) := by
  unfold CopyDesc.element
  split
  · exact absurd ‹_› h1
  · exact absurd ‹_› h2
  · rfl

section Head
variable (hx : s.cmdHead core q = some x)
include hx

theorem execCopyFaultResume_resumes (hop : x.op = .copy) (hstop : x.stop.isSome = true) (hanswer : s.unanswered x = false) :
    execCopyFaultResume core q s = .next (s.modCmd core q x.ord (fun y => { y with stop := none })) := by
  simp [execCopyFaultResume, hx, hop, hstop, hanswer]

/-- A copy command that is not stopped is discarded under HALT before it has started, and else ends when its box is moved or an
error is noted. -/
theorem execCopyCommandComplete_eq (hop : x.op = .copy) (hstop : x.stop = none) :
    execCopyCommandComplete core q s =
      if x.started = false ∧ s.halted core q x.group = true ∧ x.status = 0 then .next (s.finishCmd core q x 11 [])
      else if x.status ≠ 0 ∨ (CopyDesc.ofWords x.desc).count ≤ x.done then .next (s.finishCmd core q x 0 [])
      else idle s := by
  simp [execCopyCommandComplete, hx, hop, hstop, and_assoc]

/-- A fence is discarded under HALT, and else ends when nothing that it waits for is left. -/
theorem execQfenceComplete_eq {waits : List (Nat × Nat × Nat)} (hop : x.op = .qfence waits) :
    execQfenceComplete core q s =
      if s.halted core q x.group then .next (s.finishCmd core q x 11 [])
      else if waits.any s.fenceWaits then idle s
      else .next (s.finishCmd core q x 0 []) := by
  simp only [execQfenceComplete, hx, hop]

end Head

end Events

/-- Settles O33: each event finds its command at the head of the queue and is one branch of its function. -/
theorem copyEvents : Obligations.CopyEvents := by
  unfold Obligations.CopyEvents
  refine ⟨?run, element_unchanged, ?resume, ?complete, ?fence⟩
  case run =>
    intro core q n s x G t hq hx d hdone hmove
    exact (exec_copyCommandRun ..).trans (execCopyCommandRun_moves hq ((copyStep_moves hx hdone).trans hmove))
  case resume =>
    exact fun core q s x hx hop hstop hanswer =>
      (exec_copyFaultResume core q s).trans (execCopyFaultResume_resumes hx hop hstop hanswer)
  case complete =>
    intro core q s x hx hop hstop
    rw [exec_copyCommandComplete, execCopyCommandComplete_eq hx hop hstop]
    refine ⟨fun hhalt hstart hstatus => if_pos ⟨hstart, hhalt, hstatus⟩, fun hends hgoes => ?_⟩
    have hkept : ¬ (x.started = false ∧ s.halted core q x.group = true ∧ x.status = 0) := by
      rintro ⟨hstart, hhalt, hstatus⟩
      rcases hgoes with h | h | h
      · exact Bool.false_ne_true (hstart.symm.trans h)
      · exact Bool.false_ne_true (h.symm.trans hhalt)
      · exact h hstatus
    rw [if_neg hkept, if_pos hends]
  case fence =>
    intro core q s x waits hx hop
    rw [exec_qfenceComplete, execQfenceComplete_eq hx hop]
    refine ⟨fun hhalt => if_pos hhalt, fun hgo hwaits => ?_⟩
    have hdone : ¬ waits.any s.fenceWaits = true :=
      Bool.eq_false_iff.mp (List.any_eq_false.mpr fun p hp => Bool.eq_false_iff.mp (hwaits p hp))
    rw [if_neg (Bool.eq_false_iff.mp hgo), if_neg hdone]

end Sys2Proof.Proofs

namespace Sys2Proof.Proofs

open Sys2Proof Sys2Proof.Machine Sys2Proof.Safety Sys2Proof.Claims Sys2Proof.Laws

/-! ### Matrix and chain commands at issue (spec/09 R247 R249 R260, spec/10 R282)

All seven commands issue through `matrixIssue`, so that one lemma says when a command enters the queue; each command then
only meets its field rules and its register uses. -/

section Issue
variable {s : State} {c : Ctx}

/-- The words that `matrixIssue` takes from the issuing wave. -/
theorem matrixWords_of_ctx (hctx : s.ctx? = some c) (a : BitVec 7) (n : Nat) (bd : Bool) :
    s.curBlock a n ++ (if bd then ((s.ctx?).map (fun c => c.wave.sr.bd.map (fun x => x.setWidth 32))).getD [] else []) =
      matrixWords c a n bd := by
  rw [State.curBlock, hctx]
  rfl

/-- With room in the queue and the scoreboard, and no repartition in the way, none of the three tests holds a command back. -/
theorem not_held_of_matrixRoom {check : Ctx → State → List Word → Nat ⊕ List Iv} {ws : List Word} (hctx : s.ctx? = some c)
    (hroom : MatrixRoom check c s ws) :
    (s.queueFull s.curCore selMatrix || (!(matrixIvs check c s ws).isEmpty && s.scoreFull s.curCore) ||
      scratchBusy s (matrixIvs check c s ws)) = false := by
  obtain ⟨hqueue, hscore, hscratch⟩ := hroom
  rw [curCore_eq hctx, hqueue, hscratch]
  rcases hscore with hnone | hfree
  · simp [hnone]
  · simp [hfree]

/-- A command that meets its field rules and passes its checks enters the queue; a second destination is pending with the
first. -/
theorem matrixIssue_enters {op : CmdOp} {rules : List Rule} {a : BitVec 7} {n : Nat} {dreg : Option (BitVec 7)} {nd : Nat}
    {bd : Bool} {check : Ctx → State → List Word → Nat ⊕ List Iv} {rows : List Word → Nat × Nat} {ivs : List Iv}
    (hrules : firstBroken rules = none)
    (hrun : Runs s c 0#7 ((if n = 0 then [] else [rdS a n]) ++ dreg.toList.map (fun d => wrS d nd)))
    (he : EngineReady c) (hshade : shading c.grp.core = true) :
    let ws := matrixWords c a n bd
    MatrixRoom check c s ws → check c (started s c) ws = .inr ivs →
    matrixIssue op rules a n dreg nd bd check rows s = .next (afterLong s c true fun t =>
      let queued := entered c op ws ivs (dreg.map (fun d => d.toNat)) (rows ws).1 (rows ws).2 t
      if nd = 2 then onWave c (fun wv =>
        wv.modPend c.wave.nextPend (fun p => { p with regs := p.regs ++ p.regs.map (fun r => r + 1) })) queued else queued) := by
  intro ws hroom hcheck
  unfold matrixIssue
  rw [matrixWords_of_ctx hrun.1]
  refine issue_afterLong_started rfl hrun.1 ?uses (plainHamper he hrules hshade rfl ?hold) ?body
  case uses => cases dreg <;> exact hrun.2
  case hold =>
    rw [hrun.1]
    exact not_held_of_matrixRoom hrun.1 hroom
  case body =>
    rw [hcheck]
    rfl

theorem execMstat_reads {d : BitVec 7} (hd : d ≠ 0#7) (hrun : Runs s c 0#7 [wrS d]) (hshade : shading c.grp.core = true) :
    execMstat d s = .next (afterLong s c true (fun t => t.setUni c d (mstatWord s c)) [d.toNat]) := by
  have hpos : d.toNat ≠ 0 := fun h => hd (BitVec.eq_of_toNat_eq h)
  have hfields : firstBroken [positive d] = none := firstBroken_none (by simp [positive, hpos])
  exact issue_afterLong_started rfl hrun.1 hrun.2 (plainU hfields (absurd · (Nat.lt_irrefl 8)) hshade (.inl rfl) rfl rfl) rfl

end Issue

/-- Every command of the table names a block of at least one word. -/
theorem matrixFns_words : ∀ p ∈ matrixFns, p.2.2.1 ≠ 0 := by simp [matrixFns]

/-- The commands of the table, as the model issues them. -/
theorem exec_matrixFns : ∀ p ∈ matrixFns, ∀ a s, exec (p.1 a) s =
    matrixIssue p.2.1 [blockOf p.2.2.2.1 a] a p.2.2.1 none 0 p.2.2.2.2.1 p.2.2.2.2.2 (fun _ => (0, 0)) s := by
  simp only [matrixFns, List.forall_mem_cons, List.not_mem_nil, IsEmpty.forall_iff, implies_true, and_true]
  and_intros <;> exact fun _ _ => rfl

/-- Settles O21: each command meets its field rules and enters through `matrixIssue`; `MSTAT` reads cores that its issue has
not changed. -/
theorem matrixCommandIssue : Obligations.MatrixCommandIssue := by
  unfold Obligations.MatrixCommandIssue
  refine ⟨?block, ?mzero, ?mswap, ?ttrun, ?mstat⟩
  case block =>
    intro p hp a s c ivs halign h0 hrun he hshade ws hroom hcheck
    have hfields : firstBroken [blockOf p.2.2.2.1 a] = none := firstBroken_none (by simp [blockOf, halign, h0])
    rw [exec_matrixFns p hp]
    exact matrixIssue_enters hfields (by rwa [if_neg (matrixFns_words p hp)]) he hshade hroom hcheck
  case mzero =>
    exact fun a s c ivs hrun he hshade hroom hcheck =>
      (exec_mzero a s).trans (matrixIssue_enters rfl hrun he hshade hroom hcheck)
  case mswap =>
    exact fun s c hacm hrun he hshade hroom =>
      (exec_mswap s).trans (matrixIssue_enters rfl hrun he hshade hroom (if_neg hacm))
  case ttrun =>
    intro d a s c ivs hd h4 h0 hrun he hshade ws hroom hcheck
    have hfields : firstBroken [multipleOf 2 d, blockOf 4 a] = none :=
      firstBroken_none (by simp [multipleOf, blockOf, hd, h4, h0])
    exact (exec_ttrun d a s).trans (matrixIssue_enters hfields hrun he hshade hroom hcheck)
  case mstat => exact fun d s c hd hrun hshade => (exec_mstat d s).trans (execMstat_reads hd hrun hshade)

end Sys2Proof.Proofs

namespace Sys2Proof.Proofs

open Sys2Proof Sys2Proof.Machine Sys2Proof.Safety Sys2Proof.Claims Sys2Proof.Laws

/-! ### Gather instructions at issue (spec/10 R269 R270 R271 R277) -/

/-- A class L instruction whose body ends with any flow: it opens its window and goes where the flow says. -/
theorem issue_longFlow {op : Op} {s t : State} {c : Ctx} {body : Ctx → State → State × Flow} {flow : Flow}
    (hl : op.long = true) (hi : op.instant = []) (hc : s.ctx? = some c)
    (hk : clear c op.litB (if op.carries then op.uses.map (fun x => { x with wr := true }) else op.uses) = true)
    (hp : Plain op s c) (hb : body c (started s c) = (t, flow)) :
    issue op s body = .next ((t.finish c { uni := op.uni, long := true } flow).boundary c.cur.g) := by
  rw [issue_marked body hc hk hp, hb]
  simp only [State.finish, hl, hi]

/-- The handle of a lane is in a network table of `n` entries. -/
def knownHandle (c : Ctx) (b : BitVec 7) (n i : Nat) : Bool := decide ((c.B false b i).toNat < n)

/-- The request that `NEVAL` (or `NEVAL.H`, for `h`) makes for a lane, with `iw` input registers. -/
def gatherRequest (h : Bool) (d a b : BitVec 7) (iw : Nat) (s : State) (c : Ctx) (i : Nat) : NReq :=
  { key := { tag := (s.job c.grp.job).tag, tbase := c.lau.ntab, handle := (c.B false b i).toNat }, group := c.cur.g,
    wave := c.cur.w, pend := c.wave.nextPend, lane := i, half := h,
    inputs := (List.range iw).map (fun j => c.wave.vget (a.toNat + j) i),
    poison := (List.range iw).any (fun j => c.wave.vpoison (a.toNat + j) i), dreg := d.toNat,
    entry := (s.core c.grp.core).ccycle.toNat, window := c.grp.window, eligible := false, parked := false, request := none }

/-- The requests of some lanes in the pool, with their `ow` result registers pending. -/
def requestsPooled (d : BitVec 7) (ow : Nat) (c : Ctx) (request : Nat → NReq) (lanes : List Nat) (t : State) : State :=
  if lanes = [] then t else
    (t.modCore c.grp.core (fun k => { k with pool := k.pool ++ lanes.map request })).addPend c 5 false (regsFrom d ow)
      (Mask.ofLanes lanes) (Mask.ofLanes lanes) .neval false false [] []

/-- The records of lanes for which there is no network (spec/10 R269). -/
def nevalRecs (c : Ctx) (lanes : List Nat) : List Rec := lanes.map (fun i => c.laneRec i false (Flt.plain cNeval 0#64))

section Issue
variable {s : State} {c : Ctx} {h : Bool} {d a b : BitVec 7} {n iw ow : Nat}

theorem curNet_eq (hc : s.ctx? = some c) : s.curNet = c.grp.net := by simp [State.curNet, hc]

/-- The pool has room for every active lane. -/
theorem neval_not_held (hc : s.ctx? = some c) (hroom : (s.core c.grp.core).pooled + c.lanes.length ≤ 512) :
    decide (512 < (s.core s.curCore).pooled + s.curLanes.length) = false := by
  have hlanes : s.curLanes = c.lanes := by simp [State.curLanes, hc]
  rw [curCore_eq hc, hlanes]
  exact decide_eq_false (Nat.not_lt.mpr hroom)

/-- With a network table the lanes whose handles are in it enter the pool, and the others trap after the instruction. -/
theorem neval_pools (hnet : c.grp.net = some (n, iw, ow))
    (hrun : Runs s c b [marked (rdB false b), marked (rdV a iw), wrV d ow])
    (hshade : shading c.grp.core = true) (hctr : c.wave.counters.getD 5 0 < 63)
    (hroom : (s.core c.grp.core).pooled + c.lanes.length ≤ 512)
    (hclean : c.cur.lit = none → ∀ i ∈ c.lanes, c.wave.vpoison b.toNat i = false) :
    let bad := c.lanes.filter (fun i => !knownHandle c b n i)
    neval h d a b s = .next (((requestsPooled d ow c (gatherRequest h d a b iw s c) (c.lanes.filter (knownHandle c b n))
      (started s c)).finish c { uni := false, long := true }
        (if bad.isEmpty then .next else .trap true (nevalRecs c bad))).boundary c.cur.g) := by
  intro bad
  have hbadB : (if c.cur.lit.isSome then [] else c.lanes.filter (fun i => c.wave.vpoison b.toNat i)) = [] := by
    cases hlit : c.cur.lit with
    | some w => rfl
    | none => exact List.filter_eq_nil_iff.mpr fun i hi => by simp [hclean hlit i hi]
  have hcur : s.curNet = some (n, iw, ow) := (curNet_eq hrun.1).trans hnet
  unfold neval
  rw [hcur]
  refine issue_longFlow rfl rfl hrun.1 hrun.2
    (plainU rfl (fun _ => hctr) hshade (.inl rfl) (neval_not_held hrun.1 hroom) rfl) ?_
  dsimp only
  rw [hnet, hbadB]
  simp only [requestsPooled, List.isEmpty_iff]
  rfl

/-- Without a network every active lane traps after the instruction. -/
theorem neval_without_network (hnet : c.grp.net = none) (hrun : Runs s c b [marked (rdB false b)])
    (hshade : shading c.grp.core = true) (hctr : c.wave.counters.getD 5 0 < 63)
    (hroom : (s.core c.grp.core).pooled + c.lanes.length ≤ 512) :
    neval h d a b s = .next (((started s c).finish c { uni := false, long := true }
      (.trap true (nevalRecs c c.lanes))).boundary c.cur.g) := by
  have hcur : s.curNet = none := (curNet_eq hrun.1).trans hnet
  unfold neval
  rw [hcur]
  refine issue_longFlow rfl rfl hrun.1 hrun.2
    (plainU rfl (fun _ => hctr) hshade (.inl rfl) (neval_not_held hrun.1 hroom) rfl) ?_
  dsimp only
  rw [hnet]
  rfl

/-- A key becomes eligible with all of its requests that are not parked. -/
theorem makeEligible_ofGroup (k : Machine.Core) (g : Nat) :
    k.makeEligible ((k.pool.filter (fun r => r.group == g && !r.parked)).map NReq.key) =
      { k with pool := k.pool.map (fun r =>
        if (k.pool.any (fun x => x.group == g && !x.parked && x.key == r.key)) && !r.parked then { r with eligible := true }
        else r) } := by
  have hkeys : ∀ r : NReq, ((k.pool.filter (fun x => x.group == g && !x.parked)).map NReq.key).contains r.key =
      k.pool.any (fun x => x.group == g && !x.parked && x.key == r.key) := fun r => by
    rw [List.contains_eq_any_beq, List.any_map, List.any_filter]
    simp only [Function.comp_apply, BEq.comm]
  simp only [Core.makeEligible, hkeys]

theorem execNflush_eligible (hrun : Runs s c 0#7 []) (hshade : shading c.grp.core = true) :
    execNflush s = .next (afterLong s c true fun t => t.modCore c.grp.core (fun k => { k with pool := k.pool.map (fun r =>
      if (k.pool.any (fun x => x.group == c.cur.g && !x.parked && x.key == r.key)) && !r.parked then { r with eligible := true }
      else r) })) := by
  refine issue_afterLong rfl hrun.1 hrun.2 (plainU rfl (absurd · (Nat.lt_irrefl 8)) hshade (.inl rfl) rfl rfl) fun t => ?_
  simp only [makeEligible_ofGroup]

/-- A window of `NCFG` is refused where the whole word is not from 16 to 4,096: one of 8,192 or more has bits above the field. -/
theorem windowRefused_iff (w : Word) :
    (w.extractLsb' 13 19 != 0#19 || decide ((w.extractLsb' 0 13).toNat < 16) ||
      decide (4096 < (w.extractLsb' 0 13).toNat)) = true ↔ w.toNat < 16 ∨ 4096 < w.toNat := by
  have hlow : (w.extractLsb' 0 13).toNat = w.toNat % 8192 := BitVec.extractLsb'_toNat ..
  have hhigh : (w.extractLsb' 13 19 != 0#19) = true ↔ 8192 ≤ w.toNat := by
    rw [bne_iff_ne, ne_eq, ← BitVec.toNat_inj, BitVec.extractLsb'_toNat, Nat.shiftRight_eq_div_pow]
    have := w.isLt
    simp only [BitVec.toNat_ofNat]
    omega
  rw [Bool.or_eq_true, Bool.or_eq_true, hhigh, hlow, decide_eq_true_eq, decide_eq_true_eq]
  omega

section Ncfg
variable (hrun : Runs s c 0#7 [rdS a]) (hshade : shading c.grp.core = true)
include hrun hshade

theorem execNcfg_refuses (hout : (c.wave.sget a.toNat).toNat < 16 ∨ 4096 < (c.wave.sget a.toNat).toNat) :
    execNcfg a s = .next (((started s c).finish c { uni := true, long := true }
      (.trap false [c.splitRec cBadDescriptor])).boundary c.cur.g) :=
  issue_longFlow rfl rfl hrun.1 hrun.2 (plainU rfl (absurd · (Nat.lt_irrefl 8)) hshade (.inl rfl) rfl rfl)
    (if_pos ((windowRefused_iff _).mpr hout))

theorem execNcfg_sets (hlow : 16 ≤ (c.wave.sget a.toNat).toNat) (hhigh : (c.wave.sget a.toNat).toNat ≤ 4096) :
    execNcfg a s = .next (afterLong s c true fun t =>
      t.modGroup c.cur.g (fun G => { G with window := (c.wave.sget a.toNat).toNat })) := by
  have hfield : ((c.wave.sget a.toNat).extractLsb' 0 13).toNat = (c.wave.sget a.toNat).toNat := by
    rw [BitVec.extractLsb'_toNat]
    exact Nat.mod_eq_of_lt (by simp; omega)
  refine issue_afterLong rfl hrun.1 hrun.2 (plainU rfl (absurd · (Nat.lt_irrefl 8)) hshade (.inl rfl) rfl rfl) fun t => ?_
  refine (if_neg fun h => ?_).trans (by rw [hfield])
  rcases (windowRefused_iff _).mp h with h | h <;> omega

end Ncfg

end Issue

/-- Both formats run through `neval`. -/
theorem exec_nevalFns :
    ∀ p ∈ [(Instr.neval, false), (Instr.nevalH, true)], ∀ d a b s, exec (p.1 d a b) s = neval p.2 d a b s := by
  simp only [List.forall_mem_cons, List.not_mem_nil, IsEmpty.forall_iff, implies_true, and_true]
  exact ⟨exec_neval, exec_nevalH⟩

/-- Settles O31: `NEVAL` divides its lanes by their handles; the other clauses are one branch each. -/
theorem gatherIssue : Obligations.GatherIssue := by
  unfold Obligations.GatherIssue
  refine ⟨?pools, ?without, ?nflush, ?ncfg⟩
  case pools =>
    intro p hp d a b s c n iw ow hnet hrun hshade hctr hroom hclean core request known queued
    have hpools := (exec_nevalFns p hp d a b s).trans (neval_pools hnet hrun hshade hctr hroom hclean)
    refine ⟨fun hall => hpools.trans ?_, fun ⟨i, hi, hunknown⟩ => hpools.trans ?_⟩
    · have hgood : c.lanes.filter (knownHandle c b n) = c.lanes := List.filter_eq_self.mpr hall
      have hbad : c.lanes.filter (fun i => !knownHandle c b n i) = [] :=
        List.filter_eq_nil_iff.mpr fun i hi => by simpa [known, knownHandle] using hall i hi
      rw [hgood, hbad]
      rfl
    · have hbad : (c.lanes.filter (fun i => !knownHandle c b n i)).isEmpty = false :=
        List.isEmpty_eq_false_iff.mpr
          (List.ne_nil_of_mem (List.mem_filter.mpr ⟨hi, by simpa [known, knownHandle] using hunknown⟩))
      rw [hbad]
      rfl
  case without =>
    intro p hp d a b s c hnet hrun hshade hctr hroom
    simp only [List.mem_cons, List.not_mem_nil, or_false] at hp
    rcases hp with rfl | rfl
    · exact (exec_neval d a b s).trans (neval_without_network hnet hrun hshade hctr hroom)
    · exact (exec_nevalH d a b s).trans (neval_without_network hnet hrun hshade hctr hroom)
  case nflush => exact fun s c hrun hshade => (exec_nflush s).trans (execNflush_eligible hrun hshade)
  case ncfg =>
    exact fun a s c hrun hshade => ⟨fun hlow hhigh => (exec_ncfg a s).trans (execNcfg_sets hrun hshade hlow hhigh),
      fun hout => (exec_ncfg a s).trans (execNcfg_refuses hrun hshade hout)⟩

end Sys2Proof.Proofs

namespace Sys2Proof.Proofs

open Sys2Proof Sys2Proof.Machine Sys2Proof.Safety Sys2Proof.Claims Sys2Proof.Laws

/-! ### The gather unit (spec/10 R271 to R275) -/

theorem makeEligible_singleton (k : Machine.Core) (key : NKey) :
    k.makeEligible [key] = { k with pool := k.pool.map (fun x =>
      if x.key = key ∧ x.parked = false then { x with eligible := true } else x) } := by
  simp only [Core.makeEligible, List.contains_cons, List.contains_nil, Bool.or_false, Bool.and_eq_true, beq_iff_eq,
    Bool.not_eq_true']

/-- Ending no request changes nothing. -/
theorem endReqs_nil (s : State) (f : Flt) : s.endReqs f [] = s := rfl

section Events
variable {s t : State} {core : Nat}

theorem execGatherWindowExpiry_due {idx : Nat} {r : NReq} (hr : (s.core core).pool[idx]? = some r) (hparked : r.parked = false)
    (helig : r.eligible = false) (hage : r.entry + r.window ≤ (s.core core).ccycle.toNat)
    (hhead : ((s.core core).underKey r.key).head? = some r) :
    execGatherWindowExpiry core idx s = .next (s.modCore core (fun c => { c with pool := c.pool.map (fun x =>
      if x.key = r.key ∧ x.parked = false then { x with eligible := true } else x) })) := by
  have hdue : (r.parked || r.eligible || decide ((s.core core).ccycle.toNat < r.entry + r.window) ||
      ((s.core core).underKey r.key).head? != some r) = false := by
    simp [hparked, helig, hage, hhead]
  simp only [execGatherWindowExpiry, hr, hdue, Bool.false_eq_true, if_false, makeEligible_singleton]

/-- The rows of a tile for a key: its oldest requests, at most 128. -/
def tileRows (s : State) (core : Nat) (k : NKey) : List NReq := ((s.core core).underKey k).take 128

/-- The job for which the unit reads: that of the oldest row. -/
def rowsJob (s : State) (rows : List NReq) : Nat :=
  ((rows.head?).bind (fun r => (s.groups[r.group]?).map (fun G => G.job))).getD 0

/-- The rows leave the pool, and the requests of their key that stay are no longer eligible. -/
def rowsTaken (core : Nat) (k : NKey) (rows : List NReq) (t : State) : State :=
  t.modCore core (fun c => { c with
    pool := (c.pool.filter (fun x => !rows.contains x)).map (fun x => if x.key == k then { x with eligible := false } else x) })

/-- The unit fetches for these rows, if there are any. -/
def rowsFetched (core : Nat) (k : NKey) (ws : List Word) (rows : List NReq) (t : State) : State :=
  if rows.isEmpty then t else
    t.modCore core (fun c => { c with tile := some { key := k, stage := .fetching, rows := rows, desc := ws, results := [] } })

section TileForm
variable {k : NKey} (hfree : (s.core core).tile = none) (hkey : (s.core core).nextKey = some k)
include hfree hkey

/-- The rows whose networks are valid form the tile, and the others end (spec/10 R267 R271). -/
theorem execGatherTileForm_divides {b : List Byte}
    (hdesc : s.netDesc core (rowsJob s (tileRows s core k)) k = (.ok b false, t)) :
    let rows := tileRows s core k
    let ws := leWords 32 b
    let u := (rowsTaken core k rows t).modCore core (fun c => c.cacheDesc k ws)
    execGatherTileForm core s = .next ((rowsFetched core k ws (rows.filter (fun r => (u.netFor r ws).isSome)) u).endReqs
      (Flt.plain cNeval 0#64) (rows.filter (fun r => (u.netFor r ws).isNone))) := by
  rw [rowsJob, tileRows] at hdesc
  simp only [execGatherTileForm, hfree, hkey, hdesc, Option.isSome_none, Bool.false_eq_true, if_false]
  rfl

theorem execGatherTileForm_fetches {b : List Byte}
    (hdesc : s.netDesc core (rowsJob s (tileRows s core k)) k = (.ok b false, t)) :
    let rows := tileRows s core k
    let ws := leWords 32 b
    let u := (rowsTaken core k rows t).modCore core (fun c => c.cacheDesc k ws)
    (∀ r ∈ rows, (u.netFor r ws).isSome = true) → rows ≠ [] →
    execGatherTileForm core s = .next (u.modCore core (fun c => { c with
      tile := some { key := k, stage := .fetching, rows := rows, desc := ws, results := [] } })) := by
  intro rows ws u hvalid hrows
  have hgood : rows.filter (fun r => (u.netFor r ws).isSome) = rows := List.filter_eq_self.mpr hvalid
  have hbad : rows.filter (fun r => (u.netFor r ws).isNone) = [] :=
    List.filter_eq_nil_iff.mpr fun r hr => by simp [Option.isSome_iff_ne_none.mp (hvalid r hr)]
  rw [execGatherTileForm_divides hfree hkey hdesc, hgood, hbad, endReqs_nil, rowsFetched,
    if_neg (by simpa using hrows)]

theorem execGatherTileForm_faults {f : Flt}
    (hdesc : s.netDesc core (rowsJob s (tileRows s core k)) k = (.fault f, t)) :
    execGatherTileForm core s =
      .next ((rowsTaken core k (tileRows s core k) t).tileFault core f (tileRows s core k)) := by
  rw [rowsJob, tileRows] at hdesc
  simp only [execGatherTileForm, hfree, hkey, hdesc, Option.isSome_none, Bool.false_eq_true, if_false]
  rfl

end TileForm

section Tile
variable {tile : NTile} (hheld : (s.core core).held = false) (htile : (s.core core).tile = some tile)
include hheld htile

section Fetching
variable (hstage : tile.stage = .fetching)
include hstage

theorem execGatherFetchComplete_evaluates {out : List (NReq × List Word × Bool)}
    (heval : s.evalRows core (rowsJob s tile.rows) tile.desc tile.rows = (.inr (some out), t)) (hout : out ≠ []) :
    execGatherFetchComplete core s =
      .next (t.modCore core (fun c => { c with tile := some { tile with stage := .scattering, results := out } })) := by
  rw [rowsJob] at heval
  simp [execGatherFetchComplete, htile, hstage, hheld, heval, hout]

theorem execGatherFetchComplete_faults {f : Flt}
    (heval : s.evalRows core (rowsJob s tile.rows) tile.desc tile.rows = (.inl f, t)) :
    execGatherFetchComplete core s = .next (t.tileFault core f tile.rows) := by
  rw [rowsJob] at heval
  simp [execGatherFetchComplete, htile, hstage, hheld, heval]

end Fetching

theorem execGatherScatter_writes {row : Nat} {r : NReq} {out : List Word} {bad : Bool} (hstage : tile.stage = .scattering)
    (hrow : tile.results[row]? = some (r, out, bad)) :
    let rest := tile.results.eraseIdx row
    execGatherScatter core row s = .next ((s.modCore core (fun c => { c with
      tile := if rest = [] then none else some { tile with results := rest } })).modWave r.group r.wave (fun wv =>
        (wv.writeAll false (out.zipIdx.map (fun x =>
          { lane := r.lane, reg := r.dreg + x.2, val := x.1, poison := bad : Wr }))).shedLanes r.pend (Mask.bit r.lane))) := by
  intro rest
  have hgo : (tile.stage != .scattering || (s.core core).held) = false := by simp [hstage, hheld]
  simp only [execGatherScatter, htile, hrow, hgo, Bool.false_eq_true, if_false, List.isEmpty_iff, rest]

end Tile

end Events

/-- Settles O32: each event is one branch of its function; a tile whose rows all have a valid network leaves none to end. -/
theorem gatherEvents : Obligations.GatherEvents := by
  unfold Obligations.GatherEvents
  refine ⟨?expiry, ?form, ?fetched, ?scatter⟩
  case expiry =>
    exact fun core idx s r hr hparked helig hage hhead =>
      (exec_gatherWindowExpiry core idx s).trans (execGatherWindowExpiry_due hr hparked helig hage hhead)
  case form =>
    intro core s k hfree hkey
    dsimp only
    exact ⟨fun b t hdesc hvalid hrows =>
        (exec_gatherTileForm core s).trans (execGatherTileForm_fetches hfree hkey hdesc hvalid hrows),
      fun f t hdesc => (exec_gatherTileForm core s).trans (execGatherTileForm_faults hfree hkey hdesc)⟩
  case fetched =>
    intro core s tile hheld htile hstage
    dsimp only
    exact ⟨fun out t heval hout =>
        (exec_gatherFetchComplete core s).trans (execGatherFetchComplete_evaluates hheld htile hstage heval hout),
      fun f t heval => (exec_gatherFetchComplete core s).trans (execGatherFetchComplete_faults hheld htile hstage heval)⟩
  case scatter =>
    exact fun core row s tile r out bad hheld htile hstage hrow =>
      (exec_gatherScatter core row s).trans (execGatherScatter_writes hheld htile hstage hrow)

end Sys2Proof.Proofs

namespace Sys2Proof.Proofs

open Sys2Proof Sys2Proof.Machine Sys2Proof.Safety Sys2Proof.Claims Sys2Proof.Laws

/-! ### Stops before a slot (spec/15 R378) -/

/-- A split of a resident group that may issue. -/
structure IssueSite (s : State) (g w sp : Nat) (G : Machine.Group) (wv : Wave) : Prop where
  group : s.groups[g]? = some G
  wave : s.wave? g w = some wv
  resident : G.state = .resident
  issuable : wv.issuable sp = true

/-- The stop that is due is taken. -/
noncomputable def takeStop (g w sp : Nat) (s : State) (e : Split) : Option (Nat × Nat × Mask) → Out'
  | some (1, _, _) => .next (s.stopAt g w sp 1 0 e.mask)
  | some (2, _, _) => .next (s.stopAt g w sp 2 0 e.mask)
  | _ => idle s

/-- A stop before a slot of the bundle that the split is at. -/
noncomputable def bundleStop (g w sp : Nat) (s : State) (own : Bool) (e : Split) : Option (List Word) → Out'
  | none => idle s
  | some ws =>
    if badBundle ws || litSlot (ws.getD 0 0#32) e.slot then idle s else takeStop g w sp s e (dueStop own e (ws.getD 0 0#32))

/-- A stop that is already noted for the next slot comes first. -/
theorem dueStop_noted {e : Split} {cw : Word} {x : Nat × Nat × Mask} (h : e.stopNext = some x) :
    dueStop true e cw = some x := by
  delta dueStop
  rw [h]
  rfl

/-- With no stop noted, a break bit that has not stopped the split yet is due. -/
theorem dueStop_breakBit {e : Split} {cw : Word} (hnone : e.stopNext = none) (hbrk : brkOf cw e.slot = true)
    (hskip : e.brkSkip = false) : dueStop true e cw = some (1, 0, e.mask) := by
  delta dueStop
  rw [hnone]
  exact if_pos (Bool.and_eq_true_iff.mpr ⟨hbrk, congrArg not hskip⟩)

section Stop
variable {g w sp : Nat} {s : State} {G : Machine.Group} {wv : Wave}

theorem site_waits (h : IssueSite s g w sp G wv) (b : Bool) : (!wv.issuable sp || G.state != .resident || b) = b := by
  rw [h.issuable, h.resident]
  rfl

theorem execBreakBitStop_site (h : IssueSite s g w sp G wv) : execBreakBitStop g w sp s =
    if s.cstoreHolds g w sp then idle s
    else bundleStop g w sp s (s.core G.core).dbg.own (wv.entry sp) (s.bundle? G.core (s.job G.job).tag (wv.entry sp).pc) := by
  delta execBreakBitStop
  rw [h.group, h.wave]
  exact congrArg (fun b : Bool => if b then idle s
    else bundleStop g w sp s (s.core G.core).dbg.own (wv.entry sp) (s.bundle? G.core (s.job G.job).tag (wv.entry sp).pc))
    (site_waits h _)

theorem execWatchpointStop_due (h : IssueSite s g w sp G wv) (hown : (s.core G.core).dbg.own = true) {i : Nat} {m : Mask}
    (hstop : (wv.entry sp).stopNext = some (3, i, m)) : execWatchpointStop g w sp s = .next (s.stopAt g w sp 3 i m) := by
  delta execWatchpointStop
  rw [h.group, h.wave]
  exact (if_neg (ne_true_of_eq_false ((site_waits h _).trans (congrArg not hown)))).trans (hstop ▸ rfl)

section Bundle
variable (h : IssueSite s g w sp G wv) (hown : (s.core G.core).dbg.own = true) {ws : List Word}
  (hws : s.bundle? G.core (s.job G.job).tag (wv.entry sp).pc = some ws)
include h hown hws

theorem execBreakBitStop_bundle : execBreakBitStop g w sp s =
    if s.cstoreHolds g w sp then idle s else bundleStop g w sp s true (wv.entry sp) (some ws) := by
  rw [execBreakBitStop_site h, hown, hws]

theorem execBreakBitStop_illegal (hbad : badBundle ws = true) : execBreakBitStop g w sp s = idle s :=
  (execBreakBitStop_bundle h hown hws).trans
    ((congrArg (ite _ _) (if_pos (Bool.or_eq_true_iff.mpr (.inl hbad)))).trans (ite_self _))

/-- At a slot of a sound bundle the stop that is due decides. -/
theorem execBreakBitStop_due (hgood : badBundle ws = false) (hhold : s.cstoreHolds g w sp = false)
    (hlit : litSlot (ws.getD 0 0#32) (wv.entry sp).slot = false) {x : Nat × Nat × Mask}
    (hdue : dueStop true (wv.entry sp) (ws.getD 0 0#32) = some x) :
    execBreakBitStop g w sp s = takeStop g w sp s (wv.entry sp) (some x) :=
  (execBreakBitStop_bundle h hown hws).trans ((if_neg (ne_true_of_eq_false hhold)).trans
    ((if_neg (ne_true_of_eq_false (Bool.or_eq_false_iff.mpr ⟨hgood, hlit⟩))).trans (congrArg _ hdue)))

end Bundle
end Stop

/-! ### PC samples (spec/15 R376 R377) -/

/-- The interval of a sampler that is on and in range. -/
theorem interval_on {d : Debug} (hon : d.scfg.getLsbD 0 = true) (hlo : 8 ≤ (d.scfg.extractLsb' 1 5).toNat)
    (hhi : (d.scfg.extractLsb' 1 5).toNat ≤ 20) : d.interval = 2 ^ (d.scfg.extractLsb' 1 5).toNat :=
  if_pos (Bool.and_eq_true_iff.mpr ⟨Bool.and_eq_true_iff.mpr ⟨hon, decide_eq_true hlo⟩, decide_eq_true hhi⟩)

theorem foldl_partitions {β : Type} (f : β → Nat → β) (b : β) : (List.range 4).foldl f b = f (f (f (f b 0) 1) 2) 3 := rfl

theorem execPcSample_samples {core : Nat} {s : State} (hinterval : (s.core core).dbg.interval ≠ 0)
    (hcycle : (s.core core).ccycle.toNat % (s.core core).dbg.interval = 0)
    (hlast : (s.core core).dbg.lastSample ≠ some (s.core core).ccycle.toNat) (hpresent : s.corePresent core = true) :
    execPcSample core s = .next (((List.range 4).foldl (fun t p => t.samplePart core (s.core core).ccycle.toNat p) s).modDebug core
        (fun d => { d with lastSample := some (s.core core).ccycle.toNat })) :=
  (if_pos (Bool.and_eq_true_iff.mpr ⟨Bool.and_eq_true_iff.mpr ⟨Bool.and_eq_true_iff.mpr
    ⟨bne_iff_ne.mpr hinterval, beq_iff_eq.mpr hcycle⟩, bne_iff_ne.mpr hlast⟩, hpresent⟩)).trans
    (congrArg _ (if_neg (not_or_intro hinterval (not_or_intro (not_not_intro hcycle) (not_or_intro hlast
      (ne_true_of_eq_false (congrArg not hpresent)))))))

/-! ### The control register (spec/15 R374 R380) -/

theorem foldl_resumePart (core : Nat) (s : State) : (List.range 4).foldl (fun t p => t.resumePart core p) s =
    (((s.resumePart core 0).resumePart core 1).resumePart core 2).resumePart core 3 :=
  foldl_partitions (fun (t : State) p => t.resumePart core p) s

/-- Ownership that goes forgets the stops that are due and lets every partition run. -/
theorem dctlOwn_gone (core : Nat) (all : Bool) (s : State) :
    let t := s.modCore core (fun c => { c with dbg := { c.dbg with own := false, mode := all } })
    s.dctlOwn core false all =
      ((((t.forgetStops core).resumePart core 0).resumePart core 1).resumePart core 2).resumePart core 3 := by
  delta State.dctlOwn State.modDebug
  exact (if_neg Bool.false_ne_true).trans (foldl_resumePart core _)

theorem dctlIcinv_either (core : Nat) (b : Bool) (s : State) :
    if b then execDctlIcinv core s = .next (if b then s.dctlIcinv core else s) else (if b then s.dctlIcinv core else s) = s :=
  Bool.casesOn b rfl rfl

theorem execDebugRegWrite_holds (core off : Nat) (v : Word) (s : State) (hcontrol : off ≠ 0) (hpop : off ≠ 0x44) :
    execDebugRegWrite core off v s = .next (s.modCore core (fun c => { c with dbg := c.dbg.write off v })) :=
  congrArg Host.Outcome.next ((if_neg hcontrol).trans (if_neg hpop))

/-- Settles O44: one lemma per branch of the samples and stops; the control register is done part by part. -/
theorem debugEvents : Obligations.DebugEvents := by
  refine ⟨?sample, ?put, ?stop, ?own, ?parts, fun _ _ => rfl, fun _ _ _ => rfl, ?control, execDebugRegWrite_holds,
    fun _ _ _ => congrArg Host.Outcome.next ((if_neg (by decide)).trans (if_pos rfl))⟩
  case sample =>
    intro core s d n cycle hon hlo hhi hcycle hlast hpresent
    exact execPcSample_samples (fun h => (Nat.two_pow_pos n).ne' ((interval_on hon hlo hhi).symm.trans h))
      ((congrArg (cycle % ·) (interval_on hon hlo hhi)).trans hcycle) hlast hpresent |>.trans
      (congrArg (fun t => Host.Outcome.next (t.modDebug core (fun d => { d with lastSample := some cycle })))
        (foldl_partitions (fun t p => t.samplePart core cycle p) s))
  case put => exact fun core s b => ⟨fun hfull => if_pos hfull, fun hroom => if_neg hroom⟩
  case stop =>
    intro g w sp s G wv ws hG hw hres hissue hown e
    exact ⟨execBreakBitStop_illegal ⟨hG, wave?_of_get hG hw, hres, hissue⟩ hown,
      fun hws hgood hhold hlit => ⟨fun hnone hbrk hskip => execBreakBitStop_due ⟨hG, wave?_of_get hG hw, hres, hissue⟩ hown
          hws hgood hhold hlit (dueStop_breakBit hnone hbrk hskip),
        fun i m hstop => execBreakBitStop_due ⟨hG, wave?_of_get hG hw, hres, hissue⟩ hown hws hgood hhold hlit
          (dueStop_noted hstop)⟩,
      fun i m => execWatchpointStop_due ⟨hG, wave?_of_get hG hw, hres, hissue⟩ hown⟩
  case own => exact fun core all s => ⟨rfl, congrArg Host.Outcome.next (dctlOwn_gone core all s)⟩
  case parts =>
    exact fun core m s => ⟨fun hown => congrArg Host.Outcome.next (if_pos hown),
      fun hown => congrArg Host.Outcome.next (if_neg (ne_true_of_eq_false hown)), rfl, rfl⟩
  case control => exact fun core v s => ⟨_, _, _, _, rfl, rfl, rfl, dctlIcinv_either core (v.getLsbD 10) _, rfl⟩

end Sys2Proof.Proofs

namespace Sys2Proof.Proofs

open Sys2Proof Sys2Proof.Machine Sys2Proof.Safety Sys2Proof.Claims Sys2Proof.Laws

/-! ### Ray instructions (spec/11 R296 to R299, R303) -/

/-- A ray instruction leaves the lanes that it serves pending and traps on the others. -/
noncomputable def servedRays (c : Ctx) (d : BitVec 7) (good bad : List Nat) (s : State) : State × Flow :=
  (if good.isEmpty then s else
    s.addPend c 6 false ((List.range 8).map (fun k => d.toNat + k)) (Mask.ofLanes good) (Mask.ofLanes good) .ray false false [] [],
    if bad.isEmpty then .next else .trap true (cRayRecs c bad))

section Lanes
variable {β : Type} {l : List Nat} {p q : Nat → Bool} {f : Nat → Option β} {g : Nat → β}

theorem filter_of_all (h : ∀ i ∈ l, p i = true) : l.filter p = l := List.filter_eq_self.mpr h

theorem filter_of_none (h : ∀ i ∈ l, p i = false) : l.filter p = [] :=
  List.filter_eq_nil_iff.mpr fun i hi => ne_true_of_eq_false (h i hi)

theorem filterMap_of_some (h : ∀ i ∈ l, f i = some (g i)) :
    l.filterMap f = l.map g := (List.filterMap_congr h).trans (congrFun List.filterMap_eq_map' l)

end Lanes

section Issue
variable {s : State} {c : Ctx}

/-- The core has room for a ray of every active lane. -/
theorem rayRoom_not_held (hc : s.ctx? = some c) (hspill : spillHold s = false)
    (hroom : c.lanes.length ≤ s.rayRoom c.grp.core) :
    (spillHold s || decide (s.rayRoom s.curCore < s.curLanes.length)) = false := by
  have hlanes : s.curLanes = c.lanes := by rw [State.curLanes, hc]; rfl
  rw [hspill, curCore_eq hc, hlanes, decide_eq_false (Nat.not_lt.mpr hroom)]
  rfl

/-- The registers that a lane's ray comes from, in the order of the model. -/
theorem rayOf_eq (c : Ctx) (wide : Bool) (a b : BitVec 7) :
    (fun i =>
      let x := fun (r : BitVec 7) (k : Nat) => c.wave.vget (r.toNat + k) i
      { org := if wide then (List.range 3).map (fun k => pairOf (x a (2 * k)) (x a (2 * k + 1)))
          else (List.range 3).map (fun k => BitVec.ofNat 64 (f32to64 (x a k).toNat))
        dir := (List.range 3).map (fun k => x a (k + (if wide then 7 else 4)))
        tmin := x a (if wide then 6 else 3), tmax := x a (if wide then 10 else 7)
        hdr := pairOf (x b 0) (x b 1), flags := x b 2, ctx := x b 3 : Ray }) = rayOf c wide a b :=
  Bool.casesOn wide rfl rfl

theorem rayq_places {wide : Bool} {d a b : BitVec 7} {rules : List Rule} (hrules : firstBroken rules = none)
    (hrun : Runs s c 0#7 [rdV a (if wide then 11 else 8), rdV b 4, wrV d 8])
    (halso : inAlloc c [rdV a (if wide then 12 else 8)] = true) (hshade : shading c.grp.core = true)
    (hctr : c.wave.counters.getD 6 0 < 63) (hfence : fenced c = false) (hspill : spillHold s = false)
    (hroom : c.lanes.length ≤ s.rayRoom c.grp.core) (hnone : ∀ i ∈ c.lanes, c.wave.rays.getLsbD i = false) :
    rayq wide d a b rules s = .next (afterLong s c false fun t =>
      pendRay c d (onWave c (fun wv => { wv with rays := wv.rays ||| Mask.ofLanes c.lanes })
        (c.lanes.foldl (placeRay c d (rayOf c wide a b)) (t.unspillAll c)))) :=
  issue_afterLong rfl hrun.1 hrun.2
    (plainU hrules (fun _ => hctr) hshade (.inr hfence) (rayRoom_not_held hrun.1 hspill hroom) halso) fun t =>
      (congr (congr (congrArg (fun ray good bad => servedRays c d good bad (onWave c (fun wv => { wv with
          rays := wv.rays ||| Mask.ofLanes good }) (good.foldl (placeRay c d ray) (t.unspillAll c)))) (rayOf_eq c wide a b))
        (filter_of_all fun i hi => congrArg not (hnone i hi))) (filter_of_none hnone) :)

theorem raycont_served {t : State} {b : BitVec 7} {cand : Nat → RaySlot × Hit × Bool} (hcand : Candidates c t cand)
    (hdec : ∀ i ∈ c.lanes, (c.B false b i).toNat ≤ 2) :
    ∀ i ∈ c.lanes, ((c.candidate t i).isSome && decide ((c.B false b i).toNat ≤ 2)) = true := fun i hi =>
  Bool.and_eq_true_iff.mpr ⟨congrArg Option.isSome (hcand i hi), decide_eq_true (hdec i hi)⟩

end Issue

theorem execRaycont_resumes (d b : BitVec 7) (s : State) (c : Ctx) (cand : Nat → RaySlot × Hit × Bool)
    (hrun : Runs s c b [rdB false b, wrV d 8]) (hshade : shading c.grp.core = true)
    (hctr : c.wave.counters.getD 6 0 < 63) (hspill : spillHold s = false)
    (hcand : Candidates c ((started s c).unspillAll c) cand) (hdec : ∀ i ∈ c.lanes, (c.B false b i).toNat ≤ 2) :
    execRaycont d b s = .next (afterLong s c false fun t => pendRay c d (c.lanes.foldl (fun t i =>
      match c.candidate t i with
      | none => t
      | some (_, h, proc) => t.modCore c.grp.core (fun k => k.modRay c.cur.g c.cur.w i (fun r =>
          r.resume h proc (c.B false b i).toNat c.wave.nextPend d.toNat t.tick))) (t.unspillAll c))) :=
  issue_afterLong_started rfl hrun.1 hrun.2 (plainU rfl (fun _ => hctr) hshade (.inl rfl) hspill rfl)
    (congr (congrArg (fun good bad => servedRays c d good bad (good.foldl (fun t i =>
      match c.candidate t i with
      | none => t
      | some (_, h, proc) => t.modCore c.grp.core (fun k => k.modRay c.cur.g c.cur.w i (fun r =>
          r.resume h proc (c.B false b i).toNat c.wave.nextPend d.toNat t.tick))) ((started s c).unspillAll c)))
      (filter_of_all (raycont_served hcand hdec)))
      (filter_of_none fun i hi => congrArg not (raycont_served hcand hdec i hi)) :)

theorem execRayhit_reports (d : BitVec 7) (s : State) (c : Ctx) (cand : Nat → RaySlot × Hit × Bool)
    (hrun : Runs s c 0#7 [wrV d 8]) (hshade : shading c.grp.core = true)
    (hctr : c.wave.counters.getD 6 0 < 63) (hspill : spillHold s = false)
    (hcand : Candidates c ((started s c).unspillAll c) cand) :
    execRayhit d s = .next (afterLong s c false (fun t => c.lanes.foldl (fun t i =>
      onWave c (fun wv => wv.vsets d.toNat i (endBlock (cand i).1 false)) (t.useRay c i id)) (t.unspillAll c))
      (regsFrom d 8)) :=
  issue_afterLong_started rfl hrun.1 hrun.2 (plainU rfl (fun _ => hctr) hshade (.inl rfl) hspill rfl)
    ((congr (congrArg (fun good bad => (good.foldl (fun s x =>
        (s.useRay c x.1 id).modWave c.cur.g c.cur.w (fun wv => wv.vsets d.toNat x.1 (endBlock x.2 false)))
        ((started s c).unspillAll c), if bad.isEmpty then Flow.next else .trap true (cRayRecs c bad)))
      (filterMap_of_some fun i hi => congrArg (Option.map fun x => (i, x.1)) (hcand i hi)))
      (filter_of_none fun i hi => congrArg Option.isNone (hcand i hi)) :).trans (congrArg (·, _) List.foldl_map))

theorem procedural_of_candidate {c : Ctx} {t : State} {i : Nat} {x : RaySlot × Hit × Bool} (h : c.candidate t i = some x)
    (hproc : x.2.2 = true) : c.procedural t i = some (x.1, x.2.1) := by
  have h' : c.candidate t i = some (x.1, x.2.1, true) := h.trans (congrArg (fun p => some (x.1, x.2.1, p)) hproc)
  delta Ctx.procedural
  exact h' ▸ rfl

theorem execRaycommit_commits (d a b : BitVec 7) (s : State) (c : Ctx) (cand : Nat → RaySlot × Hit × Bool)
    (hrun : Runs s c b [rdV a, rdB false b, wrV d]) (hshade : shading c.grp.core = true)
    (hctr : c.wave.counters.getD 6 0 < 63) (hspill : spillHold s = false)
    (hcand : Candidates c ((started s c).unspillAll c) cand) (hproc : ∀ i ∈ c.lanes, (cand i).2.2 = true) :
    execRaycommit d a b s = .next (afterLong s c false (fun t => c.lanes.foldl (fun t i =>
      let x := c.A false a i
      let yes := accepts (cand i).1.ray (cand i).1.hit (f32v x)
      let h : Hit := { (cand i).2.1 with t := x, u := 0#32, v := 0#32, front := false, hk := (c.B false b i).setWidth 8 }
      onWave c (fun wv => wv.vset d.toNat i (if yes then 1#32 else 0#32) false)
        (t.useRay c i (fun r => if yes then { r with hit := some h } else r))) (t.unspillAll c)) [d.toNat]) :=
  issue_afterLong_started rfl hrun.1 hrun.2 (plainU rfl (fun _ => hctr) hshade (.inl rfl) hspill rfl)
    ((congr (congrArg (fun good bad => (good.foldl (fun s x =>
        let t := c.A false a x.1
        let yes := accepts x.2.1.ray x.2.1.hit (f32v t)
        let h := { x.2.2 with t := t, u := 0#32, v := 0#32, front := false, hk := (c.B false b x.1).setWidth 8 }
        (s.useRay c x.1 (fun r => if yes then { r with hit := some h } else r)).modWave c.cur.g c.cur.w (fun wv =>
          wv.vset d.toNat x.1 (if yes then 1#32 else 0#32) false))
        ((started s c).unspillAll c), if bad.isEmpty then Flow.next else .trap true (cRayRecs c bad)))
      (filterMap_of_some fun i hi => congrArg (Option.map fun x => (i, x)) (procedural_of_candidate (hcand i hi) (hproc i hi))))
      (filter_of_none fun i hi => congrArg Option.isNone (procedural_of_candidate (hcand i hi) (hproc i hi))) :).trans
      (congrArg (·, _) List.foldl_map))

theorem exec_rayq_either (wide : Bool) (d a b : BitVec 7) (s : State) :
    exec (if wide then .rayq64 d a b else .rayq d a b) s =
      rayq wide d a b (if wide then [multipleOf 2 a, multipleOf 4 b] else [multipleOf 4 b]) s :=
  Bool.casesOn wide rfl rfl

theorem firstBroken_multiple {k : Nat} {r : BitVec 7} {l : List Rule} (h : r.toNat % k = 0) :
    firstBroken (multipleOf k r :: l) = firstBroken l := if_pos (beq_iff_eq.mpr h)

theorem rayq_aligned {wide : Bool} {a b : BitVec 7} (hb : b.toNat % 4 = 0) (ha : wide = true → a.toNat % 2 = 0) :
    firstBroken (if wide then [multipleOf 2 a, multipleOf 4 b] else [multipleOf 4 b]) = none := by
  cases wide
  case false => exact firstBroken_multiple hb
  case true => exact (firstBroken_multiple (ha rfl)).trans (firstBroken_multiple hb)

/-- Settles O18: every active lane is one of those that the instruction serves, so that none traps. -/
theorem rayInstructions : Obligations.RayInstructions := by
  refine ⟨?rayq, execRaycont_resumes, execRayhit_reports, execRaycommit_commits, ?rayabort⟩
  case rayq =>
    exact fun d a b s c wide hb ha hrun halso hshade hctr hfence hspill hroom hnone => (exec_rayq_either wide d a b s).trans
      (rayq_places (rayq_aligned hb ha) hrun halso hshade hctr hfence hspill hroom hnone)
  case rayabort =>
    intro s c hrun hshade hctr
    refine (exec_rayabort s).trans ?_
    exact issue_afterLong rfl hrun.1 hrun.2 (plainU rfl (fun _ => hctr) hshade (.inl rfl) rfl rfl) fun _ => rfl

end Sys2Proof.Proofs

namespace Sys2Proof.Proofs

open Sys2Proof Sys2Proof.Machine Sys2Proof.Safety Sys2Proof.Claims Sys2Proof.Laws

/-! ### Packet and refit commands at issue (spec/11 R305, spec/12 R313 R316) -/

/-- A destination other than s0 and a block in place are all that the field rules of these commands ask for. -/
theorem destination_block_ok {d a : BitVec 7} {n : Nat} (hd : d ≠ 0#7) (halign : a.toNat % n = 0) (h0 : a.toNat ≠ 0) :
    firstBroken [positive d, blockOf n a] = none :=
  (if_pos (bne_iff_ne.mpr fun h => hd (BitVec.eq_of_toNat_eq h))).trans
    (if_pos (Bool.and_eq_true_iff.mpr ⟨beq_iff_eq.mpr halign, bne_iff_ne.mpr h0⟩))

/-- The bits of a word from `k` up are set exactly when its value reaches that far. -/
theorem highBits_iff (w : Word) (k n : Nat) (h : k + n = 32) : (w.extractLsb' k n != 0#n) = true ↔ 2 ^ k ≤ w.toNat := by
  have hlt : w.toNat / 2 ^ k < 2 ^ n := Nat.div_lt_of_lt_mul (by rw [← Nat.pow_add, h]; exact w.isLt)
  have hvalue : (w.extractLsb' k n).toNat =  w.toNat / 2 ^ k := by
    rw [BitVec.extractLsb'_toNat, Nat.shiftRight_eq_div_pow, Nat.mod_eq_of_lt hlt]
  exact bne_iff_ne.trans ((not_congr (BitVec.toNat_inj.symm.trans (hvalue ▸ Nat.div_eq_zero_iff_lt (Nat.two_pow_pos k)))).trans
    Nat.not_lt)

/-- What `EMITVP` does with its block in place. -/
noncomputable def emitFlow (d a : BitVec 7) (c : Ctx) (s : State) : State × Flow :=
  let ws := c.wave.sblock a.toNat 4
  let off := (ws.getD 0 0#32).toNat
  if (ws.getD 1 0#32).extractLsb' 4 28 != 0#28 || ws.getD 3 0#32 != 0#32 then raise c s cBadDescriptor
  else if off % 16 != 0 then raise c s cMisaligned
  else if c.lau.localBytes < off + blockBytes then raise c s cLocalRange
  else (s.pushPacket c d false ws [{ acm := false, lo := off, hi := off + blockBytes, wr := false }], .next)

theorem oddBlock_iff (ws : List Word) : ((ws.getD 1 0#32).extractLsb' 4 28 != 0#28 || ws.getD 3 0#32 != 0#32) = true ↔
    16 ≤ (ws.getD 1 0#32).toNat ∨ ws.getD 3 0#32 ≠ 0#32 :=
  Bool.or_eq_true_iff.trans (or_congr (highBits_iff _ 4 28 rfl) bne_iff_ne)

section Issue
variable {d a : BitVec 7} {s : State} {c : Ctx} (hd : d ≠ 0#7)
include hd

section Emitvp
variable (halign : a.toNat % 4 = 0) (h0 : a.toNat ≠ 0) (hrun : Runs s c 0#7 [rdS a 4, wrS d]) (he : EngineReady c)
  (hon : runsOn .geometry s c.grp.core = true) (hscore : s.scoreFull c.grp.core = false)
include halign h0 hrun he hon hscore

theorem execEmitvp_traps {cause : Nat} (hflow : emitFlow d a c (started s c) = raise c (started s c) cause) :
    execEmitvp d a s = .next
      (((started s c).finish c { uni := true, long := true } (.trap false [c.splitRec cause])).boundary c.cur.g) :=
  issue_longFlow rfl rfl hrun.1 hrun.2
    (plainHamper he (destination_block_ok hd halign h0) hon rfl ((congrArg s.scoreFull (curCore_eq hrun.1)).trans hscore)) hflow

theorem execEmitvp_enters {e : State → State} (hflow : ∀ t, emitFlow d a c t = (e t, .next)) :
    execEmitvp d a s = .next (afterLong s c true e) :=
  issue_afterLong rfl hrun.1 hrun.2
    (plainHamper he (destination_block_ok hd halign h0) hon rfl ((congrArg s.scoreFull (curCore_eq hrun.1)).trans hscore)) hflow

end Emitvp

section Vclose
variable (halign : a.toNat % 2 = 0) (h0 : a.toNat ≠ 0) (hrun : Runs s c 0#7 [rdS a 2, wrS d]) (he : EngineReady c)
  (hon : runsOn .geometry s c.grp.core = true)
include halign h0 hrun he hon

theorem execVclose_enters (hlow : ((c.wave.sblock a.toNat 2).getD 1 0#32).toNat < 32) :
    execVclose d a s = .next (afterLong s c true fun t => t.pushPacket c d true (c.wave.sblock a.toNat 2) []) :=
  issue_afterLong rfl hrun.1 hrun.2 (plainHamper he (destination_block_ok hd halign h0) hon rfl) fun _ =>
    if_neg ((highBits_iff _ 5 27 rfl).not.mpr (Nat.not_le.mpr hlow))

theorem execVclose_traps (hhigh : 32 ≤ ((c.wave.sblock a.toNat 2).getD 1 0#32).toNat) :
    execVclose d a s = .next (((started s c).finish c { uni := true, long := true }
      (.trap false [c.splitRec cBadDescriptor])).boundary c.cur.g) :=
  issue_longFlow rfl rfl hrun.1 hrun.2 (plainHamper he (destination_block_ok hd halign h0) hon rfl)
    (if_pos ((highBits_iff _ 5 27 rfl).mpr hhigh))

end Vclose
end Issue

theorem execRefit_enters (d a : BitVec 7) (s : State) (c : Ctx) (hd : d ≠ 0#7) (halign : a.toNat % 8 = 0) (h0 : a.toNat ≠ 0)
    (hrun : Runs s c 0#7 [rdS a 8, wrS d]) (he : EngineReady c) :
    let ws := c.wave.sblock a.toNat 8
    let nbase := (pairOf (ws.getD 0 0#32) (ws.getD 1 0#32)).toNat
    execRefit d a s = .next (afterLong s c true fun t => State.addPend { t with refits := t.refits ++
      [{ die := t.refitDie c.grp.job nbase, job := c.grp.job, group := c.cur.g, wave := c.cur.w, pend := c.wave.nextPend,
         dreg := d.toNat, words := ws, started := false, next := 0, ready := [], boxes := [], flagged := [],
         rootDone := false, status := 0, request := none }] } c 3 true [d.toNat] 1#64 c.act .engine false false [] []) :=
  issue_afterLong rfl hrun.1 hrun.2 (plainHamper he (destination_block_ok hd halign h0) rfl rfl) fun _ => rfl

/-- Settles O36: each descriptor takes the branch of the first rule that it breaks, or enters its unit. -/
theorem packetAndRefitIssue : Obligations.PacketAndRefitIssue := by
  refine ⟨?emitvp, ?vclose, execRefit_enters⟩
  case emitvp =>
    intro d a s c hd halign h0 hrun he hon hscore ws off odd trapOn
    refine ⟨fun h => execEmitvp_traps hd halign h0 hrun he hon hscore (if_pos ((oddBlock_iff ws).mpr h)),
      fun h h16 => execEmitvp_traps hd halign h0 hrun he hon hscore ?misaligned,
      fun h h16 hrange => execEmitvp_traps hd halign h0 hrun he hon hscore ?range,
      fun h h16 hrange => execEmitvp_enters hd halign h0 hrun he hon hscore fun t => ?fits⟩
    case misaligned => exact (if_neg ((oddBlock_iff ws).not.mpr h)).trans (if_pos (bne_iff_ne.mpr h16))
    case range =>
      exact (if_neg ((oddBlock_iff ws).not.mpr h)).trans
        ((if_neg (mt bne_iff_ne.mp (not_not_intro h16))).trans (if_pos hrange))
    case fits =>
      exact (if_neg ((oddBlock_iff ws).not.mpr h)).trans
        ((if_neg (mt bne_iff_ne.mp (not_not_intro h16))).trans (if_neg (Nat.not_lt.mpr hrange)))
  case vclose =>
    exact fun d a s c hd halign h0 hrun he hon => ⟨execVclose_enters hd halign h0 hrun he hon,
      execVclose_traps hd halign h0 hrun he hon⟩

end Sys2Proof.Proofs

namespace Sys2Proof.Proofs

open Sys2Proof Sys2Proof.Machine Sys2Proof.Safety Sys2Proof.Claims Sys2Proof.Laws

/-! ### Work instructions (spec/13 R340, R345 to R350) -/

/-- A level below 4 passes the check of its high bits. -/
theorem level_ok {x : Word} (h : x.toNat < 4) : ¬(x.extractLsb' 2 30 != 0#30) = true :=
  (highBits_iff x 2 30 rfl).not.mpr (Nat.not_le.mpr h)

/-- A destination other than s0 passes its field rule. -/
theorem firstBroken_positive {d : BitVec 7} {l : List Rule} (hd : d ≠ 0#7) : firstBroken (positive d :: l) = firstBroken l :=
  if_pos (bne_iff_ne.mpr fun h => hd (BitVec.eq_of_toNat_eq h))

theorem not_not_true {b : Bool} (h : b = true) : ¬(!b) = true :=
  ne_true_of_eq_false (congrArg not h)

/-- What `WORKDONE` does with its location. -/
noncomputable def workdoneFlow (a : BitVec 7) (c : Ctx) : Placed × State → State × Flow
  | (r, s) =>
    let t := (c.wave.sget a.toNat).toNat
    let va := c.lau.fixb + BitVec.ofNat 64 (4 * t)
    outcome c s true true [(0, va, r)] fun good s =>
      (s.modGroup c.cur.g (fun G => { G with shared := G.shared.erase t })).addPend c 2 true [] 0#64 c.act (.mem .workdone)
        false true (good.map (fun x => { lane := 0, va := x.2.1, loc := x.2.2, data := [1#32], live := true : Acc })) []

/-- What `ENQ` does with its location. -/
noncomputable def enqFlow (d a b : BitVec 7) (c : Ctx) : Placed × State → State × Flow
  | (r, s) =>
    match r with
    | .fault f => outcome c s true false [(0, c.wave.spair a.toNat, .fault f)] (fun _ s => s)
    | .loc l =>
      let e := (s.seenAt c.grp c.reader l 256).laneRead c.grp c.reader true true (c.wave.spair a.toNat) l 256
      let r := e.s.append c (c.wave.sget b.toNat).toNat e.bytes ((List.range 32).filter (fun i => e.bad.getD (2 * i) false))
      (r.2.setUni c d (BitVec.ofNat 32 r.1), .next)

section Getwork
variable {d : BitVec 7} {s : State} {c : Ctx} (halign : d.toNat % 4 = 0) (hrun : Runs s c 0#7 [wrS d 4])
  (hpers : c.lau.pers = true)
include halign hrun hpers

theorem execGetwork_empty (hitems : c.grp.items = []) :
    execGetwork d s = .next (afterLong s c true
      (onWave c fun wv => wv.ssets d.toNat [0#32, 0#32, 0#32, 0#32]) (regsFrom d 4)) :=
  issue_afterLong rfl hrun.1 hrun.2 (plainRegs (bad := firstBroken_multiple halign)) fun _ =>
    (if_neg (not_not_true hpers)).trans (hitems ▸ rfl)

theorem execGetwork_item {t kb ke : Nat} {fl : Word} {rest : List (Nat × Nat × Nat × Word)}
    (hitems : c.grp.items = (t, kb, ke, fl) :: rest) :
    execGetwork d s = .next (afterLong s c true (fun s' =>
      onWave c (fun wv => wv.ssets d.toNat [BitVec.ofNat 32 t, BitVec.ofNat 32 kb, BitVec.ofNat 32 ke, fl])
        (s'.modGroup c.cur.g (fun G => { G with
          items := rest, shared := if fl.getLsbD 1 && !fl.getLsbD 2 then G.shared ++ [t] else G.shared }))) (regsFrom d 4)) :=
  issue_afterLong rfl hrun.1 hrun.2 (plainRegs (bad := firstBroken_multiple halign)) fun _ =>
    (if_neg (not_not_true hpers)).trans (hitems ▸ rfl)

end Getwork

theorem execWorkdone_pends (a : BitVec 7) (s : State) (c : Ctx) (l : Loc) (s' : State) (hrun : Runs s c 0#7 [rdS a])
    (hctr : c.wave.counters.getD 2 0 < 63) (hfence : fenced c = false) :
    let t := (c.wave.sget a.toNat).toNat
    let va := c.lau.fixb + BitVec.ofNat 64 (4 * t)
    t ∈ c.grp.shared → (started s c).xaccess (coreReq c.grp.core c.grp.job true false) va 4 4 = (.loc l, s') →
    execWorkdone a s = .next (afterLong s c true fun _ =>
      (s'.modGroup c.cur.g (fun G => { G with shared := G.shared.erase t })).addPend c 2 true [] 0#64 c.act (.mem .workdone)
        false true [{ lane := 0, va := va, loc := l, data := [1#32], live := true }] []) :=
  fun hshared hloc => issue_afterLong_started rfl hrun.1 hrun.2 (plainU rfl (fun _ => hctr) rfl (.inr hfence) rfl rfl)
    ((if_neg (not_not_true (List.contains_iff_mem.mpr hshared))).trans (congrArg (workdoneFlow a c) hloc :))

theorem execCancel_acts (d a : BitVec 7) (s : State) (c : Ctx) (halign : a.toNat % 2 = 0)
    (hrun : Runs s c 0#7 [rdS a 2, wrS d]) (hlevel : (c.wave.sget a.toNat).toNat < 4) :
    execCancel d a s = .next (afterLong s c true (fun t =>
      let r := t.waveCancel c (c.wave.sget a.toNat).toNat (c.wave.sget (a.toNat + 1))
      match r.2 with
      | some st => r.1.setUni c d st
      | none => r.1) [d.toNat]) :=
  issue_afterLong rfl hrun.1 hrun.2 (plainRegs (bad := firstBroken_multiple halign)) fun t => by
    refine (if_neg (level_ok hlevel)).trans ?_
    rw [Nat.mod_eq_of_lt hlevel]
    exact match t.waveCancel c (c.wave.sget a.toNat).toNat (c.wave.sget (a.toNat + 1)) with
      | (_, some _) => rfl
      | (_, none) => rfl

theorem execCcount_reads (d a : BitVec 7) (s : State) (c : Ctx) (hd : d ≠ 0#7) (hrun : Runs s c 0#7 [rdS a, wrS d])
    (hlevel : (c.wave.sget a.toNat).toNat < 4) :
    execCcount d a s = .next (afterLong s c true (fun t =>
      (t.setUni c d (s.counterOf c (c.wave.sget a.toNat).toNat)).acquiredBy c.grp.core c.reader) [d.toNat]) :=
  issue_afterLong_started rfl hrun.1 hrun.2 (plainRegs (bad := firstBroken_positive hd)) ((if_neg (level_ok hlevel)).trans
    (congrArg (fun k => (((started s c).setUni c d (s.counterOf c k)).acquiredBy c.grp.core c.reader, Flow.next))
      (Nat.mod_eq_of_lt hlevel)))

theorem execEnq_appends (d a b : BitVec 7) (s : State) (c : Ctx) (l : Loc) (s' : State) (hd : d ≠ 0#7)
    (halign : a.toNat % 2 = 0) (hrun : Runs s c 0#7 [rdS a 2, rdS b, wrS d]) (he : EngineReady c)
    (hopen : c.openAccesses = []) (hserved : enqWaits a s = false) :
    let va := c.wave.spair a.toNat
    (started s c).xaccess (coreReq c.grp.core c.grp.job false false) va 256 256 = (.loc l, s') →
    let e := (s'.seenAt c.grp c.reader l 256).laneRead c.grp c.reader true true va l 256
    let r := e.s.append c (c.wave.sget b.toNat).toNat e.bytes ((List.range 32).filter (fun i => e.bad.getD (2 * i) false))
    execEnq d a b s = .next (afterLong s c true (fun _ => r.2.setUni c d (BitVec.ofNat 32 r.1)) [d.toNat]) :=
  fun hloc => issue_afterLong_started rfl hrun.1 hrun.2
    (plainU ((firstBroken_positive hd).trans (firstBroken_multiple halign)) (fun _ => he.1) rfl (.inr he.2)
      (Bool.or_eq_false_iff.mpr ⟨hold_free hrun.1 hopen, hserved⟩) rfl) (congrArg (enqFlow d a b c) hloc :)

/-- Settles O30: each clause is one branch of its instruction, issued with nothing to hold it back. -/
theorem workResults : Obligations.WorkResults :=
  ⟨fun _ _ _ halign hrun hpers => ⟨execGetwork_empty halign hrun hpers, fun _ _ _ _ _ => execGetwork_item halign hrun hpers⟩,
    execWorkdone_pends, execCancel_acts, execCcount_reads, execEnq_appends⟩

end Sys2Proof.Proofs

namespace Sys2Proof.Proofs

open Sys2Proof Sys2Proof.Machine Sys2Proof.Safety Sys2Proof.Claims Sys2Proof.Laws

/-! ### Taking a trap (spec/13 R356 R358 R360) -/

/-- A trap with a handler, by the state of the wave that it reaches. -/
noncomputable def handledTrap (s : State) (g w : Nat) (traph : DWord) (recs : List Rec) (prior : Bool) (st : WaveState) : State :=
  if st == .trap || ((st == .stopped || st == .saved) && prior) then
    s.modWave g w (fun x => { x with trap := { x.trap with held := x.trap.held ++ recs } })
  else if st == .stopped then
    s.modWave g w (fun x =>
      let x := x.enterTrap traph recs
      { x with state := .stopped, priorState := .trap,
               trap := { x.trap with entry := { x.trap.entry with st := .debugParked, prior := .ready } } })
  else if st == .saved then s.modWave g w (fun x => { (x.enterTrap traph recs) with state := .saved, priorState := .trap })
  else s.modWave g w (fun x => x.enterTrap traph recs)

section Trap
variable {s : State} {g w : Nat} {recs : List Rec} {G : Machine.Group} {wv : Wave}

section Live
variable (hG : s.groups[g]? = some G) (hw : G.waves[w]? = some wv) (hresident : G.state = .resident)
  (hgoing : G.ending = none) (hkept : G.stopping ≠ some .cancel) (hretiring : wv.state ≠ .retiring)
  (hretired : wv.state ≠ .retired)
include hG hw hresident hgoing hkept hretiring hretired

/-- A wave of a resident group that no ending and no cancel has reached takes the trap. -/
theorem takeTrap_live (fromHandler : Bool) : s.takeTrap g w fromHandler recs =
      if fromHandler || (s.launch G.launch).traph == 0#64 then s.finishGroup g (.faulted (sortRecs recs).head?)
      else handledTrap s g w (s.launch G.launch).traph (sortRecs recs) (wv.priorState == .trap) wv.state := by
  have hopen : ¬ ((G.state != .resident && G.state != .saved) || G.ending.isSome || wv.state == .retiring ||
      wv.state == .retired) = true := by
    rw [hresident, hgoing, beq_false_of_ne hretiring, beq_false_of_ne hretired]
    decide
  delta State.takeTrap
  exact hG ▸ wave?_of_get hG hw ▸ (if_neg hopen).trans (if_neg (ne_true_of_eq_false (beq_false_of_ne hkept)))

/-- With no handler, or for a cause of the handler's own, the group ends. -/
theorem takeTrap_ends {fromHandler : Bool} (h : (fromHandler || (s.launch G.launch).traph == 0#64) = true) :
    s.takeTrap g w fromHandler recs = s.finishGroup g (.faulted (sortRecs recs).head?) :=
  (takeTrap_live hG hw hresident hgoing hkept hretiring hretired fromHandler).trans (if_pos h)

theorem takeTrap_handled {st : WaveState} (hstate : wv.state = st) (hne : (s.launch G.launch).traph ≠ 0#64) :
    s.takeTrap g w false recs =
      handledTrap s g w (s.launch G.launch).traph (sortRecs recs) (wv.priorState == .trap) st :=
  hstate ▸ (takeTrap_live hG hw hresident hgoing hkept hretiring hretired false).trans
    (if_neg (ne_true_of_eq_false (beq_false_of_ne hne)))

theorem takeTrap_enters (hstate : wv.state = .resident) (hne : (s.launch G.launch).traph ≠ 0#64) :
    s.takeTrap g w false recs = s.modWave g w (fun x => x.enterTrap (s.launch G.launch).traph (sortRecs recs)) :=
  takeTrap_handled hG hw hresident hgoing hkept hretiring hretired hstate hne

end Live

theorem only_retires {a b : Bool} (h : wv.state = .retiring ∨ wv.state = .retired) :
    (a || b || wv.state == .retiring || wv.state == .retired) = true :=
  Bool.or_eq_true_iff.mpr (h.imp (fun h => Bool.or_eq_true_iff.mpr (.inr (beq_iff_eq.mpr h))) beq_iff_eq.mpr)

/-- A wave that only retires takes no trap. -/
theorem takeTrap_retiring (hw : s.wave? g w = some wv) (h : wv.state = .retiring ∨ wv.state = .retired) (fromHandler : Bool) :
    s.takeTrap g w fromHandler recs = s := by
  delta State.takeTrap
  exact hw ▸ match s.groups[g]? with
    | none => rfl
    | some _ => if_pos (only_retires h)

/-! ### What a change of one wave leaves -/

section Modified
variable {t : State} {f : Wave → Wave} (ht : t = s.modWave g w f)
include ht

theorem modWave_groups_only : t = { s with groups := t.groups } := ht ▸ rfl

theorem modWave_group_other {h : Nat} (hne : h ≠ g) : t.groups[h]? = s.groups[h]? :=
  ht ▸ (modGroup_get ..).trans (if_neg hne.symm)

theorem modWave_group_same (hG : s.groups[g]? = some G) :
    ∃ H, t.groups[g]? = some H ∧ H = { G with waves := H.waves } ∧ ∀ v, v ≠ w → H.waves[v]? = G.waves[v]? :=
  ⟨{ G with waves := G.waves.modify w f }, ht ▸ (modGroup_get ..).trans ((if_pos rfl).trans (congrArg (Option.map _) hG)), rfl,
    fun _ hne => List.getElem?_modify_ne _ _ hne.symm⟩

theorem modWave_wave_same (hw : s.wave? g w = some wv) : t.wave? g w = some (f wv) :=
  ht ▸ (wave_modWave ..).trans ((if_pos ⟨rfl, rfl⟩).trans (congrArg (Option.map f) hw))

end Modified

theorem enterTrap_origin {r : Rec} (h : recs.head? = some r) :
    ((recs.head?).map (fun r => r.split)).getD 0 = r.split := h ▸ rfl

end Trap

/-- Settles O60: the branches of `takeTrap`; an entry is one change of the wave, by `Wave.enterTrap`. -/
theorem trapEntry : Obligations.TrapEntry := by
  refine ⟨?_, fun s g w h recs wv hw hstate => takeTrap_retiring hw hstate h⟩
  intro s g w recs G wv hG hw hres hending hcancel hretiring hretired traph
  refine ⟨fun hstate htraph => ?enters,
    fun hzero h => takeTrap_ends hG hw hres hending hcancel hretiring hretired
      (Bool.or_eq_true_iff.mpr (.inr (beq_iff_eq.mpr hzero))),
    takeTrap_ends hG hw hres hending hcancel hretiring hretired rfl,
    takeTrap_handled hG hw hres hending hcancel hretiring hretired⟩
  intro t
  refine ⟨?groups, fun h hne => ?others, ?same,
    wv.enterTrap traph (sortRecs recs), ?wave, rfl, rfl, rfl, rfl, rfl, rfl, rfl, fun r hr =>
      ⟨enterTrap_origin hr, congrArg (fun sp => (wv.entry sp).pc) (enterTrap_origin hr),
        congrArg (fun sp => (wv.entry sp).slot) (enterTrap_origin hr)⟩⟩
  case groups => exact modWave_groups_only (takeTrap_enters hG hw hres hending hcancel hretiring hretired hstate htraph)
  case others =>
    exact modWave_group_other (takeTrap_enters hG hw hres hending hcancel hretiring hretired hstate htraph) hne
  case same => exact modWave_group_same (takeTrap_enters hG hw hres hending hcancel hretiring hretired hstate htraph) hG
  case wave =>
    exact modWave_wave_same (takeTrap_enters hG hw hres hending hcancel hretiring hretired hstate htraph)
      (wave?_of_get hG hw)

end Sys2Proof.Proofs

namespace Sys2Proof.Proofs

open Sys2Proof Sys2Proof.Machine Sys2Proof.Safety Sys2Proof.Claims Sys2Proof.Laws

/-! ### Traversal of rays (spec/11 R294 to R301) -/

/-- The block that announces a candidate. -/
noncomputable def candidateBlock (r : RaySlot) : Option (Hit × Bool) → List Word
  | some (h, proc) => hitBlock (if proc then 3 else 2) false h r.ray.ctx
  | none => []

/-- What the event makes of the outcome of a visit. -/
noncomputable def afterVisit (s : State) (core job : Nat) (r : RaySlot) : RayOut × State → Out'
  | (.wait, _) => idle s
  | (.fault f, t) => .next (t.rayFault core job r f)
  | (.done code, t) => .next (t.endRay core r (plainBlock code false r.ray.ctx))
  | (.candidate x, t) =>
    .next ((t.modCore core (fun c => c.modRay r.group r.wave r.lane (fun _ => { x with lastUse := t.tick }))).writeBlock r
      (candidateBlock r x.cand))
  | (.go x, t) =>
    if x.term || x.stack.isEmpty then .next (t.endRay core r (endBlock x x.term))
    else .next (t.modCore core (fun c => c.modRay r.group r.wave r.lane (fun _ => x)))

/-- What the event makes of the slot that it finds. -/
noncomputable def traverse (s : State) (core job : Nat) (r : RaySlot) : Out' :=
  if r.st != .traversing || s.rayHeld r || (s.core core).held then idle s
  else if r.term || r.stack.isEmpty then .next (s.endRay core r (endBlock r r.term))
  else afterVisit s core job r (s.visit core job r)

theorem exec_traverse {s : State} {core slot : Nat} {r : RaySlot}
    (hr : (s.core core).placed.find? (fun x => x.idx == slot) = some r) :
    exec (.rayTraversalStop core slot) s = traverse s core (((s.groups[r.group]?).map (fun G => G.job)).getD 0) r := by
  refine (exec_rayTraversalStop core slot s).trans ?_
  delta execRayTraversalStop
  exact hr ▸ Eq.refl (traverse s core _ r)

theorem traversal_not_idle {s : State} {core : Nat} {r : RaySlot} (htrav : r.st = .traversing) (hfree : s.rayHeld r = false)
    (hheld : (s.core core).held = false) : ¬ (r.st != .traversing || s.rayHeld r || (s.core core).held) = true := by
  rw [htrav, hfree, hheld]
  decide

theorem traversal_not_over {r : RaySlot} (hterm : r.term = false) (hstack : r.stack ≠ []) :
    ¬ (r.term || r.stack.isEmpty) = true := by
  rwa [hterm, Bool.false_or, List.isEmpty_iff]

theorem traversal_over {r : RaySlot} (hend : r.term = true ∨ r.stack = []) : (r.term || r.stack.isEmpty) = true :=
  Bool.or_eq_true_iff.mpr (hend.imp_right List.isEmpty_iff.mpr)

theorem candidateBlock_eq (r : RaySlot) {b : Option (Hit × Bool)} {h : Hit} {proc : Bool} (hb : b = some (h, proc)) :
    candidateBlock r b = hitBlock (if proc then 3 else 2) false h r.ray.ctx := hb ▸ rfl

/-- Settles O19: the slot decides whether the traversal stops, and else each outcome of the visit is one branch of the event. -/
theorem rayTraversal : Obligations.RayTraversal := by
  intro s core slot r hr htrav hfree hheld job fin put
  have hgoes := (exec_traverse hr).trans (if_neg (traversal_not_idle htrav hfree hheld))
  refine ⟨fun hend => hgoes.trans (if_pos (traversal_over hend)), fun hterm hstack t => ?visits⟩
  have hvisit {o} (hv : s.visit core job r = o) : exec (.rayTraversalStop core slot) s = afterVisit s core job r o :=
    hgoes.trans ((if_neg (traversal_not_over hterm hstack)).trans (congrArg _ hv))
  exact ⟨fun x hv => (hvisit hv).trans (apply_ite Host.Outcome.next _ _ _).symm,
    fun x h proc hv hcand => (hvisit hv).trans
      (congrArg (fun b => Host.Outcome.next ((put t { x with lastUse := t.tick }).writeBlock r b)) (candidateBlock_eq r hcand)), fun code hv => hvisit hv, fun f hv => hvisit hv⟩

end Sys2Proof.Proofs

namespace Sys2Proof.Proofs

open Sys2Proof Sys2Proof.Machine Sys2Proof.Safety Sys2Proof.Claims Sys2Proof.Laws

/-! ### An `EMITVP` of a saved group (spec/08 R234 R236, spec/12 R313)

The statement asks that the command be free to run where it stands in its core's packet queue. The command of a saved group
stands in no queue but in the image of its group, and there too it waits for an earlier command that still writes its block. -/

/-- An earlier copy of the group into the bytes of the block. -/
noncomputable def blockCopy : Cmd :=
  { ord := 0, group := 0, wave := 0, pend := 0, seq := 0, op := .copy, desc := [],
    ivs := [{ acm := false, lo := 0, hi := blockBytes, wr := true }], started := false, done := 0, rows := 0, dreg := 0, status := 0,
    stop := none, run := 0, gen := 0#32 }

/-- The packet command, as the scoreboard of its core has it. -/
noncomputable def blockPacket : Cmd :=
  { blockCopy with ord := 1, pend := 1, op := .packet, ivs := [{ acm := false, lo := 0, hi := blockBytes, wr := false }] }

/-- The same command in the packet unit of die 0, for stream 0, which is not open. -/
noncomputable def blockEmit : GCmd :=
  { gdie := 0, group := 0, wave := 0, pend := 1, dreg := 1, close := false, words := List.replicate 4 0#32, final := false,
    result := none }

/-- A group saved from core 96 with both commands still to be performed. -/
noncomputable def savedEmit : State :=
  { (State.reset.loadWord nopWord).modGroup 0 (fun G => { G with
      core := 96, state := .saved, savedCmds := [(0, blockCopy), (selPacket, blockPacket)] }) with gcmds := [blockEmit] }

/-- The commands in the packet units after a step. -/
noncomputable def packetUnits : Out' → List GCmd
  | .next t => t.gcmds
  | .fault _ | .refused _ => []

/-- Refutes O37: the unit leaves the command of `savedEmit` waiting, where the statement has it refused at once. -/
theorem not_packetEvents : ¬ Obligations.PacketEvents := by
  intro h
  have hfree : savedEmit.cmds (((savedEmit.groups[blockEmit.group]?).map (fun G => G.core)).getD 0) selPacket = [] := by
    decide +kernel
  have hrefused : savedEmit.emitRefusal blockEmit (Block.ofBytes (savedEmit.packetBlock blockEmit blockBytes)) = some 1 := by
    decide +kernel
  have hexec := (h.1 0 savedEmit blockEmit (by decide +kernel) rfl fun y hy => absurd (hfree ▸ hy) List.not_mem_nil).1 1 hrefused
  have hwaits : packetUnits (exec (.emitvpComplete 0) savedEmit) = [blockEmit] := by decide +kernel
  have hgone : packetUnits (.next (savedEmit.finishPacket blockEmit 1)) = [] := by decide +kernel
  have hstill : packetUnits (.next (savedEmit.finishPacket blockEmit 1)) = [blockEmit] :=
    (congrArg packetUnits hexec).symm.trans hwaits
  exact List.cons_ne_nil _ _ (hstill.symm.trans hgone)

end Sys2Proof.Proofs

namespace Sys2Proof.Proofs

open Sys2Proof Sys2Proof.Machine Sys2Proof.Safety Sys2Proof.Claims Sys2Proof.Laws

/-! ### The boot events, by the state of the boot (spec/16 R388 R389) -/

/-- The state of the boot becomes `b`. -/
noncomputable def bootAs (b : Boot) (s : State) : State := { s with boot := b }

noncomputable def powerOnBy (s : State) : Boot → Out'
  | .off | .rom => .next (s.powered .rom).romBoot
  | .storing img => .next (State.startImage { s with norImage := img } ((verified img).getD []))
  | _ => idle s

noncomputable def romBootBy (s : State) : Option (List Byte) → State
  | some body => s.startImage body
  | none => bootAs (.requesting s.bootReason) s

noncomputable def tornBy (s : State) : Boot → State
  | .storing img => { s.draw.2 with norImage := img.take (s.draw.1 % (8 + sigBytes)) }
  | _ => s

noncomputable def requestBy (s : State) : Boot → Out'
  | .requesting reason => .next ((s.sendBoot 0 allNodes 1 reason).sendBoot 1 allNodes 1 reason)
  | _ => idle s

noncomputable def offerBy (host len : Nat) (store : Bool) (s : State) : Boot → Out'
  | .requesting _ =>
    if maxImage < len then .next (s.sendHost host 5 2) else .next (bootAs (.receiving host len store [] s.now) s)
  | .receiving h l st got _ => if h = host then .next (bootAs (.receiving h l st got s.now) s) else idle s
  | _ => idle s

noncomputable def timeoutBy (s : State) : Boot → Out'
  | .receiving _ _ _ _ last =>
    if last + 10000000000 ≤ s.now then .next (bootAs (.requesting s.bootReason) s) else idle s
  | _ => idle s

noncomputable def receivedBy (s : State) (host : Nat) (store : Bool) (img : List Byte) : Option (List Byte) → State
  | none => (bootAs (.requesting s.bootReason) s).sendHost host 5 1
  | some body => if store then bootAs (.storing img) (s.sendHost host 5 0) else (s.sendHost host 5 0).startImage body

/-- The answer to bytes that are accepted or not. -/
noncomputable def dataAnswer (host len : Nat) (store : Bool) (bytes got : List Byte) (s : State) (ok : Bool) : Out' :=
  let got := if ok then got ++ bytes else got
  let t := bootAs (.receiving host len store got s.now) (s.sendHost host 4 got.length)
  .next (if ok && got.length == len then t.received host store got else t)

noncomputable def dataBy (host off : Nat) (bytes : List Byte) (s : State) : Boot → Out'
  | .receiving h len store got _ =>
    if h ≠ host then idle s
    else dataAnswer h len store bytes got s
      (off == got.length && decide (1 ≤ bytes.length) && decide (bytes.length ≤ 1024) && decide (got.length + bytes.length ≤ len))
  | _ => idle s

section Power
variable {s : State}

theorem execPowerOn_boots (h : s.boot = .off ∨ s.boot = .rom) {o : Option (List Byte)}
    (ho : verified s.norImage = o) : execPowerOn s = .next (romBootBy (s.powered .rom) o) :=
  (show execPowerOn s = .next (s.powered .rom).romBoot from h.elim (congrArg (powerOnBy s)) (congrArg (powerOnBy s))).trans
    (congrArg (fun o => Host.Outcome.next (romBootBy (s.powered .rom) o)) ho)

/-- An image without room for its header and its signature does not verify. -/
theorem verified_short {img : List Byte} (h : img.length < 8 + sigBytes) : verified img = none :=
  if_neg fun hall => absurd hall.2.1 (Nat.not_le.mpr h)

/-- What is left of an image whose writing was cut short does not verify. -/
theorem verified_cut (img : List Byte) (n : Nat) : verified (img.take (n % (8 + sigBytes))) = none :=
  verified_short (Nat.lt_of_le_of_lt (List.length_take_le ..) (Nat.mod_lt _ (Nat.add_pos_left (by decide) _)))

theorem tornBy_idle {b : Boot} (h : ∀ img, b ≠ .storing img) : tornBy s b = s := by
  cases b
  case storing img => exact absurd rfl (h img)
  all_goals rfl

end Power

section Data
variable {host off len last : Nat} {bytes got : List Byte} {store : Bool} {s : State}
  (h : s.bootNow = .receiving host len store got last)
include h

theorem execBootData_answers {ok : Bool} (hok : (off == got.length && decide (1 ≤ bytes.length) &&
    decide (bytes.length ≤ 1024) && decide (got.length + bytes.length ≤ len)) = ok) :
    execBootData host off bytes s = dataAnswer host len store bytes got s ok :=
  (congrArg (dataBy host off bytes s) h).trans
    ((if_neg (not_not_intro rfl)).trans (congrArg (dataAnswer host len store bytes got s) hok))

/-- The bytes of a datagram at another offset are not accepted; it is answered all the same. -/
theorem execBootData_elsewhere (hoff : off ≠ got.length) :
    execBootData host off bytes s = dataAnswer host len store bytes got s false :=
  execBootData_answers h (congrArg (· && _ && _ && _) (beq_false_of_ne hoff))

theorem execBootData_accepted (hoff : off = got.length) (hpos : 1 ≤ bytes.length) (hmax : bytes.length ≤ 1024)
    (hfits : got.length + bytes.length ≤ len) : execBootData host off bytes s = dataAnswer host len store bytes got s true :=
  execBootData_answers h (Bool.and_eq_true_iff.mpr ⟨Bool.and_eq_true_iff.mpr ⟨Bool.and_eq_true_iff.mpr
    ⟨beq_iff_eq.mpr hoff, decide_eq_true hpos⟩, decide_eq_true hmax⟩, decide_eq_true hfits⟩)

end Data

/-- Settles O47: each clause is a branch of one boot event, after what `bootNow` says of the protocol. -/
theorem bootEvents : Obligations.BootEvents := by
  refine ⟨fun s b => ⟨rfl, rfl, rfl, rfl, rfl, rfl, rfl, rfl, rfl⟩,
    fun s h => ⟨fun body hbody => execPowerOn_boots h hbody, fun hnone => execPowerOn_boots h hnone⟩, ?stored,
    fun s h => if_neg (mt beq_iff_eq.mp h), fun s => ⟨tornBy_idle, ?torn⟩, ?now, fun s port dst typ val => ⟨_, rfl⟩,
    fun s r h => congrArg (requestBy s) h, ?offer, ?data, ?timeout, fun s hup => ⟨if_pos hup, if_pos hup⟩⟩
  case stored =>
    exact fun s img body h hbody => (congrArg (powerOnBy s) h).trans
      (congrArg (fun o => Host.Outcome.next (State.startImage { s with norImage := img } (o.getD []))) hbody :)
  case torn =>
    intro img h
    exact ⟨(congrArg (fun b => verified (tornBy s b).norImage) h).trans (verified_cut img s.draw.1),
      _, congrArg (fun b => (tornBy s b).norImage) h⟩
  case now => exact fun s => ⟨fun r h => by delta State.bootNow; rw [h], fun host len store got last h => by delta State.bootNow; rw [h]⟩
  case offer =>
    exact fun host len store s r h => ⟨fun hlen => (congrArg (offerBy host len store s) h).trans (if_neg (Nat.not_lt.mpr hlen)),
      fun hlen => (congrArg (offerBy host len store s) h).trans (if_pos hlen)⟩
  case data =>
    intro host off bytes s len store got last h
    refine ⟨fun hoff hpos hmax hfits => ?_, execBootData_elsewhere h⟩
    intro all t
    exact ⟨fun hmore => (execBootData_accepted h hoff hpos hmax hfits).trans (congrArg _ (if_neg (mt beq_iff_eq.mp hmore))),
      fun hall => ⟨fun hnone => (execBootData_accepted h hoff hpos hmax hfits).trans
          (congrArg _ ((if_pos (beq_iff_eq.mpr hall)).trans (congrArg (receivedBy t host store all) hnone))),
        fun body hbody => (execBootData_accepted h hoff hpos hmax hfits).trans
          (congrArg _ ((if_pos (beq_iff_eq.mpr hall)).trans (congrArg (receivedBy t host store all) hbody)))⟩⟩
  case timeout =>
    exact fun s host len store got last h hover => (congrArg (timeoutBy s) h).trans (if_pos hover)

end Sys2Proof.Proofs

namespace Sys2Proof.Proofs

open Sys2Proof Sys2Proof.Machine Sys2Proof.Safety Sys2Proof.Claims Sys2Proof.Laws

/-! ### The queue events, by what they find (spec/13 R332 to R338) -/

/-- An event of the queue that it finds. -/
noncomputable def onQueue (s : State) (f : Queue → Out') : Option Queue → Out'
  | none => idle s
  | some x => f x

noncomputable def doorbellBy (q : Nat) (tail : Word) (s : State) (x : Queue) (closed : Bool) : Out' :=
  if closed then idle s
  else if 2 ^ s.qRlog x < (tail - s.qw x 3).toNat then .next ((s.qDisable x).addComp q 0 13 0#32 (s.qw x 3) 0#32 0#32 0#32)
  else .next (s.qset x 4 tail)

/-- An entry that has been read, by whether it is clean, of another kind, and must wait for earlier ones. -/
noncomputable def takeWords (s : State) (q : Nat) (start : Queue → Nat → List Word → State → State) (x : Queue) (ws : List Word) (t : State)
    (clean other waits : Bool) : Out' :=
  if !(!clean) && other then idle s
  else if waits then idle s
  else if !clean then .next ((taken s q x ws t).completeEntry q (s.qw x 3).toNat 5 (entryId (kindOf ws) ws) 0#32 0#32 0#32)
  else .next (start x (s.qw x 3).toNat ws (taken s q x ws t))

noncomputable def takeRead (s : State) (q kind : Nat) (start : Queue → Nat → List Word → State → State) (x : Queue) :
    Option (List Word) × State → Out'
  | (none, t) => .next (((t.advanceHead x).modQueue q (fun y => { y with taken := y.taken ++
      [{ index := (s.qw x 3).toNat, kind := 0, after := false, words := [], st := .started, ref := 0, deadline := 0 }] })).completeEntry
        q (s.qw x 3).toNat 5 0#32 0#32 0#32 0#32)
  | (some ws, t) => takeWords s q start x ws t (entryClean (kindOf ws) ws) (kindOf ws != kind)
      ((ws.getD 0 0#32).getLsbD 8 && !x.taken.isEmpty)

noncomputable def takeBy (s : State) (q kind : Nat) (start : Queue → Nat → List Word → State → State) (x : Queue) (held : Bool) : Out' :=
  if held then idle s else takeRead s q kind start x (s.headEntry x)

/-- The outcome of admitting a launch record. -/
noncomputable def admitted (q index : Nat) (ws : List Word) : Nat × State → State
  | (0, s) => s
  | (st, s) => s.entryDone q index st (ws.getD 1 0#32)

noncomputable def headerBy (x : Queue) (q index : Nat) (s : State) : Option (List Word) → State
  | none => s.entryDone q index 5 0#32
  | some h => graphWith x q index h s

noncomputable def resumeBy (x : Queue) (q index : Nat) (ws : List Word) (s : State) : Option Request → State
  | none => s.entryDone q index stNotFound (ws.getD 1 0#32)
  | some r =>
    if s.mayAnswer x r then
      (s.answer r ((ws.getD 2 0#32).getLsbD 0) ((ws.getD 2 0#32).extractLsb' 1 2).toNat).entryDone q index stOK (ws.getD 1 0#32)
    else s.entryDone q index stNotFound (ws.getD 1 0#32)

noncomputable def cancelBy (q : Nat) (s : State) : Option Taken → Out'
  | some t => .next (s.entryDone q t.index stOK (entryId 4 t.words))
  | none => s.takeEntry q 4 fun x index ws s => s.startCancel x index ws

noncomputable def invalBy (q : Nat) (s : State) : Option Taken → Out'
  | some t => .next (s.entryDone q t.index stOK 0#32)
  | none => s.takeEntry q 6 fun x _ ws s => s.tlbDrop (s.job x.job).tag (invalOf ws).1 (invalOf ws).2

/-- A WAIT entry under way completes with status `st` when `ended` says so. -/
noncomputable def waitBy (q st : Nat) (s : State) (ended : Taken → Bool) : Option Taken → Out'
  | some t => if ended t then .next (s.entryDone q t.index st 0#32) else idle s
  | none => idle s

/-- The record of a frame that has been read. -/
noncomputable def frameBy (q index : Nat) (x : Queue) (va : Nat) : Option (List Word × Option (List Byte)) × State → State
  | (some (ws, some map), s) =>
    if s.frameBad va ws (some map) then s.completeEntry q index 4 0#32 0#32 0#32 0#32 else s.openFrame x index ws map
  | (_, s) => s.completeEntry q index 4 0#32 0#32 0#32 0#32

/-- A node of a graph gets a state, the graph a status, and `k` more nodes have ended. -/
noncomputable def putNode (graph node : Nat) (s : State) (st : NodeState) (status k : Nat) : State :=
  { s with graphs := s.graphs.modify graph (fun x => { x with
    states := x.states.set node st, status := status, counter := x.counter + BitVec.ofNat 32 k }) }

/-- The outcome of admitting the launch record of a node. -/
noncomputable def nodeAdmitted (graph node : Nat) : Nat × State → Out'
  | (0, s) => .next (putNode graph node s .running 0 0)
  | (st, s) => .next ((putNode graph node s .failed st 1).graphCheck graph)

noncomputable def nodeBy (graph node : Nat) (s : State) (gr : Graph) : Option (List Word) → Out'
  | none => .next ((putNode graph node s .failed 5 1).graphCheck graph)
  | some ws =>
    if s.predsDone gr node < (ws.getD 64 0#32).toNat then idle s
    else nodeAdmitted graph node (s.enlist gr.job (ws.take 64) gr.queue gr.index (some (graph, node)))

noncomputable def graphBy (graph node : Nat) (s : State) (closed : Graph → Bool) : Option Graph → Out'
  | none => idle s
  | some gr => if closed gr then idle s else nodeBy graph node s gr (s.nodeWords gr node)

noncomputable def completionBy (q : Nat) (s : State) (x : Queue) (held : Bool) : List Comp → Out'
  | [] => idle s
  | c :: rest =>
    if held then idle s
    else
      let n := 2 ^ s.qClog x
      let tail := (s.qw x 11).toNat
      let words := match c.words with
        | [] => []
        | w0 :: t => (w0 ||| BitVec.ofNat 32 ((tail / n + 1) % 2 * 2 ^ 16)) :: t
      let bytes := words.flatMap (fun w => leBytes 4 w.toNat)
      let qpn := ((s.qw x 8).extractLsb' 0 12).toNat
      let port := ((s.qw x 8).extractLsb' 12 1).toNat
      let addr := (pairOf (s.qw x 5) (s.qw x 6)).toNat + 32 * (tail % n)
      .next ((((s.modQueue q (fun x => { x with comps := rest })).qset x 11 (s.qw x 11 + 1#32)).hostPut (peerOf qpn port) addr
        bytes).emit (.write qpn port (s.qw x 7) addr bytes))

section Doorbell
variable {q : Nat} {tail : Word} {s : State} {x : Queue} (hq : s.queue? q = some x)
include hq

theorem execDoorbellTail_open (hup : s.up = true) (hon : s.qEnabled x = true) (hdev : s.qDevq x = false) :
    execDoorbellTail q tail s = doorbellBy q tail s x false :=
  (congrArg (onQueue s (fun x => doorbellBy q tail s x (!s.up || !s.qEnabled x || s.qDevq x))) hq).trans
    (congrArg (doorbellBy q tail s x) (Bool.or_eq_false_iff.mpr
      ⟨Bool.or_eq_false_iff.mpr ⟨congrArg not hup, congrArg not hon⟩, hdev⟩))

/-! ### Taking the entry at HEAD (spec/13 R333 R334) -/

theorem takeEntry_read {kind : Nat} {start : Queue → Nat → List Word → State → State} (hmay : s.mayTake x = true)
    {o : Option (List Word) × State} (hread : s.headEntry x = o) :
    s.takeEntry q kind start = takeRead s q kind start x o :=
  (congrArg (onQueue s (fun x => takeBy s q kind start x (!s.mayTake x))) hq).trans
    ((congrArg (takeBy s q kind start x) (congrArg not hmay)).trans (congrArg (takeRead s q kind start x) hread))

end Doorbell

section Take
variable {s : State} {q kind : Nat} {x : Queue} {start : Queue → Nat → List Word → State → State}
  {ws : List Word} {t : State} (h : AtHead s q x ws t)
include h

/-- An entry at HEAD does not wait for earlier ones. -/
theorem atHead_order : ((ws.getD 0 0#32).getLsbD 8 && !x.taken.isEmpty) = false := by
  cases hb : (ws.getD 0 0#32).getLsbD 8
  · rfl
  · rw [h.order hb]; rfl

theorem takeEntry_words {clean other : Bool} (hclean : entryClean (kindOf ws) ws = clean) (hother : (kindOf ws != kind) = other) :
    s.takeEntry q kind start = takeWords s q start x ws t clean other false :=
  (takeEntry_read h.queue h.may h.read).trans
    (congr (congr (congrArg (takeWords s q start x ws t) hclean) hother) (atHead_order h))

theorem takeEntry_malformed (hbad : entryClean (kindOf ws) ws = false) : s.takeEntry q kind start =
    .next ((taken s q x ws t).completeEntry q (s.qw x 3).toNat 5 (entryId (kindOf ws) ws) 0#32 0#32 0#32) :=
  takeEntry_words h hbad rfl

theorem takeEntry_starts (hclean : entryClean (kindOf ws) ws = true) (hkind : kindOf ws = kind) :
    s.takeEntry q kind start = .next (start x (s.qw x 3).toNat ws (taken s q x ws t)) :=
  takeEntry_words h hclean (bne_eq_false_iff_eq.mpr hkind)

end Take

/-! ### What an entry does when it starts (spec/13 R334, R336 to R338, R341, R361, R363) -/

theorem admitted_eq (q index : Nat) (ws : List Word) : ∀ r : Nat × State, admitted q index ws r =
    if r.1 = 0 then r.2 else r.2.entryDone q index r.1 (ws.getD 1 0#32)
  | (0, _) => rfl
  | (_ + 1, _) => rfl

theorem headerBy_eq (x : Queue) (q index : Nat) (s : State) : ∀ o : Option (List Word), headerBy x q index s o =
    (o.map (fun h => graphWith x q index h s)).getD (s.entryDone q index 5 0#32)
  | none => rfl
  | some _ => rfl

theorem resumeBy_eq (x : Queue) (q : Nat) (ws : List Word) (s : State) : ∀ index : Nat,
    resumeBy x q index ws s (s.request? (ws.getD 1 0#32).toNat) = resumeEffect x q index ws s := by
  intro index
  delta resumeEffect
  cases s.request? (ws.getD 1 0#32).toNat <;> rfl

/-- The event of a taker takes the entry at HEAD unless one of its own under way completes. -/
def TakesHead (q : Nat) (s : State) (x : Queue) (p : (Nat → Instr) × Nat × (Queue → Nat → Nat → List Word → State → State)) :
    Prop :=
  (p.2.1 = 6 → ∀ e ∈ x.taken, e.kind = 6 → s.inFlight x.job (invalOf e.words).1 (invalOf e.words).2 = true) →
  (p.2.1 = 4 → ∀ e ∈ x.taken, e.kind = 4 → s.cancelOver x.job e = false) →
  exec (p.1 q) s = s.takeEntry q p.2.1 (fun x i ws t => p.2.2 x q i ws t)

/-- No entry of a kind under way is over. -/
theorem find?_kind_none {l : List Taken} {k : Nat} {ended : Taken → Bool} (h : ∀ e ∈ l, e.kind = k → ended e = false) :
    l.find? (fun t => t.kind == k && ended t) = none :=
  List.find?_eq_none.mpr fun e he hover =>
    ne_true_of_eq_false (h e he (beq_iff_eq.mp (Bool.and_eq_true_iff.mp hover).1)) (Bool.and_eq_true_iff.mp hover).2

section UnderWay
variable {q : Nat} {s : State} {x : Queue} (hq : s.queue? q = some x)
include hq

theorem execCancelEntry_by {o : Option Taken} (ho : x.taken.find? (fun t => t.kind == 4 && s.cancelOver x.job t) = o) :
    execCancelEntry q s = cancelBy q s (o.map fun t => t) :=
  (congrArg (fun o : Option Queue => cancelBy q s (o.bind fun x => (x.taken.find? (fun t : Taken => t.kind == 4 && s.cancelOver x.job t)).map
    fun t => t)) hq).trans (congrArg (fun o => cancelBy q s (o.map fun t => t)) ho)

theorem execInvalEntry_by {o : Option Taken}
    (ho : x.taken.find? (fun t => t.kind == 6 && !(s.inFlight x.job (invalOf t.words).1 (invalOf t.words).2)) = o) :
    execInvalEntry q s = invalBy q s o :=
  (congrArg (fun o : Option Queue => invalBy q s (o.bind fun x => x.taken.find? (fun t => t.kind == 6 &&
    !(s.inFlight x.job (invalOf t.words).1 (invalOf t.words).2)))) hq).trans (congrArg (invalBy q s) ho)

theorem takers_take : ∀ p ∈ takers, TakesHead q s x p :=
  List.forall_mem_cons.mpr ⟨fun _ _ => congrArg (s.takeEntry q 1) (funext fun x => funext fun i => funext fun ws =>
      funext fun t => admitted_eq q i ws (t.enlist x.job ws q i none)),
    List.forall_mem_cons.mpr ⟨fun _ _ => congrArg (s.takeEntry q 2) (funext fun x => funext fun i => funext fun ws =>
      funext fun t => headerBy_eq x q i t
        (t.jobWords x.job (pairOf (ws.getD 2 0#32) (ws.getD 3 0#32)).toNat 16)),
    List.forall_mem_cons.mpr ⟨fun _ _ => rfl,
    List.forall_mem_cons.mpr ⟨fun _ h => execCancelEntry_by hq (find?_kind_none (h rfl)),
    List.forall_mem_cons.mpr ⟨fun h _ => execInvalEntry_by hq (find?_kind_none fun e he hk => congrArg not (h rfl e he hk)),
    List.forall_mem_singleton.mpr fun _ _ => congrArg (s.takeEntry q 7) (funext fun x => funext fun i => funext fun ws =>
      funext fun t => resumeBy_eq x q ws t i)⟩⟩⟩⟩⟩

/-! ### Entries under way (spec/13 R334, R341, R361) -/

variable {e : Taken} (he : x.taken.find? (fun t => t.kind == 3) = some e) (hup : s.up = true)
include he hup

theorem execWaitReread_completes (hholds : s.waitHolds x.job e.words = true) :
    execWaitReread q s = .next (s.entryDone q e.index stOK 0#32) :=
  (congrArg (onQueue s (fun x => waitBy q stOK s (fun t => s.up && s.waitHolds x.job t.words) x.waiting)) hq).trans
    ((congrArg (waitBy q stOK s (fun t => s.up && s.waitHolds x.job t.words)) he).trans
      (if_pos (Bool.and_eq_true_iff.mpr ⟨hup, hholds⟩)))

theorem execWaitTimeout_completes (hset : e.deadline ≠ 0) (hover : e.deadline ≤ s.now) :
    execWaitTimeout q s = .next (s.entryDone q e.index 11 0#32) :=
  (congrArg (onQueue s (fun x => waitBy q 11 s (fun t => s.up && t.deadline != 0 && decide (t.deadline ≤ s.now)) x.waiting))
    hq).trans ((congrArg (waitBy q 11 s (fun t => s.up && t.deadline != 0 && decide (t.deadline ≤ s.now))) he).trans
      (if_pos (Bool.and_eq_true_iff.mpr ⟨Bool.and_eq_true_iff.mpr ⟨hup, bne_iff_ne.mpr hset⟩, decide_eq_true hover⟩)))

end UnderWay

/-! ### Frame entries (spec/12 R320) -/

theorem execFrameEntry_takes {q : Nat} {s t : State} {x : Queue} {ws : List Word} (h : AtHead s q x ws t)
    (hwait : s.frameWaits q = false) (hclean : entryClean (kindOf ws) ws = true) (hkind : kindOf ws = 5)
    {r : Option (List Word × Option (List Byte)) × State}
    (hread : (taken s q x ws t).readFrame x.job (pairOf (ws.getD 2 0#32) (ws.getD 3 0#32)) = r) :
    execFrameEntry q s = .next (frameBy q (s.qw x 3).toNat x (pairOf (ws.getD 2 0#32) (ws.getD 3 0#32)).toNat r) :=
  (if_neg (ne_true_of_eq_false hwait)).trans ((takeEntry_starts h hclean hkind).trans
    (congrArg (fun r => Host.Outcome.next (frameBy q (s.qw x 3).toNat x (pairOf (ws.getD 2 0#32) (ws.getD 3 0#32)).toNat r)) hread))

/-! ### Nodes of a graph (spec/13 R338) -/

theorem nodeAdmitted_fails (graph node : Nat) : ∀ r : Nat × State, r.1 ≠ 0 →
    nodeAdmitted graph node r = .next ((putNode graph node r.2 .failed r.1 1).graphCheck graph)
  | (0, _), h => absurd rfl h
  | (_ + 1, _), _ => rfl

/-- What starting a waiting node does, by what its words are. -/
theorem execGraphNodeStart_waiting {graph node : Nat} {s : State} {gr : Graph} (hgraph : s.graphs[graph]? = some gr)
    (hup : s.up = true) (hended : gr.ended = false) (hstatus : gr.status = 0) (hwaiting : gr.states[node]? = some .waiting)
    {o : Option (List Word)} (ho : s.nodeWords gr node = o) :
    execGraphNodeStart graph node s = nodeBy graph node s gr o := by
  have hnode : gr.states.getD node .ok = .waiting :=
    List.getD_eq_getElem?_getD.trans (congrArg (Option.getD · .ok) hwaiting)
  have hclosed : (!s.up || gr.ended || gr.status != 0 || gr.states.getD node .ok != .waiting) = false := by
    rw [hup, hended, hstatus, hnode]
    rfl
  exact (congrArg (graphBy graph node s fun gr => !s.up || gr.ended || gr.status != 0 || gr.states.getD node .ok != .waiting)
    hgraph).trans ((if_neg (ne_true_of_eq_false hclosed)).trans (congrArg (nodeBy graph node s gr) ho))

/-! ### Completions (spec/13 R335) -/

theorem execCompletionWrite_oldest {q : Nat} {s : State} {x : Queue} {comps : List Comp}
    (hq : s.queue? q = some x) (hcomps : x.comps = comps) (hup : s.up = true) (hroom : s.qFull x = false) :
    execCompletionWrite q 0 s = completionBy q s x false comps :=
  (congrArg (onQueue s fun x => completionBy q s x (0 != 0 || !s.up || s.qFull x) x.comps) hq).trans
    (congr (congrArg (completionBy q s x) (Bool.or_eq_false_iff.mpr ⟨congrArg not hup, hroom⟩)) hcomps)

/-- Settles O41: a taker takes the entry at HEAD by one rule; what is left are the branches of the other events. -/
theorem queueEvents : Obligations.QueueEvents := by
  refine ⟨?doorbell, ?chead, ?taker, ?unreadable, ?frame, ?underWay, ?node, fun q s x w0 ws rest => execCompletionWrite_oldest⟩
  case doorbell =>
    exact fun q tail s x hq hup hon hdev => ⟨fun hfit => (execDoorbellTail_open hq hup hon hdev).trans (if_neg (Nat.not_lt.mpr hfit)),
      fun hbeyond => (execDoorbellTail_open hq hup hon hdev).trans (if_pos hbeyond)⟩
  case chead =>
    exact fun q chead s x hq hup => (congrArg (onQueue s fun x => if s.up then .next (s.qset x 10 chead) else idle s) hq).trans
      (if_pos hup)
  case taker =>
    exact fun p hp q s x ws t h hinval hcancel =>
      ⟨fun hbad => (takers_take h.queue p hp hinval hcancel).trans (takeEntry_malformed h hbad),
        fun hclean hkind => (takers_take h.queue p hp hinval hcancel).trans (takeEntry_starts h hclean hkind)⟩
  case unreadable =>
    exact fun p hp q s x t hq hmay hread hinval hcancel => (takers_take hq p hp hinval hcancel).trans (takeEntry_read hq hmay hread)
  case frame =>
    exact fun q s x ws t h hwait hclean hkind rec_ map u' hread =>
      ⟨fun hgood => (execFrameEntry_takes h hwait hclean hkind hread).trans (congrArg _ (if_neg (ne_true_of_eq_false hgood))),
        fun hbad => (execFrameEntry_takes h hwait hclean hkind hread).trans (congrArg _ (if_pos hbad))⟩
  case underWay =>
    exact fun q s x e hq => ⟨execCancelEntry_by hq, execInvalEntry_by hq, fun he hup =>
      ⟨execWaitReread_completes hq he hup, execWaitTimeout_completes hq he hup⟩⟩
  case node =>
    intro graph node s gr hgraph hup hended hstatus hwaiting put
    refine ⟨execGraphNodeStart_waiting hgraph hup hended hstatus hwaiting, fun ws hws hpreds => ?_⟩
    intro r
    exact ⟨fun h0 => (execGraphNodeStart_waiting hgraph hup hended hstatus hwaiting hws).trans
        ((if_neg (Nat.not_lt.mpr hpreds)).trans (congrArg (fun n => nodeAdmitted graph node (n, r.2)) h0)),
      fun h => (execGraphNodeStart_waiting hgraph hup hended hstatus hwaiting hws).trans
        ((if_neg (Nat.not_lt.mpr hpreds)).trans (nodeAdmitted_fails graph node r h))⟩

end Sys2Proof.Proofs
